-- ==== Sys2Proof/Word.lean ====
section
/-!
DEFINITION. The word types of the Kurix: the 32-bit register word (R8), the byte (R6), the 16-byte handle and
bundle word (R90, R158) and the device address (R66). Widths only; every helper that computes stands under
Sys2Proof/Machine.
-/

namespace Sys2Proof

/-- A register word: every register is 32 bits wide (register conventions, R8). -/
abbrev Word := BitVec 32

/-- One byte of a memory. -/
abbrev Byte := BitVec 8

/-- A 64-bit memory word (R88) or a 64-bit counter (R43). -/
abbrev Dword := BitVec 64

/-- A 128-bit bundle (R158) or handle entry (R90). -/
abbrev Quad := BitVec 128

/-- The contents of one vector register (R151): 256 bytes. -/
abbrev VWord := BitVec 2048

/-- The poison bits of one vector register (R140): one for each byte. -/
abbrev VPoison := BitVec 256

/-- A tile number (R51). -/
abbrev TileId := Fin 64

/-- A thread number of a tile (R151). -/
abbrev ThreadId := Fin 8

/-- The 26 bits of a slot word below its opcode (R159): predicate, sense and operands. -/
abbrev SlotWord := BitVec 26

end Sys2Proof
end

