-- ==== Sys2Proof/Syntax.lean ====
section
/-!
DEFINITION. The commands of the block: the operations and events of spec/opcode_table.json, one constructor each.
A command comes from outside (a register write or read, a host or sideband operation, an event on a pin) or marks an
event of the part's own engines, whose place in time the sender of the queue chooses (notes/assumptions/4.md).
-/

namespace Sys2Proof

/-- The masters of the register network (R496). -/
inductive Master where
  | host
  | milkhouse
  | steward (k : Fin 4)
  | debug
  | swap
  deriving DecidableEq, Repr

/-- The four slots of a bundle (R158). -/
inductive SlotKind where
  | c | m | v | t
  deriving DecidableEq, Repr

/-- The two lanes of a tile's move engine (spec file 07, stream moves). -/
inductive MoveLane where
  | frame | async
  deriving DecidableEq, Repr

/-- The two lanes of a mesh link (R53). -/
inductive MeshLane where
  | data | request
  deriving DecidableEq, Repr

/-- The form in which a sideband request arrives (R556): a process call, answered in the same transaction, or the Block
Write of a split transaction; with the PEC byte where it carries one more byte than its count announces (R560).
`count` is a request of the row's command code with a byte count that the command does not allow (R559): its bytes
stand for the row's other operands. -/
inductive SbForm where
  | call (pec : Option (BitVec 8))
  | split (pec : Option (BitVec 8))
  | count (split : Bool) (pec : Option (BitVec 8)) (req : List (BitVec 8))
  deriving DecidableEq, Repr

/-- A request to BAR4 beside the queues' doorbells (R357): message doorbell d written; another offset written; a read of n
bytes. -/
inductive Bar4 where
  | msg (d : Fin 16)
  | other (off : BitVec 16)
  | read (off : BitVec 16) (n : Nat)
  deriving DecidableEq, Repr

/-- What a steward's memory access is (R432–R438): a load that writes x[rd], a store, an instruction fetch, LR, SC, or an
atomic memory operation. -/
inductive AmoOp where
  | swap | add | xor | and | or | min | max | minu | maxu
  deriving DecidableEq, Repr

inductive StewKind where
  | load (signed : Bool)
  | store
  | fetch
  | lr
  | sc
  | amo (op : AmoOp)
  deriving DecidableEq, Repr


/-- The commands of the block: one constructor for each row of the table of operations and events, with the operands
that its sender or its source gives. -/
inductive Instr where
  /-- TICK (R20): The timing generator's tick event is recognised 3 ck later as the tick ck. FRAME, CKREL, the TICK status bit and HEARTBEAT update, and every frame-domain engine restarts its schedule at ck 0. -/
  | tick
  /-- BLANKING_LINE_SAMPLE (R22): At the start of each blanking line, the frame-ready count is sampled against its target, together with the TE latch where a TE mode requires it, to decide whether this is the last blanking line. -/
  | blankingLineSample
  /-- BUDGET_CHECK (R30): At the budget ck, every frame thread that has not issued END is halted, and a budget-overrun fault is raised. -/
  | budgetCheck
  /-- LEAVE_WINDOW_ADVANCE (R477): The leave window counter advances every BUDGET/16 ck, and the next window's reservations apply. -/
  | leaveWindowAdvance
  /-- NDET_CLEAR (R44): A write of 1 to NDET_CTRL.CLEAR schedules all six non-determinism counters to clear at the next tick ck. -/
  | ndetClear (m : Master)
  /-- NDET_LO_READ (R43): A read of a counter's _LO register copies _HI into the reading master's shadow. -/
  | ndetLoRead (m : Master) (k : Fin 6)
  /-- REGISTER_WRITE (R9): A write to a register that has no behaviour of its own is applied, or discarded, according to the access type of each field. `data` is what is written, or none for a read of `size` bytes, as the host makes it through BAR0 (R8, R13, R354). -/
  | registerWrite (m : Master) (addr : BitVec 32) (size : Nat) (data : Option (BitVec 64))
  /-- BUNDLE_ISSUE (R161): A thread issues one 128-bit bundle whole, in one of its round positions, once no scoreboard condition holds it. -/
  | bundleIssue (t : TileId) (th : ThreadId)
  /-- NOP (R653): A slot whose OP is 0 does nothing. -/
  | nop (t : TileId) (th : ThreadId) (slot : SlotKind) (w : SlotWord)
  /-- MM (R197): Matrix macro-op: issued from the T slot, capturing its parameter quad and handles. -/
  | mm (t : TileId) (th : ThreadId) (w : SlotWord)
  /-- CONV (R198): Convolution macro-op issued from the T slot. -/
  | conv (t : TileId) (th : ThreadId) (w : SlotWord)
  /-- DW (R199): Depthwise convolution macro-op issued from the T slot. -/
  | dw (t : TileId) (th : ThreadId) (w : SlotWord)
  /-- MACRO_OP_START (R165): A queued or issued macro-op starts once the unit is free, eligibility holds and leave is available, and it draws its leave. -/
  | macroOpStart (t : TileId)
  /-- MACRO_OP_END (R201): A macro-op ends in ck e: its results reach the bank, its leave is released and its completion object is signalled. -/
  | macroOpEnd (t : TileId)
  /-- ACC_RD (R213): Reads an accumulator row pair into a vector register, with poison taken from the row flags. -/
  | accRd (t : TileId) (th : ThreadId) (w : SlotWord)
  /-- ACC_WR (R214): Writes a vector register into an accumulator row pair and sets or clears the row flags. -/
  | accWr (t : TileId) (th : ThreadId) (w : SlotWord)
  /-- ACC_CLR (R215): Clears the selected accumulator banks and their row flags. -/
  | accClr (t : TileId) (th : ThreadId) (w : SlotWord)
  /-- VADD (R218): Lane-wise addition. -/
  | vadd (t : TileId) (th : ThreadId) (w : SlotWord)
  /-- VSUB (R218): Lane-wise subtraction. -/
  | vsub (t : TileId) (th : ThreadId) (w : SlotWord)
  /-- VMUL (R218): Lane-wise multiplication; for integers, the low half of the product. -/
  | vmul (t : TileId) (th : ThreadId) (w : SlotWord)
  /-- VMULH (R218): Integer lane-wise multiplication returning the high half of the product. -/
  | vmulh (t : TileId) (th : ThreadId) (w : SlotWord)
  /-- VFMA (R219): Fused multiply-add vd + va × vb, rounded once. -/
  | vfma (t : TileId) (th : ThreadId) (w : SlotWord)
  /-- VMIN (R218): Lane-wise minimum. -/
  | vmin (t : TileId) (th : ThreadId) (w : SlotWord)
  /-- VMAX (R218): Lane-wise maximum. -/
  | vmax (t : TileId) (th : ThreadId) (w : SlotWord)
  /-- VAND (R217): Bitwise AND. -/
  | vand (t : TileId) (th : ThreadId) (w : SlotWord)
  /-- VOR (R217): Bitwise OR. -/
  | vor (t : TileId) (th : ThreadId) (w : SlotWord)
  /-- VXOR (R217): Bitwise XOR. -/
  | vxor (t : TileId) (th : ThreadId) (w : SlotWord)
  /-- VSHL (R221): Lane-wise left shift. -/
  | vshl (t : TileId) (th : ThreadId) (w : SlotWord)
  /-- VSHR (R221): Lane-wise right shift with rounding. -/
  | vshr (t : TileId) (th : ThreadId) (w : SlotWord)
  /-- VCMP (R220): Lane-wise comparison producing a mask of all ones or 0. -/
  | vcmp (t : TileId) (th : ThreadId) (w : SlotWord)
  /-- VSEL (R220): Lane-wise select by mask. -/
  | vsel (t : TileId) (th : ThreadId) (w : SlotWord)
  /-- VBCAST (R191): Broadcasts a scalar to every lane. -/
  | vbcast (t : TileId) (th : ThreadId) (w : SlotWord)
  /-- VABS (R219): Lane-wise absolute value. -/
  | vabs (t : TileId) (th : ThreadId) (w : SlotWord)
  /-- VNEG (R219): Lane-wise negation. -/
  | vneg (t : TileId) (th : ThreadId) (w : SlotWord)
  /-- VRSUM (R223): Sum of the lanes into a scalar, with a predicate reporting poison. -/
  | vrsum (t : TileId) (th : ThreadId) (w : SlotWord)
  /-- VRMAX (R223): Largest lane into a scalar. -/
  | vrmax (t : TileId) (th : ThreadId) (w : SlotWord)
  /-- VRMIN (R223): Smallest lane into a scalar. -/
  | vrmin (t : TileId) (th : ThreadId) (w : SlotWord)
  /-- VRARGMAX (R223): Index of the largest lane into a scalar. -/
  | vrargmax (t : TileId) (th : ThreadId) (w : SlotWord)
  /-- VLUT (R227): LUT activation with linear interpolation. -/
  | vlut (t : TileId) (th : ThreadId) (w : SlotWord)
  /-- LUT_LOAD (R225): Loads the 1024-entry LUT from the Pail. -/
  | lutLoad (t : TileId) (th : ThreadId) (w : SlotWord)
  /-- LUT_LOAD_COMPLETE (R226): The last LUT block arrives, and LUT_LOAD clears. -/
  | lutLoadComplete (t : TileId)
  /-- VQNT (R230): Requantises INT32 lanes into a destination format. -/
  | vqnt (t : TileId) (th : ThreadId) (w : SlotWord)
  /-- VCVT (R228): Converts elements from one format to another. -/
  | vcvt (t : TileId) (th : ThreadId) (sub : Fin 8) (w : SlotWord)
  /-- LD (R234): Loads 128 B from a handle into one half of a vector register. -/
  | ld (t : TileId) (th : ThreadId) (w : SlotWord)
  /-- ST (R234): Stores 64 B from one quarter of a vector register through a handle. -/
  | st (t : TileId) (th : ThreadId) (w : SlotWord)
  /-- SLD (R234): Loads 4 B from a handle into a scalar register. -/
  | sld (t : TileId) (th : ThreadId) (w : SlotWord)
  /-- RWR (R253): Remote write: checks and debits credit, then injects the payload towards the receiving tile. -/
  | rwr (t : TileId) (th : ThreadId) (w : SlotWord)
  /-- GATHER (R248): Gathers 16 elements by index into a vector register under the poison-and-continue or precise-stop policy. -/
  | gather (t : TileId) (th : ThreadId) (w : SlotWord)
  /-- LDB (R239): Unpacks a block group into an accumulator bank. -/
  | ldb (t : TileId) (th : ThreadId) (w : SlotWord)
  /-- STB (R240): Packs an accumulator bank into a block group. -/
  | stb (t : TileId) (th : ThreadId) (w : SlotWord)
  /-- SMOV (R243): Starts a block-list stream move. -/
  | smov (t : TileId) (th : ThreadId) (w : SlotWord)
  /-- SMOVX (R243): Starts an index-driven stream move. -/
  | smovx (t : TileId) (th : ThreadId) (w : SlotWord)
  /-- MOVE_STEP (R244): A stream move performs its next step in the next ck assigned to the move lane, or in an open cycle. -/
  | moveStep (t : TileId) (lane : MoveLane)
  /-- MOVE_END (R244): A stream move's last part is written, and its completion object is signalled. -/
  | moveEnd (t : TileId) (lane : MoveLane)
  /-- END (R270): End-of-window marker: the thread goes IDLE until the next tick or START. -/
  | endMark (t : TileId) (th : ThreadId) (w : SlotWord)
  /-- BR (R267): Branch. -/
  | br (t : TileId) (th : ThreadId) (w : SlotWord)
  /-- LOOP (R267): Decrements a scalar and branches while it is not 0. -/
  | loopOp (t : TileId) (th : ThreadId) (w : SlotWord)
  /-- RDC (R268): Reads the schedule line, the ck since tick or SR_WINDOW into a scalar. -/
  | rdc (t : TileId) (th : ThreadId) (w : SlotWord)
  /-- HOLD (R269): Holds the bundle until the ck or the schedule line reaches a value. -/
  | hold (t : TileId) (th : ThreadId) (w : SlotWord)
  /-- SIG (R259): Adds a value to a synchronisation object. -/
  | sig (t : TileId) (th : ThreadId) (w : SlotWord)
  /-- WAIT (R262): Issues a wait on an object; for a global object, it sends a watch word. -/
  | wait (t : TileId) (th : ThreadId) (w : SlotWord)
  /-- WAIT_COMPLETE (R37): A WAIT completes at max(i, P, c), or when its condition or release arrives. -/
  | waitComplete (t : TileId) (th : ThreadId)
  /-- SLIP (R37): A frame WAIT not satisfied by P + S raises a slip in ck max(i, P + S + 1). -/
  | slip (t : TileId) (th : ThreadId)
  /-- ARM (R259): Sets a synchronisation object's count. -/
  | arm (t : TileId) (th : ThreadId) (w : SlotWord)
  /-- LCHK (R257): Landing check: tests the landing object against its target and records a late range when the band is late. -/
  | lchk (t : TileId) (th : ThreadId) (w : SlotWord)
  /-- CREDIT_GRANT (R255): Sends a credit grant request word through a credit window. -/
  | creditGrant (t : TileId) (th : ThreadId) (w : SlotWord)
  /-- HSWAP (R271): Handle-swap instruction: switches the tile's handle table. -/
  | hswap (t : TileId) (th : ThreadId) (w : SlotWord)
  /-- SADD (R265): Scalar addition. -/
  | sadd (t : TileId) (th : ThreadId) (w : SlotWord)
  /-- SSUB (R265): Scalar subtraction. -/
  | ssub (t : TileId) (th : ThreadId) (w : SlotWord)
  /-- SAND (R265): Scalar AND. -/
  | sand (t : TileId) (th : ThreadId) (w : SlotWord)
  /-- SOR (R265): Scalar OR. -/
  | sor (t : TileId) (th : ThreadId) (w : SlotWord)
  /-- SXOR (R265): Scalar XOR. -/
  | sxor (t : TileId) (th : ThreadId) (w : SlotWord)
  /-- SSHL (R265): Scalar left shift. -/
  | sshl (t : TileId) (th : ThreadId) (w : SlotWord)
  /-- SSHR (R265): Scalar arithmetic right shift. -/
  | sshr (t : TileId) (th : ThreadId) (w : SlotWord)
  /-- SMUL (R265): Scalar multiplication, keeping the low 32 bits. -/
  | smul (t : TileId) (th : ThreadId) (w : SlotWord)
  /-- SLI (R265): Loads a sign-extended immediate. -/
  | sli (t : TileId) (th : ThreadId) (w : SlotWord)
  /-- SLUI (R265): Loads the upper half of a scalar. -/
  | slui (t : TileId) (th : ThreadId) (w : SlotWord)
  /-- SCMP (R266): Compares scalars into a predicate. -/
  | scmp (t : TileId) (th : ThreadId) (w : SlotWord)
  /-- PLOG (R266): Predicate logic. -/
  | plog (t : TileId) (th : ThreadId) (w : SlotWord)
  /-- MESH_ASYNC_FORWARD (R61): An asynchronous flit or request word advances over a free link cycle once buffer room exists. -/
  | meshAsyncForward (r : TileId) (out : Fin 6) (lane : MeshLane)
  /-- VAT_READ_REQUEST (R79): A read request arrives at a Vat slice, and the bank access begins. -/
  | vatReadRequest (n : Fin 8)
  /-- VAT_READ_DATA (R65): A read data flit is delivered to its destination tile, Ladle or scan-out. -/
  | vatReadData
  /-- VAT_WRITE_FLIT (R65): A write flit reaches a Vat slice and is written to the bank. -/
  | vatWriteFlit (n : Fin 8)
  /-- NARROW_ACCESS_PERFORM (R84): The narrow-port request at the head is performed in the first ck in which its bank is free. -/
  | narrowAccessPerform (p : Fin 72)
  /-- ASYNC_PAIL_ACCESS (R85): An asynchronous thread's Pail access is performed in an open cycle on a free bank. -/
  | asyncPailAccess (t : TileId) (th : ThreadId)
  /-- CACHE_ACCESS (R106): A steward access to the cached range is decided as a hit or a miss, with line fill or write-back. -/
  | cacheAccess (k : Fin 4)
  /-- REMOTE_WRITE_ARRIVAL (R100): A remote-write flit reaches the receiver, which checks the window and handle and writes the payload. -/
  | remoteWriteArrival (t : TileId)
  /-- CREDIT_GRANT_ARRIVAL (R103): A credit grant reaches the source tile and raises the counter's balance. -/
  | creditGrantArrival (t : TileId)
  /-- SYNC_UPDATE_ARRIVAL (R261): A SIG or ARM flit, or a Ladle signal, reaches its object and is applied in the order of R275, unless the frame map discards it. -/
  | syncUpdateArrival
  /-- SYNC_ACK (R264): The acknowledgement of an asynchronous thread's synchronisation operation arrives and releases the held bundle. -/
  | syncAck (t : TileId) (th : ThreadId)
  /-- WATCH_WORD_ARRIVAL (R277): A watch word reaches the SYNC block and occupies the thread's watch slot. -/
  | watchWordArrival
  /-- RELEASE_INJECT (R278): The SYNC block injects a release once the condition holds, no earlier than P − h_B for a frame watch. -/
  | releaseInject (half : Fin 2) (t : TileId) (th : ThreadId)
  /-- WATCH_LAPSE (R278): A frame watch without release by P + S − h_B is discarded. -/
  | watchLapse (half : Fin 2) (t : TileId) (th : ThreadId)
  /-- RELEASE_ARRIVAL (R281): A release reaches the tile and is delivered when its tag matches the outstanding WAIT, and discarded otherwise. -/
  | releaseArrival (t : TileId)
  /-- PACE (R286): A write to SYNC.PACE adds to the frame-ready object, or is discarded while PACED is 0. -/
  | pace (m : Master) (v : BitVec 32)
  /-- SYNC_COUNT_WRITE (R288): A register write to COUNT n acts as an ARM, subject to the frame map. -/
  | syncCountWrite (m : Master) (n : Fin 2048) (v : BitVec 32)
  /-- SYNC_ADD_WRITE (R288): A register write to ADD n acts as a SIG, subject to the frame map. -/
  | syncAddWrite (m : Master) (n : Fin 2048) (v : BitVec 32)
  /-- LSYNC_WRITE (R290): A register write to LSYNC k arms a local object. -/
  | lsyncWrite (m : Master) (t : TileId) (k : Fin 32) (v : BitVec 32)
  /-- WATCH_CFG_WRITE (R289): A write of WATCH_CFG or WATCH_TARGET clears HIT, and evaluation restarts from the next ck. -/
  | watchCfgWrite (m : Master) (w : Fin 32) (target : Bool) (v : BitVec 32)
  /-- ECC_INJECT_ARM (R113): Arms the next narrow write to the memory to invert one or two data bits. -/
  | eccInjectArm (m : Master) (mem : Fin 72) (double : Bool)
  /-- CACHE_SIZE_WRITE (R108): A write of CACHE_CFG.SIZE is rejected, or starts a drain that writes back and invalidates every line. -/
  | cacheSizeWrite (m : Master) (size : Fin 4)
  /-- CACHE_DRAIN_COMPLETE (R108): The cache drain ends, and the last written size applies. -/
  | cacheDrainComplete
  /-- CACHE_CLEAN (R121): CACHE_CTRL.CLEAN starts writing back dirty lines. -/
  | cacheClean (m : Master)
  /-- CACHE_INVAL (R121): CACHE_CTRL.INVAL starts discarding every line. -/
  | cacheInval (m : Master)
  /-- CACHE_CTRL_COMPLETE (R121): A clean or invalidate completes, and its bit reads 0. -/
  | cacheCtrlComplete
  /-- THREAD_START (R177): THREAD_CTRL.START starts an asynchronous thread at its ENTRY bundle. -/
  | threadStart (m : Master) (t : TileId) (th : ThreadId)
  /-- THREAD_STOP (R177): THREAD_CTRL.STOP stops an asynchronous thread before its next bundle. -/
  | threadStop (m : Master) (t : TileId) (th : ThreadId)
  /-- TILE_HALT (R178): HALT_CTRL.HALT stops asynchronous threads and stops frame threads now or at an excluding tick. -/
  | tileHalt (m : Master) (t : TileId)
  /-- TILE_FORCED_HALT (R179): HALT together with FORCE stops every thread before its next bundle; this is a tile fault while frame threads run. -/
  | tileForcedHalt (m : Master) (t : TileId)
  /-- TILE_HALT_RELEASE (R180): HALT = 0 releases the halt, and threads resume. -/
  | tileHaltRelease (m : Master) (t : TileId)
  /-- TILE_HALT_COMPLETE (R178): HALTED reads 1 once no thread runs, no macro-op remains and no access is outstanding. -/
  | tileHaltComplete (t : TileId)
  /-- FAULT_CLR (R186): A write of 1 clears FAULT_INFO.VALID. -/
  | faultClr (m : Master) (t : TileId)
  /-- IBUF_LOAD (R174): IBUF_CTRL.LOAD starts copying a 64 KiB image from the Vat into a halted tile's instruction buffer. -/
  | ibufLoad (m : Master) (t : TileId)
  /-- IBUF_LOAD_COMPLETE (R174): The instruction-buffer copy ends, and LOAD reads 0. -/
  | ibufLoadComplete (t : TileId)
  /-- TILE_RECOVERY (R505): Once the faulted tile has drained, its power domain is switched off and on outside PD_CTRL. -/
  | tileRecovery (t : TileId)
  /-- TILE_RECOVERY_COMPLETE (R505): The tile's domain is on again, and its TREC bit clears. -/
  | tileRecoveryComplete (t : TileId)
  /-- BAND_ISSUE (R299): At a band's ISSUE ck, the frame engine takes the stream's head ingest entry for a FIRST band and reserves BUF. -/
  | bandIssue (l : Fin 16) (b : Nat)
  /-- HOST_READ_ISSUE (R300): A host read request is issued once INFLIGHT and tags admit it. -/
  | hostReadIssue (l : Fin 16) (copy : Bool)
  /-- HOST_READ_COMPLETION (R301): Read completion data arrive from the host, in the landing buffer or the copy engine, or are discarded after a late commit. -/
  | hostReadCompletion (tag : Fin 768) (ok : Bool) (data : List (BitVec 8))
  /-- HOST_READ_TIMEOUT (R349): A Kurix read request times out, and a host read error results. -/
  | hostReadTimeout (tag : Fin 768)
  /-- LANDING_WRITE_SLOT (R301): In a write slot of a pass, an available part is written into the ingest ring. -/
  | landingWriteSlot (l : Fin 16)
  /-- BAND_COMMIT (R302): At the first commit ck, the band is decided complete, with commit signals injected, or late, with data discarded. -/
  | bandCommit (l : Fin 16)
  /-- WRITEOUT_READ_SLOT (R304): In a read slot, a write-out part's Vat read is issued, or skipped when BUF cannot be reserved. -/
  | writeoutReadSlot (l : Fin 16)
  /-- HOST_WRITE_ISSUE (R305): A write-out part is written to host memory in part order. -/
  | hostWriteIssue (l : Fin 16) (copy : Bool)
  /-- DEGRADE_NOTE (R306): A degrade note reaches the LADLE note port and marks pictures of the mapped stream. -/
  | degradeNote
  /-- LATE_NOTE (R306): A late note reaches the LADLE note port and marks the stream's pictures DEGRADED and LATE. -/
  | lateNote
  /-- FENCE_WORD (R307): A fence word reaches a tile, which answers with an acknowledgement after its earlier notes. -/
  | fenceWord (t : TileId)
  /-- FENCE_ACK (R307): A fence acknowledgement reaches the LADLE note port. -/
  | fenceAck
  /-- COMPLETION_POST (R308): A Ladle posts an entry's completion once its data and fence conditions hold. -/
  | completionPost (q : Fin 132)
  /-- COPY_GRANT (R317): A free copy engine grants the waiting descriptor of highest effective priority. -/
  | copyGrant (l : Fin 16)
  /-- COPY_COMPLETE (R311): A copy descriptor ends; its status is written, the ring HEAD advances and the Bell source is raised. -/
  | copyComplete (l : Fin 16)
  /-- SRING_TAIL (R311): A steward writes SRING_TAIL to submit copy entries. -/
  | sringTail (m : Master) (k : Fin 4) (v : BitVec 32)
  /-- LEAVE_GRANT (R481): The governor grants waiting dynamic leave requests in order while each fits. -/
  | leaveGrant
  /-- KX_PLANGO (R448): Checks a container and arms a variant or the stop index, returning ARMED, REPLACED, QUEUED or REFUSED. -/
  | kxPlango (k : Fin 4) (rd rs1 rs2 : Fin 32)
  /-- SWAP_ENGINE_START (R339): At a qualifying budget ck, or when idle, the swap engine repeats the hardware checks and starts loading the variant. -/
  | swapEngineStart
  /-- SWAP_ENGINE_COMPLETE (R341): The swap engine finishes its load steps. -/
  | swapEngineComplete
  /-- RELOCK_COMPLETE (R473): The core PLL relock completes; CLK_NOW, MINPER and LINE_CK are updated. -/
  | relockComplete
  /-- CONFIGURATION_REQUEST (R350): A PCI Express configuration request is answered, or receives retry status before READY_CFG. -/
  | configurationRequest (wr : Bool) (dw : Fin 1024) (be : BitVec 4) (v : BitVec 32)
  /-- BAR2_ACCESS (R355): A host access through the BAR2 window becomes a narrow access at WIN_BASE plus the offset. -/
  | bar2Access (off : BitVec 28) (n : Nat) (wr : Option (List (BitVec 8)))
  /-- SQ_TAIL_DOORBELL (R361): A submission tail doorbell advances the SQ tail, or is discarded as invalid. -/
  | sqTailDoorbell (q : Fin 132) (dw : Bool) (v : BitVec 32)
  /-- CQ_HEAD_DOORBELL (R375): A completion head doorbell advances the CQ head, re-arms the interrupt and signals when entries remain. -/
  | cqHeadDoorbell (q : Fin 132) (dw : Bool) (v : BitVec 32)
  /-- HOST_MESSAGE_DOORBELL (R357): A BAR4 host message doorbell latches HOST.MSG d and raises Bell source 480 + d; or another request to BAR4. dw: it is a write of one DW, with data v. -/
  | hostMessageDoorbell (r : Bar4) (dw : Bool) (v : BitVec 32)
  /-- ENTRY_FETCH (R362): The host link reads up to 8 submission entries of a queue. -/
  | entryFetch (q : Fin 132) (raws : List (BitVec 512))
  /-- ENTRY_NOP (R363): A NOP entry arrives and is completed OK at arrival. -/
  | entryNop (q : Fin 132)
  /-- PICTURE (R365): A PICTURE entry arrives, is checked and is passed to the LADLE block. -/
  | picture (q : Fin 132)
  /-- COPY (R366): A COPY entry arrives and queues its descriptor for a copy engine. -/
  | copy (q : Fin 132)
  /-- PLAN_LOAD_AND_ARM (R367): A PLAN entry with ACTION 0 copies a container into the Vat, checks it and arms a variant. -/
  | planLoadAndArm (fw : Fin 16) (data : List (BitVec 8))
  /-- PLAN_ARM (R367): A PLAN entry with ACTION 1 arms a variant of a container already in the Vat. -/
  | planArm (fw : Fin 16)
  /-- PLAN_STOP (R367): A PLAN entry with ACTION 2 arms the stop index. -/
  | planStop
  /-- IDENTIFY (R368): ADMIN command writing a 4096-byte identity page to host memory. -/
  | identify (page : List (BitVec 8))
  /-- FAULT_LOG (R368): ADMIN command copying ERR records to host memory. -/
  | faultLog
  /-- TIMING_SET (R368): ADMIN command reading a timing set record and committing it for the next tick. -/
  | timingSet (data : List (BitVec 8))
  /-- SKIM_LAYOUT (R368): ADMIN command reading a Skim layout and applying it. -/
  | skimLayout (data : List (BitVec 8))
  /-- COMPLETION_WRITE (R373): The host link writes a completion record in queue order once the CQ has room, then signals MSI-X under the arm rule. -/
  | completionWrite (q : Fin 132)
  /-- SDONE (R379): A steward completes the oldest steward-served entry of a queue. -/
  | sdone (m : Master) (v : BitVec 32)
  /-- HOST_SMSG (R388): A steward write to HOST.SMSG sets EVENT.SMSG. -/
  | hostSmsg (m : Master) (v : BitVec 32)
  /-- QUEUE_ENABLE (R360): Writing 1 to QCTRL.EN resets the ring indices, the phase and the arm bit. -/
  | queueEnable (m : Master) (q : Fin 132) (v : BitVec 32)
  /-- QUEUE_DISABLE (R389): Writing 0 to QCTRL.EN stops arrivals and completes unstarted entries with ABORTED or NOT_SERVED. -/
  | queueDisable (m : Master) (q : Fin 132) (v : BitVec 32)
  /-- FLR (R384): Initiate Function Level Reset discards held entries and transfers, fences the epoch and resets HOST state. -/
  | flr
  /-- FLR_COMPLETE (R384): Function-level reset completes within 10 ms and raises the FLR Bell source. -/
  | flrComplete
  /-- PERST (R524): Assertion of PERST# performs a function-level reset and takes the link down. -/
  | perst
  /-- LINK_STATE_CHANGE (R531): The PCI Express link comes up or goes down, and READY_CFG is set once SUBSYS_ID is loaded. -/
  | linkStateChange (up : Bool) (width : Fin 16) (rate : Fin 8)
  /-- BUS_MASTER_ENABLE (R386): A change of Bus Master Enable stops or resumes the device's memory requests and MSI-X messages. -/
  | busMasterEnable (on : Bool)
  /-- POWER_STATE_CHANGE (R387): Entry to D3hot or return to D0. -/
  | powerStateChange (d3 : Bool)
  /-- TS_COMMIT (R392): A write of TS_COMMIT requests the timing set, decided at the next tick, or at once while the generator is off. -/
  | tsCommit (m : Master)
  /-- OUT_MODE (R398): A write of OUT_MODE requests an output mode, applied at the next tick or refused whole. -/
  | outMode (m : Master) (v : BitVec 32)
  /-- TE_EDGE (R396): A filtered active TE_IN edge sets the TE latch, and in MEASURE mode it records TE_LINE and TE_COUNT. -/
  | teEdge
  /-- LINE_FETCH (R406): A layer line's fetch starts, capturing the layer fields and checking band presence. -/
  | lineFetch (o : Fin 2) (layer : Fin 5)
  /-- SCAN_LINE (R417): An output line is scanned and composed; missing pixels take the DROP or HOLD policy, and occupancy is checked. -/
  | scanLine
  /-- DP_TRAIN (R426): Writing DP_CTRL.TRAIN starts link training of an output. -/
  | dpTrain (m : Master) (o : Fin 2)
  /-- DP_TRAIN_COMPLETE (R426): Link training ends; DP_STATUS reports the result or BW_FAIL. -/
  | dpTrainComplete (o : Fin 2) (ok : Bool) (rate : Fin 4) (lanes : Fin 5) (tps4 async : Bool)
  /-- AUX_CMD (R426): AUX_CMD.GO starts an AUX transaction. -/
  | auxCmd (m : Master) (o : Fin 2) (v : BitVec 32)
  /-- AUX_DONE (R426): The AUX transaction ends with ACK, NACK, DEFER exhausted or timeout, and the AUX-done Bell source is raised. -/
  | auxDone (o : Fin 2) (outcome : Fin 4) (data : List (BitVec 8))
  /-- HPD_EVENT (R427): An HPD low period ends, or lasts long enough, and is classified as IRQ_HPD, unplug or plug. -/
  | hpdEvent (o : Fin 2) (kind : Fin 3)
  /-- KX_COPY (R436): Long steward instruction copying 8-byte elements. -/
  | kxCopy (k : Fin 4) (rd rs1 rs2 : Fin 32)
  /-- KX_FILL (R436): Long steward instruction filling memory with a 64-bit pattern. -/
  | kxFill (k : Fin 4) (rd rs1 rs2 : Fin 32)
  /-- KX_CRC32C (R439): Long steward instruction computing CRC-32C over a buffer. -/
  | kxCrc32c (k : Fin 4) (rd rs1 rs2 : Fin 32)
  /-- KX_HSET (R440): Long steward instruction writing handle entries into a table bank. -/
  | kxHset (k : Fin 4) (rd rs1 rs2 : Fin 32)
  /-- KX_HSWAP (R447): Switches a handle table, or defers the switch to the next tick. -/
  | kxHswap (k : Fin 4) (rd rs1 : Fin 32)
  /-- STEWARD_MEMORY_ACCESS (R433): A steward load, store or fetch to SRAM, Pail, Vat or registers, with its attributes and exceptions. -/
  | stewardMemoryAccess (k : Fin 4) (kind : StewKind) (addr : BitVec 64) (size : Fin 4) (rd : Fin 32) (data : BitVec 64)
  /-- STEWARD_INTERRUPT (R443): A steward takes an enabled interrupt, at an element boundary of a long instruction where one runs. -/
  | stewardInterrupt (k : Fin 4)
  /-- BELL_SOURCE_REQUEST (R450): A source request or message reaches the Bell gateway and sets pending. -/
  | bellSourceRequest (n : Fin 512)
  /-- WIRED_INPUT_CHANGE (R452): A wired input holds a new level for FILT AON cycles, and its filtered level changes. -/
  | wiredInputChange (wire : Fin 32) (high : Bool)
  /-- BELL_CLAIM (R455): A CLAIM read by the target returns the eligible source of highest priority, clears its pending bit and pushes the stack. -/
  | bellClaim (m : Master) (t : Fin 5)
  /-- BELL_EOI (R457): An EOI write pops the target's stack and reopens the gateway. -/
  | bellEoi (m : Master) (t : Fin 5) (v : BitVec 9)
  /-- HOLDOFF_EXPIRY (R459): A group's hold-off expires, and its sources become eligible again. -/
  | holdoffExpiry (g : Fin 32)
  /-- GDIS_WRITE (R460): A write of BELL.CTRL.GDIS disables or re-enables delivery globally. -/
  | gdisWrite (m : Master) (v : Bool)
  /-- MSIP_WRITE (R461): A write of MSIP sets or clears a steward's software interrupt. -/
  | msipWrite (m : Master) (k : Fin 4) (v : Bool)
  /-- MTIMECMP_MATCH (R461): MTIME reaches MTIMECMP, and the steward's timer interrupt is asserted. -/
  | mtimecmpMatch (k : Fin 4)
  /-- PD_CTRL_WRITE (R466): A write to PD_CTRL requests domains on or off; refused changes go to PD_ERR. -/
  | pdCtrlWrite (m : Master) (w : Fin 3) (v : BitVec 32)
  /-- PD_SWITCH (R466): The governor starts the next domain switch once its conditions and leave admit it. -/
  | pdSwitch
  /-- PD_SWITCH_COMPLETE (R468): A domain finishes powering on, with registers reset and repairs loaded, or finishes powering off. -/
  | pdSwitchComplete
  /-- MAIN_SEQUENCING (R469): Once PG_CORE and PG_MEM are high, the Milkhouse turns the main domains on in order. -/
  | mainSequencing
  /-- FABRIC_SLEEP (R470): MREQ request 1: PD6, PD3 and then PD7 turn off after the Bell saves retention, when the conditions hold. -/
  | fabricSleep (m : Master)
  /-- FABRIC_WAKE (R470): MREQ request 2: PD7 turns on, the Bell restores, and then PD3 and PD6 turn on. -/
  | fabricWake (m : Master)
  /-- MREQ_DEVICE_RECOVERY (R576): MREQ request 3: a steward requests a device recovery with code 0x75. -/
  | mreqDeviceRecovery (m : Master)
  /-- THERMAL_SAMPLE (R486): A 100 µs sensor sample updates TEMP_MAX and may raise the thermal step, arming LIGHT or the stop index. -/
  | thermalSample (valid : BitVec 8) (temps : BitVec 64)
  /-- THERMAL_RELEASE (R488): THERM_CTRL.RELEASE returns the step to 0, or is rejected with REL_REJ set. -/
  | thermalRelease (m : Master)
  /-- THERMAL_TRIP (R489): TEMP_MAX reaches the trip temperature; the comparator lowers EN_MAIN and device recovery follows. -/
  | thermalTrip
  /-- PWR_THROT_CHANGE (R490): A filtered PWR_THROT_N change enters step 1 or allows it to be left. -/
  | pwrThrotChange (low : Bool)
  /-- ERR_RECORD_POST (R494): A fault message reaches the error aggregator, which stores or counts it, raises Bell source 16 and passes it to the Milkhouse log. -/
  | errRecordPost
  /-- REC_POP (R497): A write to ERR.REC_POP removes the oldest record. -/
  | recPop (m : Master)
  /-- SSUB_SET (R501): A write to SSUB_SET sets stream substitution bits. -/
  | ssubSet (m : Master) (h : Fin 2) (v : BitVec 32)
  /-- SSUB_CLR (R501): A write to SSUB_CLR clears stream substitution bits. -/
  | ssubClr (m : Master) (h : Fin 2) (v : BitVec 32)
  /-- SSUB_PUBLISH (R504): The aggregator writes the substitution mask to the SSUB_PUB address after a change and after each budget ck. -/
  | ssubPublish
  /-- CAND_POP (R612): A write to CAND_POP removes the oldest repair candidate. -/
  | candPop (m : Master)
  /-- WDOG_KICK (R611): A steward's write to WDOG_KICK restarts its watchdog period. -/
  | wdogKick (m : Master) (k : Fin 4)
  /-- WATCHDOG_EXPIRY (R611): A watched steward's period passes without a kick, and code 0x74 is raised. -/
  | watchdogExpiry (k : Fin 4)
  /-- PG_LOSS (R509): A filtered PG_CORE or PG_MEM fall while EN_MAIN is high raises code 0x71. -/
  | pgLoss (core mem : Bool)
  /-- REGISTER_NETWORK_TIMEOUT (R509): A register access receives no response within 1 ms, and code 0x73 is raised. -/
  | registerNetworkTimeout
  /-- CORE_PLL_UNLOCK (R509): The core PLL loses lock outside a relock, and code 0x76 is raised. -/
  | corePllUnlock
  /-- FABRIC_UNCORRECTABLE (R509): An uncorrectable error in PD7 state raises code 0x72. -/
  | fabricUncorrectable
  /-- DEVICE_RECOVERY (R510): Device recovery: FAULT_N low, aborts and the epoch fence, outputs idle, main reset, then Skim. -/
  | deviceRecovery
  /-- POWER_ON_RESET (R527): Release of the AON power-on reset samples the straps, drives EN_MAIN high and resets PD0 state. -/
  | powerOnReset (testEn : Bool) (addr : Fin 4)
  /-- ROM_START (R527): The Milkhouse starts its ROM at t0, or after 100 ms with the main side off. -/
  | romStart (pg : Bool)
  /-- SETTINGS_READ (R535): The Milkhouse discovers the flash, then reads the settings header and walks its records. -/
  | settingsRead (found : Bool) (log2 : Fin 32) (mode : Fin 3) (jedec : BitVec 24)
  /-- STEWARD_IMAGE_AUTHENTICATE (R541): The boot slots are authenticated in order, and S0–S3 start, or stage 0x9 follows. -/
  | stewardImageAuthenticate
  /-- FLASH_REQ (R544): A steward requests the flash through FLASH.REQ. -/
  | flashReq (m : Master) (v : BitVec 32)
  /-- FLASH_COPY (R543): CP_CTRL.GO starts a flash copy in either direction, optionally hashing. -/
  | flashCopy (m : Master) (v : BitVec 32)
  /-- FLASH_COPY_ABORT (R543): CP_CTRL.ABORT stops a running flash copy. -/
  | flashCopyAbort (m : Master) (units : Nat)
  /-- FLASH_COPY_COMPLETE (R543): A flash copy ends, setting DONE or ERR with its cause. -/
  | flashCopyComplete (units : Nat)
  /-- FLASH_ER_GO (R543): ER_CTRL.GO starts a sector erase. -/
  | flashErGo (m : Master) (v : BitVec 32)
  /-- FLASH_OP_COMPLETE (R569): A flash erase or program completes, and the flash is free again. -/
  | flashOpComplete
  /-- STATUS (R563): Sideband command returning device status; it clears reported edge alert causes. -/
  | status (f : SbForm)
  /-- TEMP (R564): Sideband command returning temperatures. -/
  | temp (f : SbForm)
  /-- POWER (R564): Sideband command returning the leave and power state. -/
  | power (f : SbForm)
  /-- PULSE (R564): Sideband command returning heartbeat, epoch and frame. -/
  | pulse (f : SbForm)
  /-- LOG_READ (R570): Sideband command returning up to 7 log records. -/
  | logRead (f : SbForm) (pos : BitVec 32)
  /-- LOG_CLEAR (R570): Sideband command removing log records up to a position. -/
  | logClear (f : SbForm) (pos : BitVec 32)
  /-- RESET_REQ (R565): Sideband command starting a device recovery with code 0x75. -/
  | resetReq (f : SbForm) (v : BitVec 8)
  /-- MAIN_POWER (R566): Sideband command powering the main side off or on. -/
  | mainPower (f : SbForm) (v : BitVec 8)
  /-- BOOT_SELECT (R567): Sideband command selecting or querying the first boot slot. -/
  | bootSelect (f : SbForm) (v : BitVec 8)
  /-- FLASH_OPEN (R568): Sideband command taking ownership of the flash. -/
  | flashOpen (f : SbForm)
  /-- FLASH_READ (R569): Sideband command reading flash bytes. -/
  | flashRead (f : SbForm) (off : BitVec 32) (len : BitVec 8)
  /-- FLASH_WRITE (R569): Sideband command programming bytes within one page. -/
  | flashWrite (f : SbForm) (off : BitVec 32) (data : List (BitVec 8))
  /-- FLASH_ERASE (R569): Sideband command starting a sector erase. -/
  | flashErase (f : SbForm) (off : BitVec 32) (size : BitVec 8)
  /-- FLASH_CLOSE (R568): Sideband command releasing flash ownership. -/
  | flashClose (f : SbForm)
  /-- FLASH_OWNERSHIP_TIMEOUT (R568): Sideband flash ownership lapses after 30 s without a flash command, and code 0x84 is logged. -/
  | flashOwnershipTimeout
  /-- DBG_CHALLENGE (R580): Sideband command returning a fresh nonce and the serial number. -/
  | dbgChallenge (f : SbForm)
  /-- DBG_RESPONSE (R580): Sideband command verifying a signed scope and setting DBG.AUTH.SCOPE. -/
  | dbgResponse (f : SbForm) (scope : BitVec 8) (sig : Vector (BitVec 8) 96)
  /-- STATE_SCAN (R593): Sideband command reading words of the state chain. -/
  | stateScan (f : SbForm) (first : BitVec 32) (words : BitVec 8)
  /-- MBOX_SEND (R575): Sideband command filling the SB2H mailbox and signalling the host and the stewards. -/
  | mboxSend (f : SbForm) (msg : List (BitVec 8))
  /-- MBOX_RECV (R575): Sideband command reading and emptying the H2SB mailbox. -/
  | mboxRecv (f : SbForm)
  /-- DOORBELL (R577): Sideband command latching SBMSG d and raising Bell source 496 + d. -/
  | doorbell (f : SbForm) (d : BitVec 8) (v : BitVec 32)
  /-- BLOCK_READ_RESPONSE (R558): A split Block Read returns the held response without acting again, or BAD_CMD. -/
  | blockReadResponse (code : BitVec 8)
  /-- ALERT_RESPONSE (R574): A read of the Alert Response Address returns the device address and releases SB_ALERT_N. -/
  | alertResponse
  /-- SMBUS_BUS_TIMEOUT (R553): SCL held low for 25–35 ms resets the sideband interface. -/
  | smbusBusTimeout
  /-- H2SB_SEND (R575): A write of H2SB_CTRL.SEND fills the H2SB mailbox and raises alert cause 0. -/
  | h2sbSend (m : Master) (v : BitVec 32)
  /-- SB2H_ACK (R575): A write of SB2H_CTRL.ACK empties the SB2H mailbox. -/
  | sb2hAck (m : Master)
  /-- REPAIR_RECORD_APPEND (R572): Under REPAIR_AUTO, once the flash is free, the Milkhouse appends a REPAIR record for a candidate and rewrites the header. -/
  | repairRecordAppend
  /-- DBG_STOP (R586): A write of DBG.STOP freezes the frame domain 6 ck later. -/
  | dbgStop (m : Master)
  /-- DBG_STOP_N (R586): A falling edge on DBG_STOP_N freezes the frame domain 10 ck later. -/
  | dbgStopN
  /-- DBG_RESUME (R591): A write of DBG.RESUME restarts the frozen frame domain 6 ck later. -/
  | dbgResume (m : Master)
  /-- DBG_STEP (R591): A write of DBG.STEP runs the frame domain for n ck. -/
  | dbgStep (m : Master) (n : BitVec 16)
  /-- STEP_END (R591): The n ck of a step end, and the frame domain freezes again. -/
  | stepEnd
  /-- AUTH_REVOKE (R582): A write of AUTH_CTRL.REVOKE clears the authorised debug scope. -/
  | authRevoke (m : Master)
  /-- PERMA_DISABLE (R583): The first write of 1 to DBG.PERMA_DISABLE programs the debug-disable fuse and clears the scope. -/
  | permaDisable (m : Master) (v : BitVec 32)
  /-- STEWARD_HALT (R596): SCTRL.HALT halts a steward at its next instruction or element boundary. -/
  | stewardHalt (m : Master) (k : Fin 4) (drain : Bool)
  /-- STEWARD_HALTED (R597): A halting steward has drained, and SSTAT.HALTED reads 1. -/
  | stewardHalted (k : Fin 4)
  /-- STEWARD_RESUME (R597): SCTRL.RESUME restarts a halted steward. -/
  | stewardResume (m : Master) (k : Fin 4) (drain : Bool)
  /-- STEWARD_STEP (R597): SCTRL.STEP performs one instruction or element, and the steward halts again. -/
  | stewardStep (m : Master) (k : Fin 4) (drain : Bool)
  /-- TRACE_ENABLE (R603): Setting TR_CTRL.EN enables the trace port and resets TR_HEAD and TR_TAIL. -/
  | traceEnable (m : Master) (v : BitVec 32)
  /-- TRACE_RING_WRITE (R602): The trace port writes a record into the Vat ring, advances TR_HEAD and may notify an object. -/
  | traceRingWrite
  /-- TAP_RESET (R629): TRST_N low, or five TCK edges with TMS high, reset the TAP. -/
  | tapReset
  /-- EXTEST (R628): JTAG instruction making pads follow the boundary-scan cells. -/
  | extest (pads cells : BitVec 89)
  /-- SAMPLE_PRELOAD (R628): JTAG instruction capturing pad levels and preloading cells. -/
  | samplePreload (pads cells : BitVec 89)
  /-- IDCODE (R584): JTAG instruction returning 0x1731_8957. -/
  | idcode
  /-- BYPASS (R584): JTAG one-bit bypass instruction. -/
  | bypass (bits : BitVec 32)
  /-- JTAG_AUTH_CHALLENGE (R585): An AUTH Update-DR with byte 103 = 0x01 draws a fresh nonce. -/
  | jtagAuthChallenge
  /-- JTAG_AUTH_SUBMIT (R585): An AUTH Update-DR with byte 103 = 0x02 submits a scope and signature. -/
  | jtagAuthSubmit (bytes : Vector (BitVec 8) 103)
  /-- JTAG_STATE (R593): The JTAG STATE register reads words of the state chain. -/
  | jtagState (first : BitVec 32) (words : BitVec 8)
  /-- DBGACC (R584): The JTAG DBGACC register performs one 32-bit access as the debug port master. -/
  | dbgacc (addr data : BitVec 32) (wr : Bool)
  /-- UNSUPPORTED_REQUEST (R352): A TLP outside every BAR, to a disabled BAR, to I/O space or as a type 1 configuration request receives an Unsupported Request completion or is discarded, and AER reports it. -/
  | unsupportedRequest (kind : Fin 4) (posted : Bool)
  /-- POWER_GOOD_TIMEOUT (R530): At a sequencing after a lowering of EN_MAIN, a power good that has not risen within 20 ms makes main sequencing fail, EN_MAIN go low, stage 0xA and log code 0x83. -/
  | powerGoodTimeout
  /-- VDD_AON_LOSS (R633): VDD_AON leaves its range, the whole device becomes unpowered, and pads and state take their unpowered condition until the next power-on reset. -/
  | vddAonLoss
  /-- VDDIO_SB_CHANGE (R634): VDDIO_SB rises or falls independently of the other supplies, and the sideband pads go high-impedance or return to service. -/
  | vddioSbChange (up : Bool)
  /-- AON_PLL_LOCK (R72): The AON PLL locks, and the Milkhouse moves from the 25 MHz crystal to its 100 MHz clock. -/
  | aonPllLock
  /-- NONCE_EXPIRY (R580): A debug challenge nonce stops being live 60 s after its challenge, so later responses are refused and JTAG AUTH captures zeros. -/
  | nonceExpiry
  deriving DecidableEq, Repr

end Sys2Proof
end

