-- ==== Sys2Proof/Machine/Formats.lean ====
section
/-!
DEFINITION. Number and sample formats (spec file 04): the exact value of every format code (R122–R130), the
two-step conversion (R131) with its rounding modes (R132–R134), out-of-range results (R135), the block packings
(R136, R137) and the seeded stochastic draw (R139).

Exact values. A LOG8 magnitude is 2^(k/16), which is irrational unless 16 divides k, so a finite value is kept as a
mantissa times a power of 2^(1/16). Sums are dyadic: a power of 2^(1/16) enters a sum through a 16384-bit
approximation of 2^(j/16), which is exact for j = 0 and closer for other j than any two distinct values these formats
can form, so that every rounding decision is the exact one (notes/assumptions/20.md).
-/

namespace Sys2Proof.Machine

/-- A dyadic number m × 2^e. -/
structure Dy where
  m : Int
  e : Int
  deriving DecidableEq, Repr

/-- A decoded element (R131): NaN, a signed infinity, or a finite value (−1)^neg × mant × 2^(exp/16); mant = 0 is a
signed zero. -/
inductive Num where
  | nan (neg : Bool)
  | inf (neg : Bool)
  | fin (neg : Bool) (mant : Nat) (exp : Int)
  deriving DecidableEq, Repr

/-- The number of bits of n; 0 for 0. -/
def bitLen (n : Nat) : Nat := if n = 0 then 0 else n.log2 + 1

/-- Newton's iteration for the integer square root, from above, at most `fuel` steps. -/
def isqrtLoop (n : Nat) : Nat → Nat → Nat
  | 0, x => x
  | fuel + 1, x =>
    let y := (x + n / x) / 2
    if y < x then isqrtLoop n fuel y else x

/-- The integer square root of n. -/
def isqrt (n : Nat) : Nat :=
  if n = 0 then 0 else isqrtLoop n 96 (2 ^ ((bitLen n + 1) / 2))

/-- The binary precision of the 2^(j/16) used in sums. -/
def rootBits : Nat := 16384

/-- ⌊2^(j/16) × 2^rootBits⌋ for j = 0–15. -/
def rootOf (j : Nat) : Nat :=
  if j = 0 then 2 ^ rootBits
  else isqrt (isqrt (isqrt (isqrt (2 ^ (16 * rootBits + j)))))

/-- mant × 2^(exp/16), with its sign, as a dyadic. -/
def dyOfTerm (neg : Bool) (mant : Nat) (exp : Int) : Dy :=
  let j := (exp % 16).toNat
  let q := exp / 16
  let s : Int := if neg then -1 else 1
  if j = 0 then ⟨s * mant, q⟩ else ⟨s * mant * rootOf j, q - rootBits⟩

/-- Sum of two dyadics, exact. -/
def Dy.add (a b : Dy) : Dy :=
  if a.m = 0 then b
  else if b.m = 0 then a
  else if a.e ≤ b.e then ⟨a.m + b.m * 2 ^ (b.e - a.e).toNat, a.e⟩
  else ⟨b.m + a.m * 2 ^ (a.e - b.e).toNat, b.e⟩

/-- Product of two dyadics, exact. -/
def Dy.mul (a b : Dy) : Dy := ⟨a.m * b.m, a.e + b.e⟩

/-- Negation. -/
def Dy.neg (a : Dy) : Dy := ⟨-a.m, a.e⟩

/-- ⌊a / 2^q⌋ for the magnitude of a, and whether it is exact. -/
def Dy.scaledFloor (a : Dy) (q : Int) : Nat × Bool :=
  let n := a.m.natAbs
  if q ≤ a.e then (n * 2 ^ (a.e - q).toNat, true)
  else
    let d := 2 ^ (q - a.e).toNat
    (n / d, n % d == 0)

/-- a < b. -/
def Dy.lt (a b : Dy) : Bool := decide ((Dy.add a (Dy.neg b)).m < 0)

/-- The integer n as a dyadic. -/
def Dy.ofInt (n : Int) : Dy := ⟨n, 0⟩

/-- A dyadic as a decoded number; `nz` is the sign a zero takes. -/
def Num.ofDy (d : Dy) (nz : Bool := false) : Num :=
  if d.m = 0 then .fin nz 0 0 else .fin (decide (d.m < 0)) d.m.natAbs (16 * d.e)

/-- The dyadic of a finite number; 0 for a NaN or an infinity, which callers treat first. -/
def Num.toDy : Num → Dy
  | .fin neg m e => dyOfTerm neg m e
  | _ => ⟨0, 0⟩

/-- The sign of a number. -/
def Num.isNeg : Num → Bool
  | .nan s => s
  | .inf s => s
  | .fin s _ _ => s

/-- NaN test. -/
def Num.isNaN : Num → Bool
  | .nan _ => true
  | _ => false

/-- Infinity test. -/
def Num.isInf : Num → Bool
  | .inf _ => true
  | _ => false

/-- Zero test. -/
def Num.isZero : Num → Bool
  | .fin _ m _ => m == 0
  | _ => false

/-! ### Format codes (R122) -/

/-- Bits of one element of a format held by element (R122); a block format gives the bits of one block. -/
def fmtBits (f : Nat) : Nat :=
  match f with
  | 0x00 => 4 | 0x01 => 4 | 0x02 => 8 | 0x03 => 8 | 0x04 => 16 | 0x05 => 16 | 0x06 => 32 | 0x07 => 8
  | 0x08 => 8 | 0x09 => 16 | 0x0A => 16 | 0x0B => 32 | 0x0C => 136 | 0x0D => 264 | 0x0E => 144
  | 0x0F => 16 | 0x10 => 16 | 0x11 => 8 | _ => 0

/-- BQ4, BQ8 or TERN (R122). -/
def fmtIsBlock (f : Nat) : Bool := f == 0x0C || f == 0x0D || f == 0x0E

/-- A reserved format code (R122). -/
def fmtReserved (f : Nat) : Bool := decide (0x12 ≤ f)

/-- Exponent bits, fraction bits, bias and whether the format has infinities (R126). -/
structure FloatFmt where
  ebits : Nat
  mbits : Nat
  bias : Nat
  hasInf : Bool
  deriving DecidableEq, Repr

/-- The parameters of a floating-point format code (R126). -/
def floatFmt (f : Nat) : Option FloatFmt :=
  match f with
  | 0x07 => some ⟨4, 3, 7, false⟩
  | 0x08 => some ⟨5, 2, 15, true⟩
  | 0x09 => some ⟨5, 10, 15, true⟩
  | 0x0A => some ⟨8, 7, 127, true⟩
  | 0x0B => some ⟨8, 23, 127, true⟩
  | _ => none

/-- Width and signedness of a two's-complement or unsigned integer format (R124). -/
def intFmt (f : Nat) : Option (Nat × Bool) :=
  match f with
  | 0x00 => some (4, true) | 0x01 => some (4, false) | 0x02 => some (8, true) | 0x03 => some (8, false)
  | 0x04 => some (16, true) | 0x05 => some (16, false) | 0x06 => some (32, true)
  | _ => none

/-- The integer that n bits hold. -/
def intOfBits (w : Nat) (signed : Bool) (x : Nat) : Int :=
  let x := x % 2 ^ w
  if signed && decide (2 ^ (w - 1) ≤ x) then (x : Int) - 2 ^ w else x

/-- Decode of a floating-point element (R126, R127). -/
def decodeFloat (ff : FloatFmt) (x : Nat) : Num :=
  let m := x % 2 ^ ff.mbits
  let e := (x / 2 ^ ff.mbits) % 2 ^ ff.ebits
  let s := (x / 2 ^ (ff.mbits + ff.ebits)) % 2 == 1
  let top := 2 ^ ff.ebits - 1
  if ff.hasInf && e == top then (if m = 0 then .inf s else .nan s)
  else if !ff.hasInf && e == top && m == 2 ^ ff.mbits - 1 then .nan s
  else if e = 0 then .fin s m (16 * (1 - (ff.bias : Int) - ff.mbits))
  else .fin s (m + 2 ^ ff.mbits) (16 * ((e : Int) - ff.bias - ff.mbits))

/-- Decode of one element held by element; block formats do not come here (R131). -/
def decodeElem (f x : Nat) : Num :=
  match intFmt f with
  | some (w, sg) => Num.ofDy (Dy.ofInt (intOfBits w sg x))
  | none =>
    match floatFmt f with
    | some ff => decodeFloat ff x
    | none =>
      if f = 0x0F then .fin false (x % 2 ^ 10) 0
      else if f = 0x10 then .fin false (x % 2 ^ 12) 0
      else
        -- LOG8 (R128)
        let s := (x / 128) % 2 == 1
        let l := intOfBits 7 true x
        if l = -64 then .fin s 0 0 else .fin s 1 l

/-! ### Rounding (R132, R133) -/

/-- The 2-bit rounding mode field (R132). -/
inductive Rnd where
  | rne | rtz | sr
  deriving DecidableEq, Repr

/-- The mode of a field value; 0b11 is reserved (R132). -/
def Rnd.ofField (n : Nat) : Option Rnd :=
  match n with
  | 0 => some .rne | 1 => some .rtz | 2 => some .sr | _ => none

/-- The magnitude of d in units of 2^q, rounded (R132, R133): r is the element's 32-bit draw. -/
def roundUnits (mode : Rnd) (r : Word) (d : Dy) (q : Int) : Nat :=
  let a := (d.scaledFloor q).1
  match mode with
  | .rtz => a
  | .rne =>
    let h := d.scaledFloor (q - 1)          -- in half units
    if h.1 % 2 = 0 then a
    else if h.2 then (if a % 2 = 0 then a else a + 1) else a + 1
  | .sr =>
    let dd := (d.scaledFloor (q - 32)).1 - a * 2 ^ 32
    if dd + r.toNat < 2 ^ 32 then a else a + 1

/-- Encoding of a nonzero or zero finite magnitude into a floating-point format (R126, R132, R135). -/
def encodeFloatFin (ff : FloatFmt) (mode : Rnd) (sat : Bool) (r : Word) (neg : Bool) (d : Dy) : Nat :=
  let sbit := if neg then 2 ^ (ff.mbits + ff.ebits) else 0
  let top := 2 ^ ff.ebits - 1
  let ovf : Nat := if ff.hasInf then top * 2 ^ ff.mbits else top * 2 ^ ff.mbits + (2 ^ ff.mbits - 1)
  let big : Nat :=
    if ff.hasInf then (top - 1) * 2 ^ ff.mbits + (2 ^ ff.mbits - 1) else top * 2 ^ ff.mbits + (2 ^ ff.mbits - 2)
  let n := d.m.natAbs
  if n = 0 then sbit
  else
    let k : Int := (bitLen n : Int) - 1 + d.e
    let emin : Int := 1 - (ff.bias : Int)
    let q : Int := (if k < emin then emin else k) - ff.mbits
    let u := roundUnits mode r d q
    -- bits of the magnitude with the exponent unbounded
    let ex : Int := q + ff.mbits + ff.bias
    let body : Int :=
      if u < 2 ^ ff.mbits then u
      else (ex - 1) * 2 ^ ff.mbits + u
    if body ≤ (big : Int) then sbit + body.toNat
    else if sat || mode == .rtz then sbit + big
    else sbit + ovf

/-- The canonical NaN of a floating-point format (R127). -/
def canonNaN (ff : FloatFmt) (neg : Bool) : Nat :=
  let top := 2 ^ ff.ebits - 1
  (if neg then 2 ^ (ff.mbits + ff.ebits) else 0) + top * 2 ^ ff.mbits +
    (if ff.hasInf then 2 ^ (ff.mbits - 1) else 2 ^ ff.mbits - 1)

/-- The signed infinity of a format, or the NaN of the sign in FP8A (R135). -/
def infBits (ff : FloatFmt) (neg : Bool) : Nat :=
  if ff.hasInf then
    (if neg then 2 ^ (ff.mbits + ff.ebits) else 0) + (2 ^ ff.ebits - 1) * 2 ^ ff.mbits
  else canonNaN ff neg

/-- ± the largest finite magnitude of a format (R126). -/
def maxBits (ff : FloatFmt) (neg : Bool) : Nat :=
  let top := 2 ^ ff.ebits - 1
  (if neg then 2 ^ (ff.mbits + ff.ebits) else 0) +
    (if ff.hasInf then (top - 1) * 2 ^ ff.mbits + (2 ^ ff.mbits - 1) else top * 2 ^ ff.mbits + (2 ^ ff.mbits - 2))

/-- Encoding into a floating-point format (R131–R135). -/
def encodeFloat (ff : FloatFmt) (mode : Rnd) (sat : Bool) (r : Word) : Num → Nat
  | .nan s => canonNaN ff s
  | .inf s => if sat then maxBits ff s else infBits ff s
  | .fin s m e => encodeFloatFin ff mode sat r s (dyOfTerm false m e)

/-- The bits of an integer in w bits. -/
def bitsOfInt (w : Nat) (i : Int) : Nat := (i % (2 ^ w : Int)).toNat

/-- i clamped to lo … hi. -/
def clampInt (lo hi i : Int) : Int := if i < lo then lo else if hi < i then hi else i

/-- Encoding into an integer format (R131–R135). -/
def encodeInt (w : Nat) (sg : Bool) (mode : Rnd) (sat : Bool) (r : Word) : Num → Nat
  | .nan _ => 0
  | .inf s =>
    let lo : Int := if sg then -(2 ^ (w - 1)) else 0
    let hi : Int := if sg then 2 ^ (w - 1) - 1 else 2 ^ w - 1
    bitsOfInt w (if s then lo else hi)
  | .fin s m e =>
    let lo : Int := if sg then -(2 ^ (w - 1)) else 0
    let hi : Int := if sg then 2 ^ (w - 1) - 1 else 2 ^ w - 1
    let u : Int := roundUnits mode r (dyOfTerm false m e) 0
    let i : Int := if s then -u else u
    bitsOfInt w (if sat then clampInt lo hi i else i)

/-- Encoding into VS10 or VS12 (R125, R135). -/
def encodeVs (w : Nat) (mode : Rnd) (r : Word) : Num → Nat
  | .nan _ => 0
  | .inf s => if s then 0 else 2 ^ w - 1
  | .fin s m e =>
    let u : Int := roundUnits mode r (dyOfTerm false m e) 0
    (clampInt 0 (2 ^ w - 1) (if s then -u else u)).toNat

/-- Encoding into LOG8 (R134, R135). -/
def encodeLog8 (mode : Rnd) : Num → Nat
  | .nan _ => 0x40
  | .inf s => (if s then 0x80 else 0) + 63
  | .fin s m e =>
    let sb := if s then 0x80 else 0
    if m = 0 then sb + 0x40
    else
      let l : Int :=
        match mode with
        | .rtz => (bitLen (m ^ 16) : Int) - 1 + e
        | _ => ((bitLen (m ^ 32) : Int) - 1 + 2 * e + 1) / 2
      if l < -63 then sb + 0x40 else sb + bitsOfInt 7 (if 63 < l then 63 else l)

/-- Encoding of a number into a format held by element (R131–R135). Block formats go through `packBlock`. -/
def encodeElem (f : Nat) (mode : Rnd) (sat : Bool) (r : Word) (x : Num) : Nat :=
  match intFmt f with
  | some (w, sg) => encodeInt w sg mode sat r x
  | none =>
    match floatFmt f with
    | some ff => encodeFloat ff mode sat r x
    | none =>
      if f = 0x0F then encodeVs 10 mode r x
      else if f = 0x10 then encodeVs 12 mode r x
      else encodeLog8 mode x

/-! ### Blocks (R129, R130, R136, R137) -/

/-- Elements of one block (R129, R130). -/
def blockElems (f : Nat) : Nat := if f = 0x0E then 64 else 32

/-- Bytes of one block (R122). -/
def blockBytes (f : Nat) : Nat := fmtBits f / 8

/-- Byte k of a byte list; 0 past its end. -/
def byteAt (bs : List Byte) (k : Nat) : Nat := (bs.getD k 0).toNat

/-- Element k of a BQ or TERN block (R129, R130), as an exact number. -/
def decodeBlockElem (f : Nat) (bs : List Byte) (k : Nat) : Num :=
  if f = 0x0C then
    let q := intOfBits 4 true (byteAt bs (k / 2) / 2 ^ (4 * (k % 2)))
    let ex := byteAt bs 16
    if ex = 255 then .nan false else .ofDy ⟨q, (ex : Int) - 127⟩
  else if f = 0x0D then
    let q := intOfBits 8 true (byteAt bs k)
    let ex := byteAt bs 32
    if ex = 255 then .nan false else .ofDy ⟨q, (ex : Int) - 127⟩
  else
    let t := (byteAt bs (k / 4) / 2 ^ (2 * (k % 4))) % 4
    let sg := decodeFloat ⟨5, 10, 15, true⟩ (byteAt bs 16 + 256 * byteAt bs 17)
    if t = 1 then sg
    else if t = 3 then
      match sg with
      | .nan s => .nan s
      | .inf s => .inf (!s)
      | .fin s m e => .fin (!s) m e
    else
      -- 0 × σ as an ordinary FP16 product (R127, R130, R207; DEDUCED, notes/assumptions/74.md): NaN for a NaN or
      -- infinite σ, otherwise a zero of σ's sign
      match sg with
      | .nan s => .nan s
      | .inf _ => .nan false
      | .fin s _ _ => .fin s 0 0

/-- One source element of a block: its value and whether it is poisoned. -/
structure BlkIn where
  x : Num
  poison : Bool
  deriving DecidableEq, Repr

/-- Step 1 of R136: the largest finite magnitude among elements neither poisoned nor NaN; `none` where there is no
such element or it is 0, `some none` where an infinity is among them. -/
def blockMax (l : List BlkIn) : Bool × Dy :=
  l.foldl
    (fun acc b =>
      if b.poison then acc
      else
        match b.x with
        | .nan _ => acc
        | .inf _ => (true, acc.2)
        | .fin _ m e =>
          let d := dyOfTerm false m e
          (acc.1, if acc.2.lt d then d else acc.2))
    (false, ⟨0, 0⟩)

/-- Little-endian packing of w-bit codes. -/
def packBits (w : Nat) (l : List Nat) : Nat :=
  l.foldr (fun x acc => x % 2 ^ w + 2 ^ w * acc) 0

/-- n bytes of a number, least significant first. -/
def bytesOfNat (n x : Nat) : List Byte :=
  (List.range n).map (fun k => BitVec.ofNat 8 (x / 2 ^ (8 * k)))

/-- A number from bytes, least significant first. -/
def natOfBytes (bs : List Byte) : Nat := bs.foldr (fun b acc => b.toNat + 256 * acc) 0

/-- A number rounded to a signed integer and clamped to ±lim (steps 5 of R136, R137). -/
def quotRound (mode : Rnd) (r : Word) (neg : Bool) (num den : Dy) (lim : Nat) : Int :=
  -- |num| / |den| in units of 1: compare against multiples of |den|
  let a := num.m.natAbs
  let b := den.m.natAbs
  let (n, d) := if num.e ≤ den.e then (a, b * 2 ^ (den.e - num.e).toNat) else (a * 2 ^ (num.e - den.e).toNat, b)
  let fl := n / d
  let rem := n % d
  let u :=
    match mode with
    | .rtz => fl
    | .rne => if 2 * rem < d then fl else if 2 * rem = d then (if fl % 2 = 0 then fl else fl + 1) else fl + 1
    | .sr => if rem * 2 ^ 32 / d + r.toNat < 2 ^ 32 then fl else fl + 1
  let c : Int := (if lim < u then lim else u)
  if neg then -c else c

/-- Packing of 32 elements into a BQ4 or BQ8 block (R136); sub is the SUBST entry of the format (R143). -/
def packBq (f : Nat) (mode : Rnd) (sat : Bool) (draw : Nat → Word) (sub : Word) (l : List BlkIn) : List Byte :=
  let w := if f = 0x0C then 4 else 8
  let lim : Nat := if f = 0x0C then 7 else 127
  let anyNaN := l.any (fun b => !b.poison && b.x.isNaN)
  let (anyInf, m) := blockMax l
  let allPoison := l.all (·.poison)
  let subElem := sub.toNat % 2 ^ w
  let subExp := (sub.toNat / 2 ^ 16) % 256
  let e : Int := (bitLen m.m.natAbs : Int) - 1 + m.e
  let e0 : Int := if f = 0x0D then e + 121 else e + 125
  let oor := anyInf || (decide (m.m ≠ 0) && decide (254 < e0))
  let nanBlk := !sat && (oor || anyNaN)
  let ex : Nat :=
    if nanBlk then 255
    else if oor then 254
    else if m.m = 0 then 0
    else e0.toNat
  let code (k : Nat) (b : BlkIn) : Nat :=
    if b.poison then subElem
    else if nanBlk then 0
    else
      match b.x with
      | .nan _ => 0
      | .inf s => bitsOfInt w (if s then -(lim : Int) else lim)
      | .fin s mm ee =>
        bitsOfInt w (quotRound mode (draw k) s (dyOfTerm false mm ee) ⟨1, (ex : Int) - 127⟩ lim)
  let codes := l.zipIdx.map (fun p => code p.2 p.1)
  bytesOfNat (4 * w) (packBits w codes) ++ [BitVec.ofNat 8 (if allPoison then subExp else ex)]

/-- Packing of 64 elements into a TERN block (R137). -/
def packTern (mode : Rnd) (sat : Bool) (draw : Nat → Word) (sub : Word) (l : List BlkIn) : List Byte :=
  let ff : FloatFmt := ⟨5, 10, 15, true⟩
  let anyNaN := l.any (fun b => !b.poison && b.x.isNaN)
  let (anyInf, m) := blockMax l
  let allPoison := l.all (·.poison)
  let sigmaBits : Nat :=
    if !sat && anyNaN then 0x7E00
    else if anyInf then encodeFloat ff .rne sat 0 (.inf false)
    else encodeFloatFin ff .rne sat 0 false m
  let sigma := decodeFloat ff sigmaBits
  let code (k : Nat) (b : BlkIn) : Nat :=
    if b.poison then (if sub.toNat % 4 = 2 then 0 else sub.toNat % 4)
    else if sigma.isNaN || sigma.isZero then 0
    else
      match b.x with
      | .nan _ => 0
      | .inf s => if s then 3 else 1
      | .fin s mm ee =>
        if sigma.isInf then 0
        else bitsOfInt 2 (quotRound mode (draw k) s (dyOfTerm false mm ee) sigma.toDy 1)
  let codes := l.zipIdx.map (fun p => code p.2 p.1)
  bytesOfNat 16 (packBits 2 codes) ++
    bytesOfNat 2 (if allPoison then sub.toNat / 2 ^ 16 else sigmaBits)

/-- Packing of one block (R136, R137). -/
def packBlock (f : Nat) (mode : Rnd) (sat : Bool) (draw : Nat → Word) (sub : Word) (l : List BlkIn) : List Byte :=
  if f = 0x0E then packTern mode sat draw sub l else packBq f mode sat draw sub l

/-! ### The stochastic generator (R138, R139) -/

/-- mix32 of R139. -/
def mix32 (x : Word) : Word :=
  let x := x ^^^ (x >>> 16)
  let x := x * 0x7feb352d
  let x := x ^^^ (x >>> 15)
  let x := x * 0x846ca68b
  x ^^^ (x >>> 16)

/-- The key K of a tile's window (R138). -/
def srKey (seed window : Word) : Word := seed + window * 0x6A09E667

/-- The draw of element n of an instruction whose thread's counter is c (R139). -/
def srDraw (key c : Word) (n : Nat) : Word := mix32 (key + 0x9E3779B9 * (c + BitVec.ofNat 32 n))

/-- The counter after an instruction with N element positions (R139). -/
def srAdvance (c : Word) (n : Nat) : Word := c + BitVec.ofNat 32 ((n + 63) / 64 * 64)

/-! ### Arithmetic of decoded numbers (R206, R219) -/

/-- The negation of a number, zero and NaN included. -/
def Num.negate : Num → Num
  | .nan s => .nan (!s)
  | .inf s => .inf (!s)
  | .fin s m e => .fin (!s) m e

/-- Exact product; 0 × ∞ is a NaN. -/
def Num.mul (a b : Num) : Num :=
  match a, b with
  | .nan _, _ => .nan false
  | _, .nan _ => .nan false
  | .inf s, .inf t => .inf (s != t)
  | .inf s, .fin t m _ => if m = 0 then .nan false else .inf (s != t)
  | .fin s m _, .inf t => if m = 0 then .nan false else .inf (s != t)
  | .fin s m e, .fin t n f => .fin (s != t) (m * n) (e + f)

/-- Exact sum; ∞ − ∞ is a NaN. The zero sum of two equally signed zeros keeps that sign, every other zero sum is +0
(round to nearest and toward zero). -/
def Num.add (a b : Num) : Num :=
  match a, b with
  | .nan _, _ => .nan false
  | _, .nan _ => .nan false
  | .inf s, .inf t => if s = t then .inf s else .nan false
  | .inf s, .fin _ _ _ => .inf s
  | .fin _ _ _, .inf t => .inf t
  | .fin s m e, .fin t n f =>
    if m = 0 && n = 0 then .fin (s && t) 0 0
    else if m = 0 then .fin t n f
    else if n = 0 then .fin s m e
    else Num.ofDy ((dyOfTerm s m e).add (dyOfTerm t n f))

/-- The order of two numbers that are not NaN: −1, 0 or 1; zeros are equal. -/
def Num.cmp (a b : Num) : Int :=
  let key : Num → Int := fun x => match x with | .inf s => if s then -1 else 1 | _ => 0
  if key a ≠ key b then (if key a < key b then -1 else 1)
  else if key a ≠ 0 then 0
  else
    let d := (a.toDy.add (b.toDy.neg)).m
    if d < 0 then -1 else if d = 0 then 0 else 1

end Sys2Proof.Machine
end

