-- ==== Sys2Proof/Config.lean ====
section
/-!
DEFINITION. What a part or a board fixes (fuses, pins, the grade) and the free values: constants without a body, so
that no proof can see what they are. A free value is applied to the counter State.free or to the operands it depends
on (notes/assumptions/2.md).
-/

namespace Sys2Proof

/-- A value the spec leaves open, 32 bits, for draw number n (notes/assumptions/2.md). -/
opaque Config.freeWord : Nat → Word

/-- The byte that address a holds after the loss number n of its region's contents (R105, R108, R468;
notes/assumptions/3.md). -/
opaque Config.lostByte : Nat → Nat → Byte

/-- The check state of word w that nothing has written since loss number n of its region (R112): 0 valid, 1 a
single-bit error, otherwise uncorrectable (notes/assumptions/3.md). -/
opaque Config.lostEcc : Nat → Nat → Nat

/-- The byte read from device memory that nothing has written since power-on reset (R112: the spec gives none;
DESIGN CHOICE, unsafe, notes/assumptions/1.md). -/
def Config.memFill : Byte := 0

/-- The byte of an erased flash location: erasing sets every bit (R543, R569: programming requires erased bytes;
PRESUMED for SPI NOR, notes/assumptions/1.md). -/
def Config.flashFill : Byte := 0xFF

/-- The grade fuse: true for UL7318-I (R17, R608). -/
opaque Config.gradeI : Bool

/-- The serial number in fuses (R351, R608). -/
opaque Config.serial : Dword

/-- The fused key digest, where the KEYHASH_FUSED fuse is blown (R538, R608). -/
opaque Config.fusedKey : Option (Vector Word 12)

/-- The fuse repair entries of R115, at most 2048. -/
opaque Config.repairFuses : List Word

end Sys2Proof
end

