-- ==== Sys2Proof/Machine/State.lean ====
section
/-!
DEFINITION. The state of the block as plain data, the reasons a step can stop, and the state after power-on reset.
Every register of R607 has its place in `regs`, at its device address; an address not listed there holds its reset
value (Machine/RegMap.lean). What no register holds stands in the structures below. Nat fields are counts, indexes,
addresses and ck; BitVec fields are what the spec calls bits.
-/

namespace Sys2Proof.Machine

/-! ## Common pieces -/

/-- Life-cycle state of a thread (R175). -/
inductive TState where
  | off | idle | run | stall | halted | faulted
  deriving DecidableEq, Repr

/-- A slot record of a TSLOTS or VSLOTS section (R330). `count` is occurrences − 1. -/
structure SlotRec where
  start : Nat
  count : Nat
  period : Nat
  kind : Nat
  arg : Nat
  arg2 : Nat
  deriving DecidableEq, Repr

/-- A record on its way to the error aggregator (R494, R495), without its sequence number. -/
structure ErrRec where
  code : Nat
  level : Nat
  unit : Nat
  index : Nat
  frame : Word
  ckrel : Word
  epoch : Word
  addr : Word
  info : Word
  deriving DecidableEq, Repr

/-- Where an update to a synchronisation object comes from (R282, R288): the DROP_INFO source codes 0–4. -/
inductive SyncSrc where
  | thread | completion | ladle | register | pace
  deriving DecidableEq, Repr

/-- One SIG or ARM on its way to its object, with what R275, R282 and R599 need of its source. -/
structure SyncOp where
  obj : Nat
  arm : Bool
  value : Word
  src : SyncSrc
  /-- the source is frame-domain (the frame bit of R283) -/
  frame : Bool
  /-- sending tile, Ladle or master code -/
  unit : Nat
  thread : Nat
  /-- the WHO kind of R600 -/
  kind : Nat
  /-- an asynchronous thread waits for the acknowledgement of R264 -/
  ack : Bool
  deriving DecidableEq, Repr

/-- A watch of a WAIT on a global object (R277, R278). -/
structure Watch where
  tile : Nat
  thread : Nat
  tag : BitVec 16
  obj : Nat
  eq : Bool
  target : Word
  frame : Bool
  p : Nat
  s : Nat
  /-- w of R278: the first schedule ck (frame) or ck (asynchronous) in which the condition held -/
  held : Option Nat
  who : Nat
  deriving DecidableEq, Repr

/-- What a memory access is for: where its answer goes. Tiles, threads, registers and lanes are numbers; `h` is the
handle entry captured at issue (R94), and `a` the first byte of the whole access. -/
inductive Purpose where
  | ld (t th vd hf : Nat) (h : Quad) (a : Nat)
  | sld (t th sd : Nat) (h : Quad)
  /-- element k of a gather -/
  | gather (t th vd k : Nat) (h : Quad)
  | store (t th : Nat)
  /-- a part of the move at the head of a lane, 0 frame or 1 asynchronous: its source and destination -/
  | moveRead (t lane src dst : Nat)
  | moveWrite (t lane : Nat)
  /-- piece of an instruction-buffer image that lies from Vat address `base` -/
  | ibuf (t base : Nat)
  /-- an access of a master that State.accs holds by its name -/
  | access (id : Nat)
  /-- a write of a master, by its code (R496), with no answer -/
  | write (m : Nat)
  /-- an element of steward k's long instruction, by its name -/
  | kx (k id : Nat)
  | cacheFill
  | cacheWb
  /-- the copy engine of Ladle l -/
  | copyRead (l id : Nat)
  | copyWrite (l id : Nat)
  /-- write-out read of a part by a band of Ladle l -/
  | ladleRead (l run part : Nat)
  /-- landing write of Ladle l -/
  | ladleWrite (l : Nat)
  /-- a line of scan-out by its name -/
  | scan (id : Nat)
  | trace
  | ssub
  deriving DecidableEq, Repr

/-- A request at a narrow port (R84), or an asynchronous thread's own Pail access (R85). -/
structure NarrowReq where
  addr : Nat
  len : Nat
  /-- the bytes to write; `none` for a read -/
  wr : Option (List Byte)
  who : Purpose
  /-- router at which the request entered (R650), where the answer leaves the mesh -/
  home : Nat
  /-- router port by which the answer leaves the mesh: 0 into the tile -/
  port : Nat := 0
  /-- the request was at the head for at least one ck without being performed (R84) -/
  waited : Bool
  /-- an urgent read of scan-out (R415) -/
  urgent : Bool := false
  /-- ck from which it waits -/
  since : Nat
  deriving DecidableEq, Repr

/-- A steward access to the cached range of slice 7 (R106, R650). -/
structure CacheReq where
  core : Fin 4
  addr : Nat
  len : Nat
  wr : Option (List Byte)
  rd : Nat
  sgn : Bool
  /-- an element of the core's long instruction -/
  kx : Bool
  /-- an instruction fetch (R106, R111) -/
  fetch : Bool := false
  deriving DecidableEq, Repr

/-- What a flit or request word carries (R58). -/
inductive Payload where
  | sync (o : SyncOp)
  | syncAck (t th : Nat)
  | watch (w : Watch)
  | release (t th : Nat) (tag : BitVec 16) (who : Nat)
  | remoteWrite (src dst window : Nat) (counter : Nat) (off : Nat) (data : List Byte) (marks : List Bool) (frame : Bool)
  | grant (dst counter : Nat) (bytes : Nat)
  | vatRead (slice : Nat) (addr len : Nat) (who : Purpose) (back : Nat) (frame : Bool)
  | vatData (addr : Nat) (data : List Byte) (bad : List Bool) (who : Purpose)
  | vatWrite (slice : Nat) (addr : Nat) (data : List Byte) (who : Purpose) (owner : Nat)
  | narrow (port : Nat) (q : NarrowReq)
  | narrowData (addr : Nat) (data : List Byte) (bad : List Bool) (who : Purpose)
  /-- the notes of R306, with TICK.FRAME[0] of the ck of issue -/
  | degradeNote (t h : Nat) (odd : Bool)
  | lateNote (stream : Nat) (odd : Bool)
  /-- a fence word for an entry and its acknowledgement (R307) -/
  | fence (t serial : Nat)
  | fenceAck (t serial : Nat)
  | traceRec (t : Nat) (recs : List (BitVec 128))
  | traceNotify (o : SyncOp)
  /-- a Bell message: its source, and the level of a level source (R48, R451) -/
  | bellMsg (source : Nat) (value : Bool)
  /-- a steward's access on its way to the slice 7 cache, and its answer (R48, R650) -/
  | cacheAsk (r : CacheReq)
  | cacheData (r : CacheReq) (data : List Byte) (bad : Bool)
  deriving DecidableEq, Repr

/-- The position classes of the round (R57); a request word travels in any position (R58). -/
inductive SlotClass where
  | read | write | remote | any
  deriving DecidableEq, Repr

/-- Where a flit is: at its source waiting to be injected, in an asynchronous buffer of a router input (R61), or
delivered, from the ck named. A reserved flit is never buffered (R59) and is `delivered` from its injection on, in its
arrival ck. -/
inductive FlitPos where
  /-- waiting for an injection cycle, from the ck named -/
  | source (ck : Nat)
  | buffer (router input : Nat)
  | delivered (ck : Nat)
  deriving DecidableEq, Repr

/-- A flit or request word between its source and its effect. -/
structure Flit where
  body : Payload
  lane : MeshLane
  cls : SlotClass
  src : Nat
  /-- destination router and output port there: 0 local, 1 north, 3 south, 5 edge (R330) -/
  dst : Nat
  port : Nat
  frame : Bool
  /-- injection order: the age of R61 and the order of R63 -/
  age : Nat
  pos : FlitPos
  /-- ck of its last move; a flit crosses at most one link per ck (R53) -/
  moved : Nat
  /-- the router input by which it enters: 0 from the tile, otherwise an edge attachment (R61, R652) -/
  inp : Nat
  /-- ck in which it entered the mesh -/
  born : Nat
  deriving DecidableEq, Repr

/-! ## Tiles (spec files 05–08) -/

/-- An outstanding WAIT (R37, R262). -/
structure WaitRec where
  obj : Nat
  eq : Bool
  target : Word
  frame : Bool
  p : Nat
  s : Nat
  /-- issue ck: the schedule ck in a frame thread, the core ck in an asynchronous one -/
  i : Nat
  tag : BitVec 16
  /-- c of R37: the ck in which the condition was first observed true -/
  c : Option Nat
  /-- the WHO when the condition was last evaluated (R599) -/
  who : Nat
  /-- the WAIT belongs to the bundle at the thread's pc, whose other slots issue after it (R171) -/
  bundled : Bool
  deriving DecidableEq, Repr

/-- The slip record of a tile's ledger (R38): thread, object, P, S and the object's count at detection. -/
structure SlipRec where
  thread : Nat
  obj : Nat
  p : Nat
  s : Nat
  count : Word
  deriving DecidableEq, Repr

/-- One thread context (R151, R164). -/
structure Thread where
  s : Vector Word 32
  p : BitVec 8
  v : Vector VWord 32
  poison : Vector VPoison 32
  gfirst : BitVec 16
  gprog : BitVec 16
  /-- the draw counter c_j of R139 -/
  draw : Word
  pc : BitVec 12
  /-- the target of a branch taken in the bundle that issues (R163) -/
  next : Option (BitVec 12)
  st : TState
  /-- STALL reason (R187) -/
  stall : Nat
  /-- ck from which a register may be read (R168): key 0–31 s, 32–39 p, 40–71 v, 72 gfirst and gprog -/
  ready : List (Nat × Nat)
  /-- registers whose result waits for an access not yet performed (R169, R235) -/
  await : List Nat
  wait : Option WaitRec
  /-- the WAIT of the bundle at pc has completed and its other slots have not issued (R171) -/
  waitDone : Bool
  /-- the watch tag of R281 -/
  tag : BitVec 16
  /-- SIG and ARM operations of an asynchronous thread not yet acknowledged (R264) -/
  unacked : Nat
  /-- asynchronous Pail accesses of the thread not yet performed (R85, R169), oldest first -/
  pailQ : List NarrowReq
  /-- an END has issued in this window (R30, R270) -/
  ended : Bool
  /-- sequential flow passed bundle 4095 (R163) -/
  fellOff : Bool
  /-- one more than the frame ck of the last issue, or of the last performed Pail access: a thread issues at most once
  in a position (R152, R169) -/
  lastIssue : Nat
  /-- the state to resume when a halt is released (R180) -/
  resume : TState
  deriving DecidableEq, Repr

/-- The kind of a tensor macro-op (R190). -/
inductive MacroKind where
  | mm | conv | dw
  deriving DecidableEq, Repr

/-- One 128-byte block read through the wide read port, with a bad mark for each of its 8-byte words. -/
structure Blk where
  step : Nat
  addr : Nat
  data : List Byte
  bad : List Bool
  deriving DecidableEq, Repr

/-- A macro-op, with what it captured at issue (R193, R94). -/
structure MacroOp where
  kind : MacroKind
  thread : Nat
  frame : Bool
  ha : Quad
  hb : Quad
  acc : Nat
  accumulate : Bool
  m : Nat
  n : Nat
  s : Nat
  obj : Nat
  cen : Bool
  /-- JA for MM, X0 otherwise -/
  ja : Nat
  /-- Y0 of CONV and DW -/
  y0 : Nat
  jb : Nat
  kh : Nat
  kw : Nat
  st2 : Bool
  g0 : Nat
  issueCk : Nat
  /-- start ck a and end ck e (R201), once it runs -/
  a : Nat
  e : Nat
  /-- blocks read so far; the key of a block is twice its step, plus 1 for activations (R202) -/
  got : List Blk
  deriving DecidableEq, Repr

/-- A LUT.LOAD, GATHER, LDB or STB in progress, and what it does. -/
inductive JobKind where
  | lut (h : Quad) (base scale : Word) (first : Nat)
  | gather (vd : Nat) (h : Quad)
  | ldb (h : Quad) (bank : Nat) (off : Nat) (rnd : Nat) (sat : Bool) (draw : Word) (hidx : Nat)
  | stb (h : Quad) (bank : Nat) (hidx : Nat)
  deriving DecidableEq, Repr

/-- An engine job of the tile that uses a wide port over several ck (R226, R239, R240, R252). -/
structure PortJob where
  kind : JobKind
  thread : Nat
  frame : Bool
  /-- reads left: (ck, index, address, bytes) -/
  reads : List (Nat × Nat × Nat × Nat)
  /-- writes left: (ck, address, bytes) -/
  writes : List (Nat × Nat × List Byte)
  got : List Blk
  /-- issue ck -/
  issued : Nat
  /-- last ck -/
  e : Nat
  deriving DecidableEq, Repr

/-- One 64-byte part of a move still to be made: source address, or `none` for a substituted row (R246), and
destination address. -/
structure MovePart where
  src : Option Nat
  dst : Nat
  deriving DecidableEq, Repr

/-- A stream move (R242–R247), with what it captured at issue. -/
structure Move where
  indexed : Bool
  thread : Nat
  frame : Bool
  hs : Quad
  hd : Quad
  hl : Quad
  hsIdx : Nat
  hdIdx : Nat
  /-- entries or indices, and the first of them -/
  total : Nat
  first : Nat
  dstOff : Nat
  pol : Bool
  obj : Nat
  cen : Bool
  /-- bundle that issued it -/
  pc : BitVec 12
  /-- it starts in a later ck than this one (R244) -/
  issueCk : Nat
  /-- its first step has been taken -/
  started : Bool
  /-- list or index bytes read so far, with the marks of poisoned ones (R245, R246) -/
  raw : List (Byte × Bool)
  /-- every list or index read has been made, and `parts` holds the parts left -/
  listed : Bool
  parts : List MovePart
  /-- every part of the move, as its list or indices gave them -/
  all : List MovePart
  /-- first frame ck in which the next step may be taken: one step in a ck (R244) -/
  ready : Nat
  /-- the next step, a Pail read, has waited for an open cycle (R172) -/
  waited : Bool
  /-- position of the first index fault (R246) -/
  fault : Option Nat
  /-- Pail writes and Vat sends that follow a step: earliest ck, destination, bytes (R244) -/
  due : List (Nat × Nat × List Byte)
  /-- accesses whose answer or write has not yet been made -/
  inFlight : Nat
  deriving DecidableEq, Repr

/-- A waiting request for dynamic leave (R480): its size, its age stamp, and
whether a move or a macro-op asks. -/
structure LeaveReq where
  size : Nat
  stamp : Nat
  move : Bool
  deriving DecidableEq, Repr

/-- A dynamic grant (R480): its size, the ck of the grant, and whether its operation has ended, so that the next ck
releases it. -/
structure LeaveHold where
  size : Nat
  ck : Nat
  move : Bool
  ended : Bool
  deriving DecidableEq, Repr

/-- The state of one tile beside its registers (R151). -/
structure Tile where
  th : Vector Thread 8
  /-- elements of bank b at key 2048 b + index (R166) -/
  acc : List (Nat × Word)
  /-- the row flags of R209, one word of 64 for each bank -/
  flags : Vector (BitVec 64) 8
  /-- busy banks beside those of a macro-op: bank and ck from which it is readable (R241) -/
  accReady : List (Nat × Nat)
  /-- LUT entries (R225), with the base and scale taken at load -/
  lut : List (Nat × Word)
  lutBase : Word
  lutScale : Word
  lutLoading : Bool
  /-- the instruction buffer (R173) and its bundles in error: 1 corrected, 2 uncorrectable -/
  ibuf : List (Nat × Quad)
  ibufErr : List (Nat × Nat)
  ibufLoad : Nat
  /-- the handle table: entry h of bank b at key 64 b + h (R95) -/
  handles : List (Nat × Quad)
  running : Option MacroOp
  /-- issued while the unit was idle: it starts in the ck after its issue (R165) -/
  starting : Option MacroOp
  queued : Option MacroOp
  jobs : List PortJob
  /-- moves of the frame lane and of the asynchronous lane, the running one first (R242, R244) -/
  moveF : List Move
  moveA : List Move
  slots : List SlotRec
  /-- the late ranges of the window (R258): first and last byte -/
  late : List (Nat × Nat)
  /-- handles through which a degrade note went in this window (R237) -/
  noted : List Nat
  /-- the tile runs frame threads (R155) -/
  frameRun : Bool
  /-- the round length and frame mask in force (R154): they follow TILE_CFG at the tick while frame threads run -/
  cfgNow : Word
  /-- the last slip (R38) -/
  slip : Option SlipRec
  /-- WHO of each local object (R599) -/
  who : List (Nat × Nat)
  /-- trace records not yet sent (R601) -/
  trace : List (BitVec 128)
  traceLostSince : Nat
  /-- a tile-level fault has stopped the tile and its recovery is not over (R505) -/
  stopped : Bool
  /-- ck of that fault -/
  stopCk : Nat
  /-- the tile's dynamic leave (R480): its waiting request and the grant it holds -/
  request : Option LeaveReq
  grant : Option LeaveHold
  /-- plan leave draws of frame operations (R477): key (0 macro-op, 1 LUT.LOAD, 2 move), size, first and last frame
  ck -/
  draws : List (Nat × Nat × Nat × Nat)
  /-- credit that arrived in this ck, by counter: a send sees it from the next ck on (R103) -/
  creditNow : List (Nat × Nat)
  /-- THREAD_CTRL.START and STOP: threads whose action has not yet taken effect (R177) -/
  starts : BitVec 8
  stops : BitVec 8
  deriving DecidableEq, Repr

/-- What one object's updates of the current ck have done (R275): the count at the start of the ck, whether a tick
action set it, the rank and value of the ARM that prevails, and the sum of the additions. -/
structure SyncCk where
  base : Word
  tick : Option Word
  arm : Option (Nat × Word)
  adds : Word
  deriving DecidableEq, Repr

/-- The SYNC block beside its registers (spec file 08). -/
structure SyncState where
  /-- watch slots: key half × 512 + tile × 8 + thread (R277) -/
  watches : List (Nat × Option Watch)
  /-- WHO of each global object (R599) -/
  who : List (Nat × Nat)
  /-- updates of the current ck (R275) -/
  ck : List (Nat × Option SyncCk)
  /-- watchers written in the current ck, which make no evaluation in it (R289) -/
  skip : List Nat
  deriving DecidableEq, Repr

/-- The mesh (spec file 02). -/
structure Mesh where
  flits : List Flit
  /-- next age -/
  age : Nat
  /-- link cycles taken by asynchronous traffic in this ck: router, output port, lane (R61) -/
  used : List (Nat × Nat × MeshLane)
  /-- buffer places freed in this ck: router, input, lane (R61) -/
  freed : List (Nat × Nat × MeshLane)
  /-- injection links taken by reserved flits in this ck: router, input, lane (R53, R60) -/
  sent : List (Nat × Nat × MeshLane)
  /-- the slot tables of the routers: KIND 0x05 records by router (R59, R330) -/
  slots : List (Nat × List SlotRec)
  deriving DecidableEq, Repr

/-- One line of the slice 7 cache (R106): its address, its bytes, whether it is dirty, and its last use. -/
structure CacheLine where
  addr : Nat
  data : List Byte
  dirty : Bool
  used : Nat
  deriving DecidableEq, Repr

/-- One entry of a row tracker (R118). -/
structure Track where
  bank : Nat
  row : Nat
  count : Nat
  deriving DecidableEq, Repr

/-- Pail, Vat and their ports beside the registers (spec file 03). Memory number 0–63 is a Pail, 64–71 a slice. -/
structure MemState where
  /-- Pail, Vat and steward SRAM bytes by device address; unlisted bytes read as Config.memFill or, in a region that
  lost its contents, as a free byte -/
  cells : List Host.Cell
  /-- regions whose contents were lost, newest first: first byte, one past the last byte, serial (R105, R468) -/
  lost : List (Nat × Nat × Nat)
  /-- words in error by word address: 1 a single-bit error, 2 an uncorrectable one (R110, R113) -/
  ecc : List (Nat × Nat)
  /-- narrow port queues by memory number (R84) -/
  ports : List (Nat × List NarrowReq)
  /-- banks used in this ck: memory number, bank (R83) -/
  banksUsed : List (Nat × Nat)
  /-- narrow ports that have performed an access in this ck -/
  portsUsed : List Nat
  /-- wide ports that have performed an access in this ck: memory number, and 0 read or 1 write at a Pail, 0 at a slice
  (R76, R79) -/
  widesUsed : List (Nat × Nat)
  /-- slice slot records (R330) -/
  slots : List (Nat × List SlotRec)
  /-- the global handle table: entry h of bank b at key 1024 b + h (R95) -/
  vh : List (Nat × Quad)
  cache : List CacheLine
  /-- size to apply when the drain ends (R108) -/
  cacheNext : Option Nat
  trackers : List (Nat × List Track)
  /-- rows already posted as candidates (R119): memory, bank, row -/
  posted : List (Nat × Nat × Nat)
  /-- mappings of the repair shadow in PD0 (R116, R117): memory, bank, row, spare -/
  repairs : List (Nat × Nat × Nat × Nat)
  /-- mappings that the Pails and slices loaded from the shadow when their domain powered on (R116) -/
  rowMaps : List (Nat × Nat × Nat × Nat)
  deriving DecidableEq, Repr

/-! ## Time, the tick and the plan (spec files 01, 10, 12) -/

/-- How the vertical blanking stands (R22, R23, R25, R393). -/
inductive Blank where
  /-- in the active lines -/
  | active
  /-- in blanking, before its last line is decided -/
  | blanking
  /-- the present blanking line is the last one, decided by a true sample, by R25 or by the first start -/
  | last
  /-- the present blanking line is the last one because VB_MAX is reached (R23) -/
  | forced
  deriving DecidableEq, Repr

/-- The timing generator and the tick beside the TICK registers. -/
structure TickState where
  /-- the six counters of R42, the sum last -/
  ndet : Vector Dword 6
  /-- NDET_SUM at the last tick ck (R44) -/
  sumAtTick : Dword
  /-- the _HI shadows of R43: key 16 × master code + pair number (0–5 NDET, 6 MTIME) -/
  shadow : List (Nat × Option Word)
  /-- the HEARTBEAT pin -/
  heartbeatPin : Bool
  blank : Blank
  /-- number of the present blanking line; meaningful outside `active` -/
  blankLine : Nat
  /-- number of the present active line -/
  activeLine : Nat
  /-- the generator has made a tick since it started (R22, R393) -/
  ticked : Bool
  /-- consecutive forced starts (R499) -/
  forcedRun : Nat
  /-- completions of the window carry FORCED (R23) -/
  frameForced : Bool
  /-- READY of R395: some sample of this blanking has been true -/
  ready : Bool
  /-- the core clock has been relocked since the last tick ck (R22) -/
  relocked : Bool
  deriving DecidableEq, Repr

/-- What has happened in the present ck that its end, or another command of the same ck, depends on. -/
structure CkNotes where
  /-- W1C bits that hardware has set in this ck: register address and bits (R10) -/
  hwSet : List (Nat × Word)
  /-- registers that a master has written in this ck: address, the value before the first write, and the master's code
  (R11, R49, R154, R318) -/
  wrote : List (Nat × Word × Nat)
  /-- the increments that the six counters of R42 have made in this ck (R44) -/
  ndet : Vector Dword 6
  /-- a blanking line's sample is due at the end of this ck (R22, R285) -/
  sample : Bool
  /-- an active edge of TE_IN has reached the timing generator: the latch is set in the next ck (R396) -/
  te : Bool
  /-- the first violation of this ck that found WRITE_ONCE_LOG.VALID at 1: address, data and the master's code (R613) -/
  woLate : Option (Nat × Word × Nat)
  deriving DecidableEq, Repr

/-- What the machine keeps of a container's variant (R325, R326, R334). -/
structure PlanRun where
  addr : Nat
  planId : Word
  variant : Nat
  tmask : BitVec 64
  vmask : BitVec 8
  lmask : BitVec 16
  budget : Nat
  frTarget : Word
  frObj : Nat
  paced : Bool
  handover : Word
  clock : Nat
  light : Nat
  cache : Nat
  htotal : Nat
  vactive : Nat
  vbmin : Nat
  pclk : Nat
  /-- CYCLE of its BANDS sections, 1 with none (R339) -/
  cycle : Nat
  /-- 16 rows of 65 reservations (R334) -/
  leave : List (List Nat)
  deriving DecidableEq, Repr

/-- What KX.PLANGO or a PLAN entry armed (R338): a container address and a variant index, 15 for the stop index. -/
structure Arming where
  addr : Nat
  index : Nat
  deriving DecidableEq, Repr

/-- The swap engine (R339–R345). -/
inductive Engine where
  | idle
  /-- loading; `none` is the stop index -/
  | loading (target : Option PlanRun) (seamless : Bool)
  /-- loaded, to take effect at the next tick that R344 or R345 allows; without a target, `seamless` tells the stop index
  from a swap that was abandoned (R342, R343) -/
  | done (target : Option PlanRun) (seamless : Bool)
  deriving DecidableEq, Repr

/-- The plan, its arming and the swap engine. -/
structure PlanState where
  run : Option PlanRun
  arming : Option Arming
  /-- the PLAN entry, by queue and serial, that asked for the arming held (R367) -/
  armEntry : Option (Nat × Nat)
  engine : Engine
  /-- the PLAN entry whose swap the engine makes (R367) -/
  swapEntry : Option (Nat × Nat)
  /-- the running variant is in its priming window (R345) -/
  priming : Bool
  /-- the windows' number modulo the band cycle is LADLE.WINDOW's; the leave window is kept here (R477) -/
  leaveWin : Nat
  /-- peak reservation set at the tick (R478) -/
  peak : Nat
  deriving DecidableEq, Repr

/-! ## Faults, recovery and debug (spec files 15, 18, 19) -/

/-- The error aggregator beside its registers. -/
structure ErrState where
  /-- records held, oldest first, with their sequence numbers (R494) -/
  recs : List (ErrRec × Word)
  nextSeq : Word
  /-- repair candidates held (R612) -/
  cands : List Word
  /-- streams that SSUB_SET has set in this ck (R613) -/
  ssubNow : BitVec 64
  /-- records, with their sequence numbers, and candidates that have met a full queue in this ck: a pop of this ck makes
  room for them, and those left at its end are lost (R613) -/
  lateRecs : List (ErrRec × Word)
  lateCands : List Word
  deriving DecidableEq, Repr

/-- The stop tree (R586–R591). -/
structure DbgState where
  stopped : Bool
  /-- a stop source has fired: ck from which the frame domain is frozen, and the cause -/
  stopAt : Option (Nat × Nat)
  /-- a RESUME or STEP has been taken: ck in which the units restart, and the n of a STEP, 0 for a RESUME -/
  resumeAt : Option (Nat × Nat)
  /-- ck of a running STEP left, 0 without one -/
  stepLeft : Nat
  /-- records in the trace port's buffer, oldest first, and records written to the ring since EN was set (R602) -/
  port : List (BitVec 128)
  written : Nat
  deriving DecidableEq, Repr

/-! ## The Milkhouse (spec files 16, 17) -/

/-- A BOOT_A, BOOT_B or DEFAULT_PLAN record (R539, R542): the flash offset of its head and its 256-byte value. -/
structure BootRec where
  head : Nat
  raw : List Byte
  deriving DecidableEq, Repr

/-- What the Milkhouse keeps of the settings records (R534–R537, R573). -/
structure Settings where
  hdrOk : Bool
  /-- PD_CTRL as the board record gives it (R526) -/
  pd : Vector Word 3
  boardSeen : Bool
  /-- BOARD.FLAGS -/
  flags : Nat
  keyhash : Option (Vector Word 12)
  /-- SMBUS record: FLAGS and ALERT_MASK -/
  smbus : Nat
  alertMask : Nat
  bootA : Option BootRec
  bootB : Option BootRec
  plan : Option BootRec
  /-- records in flash, and the first 8-byte boundary after the last record read (R572) -/
  count : Nat
  next : Nat
  deriving DecidableEq, Repr

/-- The Milkhouse and what it keeps in PD0 beside registers. -/
structure MilkState where
  /-- VDD_AON is present -/
  aon : Bool
  /-- TEST_EN read 1 at the release of the power-on reset (R626) -/
  testEn : Bool
  vddioSb : Bool
  aonPll : Bool
  /-- the ROM has started (R527) -/
  rom : Bool
  /-- EN_MAIN, and the filtered power-good inputs (R634) -/
  enMain : Bool
  pgCore : Bool
  pgMem : Bool
  settings : Settings
  /-- the settings of this boot have been read (R533, R535) -/
  settled : Bool
  /-- the debug-disable fuse is programmed (R583) -/
  dbgFuse : Bool
  /-- entries that the repair shadow used and skipped (R117) -/
  repairApplied : Nat
  repairSkipped : Nat
  /-- the boot selection of R567 -/
  bootSel : Nat
  /-- the flash, its size in bytes, and its unlisted bytes read as Config.flashFill -/
  flash : List (Nat × Byte)
  flashSize : Nat
  /-- FLASH_OPEN is held, or waits for the flash (R544, R568) -/
  flashOpen : Bool
  flashWait : Bool
  /-- a sideband erase or program in progress (R569): first byte, bytes left by it -/
  sbOp : Option (Nat × List Byte)
  /-- an image or plan copy of the Milkhouse holds the flash (R544) -/
  bootReads : Bool
  /-- the log: position and record (R570) -/
  log : List (Nat × BitVec 256)
  logPos : Nat
  logLost : Nat
  ownSeq : Nat
  /-- latched edge causes of SB_ALERT_N, and the causes that an Alert Response has released (R574) -/
  alerts : BitVec 5
  alertSeen : BitVec 5
  /-- the response held for a split read: command code and bytes (R558) -/
  response : Option (Nat × List Byte)
  /-- the live nonce (R580), the authorised scope and the failed responses in PD0 (R582), the JTAG result (R585) -/
  nonce : Option (List Byte)
  scope : Nat
  authFail : Nat
  jtagResult : Nat
  /-- a device recovery in progress: its code and its last step done (R510) -/
  recovery : Option (Nat × Nat)
  /-- FAULT_N is driven low -/
  faultLow : Bool
  /-- MAIN_POWER off holds the main domains off (R566) -/
  holdOff : Bool
  /-- candidates that REPAIR_AUTO may append (R572) -/
  repairCands : List Word
  /-- MTIME at the last kick of each watched steward (R611) and at the last tick (R564) -/
  kick : Vector Nat 4
  tickTime : Nat
  /-- the TAP: instruction, boundary-scan update register, STATE word address, last DBGACC word and status -/
  ir : Nat
  bsr : BitVec 89
  stateAddr : Nat
  accData : Word
  accStatus : Nat
  deriving DecidableEq, Repr

/-! ## The host link (spec file 11) -/

/-- Where a blanking line lies (R391). -/
inductive Porch where
  | front
  | sync
  | back
  deriving DecidableEq, Repr

/-- What the block gives out on its interfaces, in order: the model's own record of its outputs
(notes/assumptions/32.md). -/
inductive Out where
  /-- a posted memory write of the host link (R348) -/
  | hostWrite (addr : Nat) (data : List Byte)
  /-- a memory read request of the host link -/
  | hostRead (tag addr len : Nat)
  /-- an MSI-X message -/
  | msix (vector : Nat)
  /-- a completion of a host or configuration request: data, or none for Unsupported Request -/
  | completion (data : Option Dword)
  /-- configuration request retry status (R350) -/
  | retry
  /-- the answer to a master's read, with its error status -/
  | answer (m : Master) (data : List Byte) (error : Bool)
  /-- an answer on the sideband port or the JTAG port -/
  | bytes (data : List Byte)
  /-- a scanned output line: output, line, pixels -/
  | line (output number : Nat) (pixels : List Nat)
  /-- a blanking line of an output: its raster line, its porch, the pixels from and to which horizontal sync lies, and the
  polarities (R391) -/
  | blank (output number : Nat) (porch : Porch) (hsFrom hsTo : Nat) (hpol vpol : Bool)
  /-- the MSA of an output's frame: H_TOTAL, H_ACTIVE, V_ACTIVE, the vertical total, bits per component (R428) -/
  | msa (output htotal hactive vactive vtotal bpc : Nat)
  /-- training has set MSA_TIMING_PAR_IGNORE_EN in an output's sink (R428) -/
  | msaIgnore (output : Nat)
  deriving DecidableEq, Repr

/-- A submission entry that the host link holds (R362), or its completion waiting for its turn (R373). -/
structure Entry where
  /-- the model's name of the entry -/
  serial : Nat
  raw : BitVec 512
  /-- ring index -/
  index : Nat
  /-- ck in which it arrived (R362), once it has -/
  arrived : Option Nat
  /-- TOP.EPOCH in that ck (R382) -/
  epoch : Word
  /-- its service has started (R389) -/
  taken : Bool
  stream : Nat
  /-- TICK.FRAME of the window of the picture's FIRST band (R369) -/
  frame : Word
  /-- host bytes moved -/
  moved : Nat
  skipped : Nat
  degraded : Bool
  late : Bool
  forced : Bool
  subst : Bool
  /-- every part of the picture's LAST write-out band has gone (R308) -/
  lastDone : Bool
  /-- the picture's data conditions of R308 hold -/
  ended : Bool
  /-- tiles whose fence acknowledgement is awaited; `none` before the fence words are sent (R307) -/
  fence : Option (List Nat)
  /-- STATUS, ABORTED and DETAIL, once served -/
  done : Option (Nat × Bool × Nat)
  deriving DecidableEq, Repr

/-- One queue (R358–R362). -/
structure Queue where
  held : List Entry
  sqTail : Nat
  sqHead : Nat
  /-- next entry to be read -/
  fetch : Nat
  cqHead : Nat
  cqTail : Nat
  /-- the phase bit of the present pass through the CQ (R370) -/
  phase : Bool
  arm : Bool
  deriving DecidableEq, Repr

/-- What a host read is for. -/
inductive ReadFor where
  /-- parts of band run `run` of Ladle l -/
  | band (l run first n : Nat)
  /-- a copy engine's transfer -/
  | copy (l : Nat)
  deriving DecidableEq, Repr

/-- A host read request outstanding on the link (R319, R381). -/
structure HostRead where
  tag : Nat
  who : ReadFor
  queue : Nat
  addr : Nat
  len : Nat
  deriving DecidableEq, Repr

/-- One slot of the steward entry ring (R378). -/
structure Sent where
  queue : Nat
  serial : Nat
  /-- discarded by a function-level reset (R384) -/
  stale : Bool
  deriving DecidableEq, Repr

/-- The host link beside its registers. -/
structure HostState where
  queues : List (Nat × Queue)
  reads : List HostRead
  /-- tags of discarded read requests, whose completions are dropped (R384) -/
  dropped : List Nat
  /-- engines whose next host read waits for a free tag, oldest first: Ladle, and whether it is its copy engine (R381) -/
  tagWait : List (Nat × Bool)
  serial : Nat
  /-- uncompleted slots of the steward entry ring, oldest first -/
  sent : List Sent
  /-- steward-served entries not yet copied to the ring (R378) -/
  sentWait : List (Nat × Nat)
  /-- configuration space, by byte offset of the DW (R350, R351) -/
  cfg : List (Nat × Word)
  /-- a function-level reset is in progress (R384) -/
  flr : Bool
  /-- PERST# is asserted -/
  perst : Bool
  deriving DecidableEq, Repr

/-! ## The Ladles (spec file 09) -/

/-- A segment of a band (R296, R332). -/
structure Seg where
  plane : Nat
  rows : Nat
  perRow : Nat
  row0 : Nat
  vh : Nat
  j0 : Nat
  deriving DecidableEq, Repr

/-- A commit entry (R296). -/
structure Commit where
  ck : Nat
  tile : Nat
  obj : Nat
  value : Nat
  deriving DecidableEq, Repr

/-- A band record with its slots (R296, R332, R333): one list of ck for each pass. -/
structure Band where
  kind : Nat
  stream : Nat
  first : Bool
  last : Bool
  drain : Bool
  cwin : Nat
  issue : Nat
  buf : Nat
  nparts : Nat
  segs : List Seg
  slots : List (List Nat)
  commits : List Commit
  deriving DecidableEq, Repr

/-- How one part of a band stands. -/
inductive Part where
  /-- no data yet -/
  | empty
  /-- in the buffer since the ck named, with its bytes (R301, R305) -/
  | held (ck : Nat) (data : List Byte)
  /-- written to the Vat, or to the host -/
  | written
  /-- read withheld (R304), or the host read failed (R321) -/
  | never
  deriving DecidableEq, Repr

/-- A band in service. -/
structure BandRun where
  id : Nat
  band : Band
  /-- the picture's entry: queue and serial -/
  entry : Option (Nat × Nat)
  /-- handles captured at the first slot (R94, R297) -/
  handles : Option (List Quad)
  /-- host reads still to issue: first part, parts (R300) -/
  reqs : List (Nat × Nat)
  parts : List Part
  /-- decided complete or late at the first commit ck (R302) -/
  decided : Option Bool
  /-- not started for want of leave (R320) -/
  refused : Bool
  /-- the band's first slot or ISSUE has passed and its BUF is reserved -/
  live : Bool
  deriving DecidableEq, Repr

/-- What a copy engine is doing (R311–R315). -/
inductive CopyStage where
  /-- reading the descriptor's header -/
  | header
  /-- reading the rest of the descriptor -/
  | body
  /-- waiting for dynamic leave (R320) -/
  | leave
  /-- block b, byte offset in it -/
  | block (b off : Nat)
  /-- reading index k -/
  | index (k : Nat)
  /-- row k, byte offset in it -/
  | row (k off : Nat)
  /-- writing a part of block b, or of row k -/
  | writeBlock (b off : Nat)
  | writeRow (k off : Nat)
  /-- ended with STATUS, block, DETAIL and the first faulting index -/
  | ended (status block : Nat)
  deriving DecidableEq, Repr

/-- A granted copy descriptor (R317): from queue 0–131, or steward ring 132 + k. -/
structure CopyRun where
  id : Nat
  queue : Nat
  /-- the entry's serial, or its place in the steward ring -/
  serial : Nat
  /-- descriptor address and space: host where true -/
  desc : Nat
  descHost : Bool
  raw : List Byte
  stage : CopyStage
  /-- the read in progress: space, address, bytes asked for -/
  read : Option (Bool × Nat × Nat)
  /-- bytes that have arrived for it, by address -/
  got : List (Nat × Byte)
  /-- a word of it was uncorrectable, or the read failed: 1 device, 2 host -/
  bad : Nat
  /-- device writes outstanding -/
  writes : Nat
  /-- a host write waiting to be issued: address, bytes -/
  hostOut : Option (Nat × List Byte)
  /-- handles of the block in progress, resolved when it began (R94) -/
  src : Quad
  dst : Quad
  /-- present index and its row -/
  idx : Nat
  /-- bytes of the present row -/
  rowBuf : List Byte
  faultIdx : Option Nat
  moved : Nat
  request : Option LeaveReq
  grant : Option LeaveHold
  /-- ck of its grant (R317), which stamps its request for leave (R320) -/
  granted : Nat
  deriving DecidableEq, Repr

/-- One Ladle (R292). -/
structure Ladle where
  cycle : Nat
  bands : List Band
  runs : List BandRun
  copy : Option CopyRun
  deriving DecidableEq, Repr

/-- The LADLE block beside its registers. -/
structure LadleState where
  ladles : Vector Ladle 16
  nextId : Nat
  /-- entries in service: key 0–63 ingest, 64–127 output, 128–191 features of a stream -/
  current : List (Nat × Option (Nat × Nat))
  /-- leave drawn by bands: size and last frame ck (R320) -/
  draws : List (Nat × Nat)
  /-- ck from which the head of queue q, or of ring 132 + k, has been eligible (R317) -/
  eligible : List (Nat × Nat)
  /-- sources whose next descriptor has shown FLAGS.DRAIN while earlier ones were in service (R310) -/
  drains : List Nat
  deriving DecidableEq, Repr

/-! ## Accesses of masters, the stewards and the Bell (spec file 13) -/

/-- A Pail or Vat access of a master through narrow ports, with an answer to come, or a sub-word write in its reading
half (R88). -/
structure Acc where
  id : Nat
  m : Master
  addr : Nat
  len : Nat
  /-- the bytes of a sub-word write; `none` for a read -/
  wr : Option (List Byte)
  /-- x register that a steward's load writes, and whether it sign-extends -/
  rd : Nat
  sgn : Bool
  got : List (Nat × Byte)
  bad : Bool
  /-- a steward's instruction fetch (R111) -/
  fetch : Bool := false
  deriving DecidableEq, Repr

/-- The long instructions (R436). -/
inductive KxOp where
  | copy | fill | crc | hset
  deriving DecidableEq, Repr

/-- A long instruction in execution that waits for an element's read (R442). -/
structure KxRun where
  id : Nat
  op : KxOp
  rd : Fin 32
  rs1 : Fin 32
  rs2 : Fin 32
  user : Bool
  /-- address and bytes of the read it waits for, and what has arrived -/
  addr : Nat
  len : Nat
  got : List (Nat × Byte)
  bad : Bool
  deriving DecidableEq, Repr

/-- One steward core (R432–R435, R441): what its long instructions, accesses and traps use. -/
structure Steward where
  x : Vector Dword 32
  pc : Dword
  /-- user mode; machine mode otherwise -/
  user : Bool
  mepc : Dword
  mcause : Dword
  mtval : Dword
  mtvec : Dword
  /-- mstatus -/
  mstatus : Dword
  kxprog : Word
  kxacc : Word
  mkxcfg : Word
  /-- the counters of R432, and what of a core ck mcycle has not yet counted -/
  mcycle : Dword
  minstret : Dword
  cyclePart : Nat
  pmpcfg : Vector Byte 16
  pmpaddr : Vector Dword 16
  /-- the 64-byte line of an LR reservation (R434) -/
  lr : Option Nat
  kx : Option KxRun
  /-- machine timer interrupt pending (R461) -/
  mtip : Bool
  /-- held in reset, before its image is authenticated (R536) -/
  held : Bool
  /-- halted by the debug port (R592) -/
  halted : Bool
  haltReq : Bool
  /-- a STEP still allows one instruction or element (R597) -/
  stepLeft : Bool
  /-- breakpoint that caused the halt -/
  bp : Nat
  /-- debug cause of the halt -/
  cause : Nat
  deriving DecidableEq, Repr

/-- A line fill in progress (R106). -/
structure CacheFill where
  req : CacheReq
  addr : Nat
  got : List (Nat × Byte)
  bad : Bool
  deriving DecidableEq, Repr

/-- The slice 7 cache's work in hand (R106–R108). -/
structure CacheWork where
  reqs : List CacheReq
  fill : Option CacheFill
  /-- write-back pieces outstanding -/
  wb : Nat
  deriving DecidableEq, Repr

/-- The Bell beside its registers (R449–R464). -/
structure BellState where
  /-- pending bits -/
  pend : BitVec 512
  /-- pending bits set in this ck, which are observed from the next (R451) -/
  fresh : BitVec 512
  /-- claimed sources whose gateway is closed -/
  closed : BitVec 512
  /-- event sources with an event since their claim -/
  again : BitVec 512
  /-- filtered levels of the wired sources 448–479 (R452) -/
  wired : BitVec 32
  /-- running-priority stacks of S0–S3 and M: source and priority, top first -/
  stackOf : Vector (List (Nat × Nat)) 5
  /-- the external interrupt lines of S0–S3 and M (R454) -/
  lines : Vector Bool 5
  /-- MTIME at which a group's hold-off ends (R459); 0 while none runs -/
  holdoff : List (Nat × Nat)
  /-- AON cycles since power-on reset (R461) -/
  mtime : Dword
  /-- part of the next AON cycle, in 25 MHz ÷ kHz of the core clock -/
  aonPart : Nat
  /-- requests recorded by the front end while PD7 is off (R464) -/
  image : BitVec 512
  /-- levels that the level sources outside PD7 have last sent, and those that the Bell has received (R451) -/
  told : BitVec 144
  heard : BitVec 144
  deriving DecidableEq, Repr

/-! ## Power (spec file 14) -/

/-- The leave governor and the domain switches beside the LEAVE registers. -/
structure PowerState where
  /-- the switch in progress: domain, and whether it turns on (R466) -/
  switching : Option (Nat × Bool)
  /-- the master that last wrote PD_CTRL, whom the report of a refused change names (R466) -/
  pdBy : Master
  /-- domains that main sequencing, a sleep, a wake or a power-down has still to switch, in order (R469, R470) -/
  seq : List (Nat × Bool)
  /-- the sequence is a fabric sleep, so that the Bell keeps its state (R463) -/
  sleep : Bool
  /-- TEMP_MAX of the last sample (R486) -/
  lastMax : Option Int
  /-- the sensors as last sampled: which are valid, and their bytes of °C, sensor 0 lowest (R485, R564) -/
  sensorOk : BitVec 8
  sensors : BitVec 64
  /-- the filtered PWR_THROT_N is low (R490) -/
  throt : Bool
  /-- a relock of the core PLL is in progress: the clock it will give (R473) -/
  relock : Option Nat
  /-- the governor armed LIGHT, and the engine has not yet started it (LEAVE.STATUS.LIGHT_ARMED, R486) -/
  light : Bool
  deriving DecidableEq, Repr

/-! ## Scan-out (spec file 12) -/

/-- A line of a layer on an output in the Creamline, or in fetch (R406, R414). Layer 4 stands for Skim. -/
structure CreamLine where
  id : Nat
  output : Nat
  layer : Nat
  line : Nat
  /-- it belongs to the next frame -/
  next : Bool
  /-- LCTRL to LRING, captured at the fetch start -/
  regs : List Word
  /-- handles of the planes: Y, Cb or CbCr, Cr, alpha -/
  handles : List Quad
  /-- the layer does not take part, or R412 skips the line: complete without a fetch -/
  skipped : Bool
  /-- refused, or of a band that is not present (R404, R413) -/
  refused : Bool
  /-- planned reads not yet sent: address and bytes -/
  toSend : List (Nat × Nat)
  /-- bytes whose data have not arrived -/
  left : Nat
  /-- bytes by address, with a mark for those of an uncorrectable word -/
  data : List (Nat × (Byte × Bool))
  deriving DecidableEq, Repr

/-- Scan-out beside the SCAN registers. -/
structure ScanState where
  /-- the timing set in force: TS_H0 to TS_FLAGS -/
  ts : Vector Word 6
  /-- an OUT_MODE write waits for the tick (R398) -/
  modeWaits : Bool
  lines : List CreamLine
  nextId : Nat
  /-- next line to fetch by key 8 × output + layer, counted from line 0 of the present frame -/
  fetchAt : List (Nat × Nat)
  /-- last composed pixel and alpha of a layer on an output in this frame (R420) -/
  lastPix : List (Nat × Option (Nat × Nat × Nat × Nat))
  /-- outputs whose underrun source has been raised in this frame (R420) -/
  underBell : List Nat
  /-- the band in fetch is not present, by key 8 × output + layer (R413) -/
  absent : List (Nat × Bool)
  /-- layers whose reads are urgent, by key 8 × output + layer (R415) -/
  urgent : List Nat
  /-- the master of the OUT_MODE write that waits -/
  modeBy : Master
  /-- SKIM_CTRL and the tile registers as latched (R423) -/
  skim : List Word
  /-- LEAD_MAX as the present line took it at its start (R406) -/
  lead : Nat
  /-- the VIDEO_OK pin (R429) -/
  videoOk : Bool
  deriving DecidableEq, Repr

/-! ## Stops -/

/-- Why the machine stops with a fault. The spec gives every command an effect in every state, so the only stop is a
command whose operands lie outside what its row can carry. -/
inductive Fault where
  /-- a command that Syntax can write and `Instr.wellFormed` refuses reached exec; safe: the block takes no such
  command (notes/assumptions/5.md) -/
  | illFormed
  deriving DecidableEq, Repr

/-- Why a command is refused. -/
inductive Refusal where
  /-- a command that has no meaning in the model yet, by its mnemonic; safe -/
  | notModelled (mnemonic : String)
  deriving DecidableEq, Repr

/-! ## The state -/

/-- Slot records and band schedules that the swap engine has loaded for the target variant, and that the tick brings
into force (R340, R342): by tile, by slice, and by Ladle with its CYCLE. -/
structure Staged where
  tslots : List (Nat × List SlotRec)
  vslots : List (Nat × List SlotRec)
  bands : List (Nat × Nat × List Band)
  deriving DecidableEq, Repr

/-- The state of the Kurix. -/
structure State where
  /-- commands waiting, first in, first out -/
  pending : List Instr
  /-- core ck since power-on reset -/
  ck : Nat
  /-- ck in which the frame domain acted (R588): ck without those of a debug stop -/
  fck : Nat
  /-- `fck` at the last tick delivered to the frame domain; schedule ck is fck − tickF -/
  tickF : Nat
  /-- TICK.FRAME at the last tick delivered to the frame domain (R600) -/
  frameF : Word
  /-- round position (R56) -/
  round : Nat
  /-- number of free values drawn (notes/assumptions/2.md): the model's own field -/
  free : Nat
  /-- what the block has given out, oldest first: the model's own field (notes/assumptions/32.md) -/
  out : List Out
  /-- the registers, by device address, where they differ from their reset value -/
  regs : List (Nat × Word)
  mem : MemState
  mesh : Mesh
  sync : SyncState
  tiles : Vector Tile 64
  tick : TickState
  now : CkNotes
  plan : PlanState
  staged : Staged
  /-- records on their way to the error aggregator (R494), oldest first -/
  errs : List ErrRec
  /-- source requests on their way to the Bell gateways (R450), oldest first -/
  bellMsgs : List Nat
  /-- tiles whose tile-level fault of the previous ck reaches the aggregator in the next one (R505) -/
  faultSeen : List Nat
  /-- tiles with a tile-level fault in the window (R499) -/
  faultedWindow : BitVec 64
  /-- a variant-level fault waits for the next budget ck (R508) -/
  variantFault : Bool
  err : ErrState
  host : HostState
  ladle : LadleState
  /-- accesses of masters whose answer is to come -/
  accs : List Acc
  cacheWork : CacheWork
  stew : Vector Steward 4
  bells : BellState
  dbg : DbgState
  milk : MilkState
  power : PowerState
  scan : ScanState
  deriving DecidableEq, Repr

/-! ## Reset -/

/-- A thread after reset (R164): registers 0, gather registers 0xFFFF. -/
def Thread.reset : Thread :=
  { s := Vector.replicate 32 0, p := 0, v := Vector.replicate 32 0, poison := Vector.replicate 32 0,
    gfirst := 0xFFFF, gprog := 0xFFFF, draw := 0, pc := 0, next := none, st := .idle, stall := 0, ready := [], await := [],
    wait := none, waitDone := false, tag := 0, unacked := 0, pailQ := [], ended := false, fellOff := false,
    lastIssue := 0, resume := .idle }

/-- A tile after reset. -/
def Tile.reset : Tile :=
  { th := Vector.replicate 8 Thread.reset, acc := [], flags := Vector.replicate 8 0, accReady := [], lut := [],
    lutBase := 0, lutScale := 0, lutLoading := false, ibuf := [], ibufErr := [], ibufLoad := 0, handles := [],
    running := none, starting := none, queued := none, jobs := [], moveF := [], moveA := [], slots := [], late := [],
    noted := [], frameRun := false, cfgNow := 3, slip := none, who := [], trace := [], traceLostSince := 0,
    stopped := false, stopCk := 0,
    grant := none, request := none, draws := [], creditNow := [], starts := 0, stops := 0 }

/-- The memories after power-on reset: nothing written. -/
def MemState.reset : MemState :=
  { cells := [], lost := [], ecc := [], ports := [], banksUsed := [], portsUsed := [], widesUsed := [], slots := [], vh := [],
    cache := [], cacheNext := none, trackers := [], posted := [], repairs := [], rowMaps := [] }

/-- The mesh after reset: empty. -/
def Mesh.reset : Mesh := { flits := [], age := 0, used := [], freed := [], sent := [], slots := [] }

/-- The SYNC block after reset. -/
def SyncState.reset : SyncState := { watches := [], who := [], ck := [], skip := [] }

/-- The timing generator after reset: off (R430). -/
def TickState.reset : TickState :=
  { ndet := Vector.replicate 6 0, sumAtTick := 0, shadow := [], heartbeatPin := false, blank := .active,
    blankLine := 0, activeLine := 0, ticked := false, forcedRun := 0, frameForced := false, ready := false
    relocked := false }

/-- A ck in which nothing has happened yet. -/
def CkNotes.reset : CkNotes := { hwSet := [], wrote := [], ndet := Vector.replicate 6 0, sample := false, te := false,
                                   woLate := none }

/-- No plan after reset (R24, R477). -/
def PlanState.reset : PlanState :=
  { run := none, arming := none, armEntry := none, engine := .idle, swapEntry := none, priming := false, leaveWin := 0,
    peak := 0 }

/-- Nothing loaded. -/
def Staged.reset : Staged := { tslots := [], vslots := [], bands := [] }

/-- The error aggregator after reset. -/
def ErrState.reset : ErrState :=
  { recs := [], nextSeq := 0, cands := [], ssubNow := 0, lateRecs := [], lateCands := [] }

/-- The stop tree after reset. -/
def DbgState.reset : DbgState := { stopped := false, stopAt := none, resumeAt := none, stepLeft := 0, port := [], written := 0 }

/-- The settings before any record is read: every tile, slice and output enabled (R526, R533). -/
def Settings.reset : Settings :=
  { hdrOk := false, pd := #v[0xFFFFFF30, 0xFFFFFFFF, 0xFFFF], boardSeen := false, flags := 0, keyhash := none, smbus := 0
    alertMask := 0, bootA := none, bootB := none, plan := none, count := 0, next := 16 }

/-- The Milkhouse after power-on reset: EN_MAIN high (R527), the straps at their pull-downs (R625), TEST_EN 0. -/
def MilkState.reset : MilkState :=
  { aon := true, testEn := false, vddioSb := true, aonPll := false, rom := false, enMain := true, pgCore := false
    pgMem := false, settings := .reset, settled := false, dbgFuse := false, repairApplied := 0, repairSkipped := 0,
    bootSel := 0, flash := [], flashSize := 0, flashOpen := false, flashWait := false
    sbOp := none, bootReads := true, log := [], logPos := 0, logLost := 0, ownSeq := 0x80000000, alerts := 0, alertSeen := 0
    response := none, nonce := none, scope := 0, authFail := 0, jtagResult := 0xFF, recovery := none, faultLow := false
    holdOff := false, repairCands := [], kick := Vector.replicate 4 0, tickTime := 0, ir := 0x02, bsr := 0, stateAddr := 0
    accData := 0, accStatus := 0 }

/-- The governor after reset. -/
def PowerState.reset : PowerState :=
  { switching := none, pdBy := .milkhouse, seq := [], sleep := false, lastMax := none, sensorOk := 0, sensors := 0,
    throt := false, relock := none, light := false }

/-- Scan-out after reset: the timing set of R430, the generator off. -/
def ScanState.reset : ScanState :=
  { ts := #v[0x0F500F00, 0x00200008, 0x003E0870, 0x08080269, 0x1F267680, 1], modeWaits := false, lines := [], nextId := 0
    fetchAt := [], lastPix := [], underBell := [], absent := [], urgent := [], modeBy := .host, skim := [], lead := 32,
    videoOk := false }

/-- A queue after reset: QSTATUS.IDLE, nothing held (R388). -/
def Queue.reset : Queue :=
  { held := [], sqTail := 0, sqHead := 0, fetch := 0, cqHead := 0, cqTail := 0, phase := true, arm := false }

/-- The host link after reset. -/
def HostState.reset : HostState :=
  { queues := [], reads := [], dropped := [], tagWait := [], serial := 0, sent := [], sentWait := [], cfg := [],
    flr := false, perst := true }

/-- A Ladle after reset: no schedule. -/
def Ladle.reset : Ladle := { cycle := 1, bands := [], runs := [], copy := none }

/-- The LADLE block after reset. -/
def LadleState.reset : LadleState :=
  { ladles := Vector.replicate 16 .reset, nextId := 0, current := [], draws := [], eligible := [], drains := [] }

/-- A steward core after reset: held until its image is authenticated (R536); registers 0 (DESIGN CHOICE,
notes/assumptions/40.md), every PMP entry OFF and unlocked (R435). -/
def Steward.reset : Steward :=
  { x := Vector.replicate 32 0, pc := 0, user := false, mepc := 0, mcause := 0, mtval := 0, mtvec := 0, mstatus := 0
    kxprog := 0, kxacc := 0, mkxcfg := 0, mcycle := 0, minstret := 0, cyclePart := 0, pmpcfg := Vector.replicate 16 0,
    pmpaddr := Vector.replicate 16 0, lr := none
    kx := none, mtip := false, held := true, halted := false, haltReq := false, stepLeft := false, bp := 0, cause := 0 }

/-- No cache work after reset. -/
def CacheWork.reset : CacheWork := { reqs := [], fill := none, wb := 0 }

/-- The Bell after reset. -/
def BellState.reset : BellState :=
  { pend := 0, fresh := 0, closed := 0, again := 0, wired := 0, stackOf := Vector.replicate 5 [],
    lines := Vector.replicate 5 false, holdoff := [], mtime := 0
    aonPart := 0, image := 0, told := 0, heard := 0 }

/-- The block right after the release of the AON power-on reset (R527). -/
def State.reset : State :=
  { pending := [], ck := 0, fck := 0, tickF := 0, frameF := 0, round := 0, free := 0, out := [], regs := [],
    mem := .reset, mesh := .reset,
    sync := .reset, tiles := Vector.replicate 64 .reset, tick := .reset, now := .reset, plan := .reset, staged := .reset,
    errs := [], bellMsgs := [],
    faultSeen := [], faultedWindow := 0, variantFault := false, err := .reset, host := .reset, ladle := .reset,
    accs := [], cacheWork := .reset, stew := Vector.replicate 4 .reset, bells := .reset, dbg := .reset,
    milk := .reset, power := .reset, scan := .reset }

end Sys2Proof.Machine
end

