-- ==== Sys2Proof/Machine/Macro.lean ====
section
/-!
DEFINITION. Handle entries (R90, R91) and the shape of a tensor macro-op (R192–R201): its units, its timing, the
blocks it reads in each ck, and where its operands lie.
-/

namespace Sys2Proof.Machine

/-! ### Handle entries (R90, R91) -/

/-- Bits [lo + n − 1 : lo] of a handle entry. -/
def qfld (e : Quad) (lo n : Nat) : Nat := (e.toNat / 2 ^ lo) % 2 ^ n

def hV (e : Quad) : Bool := e.getLsbD 0
def hRD (e : Quad) : Bool := e.getLsbD 1
def hWR (e : Quad) : Bool := e.getLsbD 2
def hRWR (e : Quad) : Bool := e.getLsbD 3
def hCW (e : Quad) : Nat := qfld e 4 4
def hFmt (e : Quad) : Nat := qfld e 8 5
/-- first byte of the region -/
def hStart (e : Quad) : Nat := qfld e 14 26 * 64
/-- bytes of the region -/
def hBytes (e : Quad) : Nat := qfld e 40 24 * 64
/-- one past the last byte of the region -/
def hEnd (e : Quad) : Nat := hStart e + hBytes e
def hStride0 (e : Quad) : Nat := qfld e 64 16 * 64
def hStride1 (e : Quad) : Nat := qfld e 80 16 * 64
def hExt0 (e : Quad) : Nat := qfld e 96 16
def hExt1 (e : Quad) : Nat := qfld e 112 16

/-- The byte offset of element i in dimension 0 (R91). -/
def hOff (e : Quad) (i : Nat) : Nat := i * fmtBits (hFmt e) / 8

/-- The address of element (i, j, k) (R91). -/
def hAddr (e : Quad) (i j k : Nat) : Nat := hStart e + hOff e i + j * hStride0 e + k * hStride1 e

/-! ### Shape of a macro-op (R196–R201) -/

/-- Banks that a macro-op names (R194, R200). -/
def MacroOp.banks (m : MacroOp) : List Nat := (List.range ((m.m + 63) / 64)).map (fun i => m.acc + i)

/-- Bytes of one unit of 32 elements (R196); the whole block for TERN. -/
def unitBytes (fmt : Nat) : Nat :=
  match fmt with
  | 0x00 => 16 | 0x01 => 16 | 0x02 => 32 | 0x03 => 32 | 0x07 => 32 | 0x08 => 32 | 0x11 => 32
  | 0x09 => 64 | 0x0A => 64 | 0x0C => 17 | 0x0D => 33 | _ => 18

/-- Twice the row cost c of a format (R196). -/
def rowCost2 (fmt : Nat) : Nat :=
  match fmt with
  | 0x00 => 1 | 0x01 => 1 | 0x0C => 1 | 0x02 => 2 | 0x03 => 2 | 0x0D => 2 | 0x0E => 2
  | 0x07 => 4 | 0x08 => 4 | 0x11 => 4 | _ => 8

/-- Operand formats of the tensor unit (R122), by class: 0 integer, 1 FP8 or LOG8, 2 FP16 or BF16, 3 block. -/
def tensorClass (fmt : Nat) : Option Nat :=
  match fmt with
  | 0x00 => some 0 | 0x01 => some 0 | 0x02 => some 0 | 0x03 => some 0
  | 0x07 => some 1 | 0x08 => some 1 | 0x11 => some 1 | 0x09 => some 2 | 0x0A => some 2
  | 0x0C => some 3 | 0x0D => some 3 | 0x0E => some 3 | _ => none

/-- The pair is one of R123, under the restrictions of R195. -/
def pairOk (k : MacroKind) (fa fb : Nat) : Bool :=
  match tensorClass fa, tensorClass fb with
  | some 0, some 0 => true
  | some 0, some 3 => k ≠ .dw
  | some 1, some 1 => true
  | some 1, some 2 => true
  | some 2, some 1 => true
  | some 2, some 2 => true
  | _, _ => false

/-- The pair accumulates in FP32 (R123). -/
def pairFp (fa fb : Nat) : Bool := !(tensorClass fa == some 0 && tensorClass fb == some 0)

/-- Steps in all (R201). -/
def MacroOp.steps (m : MacroOp) : Nat :=
  match m.kind with
  | .mm => m.s
  | .conv => m.s * m.kh * m.kw
  | .dw => m.kh

/-- Twice the row cost of the macro-op. -/
def MacroOp.c2 (m : MacroOp) : Nat := max (rowCost2 (hFmt m.ha)) (rowCost2 (hFmt m.hb))

/-- Compute ck of a step. -/
def MacroOp.compute (m : MacroOp) : Nat := (m.c2 * m.m + 1) / 2

/-- The stride σ. -/
def MacroOp.sigma (m : MacroOp) : Nat := if m.st2 then 2 else 1

/-- Bytes of one step's weights. -/
def MacroOp.weightBytes (m : MacroOp) : Nat :=
  match m.kind with
  | .dw => m.kw * unitBytes (hFmt m.hb)
  | _ => m.n * unitBytes (hFmt m.hb)

/-- Bytes of one step's activations: the span of R201. -/
def MacroOp.span (m : MacroOp) : Nat :=
  let u := unitBytes (hFmt m.ha)
  match m.kind with
  | .mm => m.m * u
  | .conv => (m.sigma * (m.m - 1) + 1) * u
  | .dw => (m.sigma * (m.m - 1) + m.kw) * u

/-- Weight fetch W, activation fetch R, F and L of R201. -/
def MacroOp.fetchW (m : MacroOp) : Nat := (m.weightBytes + 127) / 128 + 1
def MacroOp.fetchR (m : MacroOp) : Nat := (m.span + 127) / 128 + 1
def MacroOp.fetch (m : MacroOp) : Nat := m.fetchW + m.fetchR
def MacroOp.stepLen (m : MacroOp) : Nat := max m.compute m.fetch

/-- The end ck of a macro-op that starts in ck a (R201). -/
def MacroOp.endFrom (m : MacroOp) (a : Nat) : Nat := a + m.fetch + (m.steps - 1) * m.stepLen + m.compute + 1

/-- First byte of step s's weights (R197–R199). -/
def MacroOp.weightAt (m : MacroOp) (s : Nat) : Nat :=
  let base := hStart m.hb + m.jb * hStride0 m.hb
  let u := unitBytes (hFmt m.hb)
  match m.kind with
  | .dw => base + s * m.kw * u
  | _ => base + (if hFmt m.hb = 0x0E then s / 2 else s) * m.n * u

/-- Group, kernel row and kernel column of step s (R198, R199). -/
def MacroOp.tap (m : MacroOp) (s : Nat) : Nat × Nat × Nat :=
  match m.kind with
  | .mm => (s, 0, 0)
  | .conv => (s / (m.kh * m.kw), s / m.kw % m.kh, s % m.kw)
  | .dw => (0, s, 0)

/-- First byte of step s's activations (R197–R199). -/
def MacroOp.actAt (m : MacroOp) (s : Nat) : Nat :=
  let u := unitBytes (hFmt m.ha)
  let (g, ky, kx) := m.tap s
  match m.kind with
  | .mm => hStart m.ha + m.ja * hStride0 m.ha + s * m.m * u
  | _ => hStart m.ha + (m.ja + kx) * u + (m.y0 + ky) * hStride0 m.ha + (m.g0 + g) * hStride1 m.ha

/-- First byte and length of all that the macro-op reads through handle A. -/
def MacroOp.actAll (m : MacroOp) : Nat × Nat :=
  match m.kind with
  | .mm => (m.actAt 0, m.s * m.span)
  | .conv => (m.actAt 0, (m.kw - 1) * unitBytes (hFmt m.ha) + (m.kh - 1) * hStride0 m.ha + (m.s - 1) * hStride1 m.ha + m.span)
  | .dw => (m.actAt 0, (m.kh - 1) * hStride0 m.ha + m.span)

/-- First byte and length of all that the macro-op reads through handle B. -/
def MacroOp.weightAll (m : MacroOp) : Nat × Nat := (m.weightAt 0, m.weightAt (m.steps - 1) + m.weightBytes - m.weightAt 0)

/-- Block i of a fetch of n bytes from address a under the pad rule of R202: the last block repeats. -/
def padBlock (a n i : Nat) : Nat := 128 * min (a / 128 + i) ((a + n - 1) / 128)

/-- The block that a running macro-op reads in frame ck c: its key and its address (R201, R202). -/
def MacroOp.readAt (m : MacroOp) (c : Nat) : Option (Nat × Nat) :=
  if c < m.a then none
  else
    let s := (c - m.a) / m.stepLen
    let o := (c - m.a) % m.stepLen
    if m.steps ≤ s then none
    else if o < m.fetchW then some (2 * s, padBlock (m.weightAt s) m.weightBytes o)
    else if o < m.fetch then some (2 * s + 1, padBlock (m.actAt s) m.span (o - m.fetchW))
    else none

/-- Leave of a macro-op (R211). -/
def MacroOp.leave (m : MacroOp) : Nat :=
  match m.kind with
  | .dw => 3
  | _ =>
    (if m.c2 ≤ 2 then 6 else if m.c2 = 4 then 5 else 4) + (if fmtIsBlock (hFmt m.hb) then 1 else 0)

end Sys2Proof.Machine
end

