-- ==== Sys2Proof/Machine/RegMap.lean ====
section
/-!
DEFINITION. The register map: every register of R607 with the access type of its bits (R9) and its reset value, and
the addresses the model names. A row stands for `count` registers `stride` bytes apart; TILE rows stand for all 64
tiles (R67). A bit in none of the masks is read-only or reserved: a write leaves it. Registers whose value follows
from other state (THREAD_STATE, SCHED_CK, PEND …) have a row too, and Machine/RegRead.lean computes their reads.
-/

namespace Sys2Proof.Machine

/-- One row of the register map. -/
structure RegRow where
  name : String
  addr : Nat
  count : Nat
  stride : Nat
  /-- RW bits -/
  rw : Nat
  /-- W1C bits -/
  w1c : Nat
  /-- WO1 bits -/
  wo1 : Nat
  /-- LK bits -/
  lk : Nat
  /-- bits that are RW for the Milkhouse and RO for other masters (R608) -/
  mh : Nat
  reset : Nat
  deriving DecidableEq, Repr

/-- A read-only register. -/
def ro (name : String) (addr : Nat) (reset : Nat := 0) (count : Nat := 1) (stride : Nat := 4) : RegRow :=
  ⟨name, addr, count, stride, 0, 0, 0, 0, 0, reset⟩

/-- A register whose bits `mask` are RW. -/
def rw (name : String) (addr mask : Nat) (reset : Nat := 0) (count : Nat := 1) (stride : Nat := 4) : RegRow :=
  ⟨name, addr, count, stride, mask, 0, 0, 0, 0, reset⟩

/-- A register whose bits `mask` are W1C. -/
def w1c (name : String) (addr mask : Nat) (reset : Nat := 0) (count : Nat := 1) (stride : Nat := 4) : RegRow :=
  ⟨name, addr, count, stride, 0, mask, 0, 0, 0, reset⟩

/-- A register with RW and W1C bits. -/
def mixed (name : String) (addr rwMask w1cMask : Nat) (reset : Nat := 0) (count : Nat := 1) (stride : Nat := 4) : RegRow :=
  ⟨name, addr, count, stride, rwMask, w1cMask, 0, 0, 0, reset⟩

/-- A WO1 register. -/
def wo1 (name : String) (addr mask : Nat) (reset : Nat := 0) (count : Nat := 1) (stride : Nat := 4) : RegRow :=
  ⟨name, addr, count, stride, 0, 0, mask, 0, 0, reset⟩

/-- A register with LK bits. -/
def lk (name : String) (addr mask : Nat) (reset : Nat := 0) : RegRow :=
  ⟨name, addr, 1, 4, 0, 0, 0, mask, 0, reset⟩

/-- A register that only the Milkhouse writes (R608). -/
def mhRw (name : String) (addr mask : Nat) (reset : Nat := 0) : RegRow :=
  ⟨name, addr, 1, 4, 0, 0, 0, 0, mask, reset⟩

/-- TOP (R608). -/
def topRows : List RegRow :=
  [ ro "TOP.CHIP_ID" 0x30000000 0x731800B0,
    mhRw "TOP.BOOT_STAGE" 0x30000004 0xF,
    mhRw "TOP.READY_CFG" 0x30000008 0x1,
    ro "TOP.EARLY_DROP" 0x3000000C,
    ro "TOP.EPOCH" 0x30000010,
    ro "TOP.HEARTBEAT" 0x30000014,
    ro "TOP.FUSE_INFO" 0x30000018,
    ro "TOP.WO_STATE" 0x3000001C,
    ro "TOP.SERIAL_LO" 0x30000020,
    ro "TOP.SERIAL_HI" 0x30000024,
    wo1 "TOP.BOARD_ID" 0x30000028 0xFFFFFFFF,
    mhRw "TOP.SUBSYS" 0x3000002C 0xFFFFFFFF,
    wo1 "TOP.KEYHASH" 0x30000030 0xFFFFFFFF 0 12,
    mhRw "TOP.TSHADOW 0" 0x30000060 0xFFFFFFFF 0x0F500F00,
    mhRw "TOP.TSHADOW 1" 0x30000064 0xFFFFFFFF 0x00200008,
    mhRw "TOP.TSHADOW 2" 0x30000068 0xFFFFFFFF 0x003E0870,
    mhRw "TOP.TSHADOW 3" 0x3000006C 0xFFFFFFFF 0x08080269,
    mhRw "TOP.TSHADOW 4" 0x30000070 0xFFFFFFFF 0x1F267680,
    mhRw "TOP.TSHADOW 5" 0x30000074 0xFFFFFFFF 0x00000001,
    ro "TOP.GPIO_IN" 0x30000080,
    rw "TOP.GPIO_OUT" 0x30000084 0xFFFF,
    lk "TOP.GPIO_DIR" 0x30000088 0xFFFF,
    lk "TOP.GPIO_OD" 0x3000008C 0xFFFF,
    rw "TOP.LOCK" 0x300000F0 0x1 ]

/-- TICK (R45, R46). -/
def tickRows : List RegRow :=
  [ w1c "TICK.STATUS" 0x30010000 0x1F00,
    ro "TICK.LINE" 0x30010004,
    ro "TICK.FRAME" 0x30010008,
    ro "TICK.CKREL" 0x3001000C 0xFFFFFFFF,
    ro "TICK.BUDGET" 0x30010010,
    ro "TICK.MINPER" 0x30010014,
    ro "TICK.LINE_CK" 0x30010018,
    ro "TICK.FR_OBJ" 0x3001001C,
    ro "TICK.FR_TARGET" 0x30010020,
    ro "TICK.LAST_PERIOD" 0x30010024,
    ro "TICK.LAST_VB" 0x30010028,
    ro "TICK.FORCED_COUNT" 0x3001002C,
    rw "TICK.NDET_CTRL" 0x30010030 0x1,
    ro "TICK.NDET_CACHE_LO" 0x30010040 0 12,
    ro "TICK.NDET_FRAME" 0x30010070 ]

/-- SCAN (R430, R431). -/
def scanRows : List RegRow :=
  [ rw "SCAN.TS_H0" 0x30020000 0x1FFF1FFF 0x0F500F00,
    rw "SCAN.TS_H1" 0x30020004 0x0FFF0FFF 0x00200008,
    rw "SCAN.TS_V0" 0x30020008 0x0FFF0FFF 0x003E0870,
    rw "SCAN.TS_V1" 0x3002000C 0xFFFF1FFF 0x08080269,
    rw "SCAN.TS_PCLK" 0x30020010 0xFFFFFFFF 0x1F267680,
    rw "SCAN.TS_FLAGS" 0x30020014 0x3 0x1,
    rw "SCAN.TS_COMMIT" 0x30020018 0x1,
    rw "SCAN.OUT_MODE" 0x30020020 0x7F1F,
    ro "SCAN.OUT_NOW" 0x30020024,
    rw "SCAN.TE_CFG" 0x30020028 0x7,
    ro "SCAN.TE_LINE" 0x3002002C,
    ro "SCAN.TE_COUNT" 0x30020030,
    ro "SCAN.TE_MISS" 0x30020034,
    rw "SCAN.BG" 0x30020040 0x3FFFFFFF,
    rw "SCAN.CREAM_WM" 0x30020044 0x3F3F 0x0410,
    rw "SCAN.LEAD_MAX" 0x30020048 0x7F 0x20,
    rw "SCAN.PLAN_LAYERS" 0x3002004C 0xF,
    ro "SCAN.FSTAT" 0x30020050,
    rw "SCAN.VOK_CTRL" 0x30020054 0x1,
    ro "SCAN.CRIT_COUNT" 0x30020058,
    ro "SCAN.HANDLE_ERR" 0x3002005C,
    ro "SCAN.OCC" 0x30020060 0 2,
    rw "SCAN.DP_CTRL" 0x30020080 0x7F 0x46 2 0x40,
    w1c "SCAN.DP_STATUS" 0x30020084 0x70000 0 2 0x40,
    rw "SCAN.AUX_CMD" 0x30020088 0x8FFFFFFF 0 2 0x40,
    ro "SCAN.AUX_STAT" 0x3002008C 0 2 0x40,
    rw "SCAN.AUX_DATA A" 0x30020090 0xFFFFFFFF 0 4,
    rw "SCAN.AUX_DATA B" 0x300200D0 0xFFFFFFFF 0 4,
    rw "SCAN.LCTRL 0" 0x30020100 0x00FF0FFF 0x00FF0000,
    rw "SCAN.LCTRL 1-3" 0x30020140 0x00FF0FFF 0x00FF0800 3 0x40,
    rw "SCAN.LPOS" 0x30020104 0x0FFF1FFF 0 4 0x40,
    rw "SCAN.LSIZE" 0x30020108 0x0FFF1FFF 0 4 0x40,
    rw "SCAN.LHND0" 0x3002010C 0x03FF03FF 0 4 0x40,
    rw "SCAN.LHND1" 0x30020110 0x03FF03FF 0 4 0x40,
    rw "SCAN.LRING" 0x30020114 0x00000FFF 0 4 0x40,
    rw "SCAN.LBAND" 0x30020118 0x80FF07FF 0 4 0x40,
    rw "SCAN.LBEXP_A" 0x3002011C 0xFFFFFFFF 0 4 0x40,
    rw "SCAN.LBEXP_B" 0x30020120 0xFFFFFFFF 0 4 0x40,
    ro "SCAN.LUNDER_A" 0x30020124 0 4 0x40,
    ro "SCAN.LUNDER_B" 0x30020128 0 4 0x40,
    ro "SCAN.LDROP" 0x3002012C 0 4 0x40,
    ro "SCAN.LSTAT" 0x30020130 0 4 0x40,
    mixed "SCAN.SKIM_CTRL" 0x30020200 0x1E 0x1 0x6,
    rw "SCAN.SKIM_BG" 0x30020204 0xFFFFFF 0x404040,
    rw "SCAN.SKIM_BORDER" 0x30020208 0xFFFFFF 0xFFFFFF,
    rw "SCAN.SK_CTRL" 0x30020400 0xFFF 0 16 32,
    rw "SCAN.SK_SRC" 0x30020404 0x0FFF1FFF 0 16 32,
    rw "SCAN.SK_POS" 0x30020408 0x0FFF1FFF 0 16 32,
    rw "SCAN.SK_SIZE" 0x3002040C 0x0FFF1FFF 0 16 32,
    rw "SCAN.SK_HND" 0x30020410 0x03FF03FF 0 16 32,
    rw "SCAN.SK_HND2" 0x30020414 0x000003FF 0 16 32 ]

/-- BELL (R462); the SRC registers of reserved sources read 0 and discard writes (R449). -/
def bellRows : List RegRow :=
  [ rw "BELL.SRC 1-6" 0x30030004 0x3FF 0 6,
    ro "BELL.SRC 7-7 reserved" 0x3003001C 0 1,
    rw "BELL.SRC 8-13" 0x30030020 0x3FF 0 6,
    ro "BELL.SRC 14-15 reserved" 0x30030038 0 2,
    rw "BELL.SRC 16-18" 0x30030040 0x3FF 0 3,
    ro "BELL.SRC 19-31 reserved" 0x3003004C 0 13,
    rw "BELL.SRC 32-34" 0x30030080 0x3FF 0 3,
    ro "BELL.SRC 35-36 reserved" 0x3003008C 0 2,
    rw "BELL.SRC 37-38" 0x30030094 0x3FF 0 2,
    ro "BELL.SRC 39-39 reserved" 0x3003009C 0 1,
    rw "BELL.SRC 40-43" 0x300300A0 0x3FF 0 4,
    ro "BELL.SRC 44-47 reserved" 0x300300B0 0 4,
    rw "BELL.SRC 48-161" 0x300300C0 0x3FF 0 114,
    ro "BELL.SRC 162-447 reserved" 0x30030288 0 286,
    rw "BELL.SRC 448-479" 0x30030700 0x3FFFFF 0x1000 32,
    rw "BELL.SRC 480-510" 0x30030780 0x3FF 0 31,
    ro "BELL.PEND" 0x30030800 0 16,
    ro "BELL.LEVEL" 0x30030840 0 16,
    rw "BELL.GROUP" 0x30030900 0xFFFF 0 32,
    rw "BELL.CTRL" 0x30030A00 0x1,
    ro "BELL.EOI_ERR" 0x30030A04,
    rw "BELL.MSIP" 0x30030A10 0x1 0 4,
    ro "BELL.MTIME_LO" 0x30030A20,
    ro "BELL.MTIME_HI" 0x30030A24,
    rw "BELL.MTIMECMP" 0x30030A30 0xFFFFFFFF 0xFFFFFFFF 8,
    ro "BELL.CLAIM" 0x30031000 0x1FF 5 0x100,
    rw "BELL.EOI" 0x30031004 0x1FF 0 5 0x100,
    ro "BELL.RUNPRIO" 0x30031008 0 5 0x100,
    ro "BELL.TOP" 0x3003100C 0 5 0x100 ]

/-- LEAVE (R492). PD_CTRL resets to all ones (R526), PD_ON and STANDING to the domains on after power-on. -/
def leaveRows : List RegRow :=
  [ wo1 "LEAVE.BUDGET_CAP" 0x30040000 0x3FF 0x226,
    rw "LEAVE.AGE_STEP" 0x30040004 0xFFFF 0x1000,
    ro "LEAVE.STATUS" 0x30040008,
    ro "LEAVE.STANDING" 0x3004000C,
    ro "LEAVE.PEAK" 0x30040010,
    ro "LEAVE.RES_NOW" 0x30040014,
    ro "LEAVE.DYN" 0x30040018,
    rw "LEAVE.THROT_CFG" 0x3004001C 0x1F 0x4,
    rw "LEAVE.THERM_CFG" 0x30040020 0x0FFFFFFF,
    mixed "LEAVE.THERM_CTRL" 0x30040024 0x1 0x2,
    rw "LEAVE.THERM_CLK" 0x30040028 0x1FFFFF 0x98968,
    rw "LEAVE.IDLE_CLK" 0x3004002C 0x1FFFFF 0xF4240,
    ro "LEAVE.CLK_NOW" 0x30040030 0xF4240,
    ro "LEAVE.THERM_EVENTS" 0x30040034,
    ro "LEAVE.TEMP_MAX" 0x30040038,
    ro "LEAVE.TEMP" 0x30040040 0 8,
    rw "LEAVE.PD_CTRL 0" 0x30040080 0xFFFFFF30 0xFFFFFFFF,
    rw "LEAVE.PD_CTRL 1" 0x30040084 0xFFFFFFFF 0xFFFFFFFF,
    rw "LEAVE.PD_CTRL 2" 0x30040088 0x0000FFFF 0x0000FFFF,
    ro "LEAVE.PD_ON" 0x30040090 0 3,
    ro "LEAVE.PD_BUSY" 0x300400A0,
    ro "LEAVE.PD_ERR" 0x300400A4,
    ro "LEAVE.OVERDRAW" 0x300400B0,
    ro "LEAVE.OVERDRAW_INFO" 0x300400B4,
    ro "LEAVE.REQ" 0x30040100 0 80 ]

/-- SYNC (R288). -/
def syncRows : List RegRow :=
  [ rw "SYNC.COUNT" 0x30050000 0xFFFFFFFF 0 2048,
    rw "SYNC.ADD" 0x30052000 0xFFFFFFFF 0 2048,
    rw "SYNC.TICKVAL" 0x30054000 0xFFFFFFFF 0 2048,
    rw "SYNC.FRAME_MAP" 0x30056000 0xFFFFFFFF 0 64,
    rw "SYNC.TICKARM_MAP" 0x30056100 0xFFFFFFFF 0 64,
    rw "SYNC.PACE" 0x30056200 0xFFFFFFFF,
    ro "SYNC.DROP" 0x30056204,
    ro "SYNC.DROP_INFO" 0x30056208,
    rw "SYNC.WATCH_CFG" 0x30056300 0x307FF 0 32 16,
    rw "SYNC.WATCH_TARGET" 0x30056304 0xFFFFFFFF 0 32 16,
    w1c "SYNC.WATCH_STATUS" 0x30056308 0x1 0 32 16 ]

/-- LADLE (R322). -/
def ladleRows : List RegRow :=
  [ rw "LADLE.AGE_STEP" 0x30060000 0xFFFF 0x1000,
    ro "LADLE.WINDOW" 0x30060004,
    ro "LADLE.LSTAT" 0x30060010 0 16,
    ro "LADLE.FAULT_IDX" 0x30060050 0xFFFFFFFF 16,
    rw "LADLE.QCFG" 0x30060100 0x7F 0 132,
    rw "LADLE.SMASK" 0x30060400 0xFFFFFFFF 0 128,
    ro "LADLE.DISCARD" 0x30060600,
    ro "LADLE.NOENTRY" 0x30060604,
    ro "LADLE.WO_SKIP" 0x30060608,
    ro "LADLE.NOTE_UNMAPPED" 0x3006060C,
    ro "LADLE.DESC_FAULTS" 0x30060610,
    ro "LADLE.HOST_ERR" 0x30060614,
    rw "LADLE.SRING_BASE" 0x30060700 0xFFFFFFF0 0 4 16,
    rw "LADLE.SRING_CFG" 0x30060704 0x7FFF 0 4 16,
    rw "LADLE.SRING_TAIL" 0x30060708 0xFF 0 4 16,
    ro "LADLE.SRING_HEAD" 0x3006070C 0 4 16,
    rw "LADLE.SUBST 0-1" 0x30060800 0xF 0 2,
    rw "LADLE.SUBST 2-3" 0x30060808 0xFF 0 2,
    rw "LADLE.SUBST 4-5" 0x30060810 0xFFFF 0 2,
    rw "LADLE.SUBST 6" 0x30060818 0xFFFFFFFF,
    rw "LADLE.SUBST 7-8" 0x3006081C 0xFF 0 2,
    rw "LADLE.SUBST 9-A" 0x30060824 0xFFFF 0 2,
    rw "LADLE.SUBST B" 0x3006082C 0xFFFFFFFF,
    rw "LADLE.SUBST C" 0x30060830 0xFF000F,
    rw "LADLE.SUBST D" 0x30060834 0xFF00FF,
    rw "LADLE.SUBST E" 0x30060838 0xFFFF0003,
    rw "LADLE.SUBST F" 0x3006083C 0x3FF,
    rw "LADLE.SUBST 10" 0x30060840 0xFFF,
    rw "LADLE.SUBST 11" 0x30060844 0xFF,
    rw "LADLE.DMAP" 0x30061000 0xBFBFBFBF 0 1024 ]

/-- HOST (R388). -/
def hostRows : List RegRow :=
  [ ro "HOST.LINK" 0x30070000,
    rw "HOST.WIN_BASE" 0x30070004 0xFFF00000,
    wo1 "HOST.SUBSYS_ID" 0x30070008 0xFFFFFFFF,
    ro "HOST.DB_ERR" 0x3007000C,
    ro "HOST.DB_ERR_COUNT" 0x30070010,
    ro "HOST.FLR_COUNT" 0x30070014,
    w1c "HOST.EVENT" 0x30070018 0x01013F07,
    rw "HOST.EVENT_EN" 0x3007001C 0x01013F07,
    rw "HOST.SMSG" 0x30070020 0xFFFFFFFF,
    ro "HOST.MSG" 0x30070040 0 16,
    rw "HOST.SENT_BASE" 0x30070080 0xFFFFFC00,
    ro "HOST.SENT_HEAD" 0x30070084,
    rw "HOST.SENT_TAIL" 0x30070088 0xF,
    rw "HOST.SDONE_DETAIL_LO" 0x3007008C 0xFFFFFFFF,
    rw "HOST.SDONE_DETAIL_HI" 0x30070090 0xFFFFFFFF,
    rw "HOST.SDONE" 0x30070094 0xFFFF,
    rw "HOST.SQ_BASE_LO" 0x30071000 0xFFFFF000 0 132 32,
    rw "HOST.SQ_BASE_HI" 0x30071004 0xFFFFFFFF 0 132 32,
    rw "HOST.CQ_BASE_LO" 0x30071008 0xFFFFF000 0 132 32,
    rw "HOST.CQ_BASE_HI" 0x3007100C 0xFFFFFFFF 0 132 32,
    rw "HOST.QSIZE" 0x30071010 0xFF 0x11 132 32,
    rw "HOST.QCTRL" 0x30071014 0x01FF0003 0x10000 132 32,
    ro "HOST.QSTATUS" 0x30071018 0x1 132 32,
    ro "HOST.QPOS" 0x3007101C 0 132 32 ]

/-- The MSI-X table and PBA (R351, R388). A vector's control word resets masked, as the Base Specification has it
(PRESUMED, notes/assumptions/12.md). -/
def msixRows : List RegRow :=
  [ rw "HOST.MSIX_ADDR_LO" 0x30078000 0xFFFFFFFC 0 72 16,
    rw "HOST.MSIX_ADDR_HI" 0x30078004 0xFFFFFFFF 0 72 16,
    rw "HOST.MSIX_DATA" 0x30078008 0xFFFFFFFF 0 72 16,
    rw "HOST.MSIX_CTRL" 0x3007800C 0x1 0x1 72 16,
    ro "HOST.MSIX_PBA" 0x30079000 0 4 ]

/-- VATC (R121). -/
def vatcRows : List RegRow :=
  [ rw "VATC.CACHE_CFG" 0x30080000 0x3,
    w1c "VATC.CACHE_STATUS" 0x30080004 0x8,
    rw "VATC.CACHE_CTRL" 0x30080008 0x3,
    rw "VATC.CACHE_LO" 0x3008000C 0xFFFFFF80,
    rw "VATC.CACHE_HI" 0x30080010 0xFFFFFF80,
    ro "VATC.CACHE_HITS" 0x30080014,
    ro "VATC.CACHE_MISSES" 0x30080018,
    ro "VATC.CACHE_WB" 0x3008001C,
    ro "VATC.VH_BANK" 0x30080020,
    ro "VATC.SLICE_CE" 0x30080040 0 8,
    ro "VATC.SLICE_UE" 0x30080060 0 8,
    rw "VATC.SLICE_INJECT" 0x30080080 0x3 0 8,
    ro "VATC.SLICE_TRACK_LOST" 0x300800A0 0 8,
    rw "VATC.REPAIR_CTRL" 0x300800C0 0xFF01 0x400,
    ro "VATC.REPAIR_APPLIED" 0x300800C4,
    ro "VATC.REPAIR_SKIPPED" 0x300800C8 ]

/-- ERR (R610). -/
def errRows : List RegRow :=
  [ ro "ERR.REC_COUNT" 0x30090000,
    ro "ERR.LOST" 0x30090004,
    rw "ERR.REC_POP" 0x30090008 0x1,
    ro "ERR.REC" 0x30090020 0 8,
    lk "ERR.LIMITS" 0x30090040 0xFF3F 0x804,
    ro "ERR.ABSORBED" 0x30090044,
    ro "ERR.TREC" 0x30090048 0 2,
    ro "ERR.TOUT" 0x30090050 0 2,
    ro "ERR.SSUB" 0x30090058 0 2,
    rw "ERR.SSUB_SET" 0x30090060 0xFFFFFFFF 0 2,
    rw "ERR.SSUB_CLR" 0x30090068 0xFFFFFFFF 0 2,
    rw "ERR.SSUB_PUB" 0x30090070 0xFFFFFFF9,
    rw "ERR.FALLBACK" 0x30090074 0xFFFFFFDF,
    lk "ERR.WDOG_CFG" 0x30090078 0xFFFFF,
    rw "ERR.WDOG_KICK" 0x30090080 0xFFFFFFFF 0 4,
    ro "ERR.WO_COUNT" 0x30090090,
    ro "ERR.WRITE_ONCE_ADDR" 0x30090094,
    ro "ERR.WRITE_ONCE_DATA" 0x30090098,
    w1c "ERR.WRITE_ONCE_LOG" 0x3009009C 0x100,
    ro "ERR.CAND" 0x300900A0,
    rw "ERR.CAND_POP" 0x300900A4 0x1,
    ro "ERR.CAND_LOST" 0x300900A8,
    rw "ERR.LOCK" 0x300900F0 0x1 ]

/-- DBG (R603). -/
def dbgRows : List RegRow :=
  [ rw "DBG.CTRL" 0x300A0000 0x7,
    rw "DBG.STOP" 0x300A0004 0x1,
    rw "DBG.RESUME" 0x300A0008 0x1,
    rw "DBG.STEP" 0x300A000C 0xFFFF,
    ro "DBG.STATUS" 0x300A0010,
    ro "DBG.SCHED_CK" 0x300A0014,
    ro "DBG.STOP_FRAME" 0x300A0018,
    ro "DBG.TICKS_HELD" 0x300A001C,
    ro "DBG.AUTH" 0x300A0030,
    rw "DBG.AUTH_CTRL" 0x300A0034 0x1,
    wo1 "DBG.PERMA_DISABLE" 0x300A0038 0x1,
    rw "DBG.SCTRL" 0x300A0100 0xF 0 4 0x40,
    ro "DBG.SSTAT" 0x300A0104 0 4 0x40,
    rw "DBG.SBP_ADDR 0" 0x300A0110 0xFFFFFFFF 0 4 8,
    rw "DBG.SBP_CFG 0" 0x300A0114 0xFF 0 4 8,
    rw "DBG.SBP_ADDR 1" 0x300A0150 0xFFFFFFFF 0 4 8,
    rw "DBG.SBP_CFG 1" 0x300A0154 0xFF 0 4 8,
    rw "DBG.SBP_ADDR 2" 0x300A0190 0xFFFFFFFF 0 4 8,
    rw "DBG.SBP_CFG 2" 0x300A0194 0xFF 0 4 8,
    rw "DBG.SBP_ADDR 3" 0x300A01D0 0xFFFFFFFF 0 4 8,
    rw "DBG.SBP_CFG 3" 0x300A01D4 0xFF 0 4 8,
    rw "DBG.TR_BASE" 0x300A0200 0xFFFFFFF0,
    rw "DBG.TR_SIZE" 0x300A0204 0x1F 0x8,
    ro "DBG.TR_HEAD" 0x300A0208,
    rw "DBG.TR_TAIL" 0x300A020C 0xFFFFF,
    rw "DBG.TR_CTRL" 0x300A0210 0x1,
    ro "DBG.TR_LOST" 0x300A0214,
    rw "DBG.TR_NOTIFY" 0x300A0218 0x1F7FF ]

/-- FLASH (R543). -/
def flashRows : List RegRow :=
  [ ro "FLASH.ID" 0x300B0000,
    ro "FLASH.GEOM" 0x300B0004,
    ro "FLASH.OWNER" 0x300B0008 0x1,
    rw "FLASH.REQ" 0x300B000C 0x1,
    rw "FLASH.CP_SRC" 0x300B0010 0x0FFFFFFF,
    rw "FLASH.CP_DST" 0x300B0014 0xFFFFFFFF,
    rw "FLASH.CP_LEN" 0x300B0018 0x01FFFFFF,
    rw "FLASH.CP_CTRL" 0x300B001C 0xF,
    w1c "FLASH.CP_STATUS" 0x300B0020 0x3,
    rw "FLASH.ER_ADDR" 0x300B0024 0x0FFFFFFF,
    rw "FLASH.ER_CTRL" 0x300B0028 0x3,
    ro "FLASH.HASH" 0x300B0040 0 12,
    ro "FLASH.BOOT" 0x300B0080,
    ro "FLASH.REPAIR_REC" 0x300B0084 ]

/-- MHC (R578). -/
def mhcRows : List RegRow :=
  [ rw "MHC.MREQ" 0x300C0000 0x1FF,
    w1c "MHC.MRESP" 0x300C0004 0x100,
    ro "MHC.WIRED_LVL" 0x300C0010,
    ro "MHC.BELL_CLAIM" 0x300C0020 0x1FF,
    rw "MHC.BELL_EOI" 0x300C0024 0x1FF,
    ⟨"MHC.SB2H_DATA", 0x300C0040, 16, 4, 0, 0, 0, 0, 0xFFFFFFFF, 0⟩,
    rw "MHC.SB2H_CTRL" 0x300C0080 0x200,
    rw "MHC.H2SB_DATA" 0x300C00C0 0xFFFFFFFF 0 16,
    rw "MHC.H2SB_CTRL" 0x300C0100 0x17F,
    ro "MHC.H2SB_DROP" 0x300C0104,
    ro "MHC.SBMSG" 0x300C0140 0 15,
    ro "MHC.SB_STATUS" 0x300C0180 ]

/-- TILE t, at offsets from the tile's base (R185 and the rules it names). -/
def tileRows : List RegRow :=
  [ rw "TILE.TILE_CFG" 0x0000 0xFF03 0x3,
    ro "TILE.TILE_STATUS" 0x0004,
    rw "TILE.HALT_CTRL" 0x0008 0x3,
    rw "TILE.THREAD_CTRL" 0x000C 0xFFFF,
    ro "TILE.THREAD_STATE" 0x0010 0x1 8,
    rw "TILE.ENTRY" 0x0030 0xFFF 0 8,
    ro "TILE.THREAD_GATHER" 0x0050 0xFFFFFFFF 8,
    ro "TILE.FAULT_COUNT" 0x0070,
    ro "TILE.POISON_COUNT" 0x0074,
    ro "TILE.FAULT_INFO" 0x0078,
    ro "TILE.FAULT_ADDR" 0x007C,
    ro "TILE.FAULT_CK" 0x0080,
    rw "TILE.FAULT_CLR" 0x0084 0x1,
    rw "TILE.IBUF_SRC" 0x0088 0xFFFFFFC0,
    rw "TILE.IBUF_CTRL" 0x008C 0x1,
    ro "TILE.IBUF_CE" 0x0090,
    ro "TILE.LEDGER_SLACK" 0x0100,
    ro "TILE.LEDGER_RECS" 0x0104,
    ro "TILE.PLAN_ID" 0x0108,
    ro "TILE.PLAN_VAR" 0x010C,
    ro "TILE.HBANK" 0x0800,
    ro "TILE.PAIL_CE" 0x0804,
    ro "TILE.PAIL_UE" 0x0808,
    rw "TILE.ECC_INJECT" 0x080C 0x3,
    ro "TILE.TRACK_LOST" 0x0810,
    rw "TILE.CC_CFG" 0x0840 0xFFF 0 16,
    ro "TILE.CC_BAL" 0x0880 0 16,
    rw "TILE.CW_CFG" 0x08C0 0x1FFFF 0 16,
    rw "TILE.CC_PRE" 0x0900 0xFFFFFF 0 16,
    rw "TILE.SUBST 0-1" 0x0A00 0xF 0 2,
    rw "TILE.SUBST 2-3" 0x0A08 0xFF 0 2,
    rw "TILE.SUBST 4-5" 0x0A10 0xFFFF 0 2,
    rw "TILE.SUBST 6" 0x0A18 0xFFFFFFFF,
    rw "TILE.SUBST 7-8" 0x0A1C 0xFF 0 2,
    rw "TILE.SUBST 9-A" 0x0A24 0xFFFF 0 2,
    rw "TILE.SUBST B" 0x0A2C 0xFFFFFFFF,
    rw "TILE.SUBST C" 0x0A30 0xFF000F,
    rw "TILE.SUBST D" 0x0A34 0xFF00FF,
    rw "TILE.SUBST E" 0x0A38 0xFFFF0003,
    rw "TILE.SUBST F" 0x0A3C 0x3FF,
    rw "TILE.SUBST 10" 0x0A40 0xFFF,
    rw "TILE.SUBST 11" 0x0A44 0xFF,
    rw "TILE.SR_SEED" 0x0A48 0xFFFFFFFF,
    ro "TILE.SR_WINDOW" 0x0A4C,
    rw "TILE.LSYNC" 0x0B00 0xFFFFFFFF 0 32,
    rw "TILE.LSYNC_FRAME" 0x0B80 0xFFFFFFFF,
    rw "TILE.LSYNC_TICKZERO" 0x0B84 0xFFFFFFFF,
    ro "TILE.LSYNC_DROP" 0x0B88,
    ro "TILE.LSYNC_DROP_INFO" 0x0B8C,
    rw "TILE.LV_CFG" 0x0C00 0x7,
    ro "TILE.LV_STAT" 0x0C04,
    ro "TILE.LV_OVERDRAW" 0x0C08,
    rw "TILE.TR_CFG" 0x0D00 0xFFFF01,
    rw "TILE.TR_OBJ" 0x0D04 0x0FFF0FFF 0x0FFF0000,
    ro "TILE.TR_LOST" 0x0D08,
    ro "TILE.TR_FILL" 0x0D0C,
    ro "TILE.MESH_ASYNC_FLITS" 0x0E00,
    ro "TILE.MESH_ASYNC_HOLD" 0x0E04 ]

/-- The rows of one shared block, by block number base[23:16] (R67). -/
def blockRows (b : Nat) : List RegRow :=
  match b with
  | 0 => topRows | 1 => tickRows | 2 => scanRows | 3 => bellRows | 4 => leaveRows | 5 => syncRows
  | 6 => ladleRows | 7 => hostRows ++ msixRows | 8 => vatcRows | 9 => errRows | 10 => dbgRows
  | 11 => flashRows | 12 => mhcRows | _ => []

/-- The base of TILE t (R67). -/
def tileBase (t : Nat) : Nat := 0x30100000 + t * 0x1000

/-- a is an address of a TILE block (R66). -/
def isTileReg (a : Nat) : Bool := decide (0x30100000 ≤ a) && decide (a < 0x30140000)

/-- a lies in one of the 13 shared register blocks (R66). -/
def isSharedReg (a : Nat) : Bool := decide (0x30000000 ≤ a) && decide (a < 0x300D0000)

/-- a lies in a register block (R66). -/
def isRegAddr (a : Nat) : Bool := isSharedReg a || isTileReg a

/-- Row r holds offset a. -/
def RegRow.has (r : RegRow) (a : Nat) : Bool :=
  decide (r.addr ≤ a) && decide ((a - r.addr) % r.stride = 0) && decide ((a - r.addr) / r.stride < r.count)

/-- The row of a register address; `none` at an unassigned offset (R13). -/
def regRow (a : Nat) : Option RegRow :=
  if isTileReg a then tileRows.find? (·.has (a % 0x1000))
  else if isSharedReg a then (blockRows (a / 0x10000 % 0x100)).find? (·.has a)
  else none

/-- The reset value of the register at an address (the rules named at the rows); 0 where there is none. -/
def regReset (a : Nat) : Word :=
  match regRow a with
  | some r => BitVec.ofNat 32 r.reset
  | none => 0

/-! ### The addresses the model names -/

abbrev rBootStage : Nat := 0x30000004
abbrev rReadyCfg : Nat := 0x30000008
abbrev rEarlyDrop : Nat := 0x3000000C
abbrev rEpoch : Nat := 0x30000010
abbrev rHeartbeat : Nat := 0x30000014
abbrev rFuseInfo : Nat := 0x30000018
abbrev rWoState : Nat := 0x3000001C
abbrev rBoardId : Nat := 0x30000028
abbrev rSubsys : Nat := 0x3000002C
abbrev rKeyhash (i : Nat) : Nat := 0x30000030 + 4 * i
abbrev rTshadow (i : Nat) : Nat := 0x30000060 + 4 * i
abbrev rGpioIn : Nat := 0x30000080
abbrev rGpioOut : Nat := 0x30000084
abbrev rGpioDir : Nat := 0x30000088
abbrev rGpioOd : Nat := 0x3000008C
abbrev rTopLock : Nat := 0x300000F0

abbrev rTickStatus : Nat := 0x30010000
abbrev rLine : Nat := 0x30010004
abbrev rFrame : Nat := 0x30010008
abbrev rCkrel : Nat := 0x3001000C
abbrev rBudget : Nat := 0x30010010
abbrev rMinper : Nat := 0x30010014
abbrev rLineCk : Nat := 0x30010018
abbrev rFrObj : Nat := 0x3001001C
abbrev rFrTarget : Nat := 0x30010020
abbrev rLastPeriod : Nat := 0x30010024
abbrev rLastVb : Nat := 0x30010028
abbrev rForcedCount : Nat := 0x3001002C
abbrev rNdetCtrl : Nat := 0x30010030
/-- counter pairs: 0 cache, 1 gap fill, 2 leave wait, 3 late band, 4 urgent, 5 sum (R45) -/
abbrev rNdet (k : Nat) : Nat := 0x30010040 + 8 * k
abbrev rNdetFrame : Nat := 0x30010070

abbrev rTs (i : Nat) : Nat := 0x30020000 + 4 * i
abbrev rTsCommit : Nat := 0x30020018
abbrev rOutMode : Nat := 0x30020020
abbrev rOutNow : Nat := 0x30020024
abbrev rTeCfg : Nat := 0x30020028
abbrev rTeLine : Nat := 0x3002002C
abbrev rTeCount : Nat := 0x30020030
abbrev rTeMiss : Nat := 0x30020034
abbrev rBg : Nat := 0x30020040
abbrev rCreamWm : Nat := 0x30020044
abbrev rLeadMax : Nat := 0x30020048
abbrev rPlanLayers : Nat := 0x3002004C
abbrev rFstat : Nat := 0x30020050
abbrev rVokCtrl : Nat := 0x30020054
abbrev rCritCount : Nat := 0x30020058
abbrev rHandleErr : Nat := 0x3002005C
abbrev rOcc (o : Nat) : Nat := 0x30020060 + 4 * o
abbrev rDpCtrl (o : Nat) : Nat := 0x30020080 + 0x40 * o
abbrev rDpStatus (o : Nat) : Nat := 0x30020084 + 0x40 * o
abbrev rAuxCmd (o : Nat) : Nat := 0x30020088 + 0x40 * o
abbrev rAuxStat (o : Nat) : Nat := 0x3002008C + 0x40 * o
abbrev rAuxData (o i : Nat) : Nat := 0x30020090 + 0x40 * o + 4 * i
/-- layer k's register at offset off (R431) -/
abbrev rLayer (k off : Nat) : Nat := 0x30020100 + 0x40 * k + off
abbrev rSkimCtrl : Nat := 0x30020200
abbrev rSkimBg : Nat := 0x30020204
abbrev rSkimBorder : Nat := 0x30020208
abbrev rSkTile (i off : Nat) : Nat := 0x30020400 + 32 * i + off

abbrev rSrc (n : Nat) : Nat := 0x30030000 + 4 * n
abbrev rPend (w : Nat) : Nat := 0x30030800 + 4 * w
abbrev rLevel (w : Nat) : Nat := 0x30030840 + 4 * w
abbrev rGroup (g : Nat) : Nat := 0x30030900 + 4 * g
abbrev rBellCtrl : Nat := 0x30030A00
abbrev rEoiErr : Nat := 0x30030A04
abbrev rMsip (s : Nat) : Nat := 0x30030A10 + 4 * s
abbrev rMtime : Nat := 0x30030A20
abbrev rMtimecmp (s : Nat) : Nat := 0x30030A30 + 8 * s
abbrev rClaim (m : Nat) : Nat := 0x30031000 + 0x100 * m
abbrev rEoi (m : Nat) : Nat := 0x30031004 + 0x100 * m
abbrev rRunprio (m : Nat) : Nat := 0x30031008 + 0x100 * m
abbrev rTopSrc (m : Nat) : Nat := 0x3003100C + 0x100 * m

abbrev rBudgetCap : Nat := 0x30040000
abbrev rLvAgeStep : Nat := 0x30040004
abbrev rLvStatus : Nat := 0x30040008
abbrev rStanding : Nat := 0x3004000C
abbrev rPeak : Nat := 0x30040010
abbrev rResNow : Nat := 0x30040014
abbrev rDyn : Nat := 0x30040018
abbrev rThrotCfg : Nat := 0x3004001C
abbrev rThermCfg : Nat := 0x30040020
abbrev rThermCtrl : Nat := 0x30040024
abbrev rThermClk : Nat := 0x30040028
abbrev rIdleClk : Nat := 0x3004002C
abbrev rClkNow : Nat := 0x30040030
abbrev rThermEvents : Nat := 0x30040034
abbrev rTempMax : Nat := 0x30040038
abbrev rTemp (i : Nat) : Nat := 0x30040040 + 4 * i
abbrev rPdCtrl (w : Nat) : Nat := 0x30040080 + 4 * w
abbrev rPdOn (w : Nat) : Nat := 0x30040090 + 4 * w
abbrev rPdBusy : Nat := 0x300400A0
abbrev rPdErr : Nat := 0x300400A4
abbrev rOverdraw : Nat := 0x300400B0
abbrev rOverdrawInfo : Nat := 0x300400B4
abbrev rLvReq (r : Nat) : Nat := 0x30040100 + 4 * r

abbrev rCount (n : Nat) : Nat := 0x30050000 + 4 * n
abbrev rAddReg (n : Nat) : Nat := 0x30052000 + 4 * n
abbrev rTickval (n : Nat) : Nat := 0x30054000 + 4 * n
abbrev rFrameMap (w : Nat) : Nat := 0x30056000 + 4 * w
abbrev rTickarmMap (w : Nat) : Nat := 0x30056100 + 4 * w
abbrev rPace : Nat := 0x30056200
abbrev rDrop : Nat := 0x30056204
abbrev rDropInfo : Nat := 0x30056208
abbrev rWatchCfg (w : Nat) : Nat := 0x30056300 + 16 * w
abbrev rWatchTarget (w : Nat) : Nat := 0x30056304 + 16 * w
abbrev rWatchStatus (w : Nat) : Nat := 0x30056308 + 16 * w

abbrev rLAgeStep : Nat := 0x30060000
abbrev rLWindow : Nat := 0x30060004
abbrev rLstat (l : Nat) : Nat := 0x30060010 + 4 * l
abbrev rFaultIdx (l : Nat) : Nat := 0x30060050 + 4 * l
abbrev rQcfg (q : Nat) : Nat := 0x30060100 + 4 * q
abbrev rSmask (s h : Nat) : Nat := 0x30060400 + 8 * s + 4 * h
abbrev rDiscard : Nat := 0x30060600
abbrev rNoentry : Nat := 0x30060604
abbrev rWoSkip : Nat := 0x30060608
abbrev rNoteUnmapped : Nat := 0x3006060C
abbrev rDescFaults : Nat := 0x30060610
abbrev rHostErr : Nat := 0x30060614
abbrev rSringBase (k : Nat) : Nat := 0x30060700 + 16 * k
abbrev rSringCfg (k : Nat) : Nat := 0x30060704 + 16 * k
abbrev rSringTail (k : Nat) : Nat := 0x30060708 + 16 * k
abbrev rSringHead (k : Nat) : Nat := 0x3006070C + 16 * k
abbrev rLSubst (f : Nat) : Nat := 0x30060800 + 4 * f
abbrev rDmap (t i : Nat) : Nat := 0x30061000 + 4 * (16 * t + i)

abbrev rLink : Nat := 0x30070000
abbrev rWinBase : Nat := 0x30070004
abbrev rSubsysId : Nat := 0x30070008
abbrev rDbErr : Nat := 0x3007000C
abbrev rDbErrCount : Nat := 0x30070010
abbrev rFlrCount : Nat := 0x30070014
abbrev rEvent : Nat := 0x30070018
abbrev rEventEn : Nat := 0x3007001C
abbrev rSmsg : Nat := 0x30070020
abbrev rMsg (d : Nat) : Nat := 0x30070040 + 4 * d
abbrev rSentBase : Nat := 0x30070080
abbrev rSentHead : Nat := 0x30070084
abbrev rSentTail : Nat := 0x30070088
abbrev rSdoneDetail (h : Nat) : Nat := 0x3007008C + 4 * h
abbrev rSdone : Nat := 0x30070094
/-- queue q's register at offset off (R388) -/
abbrev rQueue (q off : Nat) : Nat := 0x30071000 + 32 * q + off
abbrev rMsix (v off : Nat) : Nat := 0x30078000 + 16 * v + off
abbrev rPba (w : Nat) : Nat := 0x30079000 + 4 * w

abbrev rCacheCfg : Nat := 0x30080000
abbrev rCacheStatus : Nat := 0x30080004
abbrev rCacheCtrl : Nat := 0x30080008
abbrev rCacheLo : Nat := 0x3008000C
abbrev rCacheHi : Nat := 0x30080010
abbrev rCacheHits : Nat := 0x30080014
abbrev rCacheMisses : Nat := 0x30080018
abbrev rCacheWb : Nat := 0x3008001C
abbrev rVhBank : Nat := 0x30080020
abbrev rSliceCe (n : Nat) : Nat := 0x30080040 + 4 * n
abbrev rSliceUe (n : Nat) : Nat := 0x30080060 + 4 * n
abbrev rSliceInject (n : Nat) : Nat := 0x30080080 + 4 * n
abbrev rSliceTrackLost (n : Nat) : Nat := 0x300800A0 + 4 * n
abbrev rRepairCtrl : Nat := 0x300800C0
abbrev rRepairApplied : Nat := 0x300800C4
abbrev rRepairSkipped : Nat := 0x300800C8

abbrev rRecCount : Nat := 0x30090000
abbrev rErrLost : Nat := 0x30090004
abbrev rLimits : Nat := 0x30090040
abbrev rAbsorbed : Nat := 0x30090044
abbrev rTrec (h : Nat) : Nat := 0x30090048 + 4 * h
abbrev rTout (h : Nat) : Nat := 0x30090050 + 4 * h
abbrev rSsub (h : Nat) : Nat := 0x30090058 + 4 * h
abbrev rSsubPub : Nat := 0x30090070
abbrev rFallback : Nat := 0x30090074
abbrev rWdogCfg : Nat := 0x30090078
abbrev rWoCount : Nat := 0x30090090
abbrev rWoAddr : Nat := 0x30090094
abbrev rWoData : Nat := 0x30090098
abbrev rWoLog : Nat := 0x3009009C
abbrev rCandLost : Nat := 0x300900A8
abbrev rErrLock : Nat := 0x300900F0

abbrev rDbgCtrl : Nat := 0x300A0000
abbrev rDbgStatus : Nat := 0x300A0010
abbrev rSchedCk : Nat := 0x300A0014
abbrev rStopFrame : Nat := 0x300A0018
abbrev rTicksHeld : Nat := 0x300A001C
abbrev rAuth : Nat := 0x300A0030
abbrev rPermaDisable : Nat := 0x300A0038
abbrev rSctrl (s : Nat) : Nat := 0x300A0100 + 0x40 * s
abbrev rSstat (s : Nat) : Nat := 0x300A0104 + 0x40 * s
abbrev rSbpAddr (s k : Nat) : Nat := 0x300A0110 + 0x40 * s + 8 * k
abbrev rSbpCfg (s k : Nat) : Nat := 0x300A0114 + 0x40 * s + 8 * k
abbrev rTrBase : Nat := 0x300A0200
abbrev rTrSize : Nat := 0x300A0204
abbrev rTrHead : Nat := 0x300A0208
abbrev rTrTail : Nat := 0x300A020C
abbrev rTrCtrl : Nat := 0x300A0210
abbrev rTrLost : Nat := 0x300A0214
abbrev rTrNotify : Nat := 0x300A0218

abbrev rFlashId : Nat := 0x300B0000
abbrev rFlashGeom : Nat := 0x300B0004
abbrev rFlashOwner : Nat := 0x300B0008
abbrev rFlashReq : Nat := 0x300B000C
abbrev rCpSrc : Nat := 0x300B0010
abbrev rCpDst : Nat := 0x300B0014
abbrev rCpLen : Nat := 0x300B0018
abbrev rCpCtrl : Nat := 0x300B001C
abbrev rCpStatus : Nat := 0x300B0020
abbrev rErAddr : Nat := 0x300B0024
abbrev rErCtrl : Nat := 0x300B0028
abbrev rHash (i : Nat) : Nat := 0x300B0040 + 4 * i
abbrev rFlashBoot : Nat := 0x300B0080
abbrev rRepairRec : Nat := 0x300B0084

abbrev rMreq : Nat := 0x300C0000
abbrev rMresp : Nat := 0x300C0004
abbrev rWiredLvl : Nat := 0x300C0010
abbrev rMClaim : Nat := 0x300C0020
abbrev rMEoi : Nat := 0x300C0024
abbrev rSb2hData (i : Nat) : Nat := 0x300C0040 + 4 * i
abbrev rSb2hCtrl : Nat := 0x300C0080
abbrev rH2sbData (i : Nat) : Nat := 0x300C00C0 + 4 * i
abbrev rH2sbCtrl : Nat := 0x300C0100
abbrev rH2sbDrop : Nat := 0x300C0104
abbrev rSbmsg (d : Nat) : Nat := 0x300C0140 + 4 * d
abbrev rSbStatus : Nat := 0x300C0180

/-- TILE t's register at offset off (R185). -/
abbrev rTile (t off : Nat) : Nat := tileBase t + off
abbrev oTileCfg : Nat := 0x0000
/-- HALTED is its stored bit 1 -/
abbrev oTileStatus : Nat := 0x0004
abbrev oHaltCtrl : Nat := 0x0008
abbrev oThreadCtrl : Nat := 0x000C
abbrev oEntry (j : Nat) : Nat := 0x0030 + 4 * j
abbrev oFaultCount : Nat := 0x0070
abbrev oPoisonCount : Nat := 0x0074
abbrev oFaultInfo : Nat := 0x0078
abbrev oFaultAddr : Nat := 0x007C
abbrev oFaultCk : Nat := 0x0080
abbrev oIbufSrc : Nat := 0x0088
abbrev oIbufCtrl : Nat := 0x008C
abbrev oIbufCe : Nat := 0x0090
abbrev oLedgerSlack : Nat := 0x0100
abbrev oLedgerRecs : Nat := 0x0104
abbrev oPlanId : Nat := 0x0108
abbrev oPlanVar : Nat := 0x010C
abbrev oHbank : Nat := 0x0800
abbrev oPailCe : Nat := 0x0804
abbrev oPailUe : Nat := 0x0808
abbrev oEccInject : Nat := 0x080C
abbrev oTrackLost : Nat := 0x0810
abbrev oCcCfg (k : Nat) : Nat := 0x0840 + 4 * k
abbrev oCcBal (k : Nat) : Nat := 0x0880 + 4 * k
abbrev oCwCfg (w : Nat) : Nat := 0x08C0 + 4 * w
abbrev oCcPre (k : Nat) : Nat := 0x0900 + 4 * k
abbrev oSubst (f : Nat) : Nat := 0x0A00 + 4 * f
abbrev oSrSeed : Nat := 0x0A48
abbrev oSrWindow : Nat := 0x0A4C
abbrev oLsync (k : Nat) : Nat := 0x0B00 + 4 * k
abbrev oLsyncFrame : Nat := 0x0B80
abbrev oLsyncTickzero : Nat := 0x0B84
abbrev oLsyncDrop : Nat := 0x0B88
abbrev oLsyncDropInfo : Nat := 0x0B8C
abbrev oLvCfg : Nat := 0x0C00
abbrev oLvOverdraw : Nat := 0x0C08
abbrev oTrCfg : Nat := 0x0D00
abbrev oTrObj : Nat := 0x0D04
abbrev oTrLost : Nat := 0x0D08
abbrev oMeshFlits : Nat := 0x0E00
abbrev oMeshHold : Nat := 0x0E04

end Sys2Proof.Machine
end

