-- ==== Sys2Proof/Machine/Ops.lean ====
section
/-!
DEFINITION. The named operations over the state: the sparse maps, registers and their fields, tiles and threads,
memory bytes with their check bits, claims and reservations, the fault records, the Bell requests and the trace units.
-/

namespace Sys2Proof.Machine

/-! ### Sparse maps -/

/-- The value at a key; an unlisted key holds `d k`. -/
def Sparse.get {β : Type} (d : Nat → β) (m : List (Nat × β)) (k : Nat) : β :=
  match m with
  | [] => d k
  | (k', v) :: r => if k' = k then v else Sparse.get d r k

/-- The entry (k, v) inserted in order, replacing one of the same key. -/
def Sparse.insert {β : Type} (m : List (Nat × β)) (k : Nat) (v : β) : List (Nat × β) :=
  match m with
  | [] => [(k, v)]
  | (k', v') :: r =>
    if k < k' then (k, v) :: (k', v') :: r
    else if k = k' then (k, v) :: r
    else (k', v') :: Sparse.insert r k v

/-- Writing a value; a value equal to the unlisted one removes the entry, so that equal maps are equal data. -/
def Sparse.set {β : Type} [DecidableEq β] (d : Nat → β) (m : List (Nat × β)) (k : Nat) (v : β) : List (Nat × β) :=
  if v = d k then m.filter (fun e => decide (e.1 ≠ k)) else Sparse.insert m k v

/-- The canonical form: keys strictly rising, no entry equal to what an unlisted key holds. -/
def Sparse.wf {β : Type} [DecidableEq β] (d : Nat → β) (m : List (Nat × β)) : Bool :=
  match m with
  | [] => true
  | [(k, v)] => decide (v ≠ d k)
  | (k, v) :: (k', v') :: r => decide (k < k') && decide (v ≠ d k) && Sparse.wf d ((k', v') :: r)

/-- Every entry with a key in lo … hi − 1 removed. -/
def Sparse.drop {β : Type} (m : List (Nat × β)) (lo hi : Nat) : List (Nat × β) :=
  m.filter (fun e => decide (e.1 < lo) || decide (hi ≤ e.1))

/-! ### Bit fields of words -/

/-- Bits [lo + n − 1 : lo] of a word, as a number. -/
def fld (w : Word) (lo n : Nat) : Nat := (w.toNat / 2 ^ lo) % 2 ^ n

/-- Bit i of a word. -/
def bit (w : Word) (i : Nat) : Bool := w.getLsbD i

/-- The mask of n bits from lo. -/
def maskOf (lo n : Nat) : Word := BitVec.ofNat 32 ((2 ^ n - 1) * 2 ^ lo)

/-- Word w with bits [lo + n − 1 : lo] replaced by v. -/
def setFld (w : Word) (lo n v : Nat) : Word :=
  (w &&& ~~~ maskOf lo n) ||| (BitVec.ofNat 32 ((v % 2 ^ n) * 2 ^ lo))

/-- Word w with bit i set to b. -/
def setBit (w : Word) (i : Nat) (b : Bool) : Word := setFld w i 1 (if b then 1 else 0)

/-- A saturating increment by n. -/
def satAdd (w : Word) (n : Nat) : Word :=
  if 0xFFFFFFFF ≤ w.toNat + n then 0xFFFFFFFF else w + BitVec.ofNat 32 n

/-- 1 for true. -/
def b2n (b : Bool) : Nat := if b then 1 else 0

/-! ### Registers -/

/-- The stored value of the register at an address. -/
def State.reg (s : State) (a : Nat) : Word := Sparse.get regReset s.regs a

/-- The register at an address set to a value. -/
def State.setReg (s : State) (a : Nat) (v : Word) : State := { s with regs := Sparse.set regReset s.regs a v }

/-- The register at an address changed by a function. -/
def State.modReg (s : State) (a : Nat) (f : Word → Word) : State := s.setReg a (f (s.reg a))

/-- A counter register that saturates, raised by n. -/
def State.satReg (s : State) (a : Nat) (n : Nat := 1) : State := s.modReg a (fun w => satAdd w n)

/-- A counter register that wraps, raised by n. -/
def State.incReg (s : State) (a : Nat) (n : Nat := 1) : State := s.modReg a (fun w => w + BitVec.ofNat 32 n)

/-- Hardware sets W1C bits of a register in this ck (R10). -/
def State.noteSet (s : State) (a : Nat) (m : Word) : State := { s with now := { s.now with hwSet := (a, m) :: s.now.hwSet } }

/-- The bits of a register that hardware has set in this ck. -/
def State.hwSetBits (s : State) (a : Nat) : Word :=
  (s.now.hwSet.filter (fun p => p.1 == a)).foldl (fun w p => w ||| p.2) 0

/-- The last write noted in this ck is the one of master `code` to the register at a. -/
def CkNotes.lastIs (n : CkNotes) (code a : Nat) : Bool :=
  match n.wrote.getLast? with
  | some p => p.1 == a && p.2.2 == code
  | none => false

/-- A master's write of a register noted, with the register's value before the first one of this ck (R11). -/
def State.noteWrite (s : State) (code a : Nat) : State :=
  if s.now.lastIs code a then s
  else { s with now := { s.now with wrote := s.now.wrote ++ [(a, s.reg a, code)] } }

/-- The write just noted is refused: it changes no field, and takes nothing from a hardware update (R11). -/
def State.unnote (s : State) (code a : Nat) : State :=
  if s.now.lastIs code a then { s with now := { s.now with wrote := s.now.wrote.dropLast } } else s

/-- A master has written the register in this ck (R11). -/
def State.wroteNow (s : State) (a : Nat) : Bool := s.now.wrote.any (fun p => p.1 == a)

/-- The value of a register at the start of this ck, where masters' writes alone change it. -/
def State.regBefore (s : State) (a : Nat) : Word :=
  match s.now.wrote.find? (fun p => p.1 == a) with
  | some p => p.2.1
  | none => s.reg a

/-- A hardware update of an RW register: lost where a master has written the register in the same ck (R11). -/
def State.hwReg (s : State) (a : Nat) (v : Word) : State := s.setReg a (if s.wroteNow a then s.reg a else v)

/-- Bits of a register set by hardware. -/
def State.orReg (s : State) (a : Nat) (m : Word) : State := (s.modReg a (fun w => w ||| m)).noteSet a m

/-- Bits of a register cleared. -/
def State.clrReg (s : State) (a : Nat) (m : Word) : State := s.modReg a (fun w => w &&& ~~~ m)

/-- The registers at addresses lo … hi − 1 returned to their reset values (R605). -/
def State.resetRegs (s : State) (lo hi : Nat) : State := { s with regs := Sparse.drop s.regs lo hi }

/-- CREAM_WM: a value that breaks 1 ≤ CRIT < LOW stores 16 and 4 (R416). -/
def creamWm (v : Word) : Word :=
  if 1 ≤ fld v 8 6 && fld v 8 6 < fld v 0 6 then v &&& 0x3F3F else 0x0410

/-- LEAD_MAX: lines 1–64, others taken as the nearest (DESIGN CHOICE, notes/assumptions/72.md). -/
def leadMaxOf (v : Word) : Word := BitVec.ofNat 32 (max 1 (min 64 (fld v 0 7)))

/-- An ELEM of 0b10 in substitution entry E stores 0b00 (R143). -/
def substE (v : Word) : Word := if fld v 0 2 = 2 then setFld v 0 2 0 else v

/-- TILE t's stored register at an offset. -/
def State.treg (s : State) (t off : Nat) : Word := s.reg (rTile t off)

/-! ### Free values -/

/-- One free 32-bit value, and the state after drawing it (notes/assumptions/2.md). -/
def State.fresh (s : State) : Word × State := (Config.freeWord s.free, { s with free := s.free + 1 })

/-! ### Tiles and threads -/

/-- Tile t. -/
def State.tile (s : State) (t : TileId) : Tile := s.tiles[t]

/-- Tile t replaced. -/
def State.setTile (s : State) (t : TileId) (x : Tile) : State := { s with tiles := s.tiles.set t x }

/-- Tile t changed by a function. -/
def State.modTile (s : State) (t : TileId) (f : Tile → Tile) : State := s.setTile t (f (s.tile t))

/-- Thread th of a tile. -/
def Tile.thr (x : Tile) (th : ThreadId) : Thread := x.th[th]

/-- Thread th of a tile replaced. -/
def Tile.setThr (x : Tile) (th : ThreadId) (y : Thread) : Tile := { x with th := x.th.set th y }

/-- Thread th of tile t. -/
def State.thr (s : State) (t : TileId) (th : ThreadId) : Thread := (s.tile t).thr th

/-- Thread th of tile t changed by a function. -/
def State.modThr (s : State) (t : TileId) (th : ThreadId) (f : Thread → Thread) : State :=
  s.modTile t (fun x => x.setThr th (f (x.thr th)))

/-- A tile number from a natural number. -/
def tid (n : Nat) : TileId := Fin.ofNat 64 n

/-- A thread number from a natural number. -/
def thid (n : Nat) : ThreadId := Fin.ofNat 8 n

/-- Every tile changed by a function of its number. -/
def State.mapTiles (s : State) (f : TileId → Tile → Tile) : State :=
  { s with tiles := Vector.ofFn (fun i => f i s.tiles[i]) }

/-- All tile numbers. -/
def allTiles : List TileId := List.finRange 64

/-- All thread numbers. -/
def allThreads : List ThreadId := List.finRange 8

/-- Round length k of the tile (R152, R186). -/
def roundLen (cfg : Word) : Nat := 2 ^ fld cfg 0 2

/-- Thread th is marked frame (R154). -/
def isFrameThread (cfg : Word) (th : Nat) : Bool := bit cfg (8 + th)

/-- Thread th of tile t is a frame thread under the configuration in force (R154). -/
def State.isFrame (s : State) (t : TileId) (th : ThreadId) : Bool := isFrameThread (s.tile t).cfgNow th.val

/-! ### Power (R466, R606) -/

/-- Domain d is on (LEAVE.PD_ON, R492; its register is the state). PD0 is on while VDD_AON is present (R465). -/
def State.pdOn (s : State) (d : Nat) : Bool :=
  if d = 0 then s.milk.aon else bit (s.reg (rPdOn (d / 32))) (d % 32)

/-! ### Counters of R42 -/

/-- Counter k of R42 and the sum raised by n; k is 0 cache, 1 gap fill, 2 leave wait, 3 late band, 4 urgent. -/
def State.countNdet (s : State) (k : Fin 5) (n : Nat := 1) : State :=
  let v := s.tick.ndet
  let i : Fin 6 := ⟨k.val, by omega⟩
  let v := v.set i.val (v[i] + BitVec.ofNat 64 n) i.isLt
  let v := v.set 5 (v[5] + BitVec.ofNat 64 n)
  let u := s.now.ndet
  let u := u.set i.val (u[i] + BitVec.ofNat 64 n) i.isLt
  let u := u.set 5 (u[5] + BitVec.ofNat 64 n)
  { s with
    tick := { s.tick with ndet := v }
    now := { s.now with ndet := u } }

/-! ### Flits (R57–R63) -/

/-- x inserted before the first element that it precedes. -/
def insertBy {β : Type} (le : β → β → Bool) (x : β) : List β → List β
  | [] => [x]
  | y :: r => if le x y then x :: y :: r else y :: insertBy le x r

/-- A data flit that travels with a request word holding its address (R58). -/
def Payload.addressed : Payload → Bool
  | .remoteWrite .. => true
  | .vatWrite .. => true
  | .narrow _ q => q.wr.isSome
  | .cacheAsk r => r.wr.isSome
  | _ => false

/-- The flit uses this lane of a link. -/
def Flit.uses (f : Flit) (l : MeshLane) : Bool := f.lane == l || f.body.addressed

/-- The lanes that a flit uses, as a list. -/
def Flit.lanes (f : Flit) : List MeshLane := [MeshLane.data, MeshLane.request].filter (fun l => f.uses l)

/-- A flit or request word added to the mesh. -/
def State.addFlit (s : State) (f : Flit) : State :=
  { s with mesh := { s.mesh with flits := s.mesh.flits ++ [{ f with age := s.mesh.age }], age := s.mesh.age + 1 } }

/-- An injection link of router `r` taken in this ck by a reserved flit. -/
def State.noteSent (s : State) (r inp : Nat) (ls : List MeshLane) : State :=
  { s with mesh := { s.mesh with sent := ls.map (fun l => (r, inp, l)) ++ s.mesh.sent } }

/-- A reserved flit injected in this ck by input `inp` of its router: it arrives h ck later and is never delayed
(R59). -/
def State.sendFrame (s : State) (body : Payload) (lane : MeshLane) (cls : SlotClass) (src dst port h : Nat)
    (inp : Nat := 0) : State :=
  let f : Flit := { body := body, lane := lane, cls := cls, src := src, dst := dst, port := port, frame := true, age := 0
                    pos := .delivered (s.fck + h), moved := 0, inp := inp, born := s.ck }
  (s.noteSent src inp f.lanes).addFlit f

/-- A flit or word of asynchronous traffic, waiting at its source for an injection cycle (R61), from `delay` ck on. It
enters its router from the tile, or by the edge input `inp`. -/
def State.sendAsync (s : State) (body : Payload) (lane : MeshLane) (cls : SlotClass) (src dst port : Nat)
    (delay : Nat := 0) (inp : Nat := 0) : State :=
  s.addFlit { body := body, lane := lane, cls := cls, src := src, dst := dst, port := port, frame := false, age := 0,
              pos := .source (s.ck + delay), moved := 0, inp := inp, born := s.ck }

/-- The slot table of router r (KIND 0x05, R330). -/
def State.routerSlots (s : State) (r : Nat) : List SlotRec := Sparse.get (fun _ => []) s.mesh.slots r

/-- Router and port of Ladle l (R292, R652). -/
def ladleRouter (l : Nat) : Nat := 4 + l / 4
def ladlePort (l : Nat) : Nat := if ladleRouter l = 7 then 1 else 5

/-! ### Fault records and the Bell (R450, R494, R495) -/

/-- The router of the Bell core, (6, 7) (R54). -/
def bellRouter : Nat := 62

/-- Router and input by which the block of a Bell source sends its messages (R650): scan-out with the timing generator,
the host link, a tile, a Ladle. The other sources lie in PD7, or in the Milkhouse, and have wires (R451; DEDUCED for
the timing generator and the Milkhouse, notes/assumptions/76.md). -/
def bellRoute (n : Nat) : Option (Nat × Nat) :=
  if decide (1 ≤ n ∧ n ≤ 5) || decide (8 ≤ n ∧ n ≤ 13) then some (56, 3)
  else if decide (32 ≤ n ∧ n ≤ 34) || decide (480 ≤ n ∧ n ≤ 495) then some (2, 5)
  else if decide (80 ≤ n ∧ n ≤ 143) then some (n - 80, 0)
  else if decide (144 ≤ n ∧ n ≤ 159) then some (ladleRouter (n - 144), ladlePort (n - 144))
  else none

/-- A message of source n over a wire, or recorded by the front end while PD7 is off (R451, R464). -/
def State.bellWire (s : State) (n : Nat) : State := { s with bellMsgs := s.bellMsgs ++ [n] }

/-- A message of source n sent through the mesh by input `inp` of router `r`: an asynchronous flit of the remote class
that carries the source and its value (R48, R57, R58). -/
def State.bellVia (s : State) (r inp n : Nat) (value : Bool := true) : State :=
  if s.pdOn 7 then s.sendAsync (.bellMsg n value) .data .remote r bellRouter 5 0 inp else s.bellWire n

/-- A source request sent to the Bell (R450, R451). -/
def State.bell (s : State) (n : Nat) : State :=
  match bellRoute n with
  | some (r, i) => s.bellVia r i n
  | none => s.bellWire n

/-- A record sent to the error aggregator (R494, R495), stamped with this ck. -/
def State.post (s : State) (code level unit index : Nat) (addr info : Word) : State :=
  { s with
    errs := s.errs ++
      [{ code := code, level := level, unit := unit, index := index, frame := s.reg rFrame, ckrel := s.reg rCkrel,
         epoch := s.reg rEpoch, addr := addr, info := info }] }

/-- The code of a master (R496). -/
def masterCode : Master → Nat
  | .host => 0
  | .milkhouse => 1
  | .steward k => 2 + k.val
  | .debug => 6
  | .swap => 7

/-- A register access fault of a block (R8, R498): record 0x50 with the register's address and the master. -/
def State.regFault (s : State) (m : Master) (a : Nat) : State :=
  s.post 0x50 0 10 (a / 0x10000 % 0x100) (BitVec.ofNat 32 a) (BitVec.ofNat 32 (masterCode m))

/-- A write that the block of the register refuses, with its fault. -/
def State.regRefuse (s : State) (m : Master) (a : Nat) : State := (s.unnote (masterCode m) a).regFault m a

/-- The power domain of a register's place (R605): a tile's router registers lie in PD7. -/
def regDomain (a : Nat) : Nat :=
  if isTileReg a then
    if 0xE00 ≤ a % 0x1000 && a % 0x1000 < 0xF00 then 7 else 16 + (a - 0x30100000) / 0x1000
  else
    match (a - 0x30000000) / 0x10000 with
    | 0 => 0 | 1 => 3 | 2 => 3 | 6 => 6 | 7 => 2 | 0xB => 0 | 0xC => 0 | _ => 7

/-- A register's domain is on; a slice's registers in VATC need the slice's too (R606). -/
def State.regOn (s : State) (a : Nat) : Bool :=
  s.pdOn (regDomain a) &&
    (if decide (rSliceCe 0 ≤ a) && decide (a < rRepairCtrl) then s.pdOn (8 + (a - rSliceCe 0) / 4 % 8) else true)

/-- The block number of a shared register. -/
def blockOf (a : Nat) : Nat := (a - 0x30000000) / 0x10000

/-- The Milkhouse writes TOP, ERR, FLASH and MHC (R50). -/
def milkWrites (a : Nat) : Bool :=
  isSharedReg a && (blockOf a == 0 || blockOf a == 9 || blockOf a == 0xB || blockOf a == 0xC)

/-- The Milkhouse also reads TICK and LEAVE (R50). -/
def milkReads (a : Nat) : Bool := milkWrites a || (isSharedReg a && (blockOf a == 1 || blockOf a == 4))

/-- The link is up. -/
def State.linkUp (s : State) : Bool := s.pdOn 2 && bit (s.reg rLink) 0

/-- The host reaches little yet, and the Ladles serve no copy: BOOT_STAGE is below 4, or 8 and above, where nothing runs
either (R532, R541; DEDUCED for the latter, notes/assumptions/62.md). -/
def State.early (s : State) : Bool :=
  let n := fld (s.reg rBootStage) 0 4
  decide (n < 4) || decide (8 ≤ n)

/-- A host write to a register that R532 discards: it is counted. -/
def State.earlyWrite (s : State) (a : Nat) : Bool := s.early && !(isSharedReg a && (blockOf a == 0 || blockOf a == 7))

/-- The master can send register accesses now: the host with its link up, the debug port under scope MEMORY (R68, R581). -/
def State.reaches (s : State) (m : Master) : Bool :=
  match m with
  | .host => s.linkUp && !s.host.perst
  | .debug => s.milk.scope.testBit 4
  | _ => true

/-- A write of a master reaching a register: discarded in a domain that is off (R606); the Milkhouse's are confined
(R50), the host's dropped while the stewards do not run (R532); otherwise `k` is its effect. -/
def State.regGate (s : State) (m : Master) (a : Nat) (k : State → State) : State :=
  if !s.reaches m then s
  else if m = .milkhouse && !milkWrites a then (if milkReads a then s.regFault m a else s)
  else if m = .host && s.earlyWrite a then s.satReg rEarlyDrop
  else if !s.regOn a then s
  else k (s.noteWrite (masterCode m) a)

/-! ### Memories (R66, R75, R78) -/

/-- What an unlisted byte reads as. -/
def memDflt (lost : List (Nat × Nat × Nat)) (a : Nat) : Byte :=
  match lost.find? (fun r => decide (r.1 ≤ a) && decide (a < r.2.1)) with
  | some r => Config.lostByte r.2.2 a
  | none => Config.memFill

/-- One byte of Pail, Vat or steward SRAM. -/
def MemState.byte (m : MemState) (a : Nat) : Byte := Sparse.get (memDflt m.lost) m.cells a

/-- One byte stored. -/
def MemState.setByte (m : MemState) (a : Nat) (b : Byte) : MemState :=
  { m with cells := Sparse.set (memDflt m.lost) m.cells a b }

/-- The check state of a word that nothing has written since its memory powered on: open (R112;
notes/assumptions/3.md). -/
def eccDflt (lost : List (Nat × Nat × Nat)) (wa : Nat) : Nat :=
  match lost.find? (fun r => decide (r.1 ≤ 8 * wa) && decide (8 * wa < r.2.1)) with
  | some r => Config.lostEcc r.2.2 wa
  | none => 0

/-- The check state of word wa: 0 valid, 1 a single-bit error, otherwise uncorrectable. -/
def MemState.eccAt (m : MemState) (wa : Nat) : Nat := Sparse.get (eccDflt m.lost) m.ecc wa

/-- The check state of word wa set. -/
def MemState.setEcc (m : MemState) (wa v : Nat) : MemState := { m with ecc := Sparse.set (eccDflt m.lost) m.ecc wa v }

/-- The canonical form of the byte memory. -/
def MemState.wf (m : MemState) : Bool := Sparse.wf (memDflt m.lost) m.cells

/-- n bytes from address a. -/
def MemState.bytes (m : MemState) (a n : Nat) : List Byte := (List.range n).map (fun i => m.byte (a + i))

/-- Bytes stored from address a on. -/
def MemState.setBytes (m : MemState) (a : Nat) : List Byte → MemState
  | [] => m
  | b :: r => (m.setByte a b).setBytes (a + 1) r

/-- The contents of lo … hi − 1 lost: they read as free bytes until written (R105, R112, R468). -/
def MemState.lose (m : MemState) (lo hi : Nat) : MemState :=
  { m with
    cells := Sparse.drop m.cells lo hi
    ecc := Sparse.drop m.ecc (lo / 8) (hi / 8)
    lost := (lo, hi, m.lost.length) :: m.lost }

/-- a lies in a Pail or in the Vat. -/
def isPail (a : Nat) : Bool := decide (a < 0x10000000)

/-- a lies in the Vat. -/
def isVat (a : Nat) : Bool := decide (0x10000000 ≤ a) && decide (a < 0x30000000)

/-- a lies in the steward SRAM. -/
def isSram (a : Nat) : Bool := decide (0x34000000 ≤ a) && decide (a < 0x34200000)

/-- The memory number of an address: 0–63 the Pail of that tile, 64–71 the slice (R115). -/
def memOf (a : Nat) : Nat := if isPail a then a / 0x400000 else 64 + (a - 0x10000000) / 0x4000000

/-- The bank of an address (R75, R78). -/
def bankOf (a : Nat) : Nat := if isPail a then a / 2 ^ 18 % 16 else a / 2 ^ 22 % 16

/-- The row of an address (R75, R78). -/
def rowOf (a : Nat) : Nat := if isPail a then a / 2 ^ 9 % 2 ^ 9 else a / 2 ^ 10 % 2 ^ 12

/-- The power domain of a memory (R47). -/
def memDomain (mem : Nat) : Nat := if mem < 64 then 16 + mem else 8 + (mem - 64)

/-- First byte of slice 7 held by the cache at a SIZE (R105). -/
def cacheStoreLo (size : Nat) : Nat :=
  match size with
  | 0 => 0x30000000 | 1 => 0x2F800000 | 2 => 0x2F000000 | _ => 0x2E000000

/-- The size of the cache in force. -/
def State.cacheSize (s : State) : Nat := fld (s.reg rCacheStatus) 0 2

/-- a lies in a bank that the cache's data store holds (R105). -/
def State.inCacheStore (s : State) (a : Nat) : Bool := isVat a && decide (cacheStoreLo s.cacheSize ≤ a)

/-- a is the address of a byte that exists and whose domain is on, for a master that reaches memory (R66, R69). -/
def State.memThere (s : State) (a : Nat) : Bool :=
  if isPail a || isVat a then s.pdOn (memDomain (memOf a)) && !s.inCacheStore a
  else isSram a && s.pdOn 1

/-! ### Check bits (R110, R118, R119) -/

/-- The counters of corrected and uncorrectable words of a memory. -/
def ceReg (mem : Nat) : Nat := if mem < 64 then rTile mem oPailCe else rSliceCe (mem - 64)
def ueReg (mem : Nat) : Nat := if mem < 64 then rTile mem oPailUe else rSliceUe (mem - 64)
def trackLostReg (mem : Nat) : Nat := if mem < 64 then rTile mem oTrackLost else rSliceTrackLost (mem - 64)
def injectReg (mem : Nat) : Nat := if mem < 64 then rTile mem oEccInject else rSliceInject (mem - 64)

/-- A repair candidate posted, at most once for each row between resets (R119, R612): a full queue loses it unless a pop
of this ck makes room (R613). ADDR of its record is the
candidate's word as R612 lays it out (DESIGN CHOICE, notes/assumptions/90.md: R495 gives a device address or a handle
index). -/
def State.postCandidate (s : State) (mem bank row : Nat) : State :=
  if s.mem.posted.contains (mem, bank, row) then s
  else
    let s := { s with mem := { s.mem with posted := (mem, bank, row) :: s.mem.posted } }
    let entry : Word := BitVec.ofNat 32 (2 ^ 31 + mem * 2 ^ 24 + bank * 2 ^ 20 + row * 2 ^ 8)
    let s :=
      if s.err.cands.length < 16 then { s with err := { s.err with cands := s.err.cands ++ [entry] } }
      else { s with err := { s.err with lateCands := s.err.lateCands ++ [entry] } }
    let s := { s with milk := { s.milk with repairCands := s.milk.repairCands ++ [entry] } }
    (s.post 0x22 0 (if mem < 64 then 0 else 1) (if mem < 64 then mem else mem - 64) entry 0).bell 18

/-- The tracker's entry of lowest count, the lowest index winning ties. -/
def lowestTrack (l : List Track) : Nat :=
  (l.zipIdx.foldl (fun (acc : Nat × Nat) e => if e.1.count < acc.1 then (e.1.count, e.2) else acc)
    (0x100000000, 0)).2

/-- A correction counted by the row tracker (R118, R119). The table is kept while TRACK_EN is 0 (DESIGN CHOICE,
notes/assumptions/90.md). -/
def State.track (s : State) (mem bank row : Nat) : State :=
  if !bit (s.reg rRepairCtrl) 0 then s
  else
    let l : List Track := Sparse.get (fun _ => []) s.mem.trackers mem
    let thresh := fld (s.reg rRepairCtrl) 8 8
    let (l', lost, count) : List Track × Bool × Nat :=
      match l.findIdx? (fun e => e.bank == bank && e.row == row) with
      | some i =>
        let c := ((l.getD i ⟨bank, row, 0⟩).count) + 1
        (l.set i ⟨bank, row, c⟩, false, c)
      | none =>
        if l.length < 8 then (l ++ [⟨bank, row, 1⟩], false, 1)
        else (l.set (lowestTrack l) ⟨bank, row, 1⟩, true, 1)
    let s := { s with mem := { s.mem with trackers := Sparse.set (fun _ => []) s.mem.trackers mem l' } }
    let s := if lost then s.satReg (trackLostReg mem) else s
    if thresh ≤ count then s.postCandidate mem bank row else s

/-- What a read of one 64-bit word does to the counters (R110, R119); `level` is the level of an uncorrectable word's
record (R498). -/
def State.eccWord (s : State) (level wa : Nat) : State :=
  match s.mem.eccAt wa with
  | 0 => s
  | 1 =>
    let a := 8 * wa
    if isSram a then s else (s.satReg (ceReg (memOf a))).track (memOf a) (bankOf a) (rowOf a)
  | _ =>
    let a := 8 * wa
    if isSram a then (s.post 0x21 level 5 0 (BitVec.ofNat 32 a) 0).bell 17
    else
      let mem := memOf a
      let s := s.satReg (ueReg mem)
      let s := (s.post 0x21 level (if mem < 64 then 0 else 1) (if mem < 64 then mem else mem - 64)
        (BitVec.ofNat 32 a) 0).bell 17
      if bit (s.reg rRepairCtrl) 0 then s.postCandidate mem (bankOf a) (rowOf a) else s

/-- The word addresses that bytes a … a + n − 1 touch. -/
def wordsOf (a n : Nat) : List Nat :=
  if n = 0 then [] else (List.range ((a + n - 1) / 8 - a / 8 + 1)).map (fun i => a / 8 + i)

/-- The byte at a is in an uncorrectable word. -/
def State.badByte (s : State) (a : Nat) : Bool := decide (2 ≤ s.mem.eccAt (a / 8))

/-- A read of n bytes: the bytes, a mark for each byte of an uncorrectable word, and the counters of R110. -/
def State.readMem (s : State) (level a n : Nat) : State × List Byte × List Bool :=
  ((wordsOf a n).foldl (fun s w => s.eccWord level w) s,
    s.mem.bytes a n, (List.range n).map (fun i => s.badByte (a + i)))

/-- The check bits of the words that a write of n bytes covers become valid (R112). -/
def State.clearEcc (s : State) (a n : Nat) : State :=
  { s with mem := (wordsOf a n).foldl (fun m w => m.setEcc w 0) s.mem }

/-- A write of whole words that a claim covers: never altered (R113). -/
def State.writeClaimed (s : State) (a : Nat) (bs : List Byte) : State :=
  ({ s with mem := s.mem.setBytes a bs }).clearEcc a bs.length

/-- A write to steward SRAM by core k, or by another master: reservations of the other cores on its lines end (R434). -/
def State.sramWrite (s : State) (k : Option (Fin 4)) (a : Nat) (bs : List Byte) : State :=
  let s := s.writeClaimed a bs
  { s with stew := Vector.ofFn (fun j : Fin 4 =>
      let z := s.stew[j]
      match z.lr with
      | some l => if some j ≠ k && decide (a / 64 ≤ l) && decide (l ≤ (a + bs.length - 1) / 64) then { z with lr := none } else z
      | none => z) }

/-- A narrow write (R113): an armed injection inverts one or two data bits of the word stored, which the check bits
then report, and ARM reads 0. Of a write that covers several words it is the first (DESIGN CHOICE,
notes/assumptions/88.md: R113 says 'its word'). -/
def State.writeNarrow (s : State) (a : Nat) (bs : List Byte) : State :=
  let s := s.writeClaimed a bs
  if isSram a then s
  else
    let r := injectReg (memOf a)
    let w := s.reg r
    if bit w 0 then
      let kind := if bit w 1 then 2 else 1
      let s := { s with mem := s.mem.setEcc (a / 8) kind }
      s.hwReg r (setBit w 0 false)
    else s

/-! ### Claims and reservations (R80, R330) -/

/-- Record r claims or reserves its resource in schedule ck c (R330). -/
def SlotRec.at (r : SlotRec) (c : Nat) : Bool :=
  if c < r.start then false
  else if r.count = 0 then decide (c = r.start)
  else if r.period = 0 then decide (c = r.start)
  else decide ((c - r.start) % r.period = 0) && decide ((c - r.start) / r.period ≤ r.count)

/-- The first record of a kind that holds in schedule ck c. -/
def slotAt (l : List SlotRec) (kind c : Nat) : Option SlotRec := l.find? (fun r => r.kind == kind && r.at c)

/-- The slot records of a slice (R330). -/
def State.sliceSlots (s : State) (n : Nat) : List SlotRec := Sparse.get (fun _ => []) s.mem.slots n

/-- Schedule ck (R588): ck in which the frame domain acted since the last tick delivered to it. -/
def State.sched (s : State) : Nat := s.fck - s.tickF

/-- The frame domain acts in this ck: it is not stopped (R586, R588). -/
def State.frameActs (s : State) : Bool := !s.dbg.stopped

/-- A thread of the tile that runs frame threads has yet to reach its END (R165). -/
def State.framePending (s : State) (t : TileId) : Bool :=
  (s.tile t).frameRun && allThreads.any (fun j =>
    s.isFrame t j && ((s.thr t j).st == .run || (s.thr t j).st == .stall))

/-- A macro-op that would end in frame ck e ends before the earliest possible next tick (R165). While the timing
generator has made no tick or is off, no next tick is due. -/
def State.endsInTime (s : State) (e : Nat) : Bool :=
  !(s.tick.ticked && bit (s.reg rOutNow) 0) || decide (e < s.tickF + (s.reg rMinper).toNat)

/-- The asynchronous macro-op m may start in this ck: the unit is free, it was issued in an earlier ck, its grant is of an
earlier ck, and R165 admits it. -/
def State.asyncMayStart (s : State) (t : TileId) (m : MacroOp) : Bool :=
  let x := s.tile t
  !m.frame && x.running.isNone && x.starting.isNone && decide (m.issueCk < s.fck) &&
    (match x.grant with
      | some g => !g.move && !g.ended && decide (g.ck < s.ck)
      | none => false) &&
    !s.framePending t && s.endsInTime (m.endFrom s.fck)

/-- The address that an asynchronous macro-op of tile t reads in this ck, be it its first (R203). -/
def State.asyncMacroAddr (s : State) (t : TileId) : Option Nat :=
  let x := s.tile t
  match x.running, x.queued with
  | some m, _ => if m.frame then none else (m.readAt s.fck).map (fun (q : Nat × Nat) => q.2)
  | none, some m => if s.asyncMayStart t m then (MacroOp.readAt { m with a := s.fck } s.fck).map (fun (q : Nat × Nat) => q.2) else none
  | none, none => none

/-- A claim holds bank b of memory mem in this ck (R80, R83); a macro-op of an asynchronous thread holds the bank it
reads in the same way (R203). -/
def State.bankClaimed (s : State) (mem b : Nat) : Bool :=
  if !s.frameActs then false      -- no claim holds while the frame domain is stopped (R587)
  else if mem < 64 then
    let x := s.tile (tid mem)
    x.slots.any (fun r => (r.kind == 1 || r.kind == 2) && r.arg == b && r.at s.sched) ||
      (match s.asyncMacroAddr (tid mem) with | some a => bankOf a == b | none => false)
  else (s.sliceSlots (mem - 64)).any (fun r => r.kind == 0x11 && r.arg == b && r.at s.sched)

/-- Another access of this ck uses bank b of memory mem. -/
def State.bankUsed (s : State) (mem b : Nat) : Bool := s.mem.banksUsed.contains (mem, b)

/-- A bank that a narrow access may take in this ck (R83). -/
def State.bankFree (s : State) (mem b : Nat) : Bool := !s.bankClaimed mem b && !s.bankUsed mem b

/-- Bank b of memory mem used in this ck. -/
def State.useBank (s : State) (mem b : Nat) : State :=
  { s with mem := { s.mem with banksUsed := (mem, b) :: s.mem.banksUsed } }

/-- The wide port of memory mem in a direction, 0 read or 1 write, has performed no access in this ck (R76, R79). -/
def State.wideFree (s : State) (mem dir : Nat) : Bool := !s.mem.widesUsed.contains (mem, if mem < 64 then dir else 0)

/-- An access to bank b through a wide port in this ck. -/
def State.useWide (s : State) (mem dir b : Nat) : State :=
  let s := s.useBank mem b
  { s with mem := { s.mem with widesUsed := (mem, if mem < 64 then dir else 0) :: s.mem.widesUsed } }

/-- n bytes from a lie in one aligned block of u bytes. -/
def oneBlock (a n u : Nat) : Bool := a / u == (a + n - 1) / u

/-! ### Tile geometry (R51, R55, R64, R650) -/

/-- Column and row of a tile's router. -/
def colOf (r : Nat) : Nat := r % 8
def rowOfTile (r : Nat) : Nat := r / 8

/-- The distance of two numbers. -/
def dist (a b : Nat) : Nat := if a ≤ b then b - a else a - b

/-- The serving router row of a tile row and a slice (R55). -/
def servingRow (y n : Nat) : Nat := let r0 := 2 * (n % 4); if y ≤ r0 then r0 else r0 + 1

/-- The serving router of a slice for a router in row y (R54, R55). -/
def servingRouter (y n : Nat) : Nat := servingRow y n * 8 + (if n < 4 then 0 else 7)

/-- Links between two routers. -/
def routerDist (a b : Nat) : Nat := dist (colOf a) (colOf b) + dist (rowOfTile a) (rowOfTile b)

/-- Hop count of a tile to a slice (R64). -/
def hopsSlice (t n : Nat) : Nat := routerDist t (servingRouter (rowOfTile t) n) + 1

/-- Hop count between two tiles (R64). -/
def hopsTile (a b : Nat) : Nat := routerDist a b

/-- The router of the SYNC half that holds a global object (R54). -/
def syncRouter (obj : Nat) : Nat := if obj < 1024 then 60 else 61

/-- Hop count between a tile and the SYNC block (R64). -/
def hopsSync (t obj : Nat) : Nat := routerDist t (syncRouter obj) + 1

/-! ### Synchronisation objects (R273) -/

/-- The register that holds an object's count (R273, R288, R290). -/
def objReg (o : Nat) : Nat :=
  if o < 2048 then rCount o else rTile ((o - 2048) / 32) (oLsync ((o - 2048) % 32))

/-- The count of an object after every update so far. -/
def State.count (s : State) (o : Nat) : Word := s.reg (objReg o)

/-- The count of an object after every update of the ck before (R262, R283). -/
def State.countBefore (s : State) (o : Nat) : Word :=
  match Sparse.get (fun _ => none) s.sync.ck o with
  | some r => r.base
  | none => s.count o

/-! ### Leave of the tiles: windows (R326, R477) -/

/-- The leave window of schedule ck c in the running variant. -/
def State.leaveWindowAt (s : State) (c : Nat) : Nat :=
  match s.plan.run with
  | some p => if p.budget = 0 then 0 else min 15 (c / (p.budget / 16))
  | none => 0

/-- The reservation of requester r (0–63 a tile, 64 the Ladles) for window w (R334, R477). -/
def State.reservation (s : State) (r w : Nat) : Nat :=
  match s.plan.run with
  | some p => (p.leave.getD w []).getD r 0
  | none => 0

end Sys2Proof.Machine
end

