-- ==== Sys2Proof/Machine/Link.lean ====
section
/-!
DEFINITION. The host link's wire side: configuration space (R350, R351), requests on the link (R348, R381, R386),
MSI-X and events (R375–R377).
-/

namespace Sys2Proof.Machine

/-- Something given out on an interface. -/
def State.emit (s : State) (o : Out) : State := { s with out := s.out ++ [o] }

/-! ### Configuration space (R350, R351) -/

/-- The DW of configuration space at a byte offset before anything is written: the identity of R350, the capability
list of R351 and the defaults of the Base Specification (PRESUMED, notes/assumptions/33.md). -/
def cfgReset (o : Nat) : Word :=
  match o with
  | 0x00 => 0x73181F6B | 0x04 => 0x00100000 | 0x08 => 0x120000B0
  | 0x10 => 0x00000004 | 0x18 => 0x0000000C | 0x20 => 0x00000004 | 0x34 => 0x00000040
  | 0x40 => 0x00035001 | 0x44 => 0x00000008
  | 0x50 => 0x00477011 | 0x54 => 0x00078000 | 0x58 => 0x00079000
  | 0x70 => 0x00020010 | 0x74 => 0x10008022 | 0x78 => 0x00002810 | 0x7C => 0x00400885 | 0x94 => 0x00030013
  | 0x9C => 0x0000003E | 0xA0 => 0x00000005 | 0x100 => 0x15020001 | 0x118 => 0x000000A0 | 0x194 => 0x80000001
  | 0x150 => 0x16010003 | 0x160 => 0x19010019 | 0x190 => 0x1A010025
  | 0x1A0 => 0x1D010026 | 0x1D0 => 0x2101002A | 0x210 => 0x00010027
  | _ => 0

/-- Bits of a configuration DW that a write changes; the rest are read-only (PRESUMED, notes/assumptions/33.md). -/
def cfgMask (o : Nat) : Word :=
  match o with
  | 0x04 => 0x00000546 | 0x0C => 0x000000FF | 0x10 => 0xFF000000 | 0x14 => 0xFFFFFFFF
  | 0x18 => 0xF0000000 | 0x1C => 0xFFFFFFFF | 0x20 => 0xFFFF0000 | 0x24 => 0xFFFFFFFF
  | 0x44 => 0x00000003 | 0x50 => 0xC0000000 | 0x78 => 0x00007FFF | 0x80 => 0x000000CB | 0x98 => 0x0000131F
  | 0xA0 => 0x0000000F | 0x108 => 0xFFFFFFFF | 0x10C => 0xFFFFFFFF | 0x118 => 0x00000140
  | _ => 0

/-- The stored DW of configuration space at offset o. -/
def State.cfg (s : State) (o : Nat) : Word := Sparse.get cfgReset s.host.cfg o

/-- A DW of configuration space set. -/
def State.setCfg (s : State) (o : Nat) (v : Word) : State :=
  { s with host := { s.host with cfg := Sparse.set cfgReset s.host.cfg o v } }

/-- An uncorrectable error reported through AER (R352): its status bit. -/
def State.aer (s : State) (b : Nat) : State := s.setCfg 0x104 (s.cfg 0x104 ||| (1 <<< b))

/-- Max_Payload_Size, at most 512 bytes (R347, R348). -/
def State.maxPayload (s : State) : Nat := min 512 (128 * 2 ^ fld (s.cfg 0x78) 5 3)

/-- Max_Read_Request_Size, at most 4096 bytes. -/
def State.maxRead (s : State) : Nat := min 4096 (128 * 2 ^ fld (s.cfg 0x78) 12 3)

/-- Tags for reads: 768 with 10-bit tags enabled, 256 without (R381, Shared figures). -/
def State.tags (s : State) : Nat := if bit (s.cfg 0x98) 12 then 768 else 256

/-! ### The link (R348, R386, R387) -/

/-- A device recovery has fenced the epoch off, and main reset is to come (R510, R512). -/
def State.fenced (s : State) : Bool :=
  match s.milk.recovery with
  | some (_, k) => k == 2 || k == 3
  | none => false

/-- The Kurix may issue memory requests and messages (R384, R386, R387). -/
def State.mayRequest (s : State) : Bool :=
  s.linkUp && !s.fenced && bit (s.reg rLink) 8 && !bit (s.reg rLink) 10 && !s.host.flr

/-- Bytes that a write from address a may carry: to the payload limit or the next 4 KiB boundary. -/
def State.writeRoom (s : State) (a : Nat) : Nat := min s.maxPayload (4096 - a % 4096)

/-- A posted memory write, split under R348; `fuel` bounds the pieces. -/
def State.hostWriteN (s : State) (fuel a : Nat) (bs : List Byte) : State :=
  match fuel with
  | 0 => s
  | n + 1 =>
    if bs.isEmpty then s
    else
      let k := s.writeRoom a
      (s.emit (.hostWrite a (bs.take k))).hostWriteN n (a + k) (bs.drop k)

/-- A posted memory write. -/
def State.hostWrite (s : State) (a : Nat) (bs : List Byte) : State := s.hostWriteN (bs.length + 1) a bs

/-- The completions of a host read of the bytes from a: none larger than Max_Payload_Size, split on 64-byte boundaries
(R355); the spec leaves their number open, and each is as large as it may be (DESIGN CHOICE, notes/assumptions/85.md).
`fuel` bounds them. -/
def completionPieces (mps fuel a : Nat) (bs : List Byte) : List (List Byte) :=
  match fuel with
  | 0 => [bs]
  | n + 1 =>
    if bs.length ≤ mps then [bs]
    else
      let k := (a + mps) / 64 * 64 - a
      bs.take k :: completionPieces mps n (a + k) (bs.drop k)

/-- The bytes of a host read, from address a, given out in its completions. -/
def State.hostAnswer (s : State) (a : Nat) (bs : List Byte) : State :=
  (completionPieces s.maxPayload bs.length a bs).foldl (fun s b => s.emit (.answer .host b false)) s

/-- The lowest free tag (R381). -/
def State.freeTag (s : State) : Option Nat :=
  (List.range s.tags).find? (fun t => !s.host.reads.any (fun r => r.tag == t))

/-- Requests of at most Max_Read_Request_Size that cover n bytes from a (R348). -/
def State.readPieces (s : State) (a n : Nat) : List (Nat × Nat) :=
  (List.range ((n + s.maxRead - 1) / s.maxRead)).map (fun i => (a + i * s.maxRead, min s.maxRead (n - i * s.maxRead)))

/-- A host read of n bytes issued; the caller has checked that its tags are free. -/
def State.hostRead (s : State) (who : ReadFor) (q a n : Nat) : State :=
  (s.readPieces a n).foldl (fun s p =>
    match s.freeTag with
    | none => s
    | some t =>
      let r : HostRead := { tag := t, who := who, queue := q, addr := p.1, len := p.2 }
      State.emit { s with host := { s.host with
        reads := s.host.reads ++ [r]
        dropped := s.host.dropped.filter (fun d => d ≠ t) } } (.hostRead t p.1 p.2)) s

/-- The Ladle that a host read serves. -/
def ReadFor.ladle : ReadFor → Nat
  | .band l _ _ _ => l
  | .copy l => l

/-- Transfers of queue q that Ladle l has outstanding: its host reads, the pieces of one request counting once (R348),
and the host write that its copy engine has accepted and not yet passed to the link (R319). -/
def State.transfers (s : State) (l : Fin 16) (q : Nat) : Nat :=
  ((s.host.reads.filter (fun r => r.queue == q && r.who.ladle == l.val)).map (fun (r : HostRead) => r.who)).eraseDups.length +
    (match (s.ladle.ladles[l]).copy with
     | some c => if c.queue = q && c.hostOut.isSome then 1 else 0
     | none => 0)

/-- A further transfer of queue q keeps within the limit of Ladle l (R319, R380). Steward rings have no limit. -/
def State.withinLimit (s : State) (l : Fin 16) (q : Nat) : Bool :=
  decide (132 ≤ q) || decide (s.transfers l q < fld (s.reg (rQueue q 0x14)) 16 9)

/-- Free tags suffice for a read of n bytes (R381). -/
def State.tagsFor (s : State) (a n : Nat) : Bool := decide (s.host.reads.length + (s.readPieces a n).length ≤ s.tags)

/-- Reads of n bytes from a that cross neither Max_Read_Request_Size nor a 4 KiB boundary (R347, R362). -/
def State.fetchPieces (s : State) (a n : Nat) : List (Nat × Nat) :=
  let k := 4096 - a % 4096
  if n ≤ k then s.readPieces a n else s.readPieces a k ++ s.readPieces (a + k) (n - k)

/-- The free tags, lowest first. -/
def State.freeTags (s : State) : List Nat := (List.range s.tags).filter (fun t => !s.host.reads.any (fun r => r.tag == t))

/-! ### MSI-X (R375–R377) -/

/-- A message of vector v leaves the part now: MSI-X is enabled, neither the function nor the vector masked. -/
def State.mayMsix (s : State) (v : Nat) : Bool :=
  s.mayRequest && bit (s.cfg 0x50) 31 && !bit (s.cfg 0x50) 30 && !bit (s.reg (rMsix v 12)) 0

/-- Vector v signalled: sent, or its PBA bit set until it may be. -/
def State.msix (s : State) (v : Nat) : State :=
  if s.mayMsix v then s.emit (.msix v)
  else if bit (s.cfg 0x50) 31 then s.orReg (rPba (v / 32)) (1 <<< (v % 32))
  else s

/-- Pending messages that may leave now are sent (R375, R386). -/
def State.msixFlush (s : State) : State :=
  (List.range 72).foldl (fun s v =>
    if bit (s.reg (rPba (v / 32))) (v % 32) && s.mayMsix v then
      (s.clrReg (rPba (v / 32)) (1 <<< (v % 32))).emit (.msix v)
    else s) s

/-- HOST.EVENT bit i set; its group's vector is signalled on a transition of an enabled bit (R377). -/
def State.event (s : State) (i : Nat) : State :=
  if !s.pdOn 2 then s
  else
    let was := bit (s.reg rEvent) i
    let s := s.orReg rEvent (1 <<< i)
    if !was && bit (s.reg rEventEn) i then s.msix (68 + i / 8) else s

/-- TICK.STATUS bit i, 8–12, set, with its event (R45, R388). -/
def State.tickFlag (s : State) (i : Nat) : State := (s.orReg rTickStatus (1 <<< i)).event i

end Sys2Proof.Machine
end

