-- ==== Sys2Proof/Machine/TileOps.lean ====
section
/-!
DEFINITION. Shared operations of the tiles: handle entries and their checks (R90–R94), substitution values (R143),
reads and stores with poison (R236, R237), tile faults (R181–R188, R505, R506), leave draws of the plan (R212), the
sending of flits (R57–R61), synchronisation updates (R275, R282) and the trace unit (R598–R601).
-/

namespace Sys2Proof.Machine

/-! ### Handle checks (R92–R95) -/

/-- The entry h of tile t's active bank (R94, R95). -/
def State.handle (s : State) (t : TileId) (h : Nat) : Quad :=
  Sparse.get (fun _ => 0) (s.tile t).handles (64 * fld (s.treg t.val oHbank) 0 1 + h)

/-- The entry h of the active bank of the vh table. -/
def State.vhandle (s : State) (h : Nat) : Quad :=
  Sparse.get (fun _ => 0) s.mem.vh (1024 * fld (s.reg rVhBank) 0 1 + h)

/-- The region lies inside tile t's Pail. -/
def inOwnPail (t : Nat) (e : Quad) : Bool :=
  decide (t * 0x400000 ≤ hStart e) && decide (hEnd e ≤ (t + 1) * 0x400000)

/-- The region lies inside the Vat and outside the cache's data store (R92, R105). -/
def State.inUsableVat (s : State) (e : Quad) : Bool :=
  decide (0x10000000 ≤ hStart e) && decide (hEnd e ≤ cacheStoreLo s.cacheSize)

/-- The code of the fault that the table of R92 gives an access, by its first failing row; `none` where every check
passes: 0x04 a handle fault, 0x06 a format fault. `tile` is the owning tile, `none` for a vh entry; `lo`, `n` the bytes
accessed; `i`, `j` the last element and row that the access names, where it names any. -/
def State.handleFault (s : State) (tile : Option Nat) (e : Quad) (rd wr : Bool) (fmtOk : Nat → Bool) (lo n : Nat)
    (i : Nat := 0) (j : Nat := 0) : Option Nat :=
  if !hV e then some 0x04
  else if (rd && !hRD e) || (wr && !hWR e) then some 0x04
  else if fmtReserved (hFmt e) || !fmtOk (hFmt e) then some 0x06
  else if hBytes e = 0 || hExt0 e ≤ i || hExt1 e ≤ j then some 0x04
  else if lo < hStart e || hEnd e < lo + n then some 0x04
  else if !((match tile with | some t => inOwnPail t e | none => false) || s.inUsableVat e) then some 0x04
  else if n ≠ 0 && !(s.memThere lo && s.memThere (lo + n - 1)) then some 0x04      -- domain off (R69)
  else none

/-! ### Substitution (R143) -/

/-- The offset of address a within its row of a handle: rows of blocks restart at each STRIDE0 (R91). -/
def inRow (e : Quad) (a : Nat) : Nat :=
  let off := a - hStart e
  if hStride0 e = 0 then off else off % hStride0 e

/-- Byte k of one block made of a substitution entry (R142, R143). -/
def substBlockByte (sub : Word) (fmt k : Nat) : Nat :=
  let v := sub.toNat
  if fmt = 0x0C then (if k < 16 then v % 16 * 17 else v / 2 ^ 16 % 256)
  else if fmt = 0x0D then (if k < 32 then v % 256 else v / 2 ^ 16 % 256)
  else if k < 16 then (if v % 4 = 2 then 0 else v % 4 * 85)      -- 0b10 is never written (R130)
  else v / 2 ^ (16 + 8 * (k - 16)) % 256

/-- Byte address a's byte of the substitution pattern of a handle's format, element by element (R236). -/
def patternByte (sub : Word) (e : Quad) (a : Nat) : Byte :=
  let fmt := hFmt e
  let w := fmtBits fmt
  if w = 4 then BitVec.ofNat 8 (sub.toNat % 16 * 17)
  else if fmtIsBlock fmt then BitVec.ofNat 8 (substBlockByte sub fmt (inRow e a % (w / 8)))
  else BitVec.ofNat 8 (sub.toNat / 2 ^ (8 * (inRow e a % (w / 8))))

/-- A byte of a VS10 or VS12 element with the bits above the sample 0 (R125). -/
def sampleByte (e : Quad) (a : Nat) (b : Byte) : Byte :=
  if inRow e a % 2 = 0 then b
  else match hFmt e with | 0x0F => b &&& 0x03 | 0x10 => b &&& 0x0F | _ => b

/-- The SUBST entry of a format in tile t. -/
def State.subst (s : State) (t fmt : Nat) : Word := s.treg t (oSubst fmt)

/-! ### Faults of a tile (R181–R188, R505, R506) -/

/-- FAULT_INFO's layout (R186). -/
def faultInfo (th : Nat) (frame : Bool) (code pc slot : Nat) : Word :=
  BitVec.ofNat 32 (th + 8 * b2n frame + 16 + 256 * code + 2 ^ 16 * pc + 2 ^ 28 * slot)

/-- The record of FAULT_INFO, FAULT_ADDR and FAULT_CK, under the rule of R188. -/
def State.recordFault (s : State) (t : TileId) (info addr : Word) (tileLevel : Bool) : State :=
  let old := s.treg t.val oFaultInfo
  if bit old 4 && !(tileLevel && !bit old 3) then s
  else
    ((s.setReg (rTile t.val oFaultInfo) info).setReg (rTile t.val oFaultAddr) addr).setReg
      (rTile t.val oFaultCk) (s.reg rCkrel)

/-- Free words for every element of an accumulator bank: an abandoned macro-op leaves it undefined (R181). -/
def State.undefBank (s : State) (t : TileId) (b : Nat) : State :=
  let base := s.free
  let s := s.modTile t (fun x =>
    { x with
      acc := (List.range 2048).foldl
        (fun a i => Sparse.set (fun _ => 0) a (2048 * b + i) (Config.freeWord (base + i))) x.acc })
  { s with free := base + 2048 }

/-- Streams whose SMASK includes tile t (R499, R307). -/
def State.streamsOf (s : State) (t : Nat) : List Nat :=
  (List.range 64).filter (fun st => bit (s.reg (rSmask st (t / 32))) (t % 32))

/-- The number of set bits. -/
def popCount64 (w : BitVec 64) : Nat := (List.range 64).foldl (fun n i => n + b2n (w.getLsbD i)) 0

/-- A variant-level fault (R508): its record is posted by the caller, and the next budget ck starts the recovery. -/
def State.variantLevel (s : State) : State := { s with variantFault := true }

/-- A stop source of the frame domain fires: frozen from `after` ck on, the earliest of the sources that have fired and
the cause of the first. It changes nothing while the frame domain is stopped (R586). -/
def State.fireStop (s : State) (cause after : Nat) : State :=
  if s.dbg.stopped then s
  else
    { s with dbg := { s.dbg with
        stopAt := match s.dbg.stopAt with
          | some (c, k) => some (min c (s.ck + after), k)
          | none => some (s.ck + after, cause) } }

/-- A tile-level fault (R181, R188, R499, R505, R586): every thread reads FAULTED, the macro-ops are abandoned, while
gathers, LUT loads, block groups and moves already issued go on until the recovery takes the tile's power (DEDUCED,
notes/assumptions/79.md); the record goes out, and in the next ck the aggregator sees the fault. -/
def State.tileFault (s : State) (t : TileId) (th : Nat) (code slot pc addr : Nat) : State :=
  let info := faultInfo th true code pc slot
  let a := BitVec.ofNat 32 addr
  let s := s.recordFault t info a true
  let x := s.tile t
  let banks := (match x.running with | some m => m.banks | none => []) ++
    (match x.starting with | some m => m.banks | none => []) ++ (match x.queued with | some m => m.banks | none => [])
  let s := banks.foldl (fun s b => s.undefBank t b) s
  let s := s.modTile t (fun x =>
    { x with
      running := none, starting := none, queued := none, stopped := true
      stopCk := if x.stopped then x.stopCk else s.ck
      request := x.request.filter (fun r => r.move)
      grant := x.grant.map (fun g => if g.move then g else { g with ended := true })
      draws := x.draws.filter (fun d => d.1 ≠ 0)
      th := Vector.ofFn (fun j : ThreadId => { x.th[j] with st := .faulted, stall := 0, wait := none }) })
  let s := s.post code 3 0 t.val a info
  let before := popCount64 s.faultedWindow
  let now := s.faultedWindow ||| (1#64 <<< t.val)
  let lim := fld (s.reg rLimits) 0 6
  let s := { s with faultSeen := s.faultSeen ++ [t.val], faultedWindow := now }
  let s :=
    if lim ≠ 0 && decide (lim < popCount64 now) && decide (before < popCount64 now) then
      (s.post 0x62 4 6 0 0 0).variantLevel
    else s
  if bit (s.reg rDbgCtrl) 1 then s.fireStop 3 6 else s

/-- A fault contained in an asynchronous thread (R182). -/
def State.threadFault (s : State) (t : TileId) (th : ThreadId) (code slot pc addr : Nat) : State :=
  let info := faultInfo th.val false code pc slot
  let a := BitVec.ofNat 32 addr
  let s := s.recordFault t info a false
  let s := s.modThr t th (fun y => { y with st := .faulted, stall := 0, wait := none, waitDone := false })
  s.post code 0 0 t.val a info

/-- A fault that a slot of thread th raises at its present bundle: tile level in a frame thread, contained in the
thread otherwise (R183). -/
def State.slotFault (s : State) (t : TileId) (th : ThreadId) (code slot addr : Nat) : State :=
  let pc := (s.thr t th).pc.toNat
  if s.isFrame t th then s.tileFault t th.val code slot pc addr else s.threadFault t th code slot pc addr

/-- Slips and credit underruns of tile t are absorbed (R506): some other tile has faulted and no variant has taken
effect since. -/
def State.absorbs (s : State) (t : TileId) : Bool :=
  allTiles.any (fun u => u ≠ t && bit (s.reg (rTout (u.val / 32))) (u.val % 32))

/-- An absorbed fault's counts (R506). -/
def State.absorb (s : State) (t : TileId) : State :=
  (s.satReg (rTile t.val oFaultCount)).satReg rAbsorbed

/-! ### Reads and stores of a tile (R82, R111, R236, R237) -/

/-- The byte at a lies in a late range of the tile (R258). -/
def Tile.lateAt (x : Tile) (a : Nat) : Bool := x.late.any (fun r => decide (r.1 ≤ a) && decide (a ≤ r.2))

/-- Bytes delivered to a thread: bytes of uncorrectable words and of late ranges carry the substitution pattern with
poison; FAULT_COUNT counts the uncorrectable words (R184, R236). -/
def State.tileDeliver (s : State) (t : TileId) (e : Quad) (a : Nat) (bs : List Byte) (bad : List Bool) :
    State × List (Byte × Bool) :=
  let x := s.tile t
  let sub := s.subst t.val (hFmt e)
  let nbad := (wordsOf a bs.length).filter (fun w => (bad.zipIdx.any (fun p => p.1 && (a + p.2) / 8 == w))) |>.length
  let out := (bs.zip bad).zipIdx.map (fun p =>
    let ad := a + p.2
    if p.1.2 || (isVat ad && x.lateAt ad) then (patternByte sub e ad, true) else (sampleByte e ad p.1.1, false))
  (s.satReg (rTile t.val oFaultCount) nbad, out)

/-- A read delivered whole with substitution, after a bank violation (R82, R184). -/
def State.tileSubst (s : State) (t : TileId) (e : Quad) (a n : Nat) : State × List (Byte × Bool) :=
  let sub := s.subst t.val (hFmt e)
  (s.satReg (rTile t.val oFaultCount), (List.range n).map (fun i => (patternByte sub e (a + i), true)))

/-- A read of n bytes of the tile's Pail or of the Vat, performed in this ck. -/
def State.tileRead (s : State) (t : TileId) (e : Quad) (a n : Nat) : State × List (Byte × Bool) :=
  let (s, bs, bad) := s.readMem 1 a n
  s.tileDeliver t e a bs bad

/-- Element size of a format in bytes, for stores by element; 1 for the half-byte formats. -/
def elemBytes (fmt : Nat) : Nat := let w := fmtBits fmt / 8; if w = 0 then 1 else w

/-- Bytes as a store through a handle leaves them (R125, R142, R237): every element with a poisoned byte is replaced by
the substitution value, with the number of elements replaced. `near` tells of bytes beside these ones that the same
operation stores: none, or whether they are poisoned; an element that it stores in two parts counts in its first. -/
def substStore (sub : Word) (e : Quad) (a : Nat) (l : List (Byte × Bool)) (near : Nat → Option Bool := fun _ => none) :
    List Byte × Nat :=
  let w := elemBytes (hFmt e)
  let elemOf (ad : Nat) : Nat := (ad - hStart e - inRow e ad) + inRow e ad / w
  let first (ad : Nat) : Nat := ad - inRow e ad % w
  let elemBad (ad : Nat) : Bool := (List.range w).any (fun i =>
    let b := first ad + i
    if a ≤ b && b < a + l.length then (l.getD (b - a) (0, false)).2 else near b == some true)
  let bytes := l.zipIdx.map (fun p => if elemBad (a + p.2) then sampleByte e (a + p.2) (patternByte sub e (a + p.2))
    else sampleByte e (a + p.2) p.1.1)
  let elems := (l.zipIdx.filter (fun p => elemBad (a + p.2) && (decide (a ≤ first (a + p.2)) || (near (first (a + p.2))).isNone))).map
    (fun p => elemOf (a + p.2))
  (bytes, elems.eraseDups.length * (if fmtBits (hFmt e) = 4 then 2 else 1))

/-! ### Flits (R57–R63) -/

/-- A flit sent by a thread of tile t: reserved in a frame thread, asynchronous otherwise. -/
def State.sendBy (s : State) (frame : Bool) (body : Payload) (lane : MeshLane) (cls : SlotClass)
    (src dst port h : Nat) : State :=
  if frame then s.sendFrame body lane cls src dst port h else s.sendAsync body lane cls src dst port

/-- The class of a round position (R57). -/
def posClass (p : Nat) : SlotClass := if p < 8 then .read else if p < 13 then .write else .remote

/-- A KIND 0x03 record reserves a send in this ck for sender `who` (a thread, or 8 for the move lane) on a lane
(R60, R330): 0 data, 1 request; and no send of this ck has taken its cycle (R53). -/
def State.sendReserved (s : State) (t : TileId) (who lane : Nat) : Bool :=
  !s.mesh.sent.contains (t.val, 0, if lane = 0 then .data else .request) &&
    (s.tile t).slots.any (fun r => r.kind == 3 && r.arg % 2 == lane && r.arg2 == who && r.at s.sched)

/-- A frame-domain data flit of a class may leave tile t in this ck: its position is of the class and its data cycle,
and its request cycle where an address travels with it (R58), are reserved (R59, R60). -/
def State.dataReserved (s : State) (t : TileId) (who : Nat) (cls : SlotClass) (withReq : Bool) : Bool :=
  posClass s.round == cls && s.sendReserved t who 0 && (!withReq || s.sendReserved t who 1)

/-- The ck by which a flit's arrival is told: frame ck for a reserved flit, ck for an asynchronous one. -/
def State.flitNow (s : State) (f : Flit) : Nat := if f.frame then s.fck else s.ck

/-- A flit that has reached its destination by this ck. -/
def State.arrived (s : State) (f : Flit) : Bool :=
  match f.pos with
  | .delivered c => decide (c ≤ s.flitNow f)
  | _ => false

/-- A flit removed from the mesh by its age. -/
def State.dropFlit (s : State) (age : Nat) : State :=
  { s with mesh := { s.mesh with flits := s.mesh.flits.filter (fun f => f.age ≠ age) } }

/-- The arrived flit that satisfies p, the oldest first. -/
def State.arrival (s : State) (p : Payload → Bool) : Option Flit :=
  s.mesh.flits.find? (fun f => s.arrived f && p f.body)

/-! ### Trace (R598–R601) -/

/-- A scope bit of DBG.AUTH is granted (R579): 0 STOP, 1 STATE, 2 TRACE, 3 STEWARD, 4 MEMORY. -/
def State.scope (s : State) (b : Nat) : Bool := bit (s.reg rAuth) b

/-- One trace record (R600). -/
def traceRecord (type t th : Nat) (frame : Bool) (frameNo sched obj who : Nat) (value : Word) : BitVec 128 :=
  BitVec.ofNat 128
    (type + 2 ^ 8 * (t % 64) + 2 ^ 16 * (th % 8 + 8 * b2n frame) + 2 ^ 24 * (frameNo % 256) +
      2 ^ 32 * (sched % 2 ^ 32) + 2 ^ 64 * (obj % 4096) + 2 ^ 80 * (who % 65536) + 2 ^ 96 * value.toNat)

/-- A record put into the tile's buffer, or counted as lost (R601). -/
def State.traceOut (s : State) (t : TileId) (mk : Nat → Word → BitVec 128) (type : Nat) (value : Word) : State :=
  let x := s.tile t
  if x.trace.length < 64 then
    let lost := x.traceLostSince
    let withLost := lost ≠ 0 && bit (s.treg t.val oTrCfg) 15
    let recs := if withLost then [mk 0x0F (BitVec.ofNat 32 lost)] else []
    let recs := recs ++ (if x.trace.length + recs.length < 64 then [mk type value] else [])
    let full := decide (64 ≤ x.trace.length + (if withLost then 1 else 0))
    let s := s.modTile t (fun x => { x with trace := x.trace ++ recs, traceLostSince := if full then 1 else 0 })
    if full then s.satReg (rTile t.val oTrLost) else s
  else
    (s.satReg (rTile t.val oTrLost)).modTile t (fun x => { x with traceLostSince := x.traceLostSince + 1 })

/-- An event of R598, recorded when EN, the scope, the masks and the object range admit it. -/
def State.trace (s : State) (t : TileId) (th : ThreadId) (type obj who : Nat) (value : Word) : State :=
  let c := s.treg t.val oTrCfg
  let r := s.treg t.val oTrObj
  if bit c 0 && s.scope 2 && bit c (8 + (type - 1)) && bit c (16 + th.val) &&
      decide (fld r 0 12 ≤ obj) && decide (obj ≤ fld r 16 12) then
    let mk := fun ty v =>
      traceRecord ty t.val th.val (s.isFrame t th) s.frameF.toNat s.sched obj who v
    s.traceOut t mk type value
  else s

/-! ### Synchronisation updates (R274, R275, R282) -/

/-- A plan runs (R155, TICK.STATUS.PLAN). -/
def State.planRuns (s : State) : Bool := s.plan.run.isSome

/-- The object is marked in the frame map (R282). -/
def State.frameMarked (s : State) (o : Nat) : Bool :=
  if o < 2048 then bit (s.reg (rFrameMap (o / 32))) (o % 32)
  else bit (s.treg ((o - 2048) / 32) oLsyncFrame) ((o - 2048) % 32)

/-- The WHO value of an update (R600). -/
def SyncOp.whoOf (o : SyncOp) : Nat := o.unit % 64 + 64 * (o.thread % 8) + 512 * o.kind

/-- The DROP_INFO source code (R288). -/
def SyncSrc.code : SyncSrc → Nat
  | .thread => 0 | .completion => 1 | .ladle => 2 | .register => 3 | .pace => 4

/-- The source may update a marked object while a plan runs (R282). -/
def State.mayUpdate (s : State) (o : SyncOp) : Bool :=
  match o.src with
  | .pace => decide (o.obj = fld (s.reg rFrObj) 0 11)
  | .register => decide (o.unit = 7)
  | _ => o.frame

/-- The order of ARMs of one ck (R275): local thread operations, arriving flits by tile and thread, Ladles, registers. -/
def armRank (o : SyncOp) (isLocal : Bool) : Nat :=
  match o.src with
  | .thread => if isLocal then 0 else 1 + 8 * o.unit + o.thread
  | .completion => 0
  | .ladle => 1024 + o.unit
  | .register => 2048
  | .pace => 2048

/-- The updates of this ck to one object, begun if there was none yet. -/
def State.syncCkOf (s : State) (o : Nat) : SyncCk :=
  match Sparse.get (fun _ => none) s.sync.ck o with
  | some r => r
  | none => { base := s.count o, tick := none, arm := none, adds := 0 }

/-- The count that the updates of one ck leave (R275). -/
def SyncCk.result (r : SyncCk) : Word :=
  (match r.arm with
    | some (_, v) => v
    | none => match r.tick with | some v => v | none => r.base) + r.adds

/-- The updates of this ck to an object recorded, and its count with them. -/
def State.putSync (s : State) (o : Nat) (r : SyncCk) (who : Nat) : State :=
  let s := { s with sync := { s.sync with ck := Sparse.set (fun _ => none) s.sync.ck o (some r) } }
  let s := s.setReg (objReg o) r.result
  if o < 2048 then { s with sync := { s.sync with who := Sparse.set (fun _ => 0) s.sync.who o who } }
  else s.modTile (tid ((o - 2048) / 32)) (fun x => { x with who := Sparse.set (fun _ => 0) x.who ((o - 2048) % 32) who })

/-- The WHO of an object (R599). -/
def State.whoOf (s : State) (o : Nat) : Nat :=
  if o < 2048 then Sparse.get (fun _ => 0) s.sync.who o
  else Sparse.get (fun _ => 0) (s.tile (tid ((o - 2048) / 32))).who ((o - 2048) % 32)

/-- A discarded update counted and recorded (R282, R288, R290). -/
def State.dropSync (s : State) (o : SyncOp) : State :=
  let k := o.src.code
  let thr := match o.src with | .thread => true | _ => false
  if o.obj < 2048 then
    (s.satReg rDrop).setReg rDropInfo
      (BitVec.ofNat 32 (o.obj + 2 ^ 11 * k + (if thr then 2 ^ 14 * o.unit + 2 ^ 20 * o.thread else 0)))
  else
    let t := (o.obj - 2048) / 32
    (s.satReg (rTile t oLsyncDrop)).setReg (rTile t oLsyncDropInfo)
      (BitVec.ofNat 32 ((o.obj - 2048) % 32 + 2 ^ 5 * k + (if thr then 2 ^ 8 * o.unit + 2 ^ 14 * o.thread else 0)))

/-- The object's place is powered: PD7 for a global one, the tile's domain for a local one (R273). -/
def State.objThere (s : State) (o : Nat) : Bool :=
  if o < 2048 then s.pdOn 7 else s.pdOn (16 + (o - 2048) / 32)

/-- An update reaching its object (R274, R275, R282). `isLocal` tells an operation of the object's own tile. -/
def State.applySync (s : State) (o : SyncOp) (isLocal : Bool) : State :=
  if !s.objThere o.obj then s
  else if s.planRuns && s.frameMarked o.obj && !s.mayUpdate o then s.dropSync o
  else
    let r := s.syncCkOf o.obj
    let r :=
      if o.arm then
        match r.arm with
        | some (k, _) => if k ≤ armRank o isLocal then { r with arm := some (armRank o isLocal, o.value) } else r
        | none => { r with arm := some (armRank o isLocal, o.value) }
      else { r with adds := r.adds + o.value }
    s.putSync o.obj r o.whoOf

/-- The condition of a WAIT or a watch (R259, R289). -/
def waitHolds (eq : Bool) (target count : Word) : Bool :=
  if eq then decide (count = target) else decide (target.toNat ≤ count.toNat)

/-- A completion signal of tile t: 1 added to local object obj (R210, R244). -/
def State.signalLocal (s : State) (t : TileId) (obj : Nat) (frame : Bool) (thread kind : Nat) : State :=
  s.applySync { obj := 2048 + 32 * t.val + obj, arm := false, value := 1, src := .completion, frame := frame,
                unit := t.val, thread := thread, kind := kind, ack := false } true

/-! ### Notes (R237, R257) -/

/-- The router at which the LADLE note port takes its traffic: the edge attachment above column 4 (R54, R652). -/
def notePortRouter : Nat := 4

/-- Poisoned elements stored through handle h: POISON_COUNT, and one degrade note for the handle in the window
(R142, R237). -/
def State.poisonStored (s : State) (t : TileId) (h n : Nat) : State :=
  if n = 0 then s
  else
    let s := s.satReg (rTile t.val oPoisonCount) n
    if (s.tile t).noted.contains h then s
    else
      (s.modTile t (fun x => { x with noted := h :: x.noted })).sendAsync (.degradeNote t.val h (bit (s.reg rFrame) 0)) .data .remote
        t.val notePortRouter 5

/-! ### Plan leave draws (R212, R477) -/

/-- The plan draws of tile t that are held in frame ck c. -/
def Tile.drawAt (x : Tile) (c : Nat) : Nat :=
  (x.draws.filter (fun d => decide (d.2.2.1 ≤ c) && decide (c ≤ d.2.2.2))).foldl (fun n d => n + d.2.1) 0

/-- The largest total of the plan draws of tile t in frame ck lo to hi. -/
def Tile.drawMax (x : Tile) (lo hi : Nat) : Nat :=
  (lo :: (x.draws.map (fun d => d.2.2.1)).filter (fun c => decide (lo < c) && decide (c ≤ hi))).foldl
    (fun n c => max n (x.drawAt c)) 0

/-- The total that a draw of n LU from frame ck c0 to frame ck e would make in the first window that it overlaps where
that exceeds the window's reservation: the window and the total. -/
def State.overdraw (s : State) (t : TileId) (n c0 e : Nat) : Option (Nat × Nat) :=
  let w0 := s.leaveWindowAt (c0 - s.tickF)
  let w1 := s.leaveWindowAt (e - s.tickF)
  let len := match s.plan.run with | some p => p.budget / 16 | none => 0
  ((List.range (w1 - w0 + 1)).map (fun i => w0 + i)).findSome? (fun w =>
    let lo := max c0 (s.tickF + w * len)
    let hi := if w = w1 then e else s.tickF + (w + 1) * len - 1
    let tot := (s.tile t).drawMax lo hi + n
    if s.reservation t.val w < tot then some (w, tot) else none)

/-- A leave overdraw of tile t: the counters and records of R492 and R493; the fault is the caller's. -/
def State.overdrawRec (s : State) (t : TileId) (w tot : Nat) : State :=
  let s := s.satReg rOverdraw
  let s := s.setReg rOverdrawInfo (BitVec.ofNat 32 (t.val + 2 ^ 8 * w + 2 ^ 12 * min tot 1023))
  if bit (s.treg t.val oLvOverdraw) 12 then s
  else s.setReg (rTile t.val oLvOverdraw) (BitVec.ofNat 32 (w + 2 ^ 4 * min tot 255 + 2 ^ 12))

/-- A plan draw held from frame ck c0 until frame ck e. -/
def State.drawLeave (s : State) (t : TileId) (key n c0 e : Nat) : State :=
  s.modTile t (fun x => { x with draws := (key, n, c0, e) :: x.draws })

/-- The draw of a key released. -/
def State.releaseLeave (s : State) (t : TileId) (key : Nat) : State :=
  s.modTile t (fun x => { x with draws := x.draws.filter (fun d => d.1 ≠ key) })

end Sys2Proof.Machine
end

