-- ==== Sys2Proof/Machine/Operands.lean ====
section
/-!
DEFINITION. Operand forms of the slots (R159, R164, R216): the fields of a slot word, reads and writes of a thread's
registers with their latency classes (R168), the lanes of a vector register with their poison (R140), and what a slot
answers.
-/

namespace Sys2Proof.Machine

/-! ### Fields of a slot word -/

/-- Bits [lo + n − 1 : lo] of a slot word. -/
def sf (w : SlotWord) (lo n : Nat) : Nat := (w.toNat / 2 ^ lo) % 2 ^ n

/-- Bit i of a slot word. -/
def sb (w : SlotWord) (i : Nat) : Bool := w.getLsbD i

/-- A register number from a 5-bit field. -/
def r5 (n : Nat) : Fin 32 := Fin.ofNat 32 n

/-- n bits x as a two's-complement number, in a word. -/
def sext (n x : Nat) : Word := BitVec.ofInt 32 (intOfBits n true x)

/-! ### Thread registers (R164) -/

/-- s[i]; s0 reads 0. -/
def Thread.rs (y : Thread) (i : Nat) : Word := if i % 32 = 0 then 0 else y.s[r5 i]

/-- p[i]; p0 reads 1. -/
def Thread.rp (y : Thread) (i : Nat) : Bool := if i % 8 = 0 then true else y.p.getLsbD (i % 8)

/-- v[i]. -/
def Thread.rv (y : Thread) (i : Nat) : VWord := y.v[r5 i]

/-- The poison bits of v[i]. -/
def Thread.rpo (y : Thread) (i : Nat) : VPoison := y.poison[r5 i]

/-- The guard of a slot (R159): PRED in [25:23], PNEG in [22]. -/
def guardOn (y : Thread) (w : SlotWord) : Bool := y.rp (sf w 23 3) != sb w 22

/-- Scoreboard keys: 0–31 s, 32–39 p, 40–71 v, 72 the gather registers. -/
def keyS (i : Nat) : Nat := i % 32
def keyP (i : Nat) : Nat := 32 + i % 8
def keyV (i : Nat) : Nat := 40 + i % 32
def keyG : Nat := 72

/-- The register of a key is readable from frame ck c on (R168). -/
def Thread.setReady (y : Thread) (k c : Nat) : Thread := { y with ready := Sparse.set (fun _ => 0) y.ready k c }

/-- The result of a key waits for an access not yet performed (R169). -/
def Thread.addAwait (y : Thread) (k : Nat) : Thread := { y with await := k :: y.await }

/-- One awaited piece of the result of a key has come; the whole is readable from ck c once none is awaited. -/
def Thread.gotAwait (y : Thread) (k c : Nat) : Thread :=
  { (y.setReady k c) with await := y.await.erase k }

/-- s[i] written, readable from ck c; a write to s0 is discarded (R164). -/
def Thread.ws (y : Thread) (i : Nat) (x : Word) (c : Nat) : Thread :=
  if i % 32 = 0 then y else { (y.setReady (keyS i) c) with s := y.s.set (r5 i) x }

/-- p[i] written; a write to p0 is discarded (R164). -/
def Thread.wp (y : Thread) (i : Nat) (b : Bool) (c : Nat) : Thread :=
  if i % 8 = 0 then y
  else
    let m : BitVec 8 := 1#8 <<< (i % 8)
    { (y.setReady (keyP i) c) with p := if b then y.p ||| m else y.p &&& ~~~ m }

/-- v[i] and its poison written. -/
def Thread.wv (y : Thread) (i : Nat) (x : VWord) (po : VPoison) (c : Nat) : Thread :=
  { (y.setReady (keyV i) c) with v := y.v.set (r5 i) x, poison := y.poison.set (r5 i) po }

/-! ### Lanes (R140) -/

/-- Lane k of w bits. -/
def lane (w : Nat) (x : VWord) (k : Nat) : Nat := (x.toNat / 2 ^ (w * k)) % 2 ^ w

/-- Lane k of w bits is poisoned: any of its bytes is; two 4-bit lanes share a byte. -/
def lanePoison (w : Nat) (p : VPoison) (k : Nat) : Bool :=
  if w < 8 then p.getLsbD (k * w / 8) else (List.range (w / 8)).any (fun i => p.getLsbD (k * (w / 8) + i))

/-- The lanes of a register with their poison. -/
def lanesOf (w : Nat) (x : VWord) (p : VPoison) : List (Nat × Bool) :=
  (List.range (2048 / w)).map (fun k => (lane w x k, lanePoison w p k))

/-- A register from its lanes. -/
def packLanes (w : Nat) (l : List (Nat × Bool)) : VWord := BitVec.ofNat 2048 (packBits w (l.map (·.1)))

/-- The poison bits of a register from its lanes; a byte of two 4-bit lanes is poisoned when either is. -/
def packPoison (w : Nat) (l : List (Nat × Bool)) : VPoison :=
  if w < 8 then
    BitVec.ofNat 256 (packBits 1 ((List.range 256).map (fun i =>
      b2n ((l.getD (2 * i) (0, false)).2 || (l.getD (2 * i + 1) (0, false)).2))))
  else BitVec.ofNat 256 (packBits (w / 8) (l.map (fun e => if e.2 then 2 ^ (w / 8) - 1 else 0)))

/-- The 256 bytes of a register with their poison. -/
def vbytes (x : VWord) (p : VPoison) (lo n : Nat) : List (Byte × Bool) :=
  (List.range n).map (fun i => (BitVec.ofNat 8 (lane 8 x (lo + i)), p.getLsbD (lo + i)))

/-- A register with bytes from `lo` on replaced. -/
def putBytes (x : VWord) (p : VPoison) (lo : Nat) (l : List (Byte × Bool)) : VWord × VPoison :=
  let all := (List.range 256).map (fun i =>
    if lo ≤ i then
      match l[i - lo]? with
      | some e => e
      | none => (BitVec.ofNat 8 (lane 8 x i), p.getLsbD i)
    else (BitVec.ofNat 8 (lane 8 x i), p.getLsbD i))
  (BitVec.ofNat 2048 (packBits 8 (all.map (·.1.toNat))), BitVec.ofNat 256 (packBits 1 (all.map (fun e => b2n e.2))))

/-! ### Lane types (R216) -/

/-- Format code of a TYPE (R216). -/
def typeFmt (ty : Nat) : Nat :=
  match ty with
  | 0 => 0x02 | 1 => 0x03 | 2 => 0x04 | 3 => 0x05 | 4 => 0x06 | 5 => 0x09 | 6 => 0x0A | _ => 0x0B

/-- Lane width of a TYPE. -/
def typeBits (ty : Nat) : Nat := fmtBits (typeFmt ty)

/-- TYPE is a floating type. -/
def typeFloat (ty : Nat) : Bool := decide (5 ≤ ty)

/-- TYPE is a signed integer type. -/
def typeSigned (ty : Nat) : Bool := ty == 0 || ty == 2 || ty == 4

/-- The operand fields of R216. -/
structure VF where
  vd : Nat
  va : Nat
  vb : Nat
  ty : Nat
  sbit : Bool
  sat : Bool
  rnd : Nat
  deriving DecidableEq, Repr

/-- The fields of a V-slot word (R216). -/
def vfOf (w : SlotWord) : VF :=
  { vd := sf w 17 5, va := sf w 12 5, vb := sf w 7 5, ty := sf w 4 3, sbit := sb w 3, sat := sb w 2, rnd := sf w 0 2 }

/-! ### What a slot answers -/

/-- The state after a slot, and the fault it raises: its code (R498) and the address or handle index involved. -/
structure SlotOut where
  st : State
  fault : Option (Nat × Nat)
  deriving DecidableEq, Repr

/-- A slot that completes. -/
def SlotOut.done (s : State) : SlotOut := ⟨s, none⟩

/-- A slot that raises an illegal-instruction fault (R160). -/
def SlotOut.illegal (s : State) : SlotOut := ⟨s, some (0x01, 0)⟩

/-- A slot that raises a fault with an address or handle index. -/
def SlotOut.raise (s : State) (code addr : Nat) : SlotOut := ⟨s, some (code, addr)⟩

/-- A slot's meaning: the thread's registers as they stood before the bundle (R161), then the word. -/
abbrev SlotFn := State → TileId → ThreadId → Thread → SlotWord → SlotOut

/-- The draw key of tile t's window (R138). -/
def State.srKeyOf (s : State) (t : TileId) : Word := srKey (s.treg t.val oSrSeed) (s.treg t.val oSrWindow)

/-- The draw counter of a thread advanced by N positions where the mode is SR (R139). -/
def State.advanceDraw (s : State) (t : TileId) (th : ThreadId) (rnd n : Nat) : State :=
  if rnd = 2 then s.modThr t th (fun y => { y with draw := srAdvance y.draw n }) else s

/-- A slot given as a command that R170 would hold in a bundle has no effect: `held` tells when, for a slot that its
predicate selects. In a bundle the conditions of R170 come before (State.holdCode). -/
def slotUnless (held : State → TileId → ThreadId → Thread → SlotWord → Bool) (f : SlotFn) : SlotFn := fun s t th y w =>
  if guardOn y w && held s t th y w then .done s else f s t th y w

/-- One slot given as a command: its effect with the thread's present registers, and the fault it raises, in the slot
numbered `slot` (R158, R183). A branch taken is the thread's next bundle. -/
def slotCommand (f : SlotFn) (slot : Nat) (t : TileId) (th : ThreadId) (w : SlotWord) (s : State) : State :=
  let r := f s t th (s.thr t th) w
  match r.fault with
  | none => r.st
  | some (code, addr) => r.st.slotFault t th code slot addr

end Sys2Proof.Machine
end

