-- ==== Sys2Proof/Machine/Flags.lean ====
section
/-!
DEFINITION. Relations and conditions: the relations of SCMP (R266) and VCMP (R220), the predicate functions of PLOG
(R266), the poison of element-wise results (R224), and the schedule line (R21, R268).
-/

namespace Sys2Proof.Machine

/-- REL of SCMP (R266): 0 EQ, 1 NE, 2 LT, 3 GE, 4 LTU, 5 GEU; 6 and 7 are reserved. -/
def scmpRel (rel : Nat) (a b : Word) : Option Bool :=
  match rel with
  | 0 => some (decide (a = b))
  | 1 => some (decide (a ≠ b))
  | 2 => some (decide (a.toInt < b.toInt))
  | 3 => some (decide (b.toInt ≤ a.toInt))
  | 4 => some (decide (a.toNat < b.toNat))
  | 5 => some (decide (b.toNat ≤ a.toNat))
  | _ => none

/-- F of PLOG (R266): and, or, xor, and-not. -/
def plogFn (f : Nat) (a b : Bool) : Bool :=
  match f with
  | 0 => a && b
  | 1 => a || b
  | 2 => a != b
  | _ => a && !b

/-- The order of two lanes of a type: −1, 0 or 1, or none where a floating lane is NaN (R218, R220). -/
def laneCmp (ty a b : Nat) : Option Int :=
  if typeFloat ty then
    let x := decodeElem (typeFmt ty) a
    let y := decodeElem (typeFmt ty) b
    if x.isNaN || y.isNaN then none else some (x.cmp y)
  else
    let x := intOfBits (typeBits ty) (typeSigned ty) a
    let y := intOfBits (typeBits ty) (typeSigned ty) b
    some (if x < y then -1 else if x = y then 0 else 1)

/-- The relation of VCMP (R220): a NaN operand makes every relation false except NE; 6 and 7 are reserved. -/
def vcmpRel (rel : Nat) (c : Option Int) : Option Bool :=
  match rel with
  | 0 => some (c == some 0)
  | 1 => some (c != some 0)
  | 2 => some (c == some (-1))
  | 3 => some (c == some (-1) || c == some 0)
  | 4 => some (c == some 1)
  | 5 => some (c == some 1 || c == some 0)
  | _ => none

/-- Lane order for VMIN, VMAX and the reductions: −0 below +0 (R219). -/
def laneLess (ty a b : Nat) : Bool :=
  match laneCmp ty a b with
  | some (-1) => true
  | some 0 =>
    typeFloat ty && (decodeElem (typeFmt ty) a).isZero && (decodeElem (typeFmt ty) a).isNeg &&
      !(decodeElem (typeFmt ty) b).isNeg
  | _ => false

/-- The first schedule ck of schedule line n (R21): ⌈n × LINE_CK / 65536⌉. -/
def lineStart (lineCk : Word) (n : Nat) : Nat := (n * lineCk.toNat + 65535) / 65536

/-- The schedule line of a schedule ck: the largest n whose start is at or before it (R268). With LINE_CK 0 every
line starts at 0 and no largest one exists; the model answers 0 (notes/assumptions/21.md). -/
def schedLine (lineCk : Word) (c : Nat) : Nat :=
  if lineCk.toNat = 0 then 0 else c * 65536 / lineCk.toNat

end Sys2Proof.Machine
end

