-- ==== Sys2Proof/Machine/Vector.lean ====
section
/-!
DEFINITION. The V slot (R191, R216–R230): vector arithmetic, comparison, shifts, selection, reductions, the LUT unit's
evaluation, requantisation and conversion.
-/

namespace Sys2Proof.Machine

/-! ### Shared forms -/

/-- The second operand of a V instruction: v[VB], or s[VB] repeated in every lane (R216). -/
def vbLanes (y : Thread) (f : VF) : List (Nat × Bool) :=
  let w := typeBits f.ty
  if f.sbit then List.replicate (2048 / w) ((y.rs f.vb).toNat % 2 ^ w, false) else lanesOf w (y.rv f.vb) (y.rpo f.vb)

/-- The substitution value of a lane type (R216, R224). -/
def State.typeSubst (s : State) (t : TileId) (ty : Nat) : Nat := (s.subst t.val (typeFmt ty)).toNat % 2 ^ typeBits ty

/-- v[vd] written with lanes of w bits, readable after `lat` ck (R168). -/
def State.putV (s : State) (t : TileId) (th : ThreadId) (vd w lat : Nat) (l : List (Nat × Bool)) : State :=
  s.modThr t th (fun z => z.wv vd (packLanes w l) (packPoison w l) (s.fck + lat))

/-- An element-wise instruction on a lane type (R217, R224): `g` gives the lane's draw, vd, va and vb lanes their
result. A lane that reads a poisoned lane takes the substitution value and poison. -/
def vecMap (usesD usesB : Bool) (lat : Nat) (g : VF → Word → Nat → Nat → Nat → Nat)
    (s : State) (t : TileId) (th : ThreadId) (y : Thread) (w : SlotWord) : State :=
  let f := vfOf w
  let bits := typeBits f.ty
  let sub := s.typeSubst t f.ty
  let key := s.srKeyOf t
  let c := (s.thr t th).draw
  let d := lanesOf bits (y.rv f.vd) (y.rpo f.vd)
  let a := lanesOf bits (y.rv f.va) (y.rpo f.va)
  let b := vbLanes y f
  let out := (((d.zip a).zip b).zipIdx).map (fun e =>
    let d := e.1.1.1
    let a := e.1.1.2
    let b := e.1.2
    if a.2 || (usesB && b.2) || (usesD && d.2) then (sub, true)
    else (g f (srDraw key c e.2) d.1 a.1 b.1, false))
  s.putV t th f.vd bits lat out

/-- A V-slot instruction (R160, R162, R139): illegal unless its fields are, no effect but the draws where its predicate
selects it off; `n` draws are consumed under SR. -/
def vSlot (legal : Bool) (n : Nat) (effect : State → State)
    (s : State) (t : TileId) (th : ThreadId) (y : Thread) (w : SlotWord) : SlotOut :=
  if !legal then .illegal s
  else
    let s' := if guardOn y w then effect s else s
    .done (s'.advanceDraw t th (sf w 0 2) n)

/-- The fields that an arithmetic instruction of one result per lane may hold (R216, R217). -/
def legalArith (w : SlotWord) : Bool :=
  let f := vfOf w
  if typeFloat f.ty then f.rnd ≠ 3 else f.rnd = 0

/-- The fields of an instruction that uses neither SAT nor RND. -/
def legalPlain (w : SlotWord) : Bool := let f := vfOf w; !f.sat && f.rnd == 0

/-- Draws of an arithmetic instruction: one for each lane of a floating type (R222). -/
def arithDraws (w : SlotWord) : Nat := let f := vfOf w; if typeFloat f.ty then 2048 / typeBits f.ty else 0

/-- A floating result encoded in the lane format: NaN is the positive canonical NaN (R219). -/
def floatLane (f : VF) (draw : Word) (x : Num) : Nat :=
  match floatFmt (typeFmt f.ty), Rnd.ofField f.rnd with
  | some ff, some m => if x.isNaN then canonNaN ff false else encodeFloat ff m f.sat draw x
  | _, _ => 0

/-- An integer result: wrapped, or clamped under SAT (R218). -/
def intLane (f : VF) (i : Int) : Nat :=
  let w := typeBits f.ty
  let lo : Int := if typeSigned f.ty then -(2 ^ (w - 1)) else 0
  let hi : Int := if typeSigned f.ty then 2 ^ (w - 1) - 1 else 2 ^ w - 1
  bitsOfInt w (if f.sat then clampInt lo hi i else i)

/-- The integer in a lane. -/
def laneInt (f : VF) (x : Nat) : Int := intOfBits (typeBits f.ty) (typeSigned f.ty) x

/-- The number in a floating lane. -/
def laneNum (f : VF) (x : Nat) : Num := decodeElem (typeFmt f.ty) x

/-- A lane function from an integer and a floating one. -/
def arithLane (gi : Int → Int → Int → Int) (gf : Num → Num → Num → Num) (f : VF) (draw : Word) (d a b : Nat) : Nat :=
  if typeFloat f.ty then floatLane f draw (gf (laneNum f d) (laneNum f a) (laneNum f b))
  else intLane f (gi (laneInt f d) (laneInt f a) (laneInt f b))

/-! ### Arithmetic (R218, R219) -/

/-- VADD. -/
def vaddSlot : SlotFn := fun s t th y w =>
  vSlot (legalArith w) (arithDraws w)
    (fun s => vecMap false true 2 (arithLane (fun _ a b => a + b) (fun _ a b => a.add b)) s t th y w) s t th y w

/-- VSUB. -/
def vsubSlot : SlotFn := fun s t th y w =>
  vSlot (legalArith w) (arithDraws w)
    (fun s => vecMap false true 2 (arithLane (fun _ a b => a - b) (fun _ a b => a.add b.negate)) s t th y w) s t th y w

/-- VMUL. -/
def vmulSlot : SlotFn := fun s t th y w =>
  vSlot (legalArith w) (arithDraws w)
    (fun s => vecMap false true 4 (arithLane (fun _ a b => a * b) (fun _ a b => a.mul b)) s t th y w) s t th y w

/-- VMULH: the upper half of the double-width product. -/
def vmulhSlot : SlotFn := fun s t th y w =>
  vSlot (!typeFloat (vfOf w).ty && legalPlain w) 0
    (fun s => vecMap false true 4
      (fun f _ _ a b => bitsOfInt (typeBits f.ty) (laneInt f a * laneInt f b / 2 ^ typeBits f.ty)) s t th y w) s t th y w

/-- VFMA: vd + va × vb, rounded once. -/
def vfmaSlot : SlotFn := fun s t th y w =>
  vSlot (legalArith w) (arithDraws w)
    (fun s => vecMap true true 4
      (arithLane (fun d a b => d + a * b) (fun d a b => d.add (a.mul b))) s t th y w) s t th y w

/-- An infinity that SAT turns into the largest finite magnitude, other bits as they are (R219). -/
def satInf (f : VF) (x : Nat) : Nat :=
  match floatFmt (typeFmt f.ty) with
  | some ff => if f.sat && (laneNum f x).isInf then maxBits ff (laneNum f x).isNeg else x
  | none => x

/-- VMIN (`mx` false) and VMAX of two lanes (R218, R219). -/
def minMaxLane (mx : Bool) (f : VF) (a b : Nat) : Nat :=
  match floatFmt (typeFmt f.ty) with
  | some ff =>
    if (laneNum f a).isNaN || (laneNum f b).isNaN then canonNaN ff false
    else satInf f (if laneLess f.ty b a != mx then b else a)
  | none => if laneLess f.ty b a != mx then b else a

/-- The fields of VMIN and VMAX: RND is not used, and SAT only in floating types (R217, R219). -/
def legalMinMax (w : SlotWord) : Bool := if typeFloat (vfOf w).ty then (vfOf w).rnd == 0 else legalPlain w

/-- VMIN. -/
def vminSlot : SlotFn := fun s t th y w =>
  vSlot (legalMinMax w) 0 (fun s => vecMap false true 2 (fun f _ _ a b => minMaxLane false f a b) s t th y w) s t th y w

/-- VMAX. -/
def vmaxSlot : SlotFn := fun s t th y w =>
  vSlot (legalMinMax w) 0 (fun s => vecMap false true 2 (fun f _ _ a b => minMaxLane true f a b) s t th y w) s t th y w

/-- VAND, VOR and VXOR (R217). -/
def vandSlot : SlotFn := fun s t th y w =>
  vSlot (legalPlain w) 0 (fun s => vecMap false true 2 (fun _ _ _ a b => a &&& b) s t th y w) s t th y w
def vorSlot : SlotFn := fun s t th y w =>
  vSlot (legalPlain w) 0 (fun s => vecMap false true 2 (fun _ _ _ a b => a ||| b) s t th y w) s t th y w
def vxorSlot : SlotFn := fun s t th y w =>
  vSlot (legalPlain w) 0 (fun s => vecMap false true 2 (fun _ _ _ a b => a ^^^ b) s t th y w) s t th y w

/-! ### Shifts (R221) -/

/-- VSHL: the shift count is the low log₂(width) bits of the vb lane. -/
def vshlSlot : SlotFn := fun s t th y w =>
  vSlot (!typeFloat (vfOf w).ty && (vfOf w).rnd == 0) 0
    (fun s => vecMap false true 2
      (fun f _ _ a b => intLane f (laneInt f a * 2 ^ (b % typeBits f.ty))) s t th y w) s t th y w

/-- A right shift rounded under RND, with u = 1 in R133. -/
def shrLane (f : VF) (draw : Word) (a n : Nat) : Nat :=
  match Rnd.ofField f.rnd with
  | some m =>
    let i := laneInt f a
    let u : Int := roundUnits m draw ⟨i, -(n : Int)⟩ 0
    bitsOfInt (typeBits f.ty) (if i < 0 then -u else u)
  | none => 0

/-- VSHR. -/
def vshrSlot : SlotFn := fun s t th y w =>
  vSlot (!typeFloat (vfOf w).ty && !(vfOf w).sat && (vfOf w).rnd ≠ 3) (2048 / typeBits (vfOf w).ty)
    (fun s => vecMap false true 2 (fun f r _ a b => shrLane f r a (b % typeBits f.ty)) s t th y w) s t th y w

/-! ### Comparison and selection (R220) -/

/-- VCMP: bits [2:0] are the relation. It draws nothing. -/
def vcmpSlot : SlotFn := fun s t th y w =>
  if (vcmpRel (sf w 0 3) none).isNone then .illegal s
  else if !guardOn y w then .done s
  else
    .done (vecMap false true 2
      (fun f _ _ a b =>
        if vcmpRel (sf w 0 3) (laneCmp f.ty a b) = some true then 2 ^ typeBits f.ty - 1 else 0) s t th y w)

/-- VSEL: only the mask lane and the selected source are read (R224). -/
def vselSlot : SlotFn := fun s t th y w =>
  vSlot (legalPlain w) 0
    (fun s =>
      let f := vfOf w
      let bits := typeBits f.ty
      let sub := s.typeSubst t f.ty
      let d := lanesOf bits (y.rv f.vd) (y.rpo f.vd)
      let a := lanesOf bits (y.rv f.va) (y.rpo f.va)
      let out := ((d.zip a).zip (vbLanes y f)).map (fun e =>
        let d := e.1.1
        let x := if d.1 ≠ 0 then e.1.2 else e.2
        if d.2 || x.2 then (sub, true) else x)
      s.putV t th f.vd bits 2 out) s t th y w

/-- VBCAST: every lane from s[VA]; no poison (R224). -/
def vbcastSlot : SlotFn := fun s t th y w =>
  vSlot (legalPlain w && (vfOf w).vb == 0 && !(vfOf w).sbit) 0
    (fun s =>
      let f := vfOf w
      let bits := typeBits f.ty
      s.putV t th f.vd bits 2 (List.replicate (2048 / bits) ((y.rs f.va).toNat % 2 ^ bits, false))) s t th y w

/-- The sign bit of a floating lane cleared or flipped, then SAT (R219). -/
def signLane (flip : Bool) (f : VF) (a : Nat) : Nat :=
  let top := 2 ^ (typeBits f.ty - 1)
  let neg := decide (top ≤ a % (2 * top))
  let m := a % top
  satInf f (if flip && !neg then m + top else m)

/-- The fields of VABS and VNEG, which round nothing (R217, R219). -/
def legalUnary (w : SlotWord) : Bool := (vfOf w).rnd == 0 && (vfOf w).vb == 0 && !(vfOf w).sbit

/-- VABS. -/
def vabsSlot : SlotFn := fun s t th y w =>
  vSlot (legalUnary w) 0
    (fun s => vecMap false false 2
      (fun f _ _ a _ => if typeFloat f.ty then signLane false f a else intLane f (laneInt f a).natAbs) s t th y w)
    s t th y w

/-- VNEG. -/
def vnegSlot : SlotFn := fun s t th y w =>
  vSlot (legalUnary w) 0
    (fun s => vecMap false false 2
      (fun f _ _ a _ => if typeFloat f.ty then signLane true f a else intLane f (-(laneInt f a))) s t th y w)
    s t th y w

/-! ### Reductions (R223) -/

/-- A lane widened to 32 bits: sign- or zero-extended, or exactly to FP32. -/
def widen (f : VF) (x : Nat) : Nat :=
  if typeFloat f.ty then encodeElem 0x0B .rne false 0 (laneNum f x) else bitsOfInt 32 (laneInt f x)

/-- FP32 addition with one RNE rounding; NaN is the canonical one. -/
def fp32Add (a b : Nat) : Nat :=
  let x := (decodeElem 0x0B a).add (decodeElem 0x0B b)
  if x.isNaN then 0x7FC00000 else encodeElem 0x0B .rne false 0 x

/-- One level of the fixed tree: adjacent results added. -/
def treeLevel : List Nat → List Nat
  | a :: b :: r => fp32Add a b :: treeLevel r
  | l => l

/-- The fixed tree over 2^n lanes. -/
def treeSum : Nat → List Nat → Nat
  | 0, l => l.getD 0 0
  | n + 1, l => treeSum n (treeLevel l)

/-- VRSUM: poisoned lanes count as 0. -/
def rsum (f : VF) (l : List (Nat × Bool)) : Nat :=
  let v := l.map (fun e => if e.2 then 0 else widen f e.1)
  if l.all (·.2) then 0
  else if typeFloat f.ty then treeSum (if typeBits f.ty = 32 then 6 else 7) v
  else v.foldl (fun a b => (a + b) % 2 ^ 32) 0

/-- VRMAX and VRMIN over the lanes that are not poisoned. -/
def rminmax (mx : Bool) (f : VF) (l : List (Nat × Bool)) : Nat :=
  match (l.filter (fun e => !e.2)).map (·.1) with
  | [] => 0
  | x :: r =>
    if typeFloat f.ty && (x :: r).any (fun e => (laneNum f e).isNaN) then 0x7FC00000
    else
      widen f (r.foldl (fun m e => if laneLess f.ty (if mx then m else e) (if mx then e else m) then e else m) x)

/-- VRARGMAX: the lowest index of a NaN lane, else of the largest one. -/
def rargmax (f : VF) (l : List (Nat × Bool)) : Nat :=
  let live := l.zipIdx.filter (fun e => !e.1.2)
  match live.find? (fun e => typeFloat f.ty && (laneNum f e.1.1).isNaN) with
  | some e => e.2
  | none =>
    match live with
    | [] => 0xFFFFFFFF
    | x :: r => (r.foldl (fun m e => if laneCmp f.ty m.1.1 e.1.1 = some (-1) then e else m) x).2

/-- A reduction: s[VD], and PD set where a lane was poisoned. -/
def reduceSlot (g : VF → List (Nat × Bool) → Nat) : SlotFn := fun s t th y w =>
  if !((vfOf w).vb == 0 && !sb w 0) then .illegal s
  else if !guardOn y w then .done s
  else
    let f := vfOf w
    let l := lanesOf (typeBits f.ty) (y.rv f.va) (y.rpo f.va)
    .done (s.modThr t th (fun z =>
      (z.ws f.vd (BitVec.ofNat 32 (g f l)) (s.fck + 4)).wp (sf w 1 3) (l.any (·.2)) (s.fck + 4)))

def vrsumSlot : SlotFn := reduceSlot rsum
def vrmaxSlot : SlotFn := reduceSlot (rminmax true)
def vrminSlot : SlotFn := reduceSlot (rminmax false)
def vrargmaxSlot : SlotFn := reduceSlot rargmax

/-! ### The LUT unit (R227) -/

/-- LUT entry k of a tile. -/
def Tile.lutEntry (x : Tile) (k : Nat) : Word := Sparse.get (fun _ => 0) x.lut k

/-- Exact value of LUT entry i at fraction fr. -/
def lutPoint (x : Tile) (i : Nat) (fr : Num) : Num :=
  let e := (x.lutEntry i).toNat
  (decodeElem 0x09 (e % 65536)).add (fr.mul (decodeElem 0x09 (e / 65536)))

/-- One lane of VLUT: t = (x − base) × scale, each operation rounded RNE to FP32, then the entry's line. -/
def lutLane (x : Tile) (f : VF) (draw : Word) (a : Nat) : Nat :=
  let v := laneNum f a
  let d := decodeElem 0x0B (encodeElem 0x0B .rne false 0 (v.add (decodeElem 0x0B x.lutBase.toNat).negate))
  let q := decodeElem 0x0B (encodeElem 0x0B .rne false 0 (d.mul (decodeElem 0x0B x.lutScale.toNat)))
  let zero : Num := .fin false 0 0
  let one : Num := .fin false 1 0
  if v.isNaN || q.isNaN then floatLane f draw (.nan false)
  else if q.cmp zero < 0 then floatLane f draw (lutPoint x 0 zero)
  else if 0 ≤ q.cmp (.ofDy ⟨1024, 0⟩) then floatLane f draw (lutPoint x 1023 one)
  else
    let i := (q.toDy.scaledFloor 0).1
    floatLane f draw (lutPoint x i (q.add (.ofDy ⟨-(i : Int), 0⟩)))

/-- VLUT (TYPE 5, 6 or 7). -/
def vlutSlot : SlotFn := fun s t th y w =>
  let f := vfOf w
  vSlot (typeFloat f.ty && f.vb == 0 && !f.sbit && f.rnd ≠ 3) (arithDraws w)
    (fun s => vecMap false false 4 (fun f r _ a _ => lutLane (s.tile t) f r a) s t th y w) s t th y w

/-! ### Conversion (R228–R230) -/

/-- The bits an element of a format takes in a register (R229). -/
def regBits (fmt : Nat) : Nat := fmtBits fmt

/-- A format that VCVT and VQNT accept. -/
def cvtFmt (fmt : Nat) : Bool := !fmtReserved fmt && !fmtIsBlock fmt

/-- Elements dst0 … of v[vd] replaced, with their poison, readable after `lat` ck. -/
def State.putElems (s : State) (t : TileId) (th : ThreadId) (y : Thread) (vd fmt dst0 lat : Nat)
    (l : List (Nat × Bool)) : State :=
  let w := regBits fmt
  let old := lanesOf w (y.rv vd) (y.rpo vd)
  let all := old.zipIdx.map (fun e =>
    if dst0 ≤ e.2 then (match l[e.2 - dst0]? with | some x => x | none => e.1) else e.1)
  let po : VPoison :=
    if 8 ≤ w then packPoison w all
    else
      -- two 4-bit elements share a poison bit: one that is written sets or clears it (R140)
      BitVec.ofNat 256 (packBits 1 ((List.range 256).map (fun i =>
        let written (k : Nat) : Option Bool := if dst0 ≤ k then (l[k - dst0]?).map (·.2) else none
        match written (2 * i), written (2 * i + 1) with
        | none, none => b2n ((y.rpo vd).getLsbD i)
        | a, b => b2n (a.getD false || b.getD false))))
  s.modThr t th (fun z => z.wv vd (packLanes w all) po (s.fck + lat))

/-- Element k of a conversion into a format at register position pos: the draw of that position (R139, R222). -/
def cvtElem (m : Rnd) (fmt : Nat) (sat : Bool) (sub : Word) (key c : Word) (pos : Nat) (x : Num) (poison : Bool) :
    Nat × Bool :=
  if poison then (sub.toNat % 2 ^ regBits fmt, true) else (encodeElem fmt m sat (srDraw key c pos) x, false)

/-- Draws of a conversion to nd elements: none to LOG8, where SR acts as RNE (R134, R222). -/
def cvtDraws (dst nd : Nat) : Nat := if dst = 0x11 then 0 else nd

/-- VCVT: PART in `sub` [2:1], SAT in `sub` [0]. -/
def vcvtSlot (sub : Nat) : SlotFn := fun s t th y w =>
  let vd := sf w 17 5
  let src := sf w 7 5
  let dst := sf w 2 5
  let part := sub / 2
  let sat := decide (sub % 2 = 1)
  if !(cvtFmt src && cvtFmt dst) then .illegal s
  else
    let ns := 2048 / regBits src
    let nd := 2048 / regBits dst
    let ratio := if nd ≤ ns then ns / nd else nd / ns
    match Rnd.ofField (sf w 0 2) with
    | none => .illegal s
    | some m =>
      if 8 ≤ ratio || ratio ≤ part then .illegal s
      else
        let key := s.srKeyOf t
        let c := (s.thr t th).draw
        let sb := s.subst t.val dst
        let a := lanesOf (regBits src) (y.rv (sf w 12 5)) (y.rpo (sf w 12 5))
        let (sel, dst0) := if nd ≤ ns then ((a.drop (part * nd)).take nd, 0) else (a, part * ns)
        let out := sel.zipIdx.map (fun e => cvtElem m dst sat sb key c (dst0 + e.2) (decodeElem src e.1.1) e.1.2)
        let s' := if guardOn y w then s.putElems t th y vd dst dst0 3 out else s
        .done (s'.advanceDraw t th (sf w 0 2) (cvtDraws dst nd))

/-- VQNT. A poisoned lane writes the destination's substitution value (R141). -/
def vqntSlot : SlotFn := fun s t th y w =>
  let vd := sf w 17 5
  let n := sf w 7 5
  let dst := sf w 2 5
  let q := (y.rs (n + 1)).toNat
  let part := q / 2 ^ 8 % 8
  match Rnd.ofField (sf w 0 2) with
  | none => .illegal s
  | some m =>
    if !cvtFmt dst || n % 2 = 1 then .illegal s
    else
      let nd := 2048 / regBits dst
      if guardOn y w && (decide (q / 2 ^ 6 % 4 ≠ 0) || decide (q / 2 ^ 11 % 32 ≠ 0) || decide (nd / 64 ≤ part)) then
        .illegal s
      else
        let key := s.srKeyOf t
        let c := (s.thr t th).draw
        let sb := s.subst t.val dst
        let mul := (y.rs n).toInt
        let shift := q % 64
        let z := intOfBits 16 true (q / 2 ^ 16)
        let a := lanesOf 32 (y.rv (sf w 12 5)) (y.rpo (sf w 12 5))
        let out := a.zipIdx.map (fun e =>
          let x : Dy := ⟨intOfBits 32 true e.1.1 * mul, -(31 + (shift : Int))⟩
          cvtElem m dst true sb key c (part * 64 + e.2) (.ofDy (x.add (.ofInt z))) e.1.2)
        let s' := if guardOn y w then s.putElems t th y vd dst (part * 64) 4 out else s
        .done (s'.advanceDraw t th (sf w 0 2) (cvtDraws dst nd))

/-! ### The commands -/

/-- A LUT load keeps VLUT and LUT.LOAD from issuing (R170, R226). -/
def lutHeld (s : State) (t : TileId) (_ : ThreadId) (_ : Thread) (_ : SlotWord) : Bool := (s.tile t).lutLoading

/-- The effect of a V-slot word given as a command. -/
def vCommand (f : SlotFn) (t : TileId) (th : ThreadId) (w : SlotWord) (s : State) : Host.Outcome State Fault Refusal :=
  .next (slotCommand f 2 t th w s)

def execVadd (t : TileId) (th : ThreadId) (w : SlotWord) (s : State) := vCommand vaddSlot t th w s
def execVsub (t : TileId) (th : ThreadId) (w : SlotWord) (s : State) := vCommand vsubSlot t th w s
def execVmul (t : TileId) (th : ThreadId) (w : SlotWord) (s : State) := vCommand vmulSlot t th w s
def execVmulh (t : TileId) (th : ThreadId) (w : SlotWord) (s : State) := vCommand vmulhSlot t th w s
def execVfma (t : TileId) (th : ThreadId) (w : SlotWord) (s : State) := vCommand vfmaSlot t th w s
def execVmin (t : TileId) (th : ThreadId) (w : SlotWord) (s : State) := vCommand vminSlot t th w s
def execVmax (t : TileId) (th : ThreadId) (w : SlotWord) (s : State) := vCommand vmaxSlot t th w s
def execVand (t : TileId) (th : ThreadId) (w : SlotWord) (s : State) := vCommand vandSlot t th w s
def execVor (t : TileId) (th : ThreadId) (w : SlotWord) (s : State) := vCommand vorSlot t th w s
def execVxor (t : TileId) (th : ThreadId) (w : SlotWord) (s : State) := vCommand vxorSlot t th w s
def execVshl (t : TileId) (th : ThreadId) (w : SlotWord) (s : State) := vCommand vshlSlot t th w s
def execVshr (t : TileId) (th : ThreadId) (w : SlotWord) (s : State) := vCommand vshrSlot t th w s
def execVcmp (t : TileId) (th : ThreadId) (w : SlotWord) (s : State) := vCommand vcmpSlot t th w s
def execVsel (t : TileId) (th : ThreadId) (w : SlotWord) (s : State) := vCommand vselSlot t th w s
def execVbcast (t : TileId) (th : ThreadId) (w : SlotWord) (s : State) := vCommand vbcastSlot t th w s
def execVabs (t : TileId) (th : ThreadId) (w : SlotWord) (s : State) := vCommand vabsSlot t th w s
def execVneg (t : TileId) (th : ThreadId) (w : SlotWord) (s : State) := vCommand vnegSlot t th w s
def execVrsum (t : TileId) (th : ThreadId) (w : SlotWord) (s : State) := vCommand vrsumSlot t th w s
def execVrmax (t : TileId) (th : ThreadId) (w : SlotWord) (s : State) := vCommand vrmaxSlot t th w s
def execVrmin (t : TileId) (th : ThreadId) (w : SlotWord) (s : State) := vCommand vrminSlot t th w s
def execVrargmax (t : TileId) (th : ThreadId) (w : SlotWord) (s : State) := vCommand vrargmaxSlot t th w s
def execVlut (t : TileId) (th : ThreadId) (w : SlotWord) (s : State) := vCommand (slotUnless lutHeld vlutSlot) t th w s
def execVqnt (t : TileId) (th : ThreadId) (w : SlotWord) (s : State) := vCommand vqntSlot t th w s
def execVcvt (t : TileId) (th : ThreadId) (sub : Fin 8) (w : SlotWord) (s : State) :=
  vCommand (vcvtSlot sub.val) t th w s

end Sys2Proof.Machine
end

