-- ==== Sys2Proof/Machine/Tensor.lean ====
section
/-!
DEFINITION. The tensor unit (R165, R166, R190–R215): issue, start, the reads of each ck and end of a macro-op,
accumulator control, and the load of the LUT unit (R225, R226).
-/

namespace Sys2Proof.Machine

/-! ### Accumulator banks (R166, R200, R209) -/

/-- Element i of bank b. -/
def Tile.accAt (x : Tile) (b i : Nat) : Word := Sparse.get (fun _ => 0) x.acc (2048 * b + i)

/-- Element i of bank b written. -/
def Tile.setAcc (x : Tile) (b i : Nat) (v : Word) : Tile :=
  { x with acc := Sparse.set (fun _ => 0) x.acc (2048 * b + i) v }

/-- The substitution flag of row r of bank b. -/
def Tile.flagAt (x : Tile) (b r : Nat) : Bool := (x.flags.toList.getD b 0).getLsbD r

/-- The substitution flag of row r of bank b written. -/
def Tile.setFlag (x : Tile) (b r : Nat) (on : Bool) : Tile :=
  let m : BitVec 64 := 1#64 <<< r
  let i : Fin 8 := Fin.ofNat 8 b
  { x with flags := x.flags.set i (if on then x.flags[i] ||| m else x.flags[i] &&& ~~~ m) }

/-- Bank b set to 0 and its flags cleared (R215). -/
def Tile.clearBank (x : Tile) (b : Nat) : Tile :=
  { x with
    acc := Sparse.drop x.acc (2048 * b) (2048 * b + 2048)
    flags := x.flags.set (Fin.ofNat 8 b) 0 }

/-- The banks that an LDB or STB in progress holds (R241). -/
def PortJob.bank (j : PortJob) : Option Nat :=
  match j.kind with
  | .ldb _ b _ _ _ _ _ => some b
  | .stb _ b _ => some b
  | _ => none

/-- A bank is busy, or not yet readable, for a bundle that reads or writes it in frame ck c (R166, R241). -/
def Tile.bankBusy (x : Tile) (b c : Nat) : Bool :=
  (match x.running with | some m => m.banks.contains b | none => false) ||
    (match x.starting with | some m => m.banks.contains b | none => false) ||
    (match x.queued with | some m => m.banks.contains b | none => false) ||
    x.jobs.any (fun j => j.bank == some b) || decide (c < Sparse.get (fun _ => 0) x.accReady b)

/-- A bank keeps a macro-op that names it from issuing (R166, R241). -/
def Tile.bankHeld (x : Tile) (b : Nat) : Bool :=
  (match x.queued with | some m => m.banks.contains b | none => false) || x.jobs.any (fun j => j.bank == some b)

/-! ### Issue (R192–R195, R199) -/

/-- The macro-op that a T-slot word and its quad describe (R192, R193), with no field checked yet. -/
def macroOf (k : MacroKind) (s : State) (t : TileId) (th : ThreadId) (y : Thread) (w : SlotWord) : MacroOp :=
  let sq := sf w 0 5
  let q0 := (y.rs sq).toNat
  let q1 := (y.rs (sq + 1)).toNat
  let q2 := (y.rs (sq + 2)).toNat
  let q3 := (y.rs (sq + 3)).toNat
  let mm := k == .mm
  { kind := k, thread := th.val, frame := s.isFrame t th
    ha := s.handle t (sf w 16 6), hb := s.handle t (sf w 10 6), acc := sf w 7 3, accumulate := sb w 5
    m := q0 % 512 + 1, n := q0 / 2 ^ 9 % 32 + 1, s := q0 / 2 ^ 14 % 4096 + 1, obj := q0 / 2 ^ 26 % 32
    cen := decide (q0 / 2 ^ 31 % 2 = 1), ja := q1 % 65536, y0 := if mm then 0 else q1 / 65536
    jb := if mm then q1 / 65536 else q2 / 65536, kh := if mm then 1 else q2 % 8 + 1
    kw := if mm then 1 else q2 / 8 % 8 + 1, st2 := !mm && decide (q2 / 64 % 2 = 1), g0 := if mm then 0 else q3 % 65536
    issueCk := s.fck, a := 0, e := 0, got := [] }

/-- The fields and quad fields hold no reserved value, and R194 holds. -/
def macroLegal (m : MacroOp) (y : Thread) (w : SlotWord) : Bool :=
  let sq := sf w 0 5
  let q2 := (y.rs (sq + 2)).toNat
  let q3 := (y.rs (sq + 3)).toNat
  decide (sq % 4 = 0) && decide (sq ≠ 0) && !sb w 6 &&
    (match m.kind with
      | .mm => decide (q2 = 0) && decide (q3 = 0)
      | _ => decide (q2 / 128 % 512 = 0) && decide (q3 / 65536 = 0)) &&
    (m.kind ≠ .dw || m.s == 1) &&
    decide (m.acc + (m.m + 63) / 64 - 1 ≤ 7) &&
    !(hV m.hb && hFmt m.hb == 0x0E && m.steps % 2 == 1)

/-- Last element and row of handle A that a macro-op names: its first row for MM; the last pixel column and row of the
taps for CONV and DW (R92, R199). -/
def MacroOp.lastA (m : MacroOp) : Nat × Nat :=
  match m.kind with
  | .mm => (0, m.ja)
  | _ => (32 * (m.ja + m.sigma * (m.m - 1) + m.kw) - 1, m.y0 + m.kh - 1)

/-- The queue place that R165 gives a macro-op: an idle unit takes one of a frame thread at once; any other waits in the
queue. -/
def Tile.queueHeld (x : Tile) (frame : Bool) : Bool :=
  if frame && x.running.isNone && x.starting.isNone then false else x.queued.isSome

/-- Checks of one operand's handle (R92, R195): its code and index. -/
def State.macroHandle (s : State) (t : TileId) (e : Quad) (idx : Nat) (ok : Bool) (r ij : Nat × Nat) :
    Option (Nat × Nat) :=
  match s.handleFault (some t.val) e true false (fun _ => ok) r.1 r.2 ij.1 ij.2 with
  | some c => some (c, idx)
  | none => if inOwnPail t.val e then none else some (0x04, idx)      -- the wide read port reads the Pail (R165)

/-- A macro-op of kind k issued from the T slot. -/
def macroSlot (k : MacroKind) : SlotFn := fun s t th y w =>
  let m := macroOf k s t th y w
  if !guardOn y w then (if decide (sf w 0 5 % 4 = 0) && sf w 0 5 ≠ 0 && !sb w 6 then .done s else .illegal s)
  else if !macroLegal m y w then .illegal s
  else
    let ok := pairOk k (hFmt m.ha) (hFmt m.hb)
    match s.macroHandle t m.ha (sf w 16 6) ok m.actAll m.lastA with
    | some (c, i) => .raise s c i
    | none =>
      match s.macroHandle t m.hb (sf w 10 6) ok m.weightAll (0, m.jb) with
      | some (c, i) => .raise s c i
      | none =>
        .done (s.modTile t (fun x =>
          if m.frame && x.running.isNone && x.starting.isNone then { x with starting := some m }
          else { x with queued := some m }))

/-- A macro-op that no queue place or a held bank keeps from issuing (R165, R166, R170). -/
def macroHeld (k : MacroKind) (s : State) (t : TileId) (th : ThreadId) (y : Thread) (w : SlotWord) : Bool :=
  let x := s.tile t
  x.queueHeld (s.isFrame t th) || (macroOf k s t th y w).banks.any x.bankHeld

def mmSlot : SlotFn := macroSlot .mm
def convSlot : SlotFn := macroSlot .conv
def dwSlot : SlotFn := macroSlot .dw

/-! ### Start (R165, R212) -/

/-- The row flags of the rows a macro-op writes are cleared (R208). -/
def Tile.clearRows (x : Tile) (m : MacroOp) : Tile :=
  (List.range m.m).foldl (fun x r => x.setFlag (m.acc + r / 64) (r % 64) false) x

/-- The macro-op m, issued on an idle unit or else queued, starts in this ck. -/
def State.startMacro (s : State) (t : TileId) (m : MacroOp) : State :=
  let m := { m with a := s.fck, e := m.endFrom s.fck }
  s.modTile t (fun x =>
    let x := if x.starting.isSome then { x with running := some m, starting := none }
      else { x with running := some m, queued := none }
    if m.accumulate then x else x.clearRows m)

/-- One 128-byte block read through the wide read port, with a mark for each of its words (R111). -/
def State.readBlk (s : State) (key a n : Nat) : State × Blk :=
  let (s, bs, bad) := s.readMem 1 a n
  (s, { step := key, addr := a, data := bs,
        bad := (List.range ((n + 7) / 8)).map (fun i => bad.getD (8 * i) false) })

/-- The uncorrectable words of a block. -/
def Blk.badWords (b : Blk) : Nat := (b.bad.filter id).length

/-- A KIND 0x01 record claims bank b of tile t's wide read port for thread th in this ck, and the port has performed no
access in it (R76, R80, R82). -/
def State.readClaim (s : State) (t : TileId) (th b : Nat) : Bool :=
  s.wideFree t.val 0 && (s.tile t).slots.any (fun r => r.kind == 1 && r.arg == b && r.arg2 % 8 == th && r.at s.sched)

/-- A KIND 0x02 record claims bank b of tile t's wide write port for source `who`, a thread or 8 for mesh delivery,
and the port has performed no access in this ck. -/
def State.writeClaim (s : State) (t : TileId) (who b : Nat) : Bool :=
  s.wideFree t.val 1 && (s.tile t).slots.any (fun r => r.kind == 2 && r.arg == b && r.arg2 == who && r.at s.sched)

/-- A bank-violating read by the frame domain: counted as delivered with substitution (R184), and the tile faults
(R82). -/
def State.readViolation (s : State) (t : TileId) (th slot a : Nat) : State :=
  (s.satReg (rTile t.val oFaultCount)).tileFault t th 0x07 slot (s.thr t (thid th)).pc.toNat a

/-- The read of the running macro-op in this ck (R202, R203). -/
def State.macroRead (s : State) (t : TileId) : State :=
  match (s.tile t).running with
  | none => s
  | some m =>
    match m.readAt s.fck with
    | none => s
    | some (key, a) =>
      if m.frame && !s.readClaim t m.thread (bankOf a) then s.readViolation t m.thread 3 a
      else
        let (s, b) := (s.useWide t.val 0 (bankOf a)).readBlk key a 128
        -- the pad read repeats the last block and brings nothing new (R202)
        if m.got.any (fun g => g.step == key && g.addr == a) then s
        else
          (s.satReg (rTile t.val oFaultCount) b.badWords).modTile t (fun x =>
            { x with running := some { m with got := m.got ++ [b] } })

/-- The macro-op that the unit takes next: the one issued while it was idle, else the queued one. -/
def Tile.nextMacro (x : Tile) : Option MacroOp := x.starting.or x.queued

/-- MACRO_OP_START: the next macro-op starts once the unit is free, in the ck after its issue or after the end of the
running one; an asynchronous one once it is eligible and in the ck after its grant (R165, R212). -/
def State.macroStart (s : State) (t : TileId) : State :=
  let x := s.tile t
  match x.running, x.nextMacro with
  | none, some m =>
    if !s.frameActs || s.fck ≤ m.issueCk then s
    else if m.frame then
      match s.overdraw t m.leave s.fck (m.endFrom s.fck) with
      | some (w, tot) =>
        (s.overdrawRec t w tot).tileFault t m.thread 0x0C 3 (s.thr t (thid m.thread)).pc.toNat 0
      | none => ((s.startMacro t m).drawLeave t 0 m.leave s.fck (m.endFrom s.fck)).macroRead t
    else
      match x.grant with
      | some g =>
        if g.move || g.ended || s.ck ≤ g.ck then s
        else if !s.asyncMayStart t m then s.modTile t (fun x => { x with grant := none })
        else (s.startMacro t m).macroRead t
      | none => s
  | _, _ => s

/-! ### Operands and products (R196–R199, R205–R209) -/

/-- Byte a of the blocks read under a key, with its mark. -/
def blkByte (got : List Blk) (key a : Nat) : Byte × Bool :=
  match got.find? (fun b => b.step == key && decide (b.addr ≤ a) && decide (a < b.addr + b.data.length)) with
  | some b => (b.data.getD (a - b.addr) 0, b.bad.getD ((a - b.addr) / 8) false)
  | none => (0, false)

/-- The 32 elements of the unit at address a, the second half of a TERN block where `hi`, with a mark for each element
that is substituted (R209). -/
def unitElems (got : List Blk) (key a fmt : Nat) (hi : Bool) (sub : Word) : List (Num × Bool) :=
  let raw := (List.range (unitBytes fmt)).map (fun i => blkByte got key (a + i))
  if fmtIsBlock fmt then
    let bytes := raw.zipIdx.map (fun e => if e.1.2 then BitVec.ofNat 8 (substBlockByte sub fmt e.2) else e.1.1)
    let nb := if fmt = 0x0C then 16 else if fmt = 0x0D then 32 else 16
    let scaleBad := (raw.drop nb).any (·.2)
    (List.range 32).map (fun k =>
      let k := if hi then k + 32 else k
      let codeByte := if fmt = 0x0C then k / 2 else if fmt = 0x0D then k else k / 4
      (decodeBlockElem fmt bytes k, scaleBad || (raw.getD codeByte (0, false)).2))
  else
    let w := fmtBits fmt
    (List.range 32).map (fun k =>
      if w = 4 then
        let b := raw.getD (k / 2) (0, false)
        if b.2 then (decodeElem fmt (sub.toNat % 16), true)
        else (decodeElem fmt (b.1.toNat / 2 ^ (4 * (k % 2)) % 16), false)
      else
        let bs := (raw.drop (k * (w / 8))).take (w / 8)
        if bs.any (·.2) then (decodeElem fmt (sub.toNat % 2 ^ w), true)
        else (decodeElem fmt (natOfBytes (bs.map (·.1))), false))

/-- The units of a macro-op's step s: one list of rows for operand A and one of columns for operand B. For DW the rows
hold, per tap of the kernel row, the pixel's unit, and the columns the tap's unit. -/
def MacroOp.unitA (m : MacroOp) (sub : Word) (s row tap : Nat) : List (Num × Bool) :=
  let u := unitBytes (hFmt m.ha)
  let a :=
    match m.kind with
    | .mm => m.actAt s + row * u
    | .conv => m.actAt s + m.sigma * row * u
    | .dw => m.actAt s + (m.sigma * row + tap) * u
  unitElems m.got (2 * s + 1) a (hFmt m.ha) false sub

/-- The unit of column n (MM, CONV) or tap n (DW) of step s of operand B. -/
def MacroOp.unitB (m : MacroOp) (sub : Word) (s n : Nat) : List (Num × Bool) :=
  unitElems m.got (2 * s) (m.weightAt s + n * unitBytes (hFmt m.hb)) (hFmt m.hb)
    (hFmt m.hb == 0x0E && s % 2 == 1) sub

/-- The exact sum of products, NaN where R206 says. -/
def sumProducts : List (Num × Num) → Num
  | [] => .fin false 0 0
  | [p] => p.1.mul p.2
  | p :: r => (p.1.mul p.2).add (sumProducts r)

/-- One step's sum for element (row, col) of the result (R205–R207). -/
def stepSum (k : MacroKind) (a b : List (List (Num × Bool))) (col : Nat) : Num :=
  match k with
  | .dw => sumProducts ((a.zip b).map (fun p =>
      ((p.1.getD col (.fin false 0 0, false)).1, (p.2.getD col (.fin false 0 0, false)).1)))
  | _ => sumProducts (((a.getD 0 []).zip (b.getD col [])).map (fun p => (p.1.1, p.2.1)))

/-- The integer value of an integer number. -/
def Num.toInt (x : Num) : Int :=
  match x with
  | .fin s m e => let n : Int := m * 2 ^ (e / 16).toNat; if s then -n else n
  | _ => 0

/-- A step sum added to an accumulator element (R205, R206, R208). -/
def accStep (fp : Bool) (acc : Word) (x : Num) : Word :=
  if fp then
    let r := (decodeElem 0x0B acc.toNat).add x
    if r.isNaN then 0x7FC00000 else BitVec.ofNat 32 (encodeElem 0x0B .rne false 0 r)
  else acc + BitVec.ofInt 32 x.toInt

/-- The results of a macro-op written to its banks (R200), with the row flags of R209. -/
def Tile.macroResults (x : Tile) (m : MacroOp) (subA subB : Word) : Tile :=
  let fp := pairFp (hFmt m.ha) (hFmt m.hb)
  let taps := match m.kind with | .dw => m.kw | _ => 1
  let fed := match m.kind with | .dw => m.n | _ => 32
  (List.range m.m).foldl
    (fun x row =>
      let b := m.acc + row / 64
      let r := row % 64
      let start := (List.range m.n).map (fun c => if m.accumulate then x.accAt b (32 * r + c) else 0)
      let (accs, mark) := (List.range m.steps).foldl
        (fun (st : List Word × Bool) s =>
          let ua := (List.range taps).map (m.unitA subA s row)
          let ub := (List.range (match m.kind with | .dw => m.kw | _ => m.n)).map (m.unitB subB s)
          (st.1.zipIdx.map (fun e => accStep fp e.1 (stepSum m.kind ua ub e.2)),
            -- a row of DW is fed by channels 0 to N − 1 alone
            st.2 || ua.any (fun u => (u.take fed).any (·.2)) || ub.any (fun u => (u.take fed).any (·.2))))
        (start, false)
      let x := accs.zipIdx.foldl (fun x e => x.setAcc b (32 * r + e.2) e.1) x
      if mark then x.setFlag b r true else x)
    x

/-- MACRO_OP_END: in ck e the results reach the banks, the object is signalled, and the leave is held for the last
time (R201, R210, R211). -/
def State.macroEnd (s : State) (t : TileId) : State :=
  match (s.tile t).running with
  | none => s
  | some m =>
    if !s.frameActs || s.fck < m.e then s
    else
      let subA := s.subst t.val (hFmt m.ha)
      let subB := s.subst t.val (hFmt m.hb)
      let s := s.modTile t (fun x =>
        let x := x.macroResults m subA subB
        { x with
          running := none
          starting := x.starting.map (fun q => { q with issueCk := max q.issueCk s.fck })
          queued := x.queued.map (fun q => { q with issueCk := max q.issueCk s.fck })
          accReady := m.banks.foldl (fun l b => Sparse.set (fun _ => 0) l b (s.fck + 1)) x.accReady
          grant := x.grant.map (fun g => if g.move then g else { g with ended := true }) })
      if m.cen then s.signalLocal t m.obj m.frame m.thread 1 else s

/-! ### Accumulator control (R213–R215) -/

/-- ACC.RD. -/
def accRdSlot : SlotFn := fun s t th y w =>
  let x := s.tile t
  let b := sf w 14 3
  let rp := sf w 9 5
  if sf w 0 9 ≠ 0 then .illegal s
  else if !guardOn y w then .done s
  else
    let l := (List.range 64).map (fun i => ((x.accAt b (64 * rp + i)).toNat, x.flagAt b (2 * rp + i / 32)))
    .done (s.putV t th (sf w 17 5) 32 2 l)

/-- ACC.WR. -/
def accWrSlot : SlotFn := fun s t _ y w =>
  let b := sf w 14 3
  let rp := sf w 9 5
  if sf w 0 8 ≠ 0 then .illegal s
  else if !guardOn y w then .done s
  else
    let sub := s.subst t.val (if sb w 8 then 0x0B else 0x06)
    let l := lanesOf 32 (y.rv (sf w 17 5)) (y.rpo (sf w 17 5))
    .done (s.modTile t (fun x =>
      let x := l.zipIdx.foldl (fun x e => x.setAcc b (64 * rp + e.2) (if e.1.2 then sub else BitVec.ofNat 32 e.1.1)) x
      (x.setFlag b (2 * rp) ((l.take 32).any (·.2))).setFlag b (2 * rp + 1) ((l.drop 32).any (·.2))))

/-- ACC.CLR. -/
def accClrSlot : SlotFn := fun s t _ y w =>
  let banks := (List.range 8).filter (fun b => sb w (14 + b))
  if sf w 0 14 ≠ 0 then .illegal s
  else if !guardOn y w then .done s
  else .done (s.modTile t (fun x => banks.foldl Tile.clearBank x))

/-- An accumulator bank that ACC.RD, ACC.WR, LDB or STB names in bits [lo + 2 : lo] is busy (R166, R241). -/
def bankHeldAt (lo : Nat) (s : State) (t : TileId) (_ : ThreadId) (_ : Thread) (w : SlotWord) : Bool :=
  (s.tile t).bankBusy (sf w lo 3) s.fck

/-- A bank that ACC.CLR names is busy. -/
def clrHeld (s : State) (t : TileId) (_ : ThreadId) (_ : Thread) (w : SlotWord) : Bool :=
  (List.range 8).any (fun b => sb w (14 + b) && (s.tile t).bankBusy b s.fck)

/-! ### Wide-port jobs: the reads of one ck -/

/-- The port of a job's direction, KIND 1 read or 2 write, is open for an asynchronous thread in this ck (R85): no record
assigns it, no asynchronous macro-op reads through it (R203), and it has performed no access in the ck (R76). -/
def State.portOpen (s : State) (t : TileId) (kind : Nat) : Bool :=
  !((s.tile t).slots.any (fun r => r.kind == kind && r.at s.sched)) &&
    !(kind == 1 && (s.asyncMacroAddr t).isSome) && s.wideFree t.val (kind - 1)

/-- An asynchronous thread may use bank b of its Pail through the port of `kind` in this ck (R83, R85). -/
def State.openAt (s : State) (t : TileId) (kind b : Nat) : Bool :=
  s.portOpen t kind && s.bankFree t.val b

/-- Job j of tile t replaced at place i. -/
def Tile.setJob (x : Tile) (i : Nat) (j : PortJob) : Tile := { x with jobs := x.jobs.set i j }

/-- The slot that issued a job, for FAULT_INFO: LUT.LOAD in V, the others in M. -/
def PortJob.slot (j : PortJob) : Nat := match j.kind with | .lut .. => 2 | _ => 1

/-- The read of job i of tile t that falls in this ck (R202, R226, R239, R252): a claimed one in a frame thread, the
first open cycle in an asynchronous one. -/
def State.jobRead (s : State) (t : TileId) (i : Nat) : State :=
  match (s.tile t).jobs[i]? with
  | none => s
  | some j =>
    match j.reads with
    | [] => s
    | (c, key, a, n) :: rest =>
      if s.fck < c then s
      else if j.frame then
        let j := { j with reads := rest }
        if !s.readClaim t j.thread (bankOf a) then
          -- every word of the block is substituted (R82)
          let b : Blk := { step := key, addr := a, data := List.replicate n 0, bad := List.replicate ((n + 7) / 8) true }
          (s.modTile t (fun x => x.setJob i { j with got := j.got ++ [b] })).readViolation t j.thread j.slot a
        else
          let (s, b) := (s.useWide t.val 0 (bankOf a)).readBlk key a n
          let again := j.got.any (fun g => g.addr == a && g.step == key)
          let j := if again then j else { j with got := j.got ++ [b] }
          let s := if again then s else s.satReg (rTile t.val oFaultCount) b.badWords
          s.modTile t (fun x => x.setJob i j)
      else if !s.openAt t 1 (bankOf a) then s
      else
        let s := if c < s.fck then s.countNdet 1 else s
        let (s, b) := (s.useWide t.val 0 (bankOf a)).readBlk key a n
        let again := j.got.any (fun g => g.addr == a && g.step == key)
        let e := if rest.isEmpty then s.fck else j.e
        let rest := match rest with
          | (c', k', a', n') :: r => (max c' (s.fck + 1), k', a', n') :: r
          | [] => []
        let s := if again then s else s.satReg (rTile t.val oFaultCount) b.badWords
        s.modTile t (fun x => x.setJob i { j with
          reads := rest
          e := max j.e e
          got := if again then j.got else j.got ++ [b] })

/-! ### LUT.LOAD (R225, R226) -/

/-- LUT.LOAD: the handle is checked over all 4096 bytes; 33 reads follow from the next ck. -/
def lutLoadSlot : SlotFn := fun s t th y w =>
  let h := sf w 16 6
  let n := sf w 11 5
  if n % 2 = 1 then .illegal s
  else if !guardOn y w then .done s
  else
    let e := s.handle t h
    let j := sf w 0 11
    let a := hStart e + j * hStride0 e
    match s.handleFault (some t.val) e true false (fun _ => true) a 4096 0 j with
    | some c => .raise s c h
    | none =>
      if !inOwnPail t.val e then .raise s 0x04 h
      else
        let frame := s.isFrame t th
        let c := s.fck
        let job : PortJob :=
          { kind := .lut e (y.rs n) (y.rs (n + 1)) a, thread := th.val, frame := frame
            reads := (List.range 33).map (fun i => (c + 1 + i, 0, padBlock a 4096 i, 128))
            writes := [], got := [], issued := c, e := c + 33 }
        let start := fun (s : State) => s.modTile t (fun x => { x with jobs := x.jobs ++ [job], lutLoading := true })
        if frame then
          match s.overdraw t 1 (c + 1) (c + 33) with
          | some (win, tot) => .raise (s.overdrawRec t win tot) 0x0C 0
          | none => .done ((start s).drawLeave t 1 1 (c + 1) (c + 33))
        else .done (start s)

/-- TILE_STATUS.LUT_LOAD: from the ck after the issue of a load until its last block has arrived (R226). -/
def State.lutReads (s : State) (t : TileId) : Bool :=
  (s.tile t).jobs.any (fun j => match j.kind with | .lut .. => decide (j.issued < s.fck) | _ => false)

/-- LUT_LOAD_COMPLETE, in a ck after the last read: the last block has arrived; the new table replaces the old one.
Entries of an uncorrectable word load as SUBST 0x09 (R231). -/
def State.lutComplete (s : State) (t : TileId) : State :=
  let x := s.tile t
  match x.jobs.find? (fun j => match j.kind with | .lut .. => j.reads.isEmpty && decide (j.e < s.fck) | _ => false) with
  | none => s
  | some j =>
    match j.kind with
    | .lut _ base scale first =>
      let sub := (s.subst t.val 0x09).toNat % 65536
      let entry (k : Nat) : Word :=
        let bs := (List.range 4).map (fun i => blkByte j.got 0 (first + 4 * k + i))
        if bs.any (·.2) then BitVec.ofNat 32 (sub * 65537) else BitVec.ofNat 32 (natOfBytes (bs.map (·.1)))
      let table := (List.range 1024).foldl (fun l k => Sparse.set (fun _ => 0) l k (entry k)) []
      s.modTile t (fun x =>
        { x with
          lut := table, lutBase := base, lutScale := scale, lutLoading := false
          jobs := x.jobs.filter (fun j => match j.kind with | .lut .. => false | _ => true) })
    | _ => s

/-! ### The commands -/

/-- The effect of a T-slot word given as a command. -/
def tCommand (f : SlotFn) (t : TileId) (th : ThreadId) (w : SlotWord) (s : State) : Host.Outcome State Fault Refusal :=
  .next (slotCommand f 3 t th w s)

def execMm (t : TileId) (th : ThreadId) (w : SlotWord) (s : State) := tCommand (slotUnless (macroHeld .mm) mmSlot) t th w s
def execConv (t : TileId) (th : ThreadId) (w : SlotWord) (s : State) :=
  tCommand (slotUnless (macroHeld .conv) convSlot) t th w s
def execDw (t : TileId) (th : ThreadId) (w : SlotWord) (s : State) := tCommand (slotUnless (macroHeld .dw) dwSlot) t th w s
def execAccRd (t : TileId) (th : ThreadId) (w : SlotWord) (s : State) :=
  tCommand (slotUnless (bankHeldAt 14) accRdSlot) t th w s
def execAccWr (t : TileId) (th : ThreadId) (w : SlotWord) (s : State) :=
  tCommand (slotUnless (bankHeldAt 14) accWrSlot) t th w s
def execAccClr (t : TileId) (th : ThreadId) (w : SlotWord) (s : State) := tCommand (slotUnless clrHeld accClrSlot) t th w s
def execLutLoad (t : TileId) (th : ThreadId) (w : SlotWord) (s : State) := vCommand (slotUnless lutHeld lutLoadSlot) t th w s

/-- A macro-op of tile t starts. -/
def execMacroOpStart (t : TileId) (s : State) : Host.Outcome State Fault Refusal := .next (s.macroStart t)

/-- The macro-op of tile t ends. -/
def execMacroOpEnd (t : TileId) (s : State) : Host.Outcome State Fault Refusal := .next (s.macroEnd t)

/-- The LUT load of tile t completes. -/
def execLutLoadComplete (t : TileId) (s : State) : Host.Outcome State Fault Refusal := .next (s.lutComplete t)

end Sys2Proof.Machine
end

