-- ==== Sys2Proof/Machine/Stream.lean ====
section
/-!
DEFINITION. The M slot (R232): loads and stores (R234–R237), remote writes (R253, R254), gathers (R248–R252), block
groups (R238–R241) and stream moves (R242–R247).
-/

namespace Sys2Proof.Machine

/-! ### Accesses -/

/-- The aligned pieces in which a narrow port carries an access: 8 bytes at a Pail, 16 at a slice (R76, R79). -/
def pieces (a n : Nat) : List (Nat × Nat) :=
  let u := if isPail a then 8 else 16
  if n = 0 then []
  else
    (List.range ((a + n - 1) / u - a / u + 1)).map (fun i =>
      let lo := max a ((a / u + i) * u)
      (lo, min (a + n) ((a / u + i + 1) * u) - lo))

/-- Destination router and output port of a memory from a router: a Pail's tile, or the slice's serving router. -/
def memRoute (from_ a : Nat) : Nat × Nat :=
  if isPail a then (memOf a, 0) else (servingRouter (rowOfTile from_) (memOf a - 64), 5)

/-- A narrow read of n bytes sent from a router (R61, R84). -/
def State.narrowRead (s : State) (from_ a n : Nat) (who : Purpose) (port : Nat := 0) : State :=
  (pieces a n).foldl (fun s p =>
    let d := memRoute from_ a
    s.sendAsync (.narrow (memOf a) { addr := p.1, len := p.2, wr := none, who := who, home := from_,
                                     port := port, waited := false, since := s.ck }) .request .any from_ d.1 d.2 0 port) s

/-- A narrow write sent from a router. -/
def State.narrowWrite (s : State) (from_ a : Nat) (bs : List Byte) (who : Purpose) (port : Nat := 0) : State :=
  (pieces a bs.length).foldl (fun s p =>
    let d := memRoute from_ a
    s.sendAsync (.narrow (memOf a) { addr := p.1, len := p.2, wr := some ((bs.drop (p.1 - a)).take p.2), who := who,
                                     home := from_, port := port, waited := false, since := s.ck }) .data .write from_ d.1 d.2 0 port) s

/-- Bytes reaching part of a vector register, with their poison (R236). -/
def State.deliverV (s : State) (t : TileId) (th : ThreadId) (vd lo : Nat) (l : List (Byte × Bool))
    (ready : Thread → Thread) : State :=
  s.modThr t th (fun z =>
    let r := putBytes (z.rv vd) (z.rpo vd) lo l
    ready { z with v := z.v.set (r5 vd) r.1, poison := z.poison.set (r5 vd) r.2 })

/-- Four bytes reaching a scalar register, without poison (R236). -/
def State.deliverS (s : State) (t : TileId) (th : ThreadId) (sd : Nat) (l : List (Byte × Bool))
    (ready : Thread → Thread) : State :=
  s.modThr t th (fun z =>
    let v := BitVec.ofNat 32 (natOfBytes (l.map (·.1)))
    ready (if sd % 32 = 0 then z else { z with s := z.s.set (r5 sd) v }))

/-- What a read brings to its destination register. `ready` marks it. -/
def State.deliver (s : State) (who : Purpose) (a : Nat) (l : List (Byte × Bool)) (ready : Nat → Thread → Thread) :
    State :=
  match who with
  | .ld t th vd hf _ first => s.deliverV (tid t) (thid th) vd (128 * hf + (a - first)) l (ready (keyV vd))
  | .sld t th sd _ => s.deliverS (tid t) (thid th) sd l (ready (keyS sd))
  | .gather t th vd k h =>
    s.deliverV (tid t) (thid th) vd (k * elemBytes (hFmt h)) l (fun z => ready keyG (ready (keyV vd) z))
  | _ => s

/-- An access of an asynchronous thread to its own Pail, performed in this ck (R85, R169); a write is a narrow write
for ECC injection (R113). -/
def State.pailPerform (s : State) (t : TileId) (q : NarrowReq) : State :=
  let s := s.useWide t.val (b2n q.wr.isSome) (bankOf q.addr)
  match q.wr with
  | some bs => s.writeNarrow q.addr bs
  | none =>
    let h := match q.who with | .ld _ _ _ _ h _ => h | .sld _ _ _ h => h | .gather _ _ _ _ h => h | _ => 0
    let (s, l) := s.tileRead t h q.addr q.len
    s.deliver q.who q.addr l (fun k z => z.gotAwait k (s.fck + 2))

/-- An asynchronous thread's Pail access issued now: performed at once in an open cycle, or held behind the others. -/
def State.asyncPail (s : State) (t : TileId) (th : ThreadId) (q : NarrowReq) : State :=
  let kind := if q.wr.isSome then 2 else 1
  if (s.thr t th).pailQ.isEmpty && s.openAt t kind (bankOf q.addr) then s.pailPerform t q
  else s.modThr t th (fun z => { z with pailQ := z.pailQ ++ [q] })

/-- The formats that ST, SLD, LD and GATHER refuse (R234, R248). -/
def halfByte (f : Nat) : Bool := f == 0 || f == 1
def ldFmt (f : Nat) : Bool := !fmtIsBlock f
def stFmt (f : Nat) : Bool := !fmtIsBlock f && !halfByte f

/-! ### LD, SLD, ST (R234–R237) -/

/-- The aligned 128-byte blocks that n bytes from a touch, and what they hold of them: an LD through a handle whose base is
not 128-byte aligned takes two accesses of the wide read port (R76; DEDUCED, notes/assumptions/79.md). -/
def blocks128 (a n : Nat) : List (Nat × Nat) :=
  if oneBlock a n 128 then [(a, n)] else [(a, 128 - a % 128), ((a / 128 + 1) * 128, n - (128 - a % 128))]

/-- A load of n bytes at address a of handle h into the place that `who` names: `lane` keys of the scoreboard are set
by R168 and R235. -/
def State.load (s : State) (t : TileId) (th : ThreadId) (e : Quad) (h a n key : Nat) (who : Purpose) : SlotOut :=
  match s.handleFault (some t.val) e true false ldFmt a n with
  | some c => .raise s c h
  | none =>
    if s.isFrame t th then
      if isPail a then
        if s.readClaim t th.val (bankOf a) && oneBlock a n 128 then
          let s := s.useWide t.val 0 (bankOf a)
          let (s, l) := s.tileRead t e a n
          .done (s.deliver who a l (fun k z => z.setReady k (s.fck + 2)))
        else
          let (s, l) := s.tileSubst t e a n
          .raise (s.deliver who a l (fun k z => z.setReady k (s.fck + 2))) 0x07 a
      else if !s.sendReserved t th.val 1 then .raise s 0x08 a
      else
        let sl := memOf a - 64
        let hops := hopsSlice t.val sl
        -- one piece for each 64-byte flit of the answer (R65)
        let s := s.modThr t th (fun z => ((List.range ((n + 63) / 64)).foldl (fun z _ => z.addAwait key) z))
        .done (s.sendFrame (.vatRead sl a n who t.val true) .request .any t.val
          (servingRouter (rowOfTile t.val) sl) 5 hops)
    else if isPail a then
      let bs := blocks128 a n
      let s := s.modThr t th (fun z => bs.foldl (fun z _ => z.addAwait key) z)
      .done (bs.foldl (fun s p =>
        s.asyncPail t th { addr := p.1, len := p.2, wr := none, who := who, home := t.val, waited := false
                           since := s.fck }) s)
    else
      let s := s.modThr t th (fun z => (pieces a n).foldl (fun z _ => z.addAwait key) z)
      .done (s.narrowRead t.val a n who)

/-- LD: 128 bytes into half HF of v[VD]. -/
def ldSlot : SlotFn := fun s t th y w =>
  let h := sf w 11 6
  let vd := sf w 17 5
  let e := s.handle t h
  let a := hStart e + (y.rs (sf w 6 5)).toNat / 128 * 128
  if sf w 0 5 ≠ 0 then .illegal s
  else if !guardOn y w then .done s
  else s.load t th e h a 128 (keyV vd) (.ld t.val th.val vd (b2n (sb w 5)) e a)

/-- SLD: 4 bytes into s[SD]. -/
def sldSlot : SlotFn := fun s t th y w =>
  let h := sf w 11 6
  let sd := sf w 17 5
  let e := s.handle t h
  let a := hStart e + (y.rs (sf w 6 5)).toNat / 4 * 4
  if sf w 0 6 ≠ 0 then .illegal s
  else if !guardOn y w then .done s
  else s.load t th e h a 4 (keyS sd) (.sld t.val th.val sd e)

/-- Bytes as a store through handle h leaves them, with POISON_COUNT and the degrade note (R237). -/
def State.fixStore (s : State) (t : TileId) (e : Quad) (h a : Nat) (l : List (Byte × Bool)) : State × List Byte :=
  let r := substStore (s.subst t.val (hFmt e)) e a l
  (s.poisonStored t h r.2, r.1)

/-- ST: 64 bytes from quarter Q of v[VS]. -/
def stSlot : SlotFn := fun s t th y w =>
  let h := sf w 11 6
  let vs := sf w 17 5
  let e := s.handle t h
  let a := hStart e + (y.rs (sf w 6 5)).toNat / 64 * 64
  if sf w 0 4 ≠ 0 then .illegal s
  else if !guardOn y w then .done s
  else
    match s.handleFault (some t.val) e false true stFmt a 64 with
    | some c => .raise s c h
    | none =>
      let l := vbytes (y.rv vs) (y.rpo vs) (64 * sf w 4 2) 64
      if s.isFrame t th then
        if isPail a then
          if s.writeClaim t th.val (bankOf a) then
            let (s, bs) := s.fixStore t e h a l
            .done ((s.useWide t.val 1 (bankOf a)).writeClaimed a bs)
          else .raise s 0x07 a
        else if !s.dataReserved t th.val .write true then .raise s 0x08 a
        else
          let (s, bs) := s.fixStore t e h a l
          let sl := memOf a - 64
          .done (s.sendFrame (.vatWrite sl a bs (.store t.val th.val) 0) .data .write t.val
            (servingRouter (rowOfTile t.val) sl) 5 (hopsSlice t.val sl))
      else
        let (s, bs) := s.fixStore t e h a l
        if isPail a then
          .done (s.asyncPail t th { addr := a, len := 64, wr := some bs, who := .store t.val th.val, home := t.val,
                                    waited := false, since := s.fck })
        else .done (s.narrowWrite t.val a bs (.store t.val th.val))

/-! ### RWR (R100, R101, R253, R254) -/

/-- RWR. -/
def rwrSlot : SlotFn := fun s t th y w =>
  let cc := sf w 13 4
  let n := 8 * (sf w 3 3 + 1)
  if sf w 0 3 ≠ 0 then .illegal s
  else if decide (256 < 64 * sf w 6 2 + n) then .illegal s
  else if !guardOn y w then .done s
  else
    let frame := s.isFrame t th
    let cfg := s.treg t.val (oCcCfg cc)
    let bal := fld (s.treg t.val (oCcBal cc)) 0 24
    let seen := bal - Sparse.get (fun _ => 0) (s.tile t).creditNow cc
    if frame && !s.dataReserved t th.val .remote true then .raise s 0x08 0
    else if seen < n then
      if frame && s.absorbs t then .done (s.absorb t) else .raise s 0x0A cc
    else
      let s := s.setReg (rTile t.val (oCcBal cc)) (BitVec.ofNat 32 (bal - n))
      let l := vbytes (y.rv (sf w 17 5)) (y.rpo (sf w 17 5)) (64 * sf w 6 2) n
      let marks := (List.range (n / 8)).map (fun i => ((l.drop (8 * i)).take 8).any (·.2))
      let dst := fld cfg 0 6
      let body : Payload := .remoteWrite t.val dst (fld cfg 6 4) cc ((y.rs (sf w 8 5)).toNat / 8 * 8) (l.map (·.1)) marks frame
      .done (s.sendBy frame body .data .remote t.val dst 0 (hopsTile t.val dst))

/-! ### GATHER (R248–R252) -/

/-- The address of element k of a gather, or none where it faults (R249). -/
def State.gatherElem (s : State) (t : TileId) (e : Quad) (frame : Bool) (idx : VWord) (po : VPoison) (k : Nat) :
    Option Nat :=
  let x := lane 32 idx k
  let i := x % 65536
  let j := x / 65536
  let a := hAddr e i j 0
  if lanePoison 32 po k || hExt0 e ≤ i || hExt1 e ≤ j then none
  else if (s.handleFault (some t.val) e true false (fun _ => true) a (elemBytes (hFmt e))).isSome then none
  else if frame && isVat a then none
  else some a

/-- The substitution element of a handle's format, poisoned, as bytes. -/
def State.substElem (s : State) (t : TileId) (e : Quad) : List (Byte × Bool) :=
  (bytesOfNat (elemBytes (hFmt e)) (s.subst t.val (hFmt e)).toNat).map (fun b => (b, true))

/-- The gather registers of a thread written, readable from ck c. -/
def Thread.wg (z : Thread) (gfirst gprog : BitVec 16) (c : Nat) : Thread :=
  { (z.setReady keyG c) with gfirst := gfirst, gprog := gprog }

/-- The elements of an asynchronous gather that do not fault: each is read in the first open cycle after the previous one,
or as a narrow access at the Vat (R252). -/
def State.gatherAsync (s : State) (t : TileId) (th : ThreadId) (e : Quad) (vd : Nat) (els : List (Nat × Option Nat)) :
    State :=
  let n := elemBytes (hFmt e)
  els.foldl (fun s p =>
    match p.2 with
    | none => s
    | some a =>
      let s := s.modThr t th (fun z => (z.addAwait (keyV vd)).addAwait keyG)
      let who : Purpose := .gather t.val th.val vd p.1 e
      if isPail a then
        s.modThr t th (fun z =>
          { z with pailQ := z.pailQ ++ [{ addr := a, len := n, wr := none, who := who, home := t.val,
                                          waited := false, since := s.fck + 1 }] })
      else s.narrowRead t.val a n who) s

/-- A gather under poison-and-continue: faulting lanes are substituted, the others are read (R250, R252). -/
def State.gatherPoison (s : State) (t : TileId) (th : ThreadId) (y : Thread) (e : Quad) (vd : Nat)
    (els : List (Nat × Option Nat)) : State :=
  let frame := s.isFrame t th
  let bad := els.filter (fun p => p.2.isNone)
  let n := elemBytes (hFmt e)
  let sub := s.substElem t e
  let s := s.satReg (rTile t.val oFaultCount) bad.length
  let gf : BitVec 16 := match bad with | [] => 0xFFFF | p :: _ => BitVec.ofNat 16 p.1
  let ready := s.fck + 18
  let s := s.modThr t th (fun z =>
    let r := bad.foldl (fun (r : VWord × VPoison) p => putBytes r.1 r.2 (p.1 * n) sub) (y.rv vd, y.rpo vd)
    (z.wv vd r.1 r.2 (if frame then ready else s.fck + 2)).wg gf 0xFFFF (if frame then ready else s.fck + 2))
  if frame then
    let job : PortJob :=
      { kind := .gather vd e, thread := th.val, frame := true
        reads := els.filterMap (fun p => p.2.map (fun a => (s.fck + 1 + p.1, p.1, a, n)))
        writes := [], got := [], issued := s.fck, e := s.fck + 17 }
    s.modTile t (fun x => { x with jobs := x.jobs ++ [job] })
  else s.gatherAsync t th e vd els

/-- GATHER. -/
def gatherSlot : SlotFn := fun s t th y w =>
  let vd := sf w 17 5
  let h := sf w 11 6
  let e := s.handle t h
  let frame := s.isFrame t th
  let pol := sb w 3
  if sf w 4 2 ≠ 0 || sf w 0 3 ≠ 0 || (pol && frame) then .illegal s
  else if !guardOn y w then .done s
  else if hV e && hRD e && (fmtReserved (hFmt e) || !stFmt (hFmt e)) then .raise s 0x06 h
  else
    let from_ := if y.gprog = 0xFFFF then 0 else y.gprog.toNat
    let els := ((List.range 16).drop from_).map (fun k =>
      (k, s.gatherElem t e frame (y.rv (sf w 6 5)) (y.rpo (sf w 6 5)) k))
    match pol, els.find? (fun p => p.2.isNone) with
    | true, some (k, _) =>
      -- the elements before the first fault are loaded; the thread stops (R251)
      let s := s.gatherAsync t th e vd (els.filter (fun p => p.1 < k))
      let s := s.modThr t th (fun z => z.wg (BitVec.ofNat 16 k) (BitVec.ofNat 16 k) (s.fck + 1))
      .raise s 0x04 h
    | true, none =>
      let g := y.gfirst
      .done ((s.gatherPoison t th y e vd els).modThr t th (fun z => { z with gfirst := g }))
    | false, _ => .done (s.gatherPoison t th y e vd els)

/-- The elements of a frame gather reach its lanes (R252). -/
def State.gatherFinish (s : State) (t : TileId) (j : PortJob) (vd : Nat) (e : Quad) : State :=
  j.got.foldl (fun s b =>
    let bad := (List.range b.data.length).map (fun i => b.bad.getD (((b.addr + i) / 8) - b.addr / 8) false)
    let x := s.tile t
    let sub := s.subst t.val (hFmt e)
    let l := (b.data.zip bad).zipIdx.map (fun p =>
      if p.1.2 || (isVat (b.addr + p.2) && x.lateAt (b.addr + p.2)) then (patternByte sub e (b.addr + p.2), true)
      else (sampleByte e (b.addr + p.2) p.1.1, false))
    s.deliverV t (thid j.thread) vd (b.step * elemBytes (hFmt e)) l (fun z => z)) s

/-! ### Block groups (R238–R241) -/

/-- Bytes of a group (R238). -/
def groupBytes (fmt : Nat) : Nat := if fmt = 0x0C then 1088 else if fmt = 0x0D then 2112 else 576

/-- The fields of LDB and STB hold no reserved value. -/
def blockLegal (store : Bool) (w : SlotWord) : Bool :=
  (if store then sf w 0 4 == 0 else sf w 0 5 == 0) && sf w 5 2 != 3

/-- The handle checks of LDB and STB (R238): the tile's Pail and a block format, else a format fault. -/
def State.blockFault (s : State) (t : TileId) (e : Quad) (rd wr : Bool) (a : Nat) : Option Nat :=
  match s.handleFault (some t.val) e rd wr fmtIsBlock a (groupBytes (hFmt e)) with
  | some c => some c
  | none => if inOwnPail t.val e then none else some 0x06

/-- LDB. -/
def ldbSlot : SlotFn := fun s t th y w =>
  let h := sf w 16 6
  let bank := sf w 13 3
  let e := s.handle t h
  let a := hStart e + (y.rs (sf w 8 5)).toNat / 64 * 64
  let rnd := sf w 5 2
  if !blockLegal false w then .illegal s
  else if !guardOn y w then .done (s.advanceDraw t th rnd 2048)
  else
    match s.blockFault t e true false a with
    | some c => .raise s c h
    | none =>
      let g := groupBytes (hFmt e)
      let r := (g + 127) / 128 + 1
      let c := s.fck
      let job : PortJob :=
        { kind := .ldb e bank a rnd (sb w 7) (s.thr t th).draw h, thread := th.val, frame := s.isFrame t th
          reads := (List.range r).map (fun i => (c + 1 + i, 0, padBlock a g i, 128))
          writes := [], got := [], issued := c, e := c + r + 1 }
      .done ((s.modTile t (fun x => { x with jobs := x.jobs ++ [job] })).advanceDraw t th rnd 2048)

/-- The elements of a group reach the bank as FP32 (R239). -/
def State.ldbFinish (s : State) (t : TileId) (j : PortJob) (e : Quad) (bank a rnd : Nat) (sat : Bool) (draw : Word) :
    State :=
  let fmt := hFmt e
  let sub := s.subst t.val fmt
  let key := s.srKeyOf t
  let m := (Rnd.ofField rnd).getD .rne
  let els : List (Num × Bool) :=
    if fmt = 0x0E then
      ((List.range 32).map (fun b => unitElems j.got 0 (a + 18 * b) fmt false sub ++
        unitElems j.got 0 (a + 18 * b) fmt true sub)).flatten
    else ((List.range 64).map (fun b => unitElems j.got 0 (a + blockBytes fmt * b) fmt false sub)).flatten
  s.modTile t (fun x =>
    let x := els.zipIdx.foldl
      (fun x p => x.setAcc bank p.2 (BitVec.ofNat 32 (encodeElem 0x0B m sat (srDraw key draw p.2) p.1.1))) x
    let x := (List.range 64).foldl
      (fun x r => x.setFlag bank r (((els.drop (32 * r)).take 32).any (·.2))) x
    { x with accReady := Sparse.set (fun _ => 0) x.accReady bank (s.fck + 1) })

/-- The bytes of a group packed from a bank (R240), and the number of poisoned elements. -/
def State.packGroup (s : State) (t : TileId) (e : Quad) (bank rnd : Nat) (sat fp : Bool) (draw : Word) :
    List Byte × Nat :=
  let x := s.tile t
  let fmt := hFmt e
  let key := s.srKeyOf t
  let m := (Rnd.ofField rnd).getD .rne
  let n := blockElems fmt
  let elem (i : Nat) : BlkIn :=
    { x := decodeElem (if fp then 0x0B else 0x06) (x.accAt bank i).toNat, poison := x.flagAt bank (i / 32) }
  let blocks := (List.range (2048 / n)).map (fun b =>
    packBlock fmt m sat (fun k => srDraw key draw (b * n + k)) (s.subst t.val fmt)
      ((List.range n).map (fun k => elem (b * n + k))))
  (blocks.flatten, 32 * ((List.range 64).filter (fun r => x.flagAt bank r)).length)

/-- STB. -/
def stbSlot : SlotFn := fun s t th y w =>
  let h := sf w 16 6
  let bank := sf w 13 3
  let e := s.handle t h
  let a := hStart e + (y.rs (sf w 8 5)).toNat / 64 * 64
  let rnd := sf w 5 2
  if !blockLegal true w then .illegal s
  else if !guardOn y w then .done (s.advanceDraw t th rnd 2048)
  else
    match s.blockFault t e false true a with
    | some c => .raise s c h
    | none =>
      let (bs, np) := s.packGroup t e bank rnd (sb w 7) (sb w 4) (s.thr t th).draw
      let c := s.fck
      let nw := groupBytes (hFmt e) / 64
      let job : PortJob :=
        { kind := .stb e bank h, thread := th.val, frame := s.isFrame t th, reads := []
          writes := (List.range nw).map (fun i => (c + 2 + i, a + 64 * i, (bs.drop (64 * i)).take 64))
          got := [], issued := c, e := c + 1 + nw }
      let s := s.poisonStored t h np
      .done ((s.modTile t (fun x => { x with jobs := x.jobs ++ [job] })).advanceDraw t th rnd 2048)

/-! ### Writes and ends of wide-port jobs -/

/-- The write of job i that falls in this ck (R240). -/
def State.jobWrite (s : State) (t : TileId) (i : Nat) : State :=
  match (s.tile t).jobs[i]? with
  | none => s
  | some j =>
    match j.writes with
    | [] => s
    | (c, a, bs) :: rest =>
      if s.fck < c then s
      else if j.frame then
        if !s.writeClaim t j.thread (bankOf a) then
          -- the write stores nothing, and the job goes on (R82)
          (s.modTile t (fun x => x.setJob i { j with writes := rest })).tileFault t j.thread 0x07 1
            (s.thr t (thid j.thread)).pc.toNat a
        else
          ((s.useWide t.val 1 (bankOf a)).writeClaimed a bs).modTile t (fun x => x.setJob i { j with writes := rest })
      else if !s.openAt t 2 (bankOf a) then s
      else
        let s := if c < s.fck then s.countNdet 1 else s
        let rest := match rest with | (c', a', b') :: r => (max c' (s.fck + 1), a', b') :: r | [] => []
        ((s.useWide t.val 1 (bankOf a)).writeNarrow a bs).modTile t (fun x => x.setJob i { j with writes := rest })

/-- A job whose reads and writes are done, in or after its last ck: its effect (R239, R241, R252). A LUT load ends by
LUT_LOAD_COMPLETE. -/
def State.jobFinish (s : State) (t : TileId) (j : PortJob) : State :=
  match j.kind with
  | .gather vd e => s.gatherFinish t j vd e
  | .ldb e bank a rnd sat draw _ => s.ldbFinish t j e bank a rnd sat draw
  | .stb _ bank _ =>
    s.modTile t (fun x => { x with accReady := Sparse.set (fun _ => 0) x.accReady bank (s.fck + 1) })
  | .lut .. => s

/-- The job is over in frame ck c. -/
def PortJob.ended (j : PortJob) (c : Nat) : Bool :=
  match j.kind with
  | .lut .. => false
  | _ => j.reads.isEmpty && j.writes.isEmpty && decide (j.e ≤ c)

/-! ### Stream moves (R242–R247) -/

/-- A thread has a move outstanding (R245). -/
def Tile.moveOf (x : Tile) (th : Nat) : Option Move := (x.moveF ++ x.moveA).find? (fun m => m.thread == th)

/-- Bytes of one element of a list: 16 for an SMOV entry, the index size for SMOVX. -/
def Move.unit (m : Move) : Nat := if m.indexed then elemBytes (hFmt m.hl) else 16

/-- First byte and length of the list (R243). -/
def Move.list (m : Move) : Nat × Nat := (hStart m.hl + m.first * m.unit, m.total * m.unit)

/-- A move issued from the M slot: SMOV, or SMOVX where `ix`. -/
def moveSlot (ix : Bool) : SlotFn := fun s t th y w =>
  let sq := sf w 5 5
  let q0 := (y.rs sq).toNat
  let q1 := (y.rs (sq + 1)).toNat
  let q2 := y.rs (sq + 2)
  let frame := s.isFrame t th
  let pol := ix && sb w 4
  if sq % 4 ≠ 0 || sq = 0 || sf w 0 4 ≠ 0 || (!ix && sb w 4) || (pol && frame) then .illegal s
  else if !guardOn y w then .done s
  else if q0 / 64 % 64 ≠ 0 || q0 / 2 ^ 24 ≠ 0 || q1 / 65536 ≠ 0 || (!ix && q2 ≠ 0) then .illegal s
  else
    let is := sf w 16 6
    let id := sf w 10 6
    let il := q0 % 64
    let m : Move :=
      { indexed := ix, thread := th.val, frame := frame, hs := s.handle t is, hd := s.handle t id
        hl := s.handle t il, hsIdx := is, hdIdx := id, total := q0 / 2 ^ 12 % 64 + 1, first := q1 % 65536
        dstOff := q2.toNat / 64 * 64, pol := pol, obj := q0 / 2 ^ 18 % 32, cen := decide (q0 / 2 ^ 23 % 2 = 1)
        pc := y.pc, issueCk := s.fck, started := false, raw := [], listed := false, parts := [], all := []
        ready := 0, waited := false, fault := none
        due := [], inFlight := 0 }
    let all := fun _ => true
    let lf := fun f => if ix then f == 0x06 || f == 0x05 else true
    match s.handleFault (some t.val) m.hs true false all (hStart m.hs) 0,
          s.handleFault (some t.val) m.hd false true all (hStart m.hd) 0,
          s.handleFault (some t.val) m.hl true false lf m.list.1 m.list.2 with
    | some c, _, _ => .raise s c is
    | _, some c, _ => .raise s c id
    | _, _, some c => .raise s c il
    | none, none, none =>
      if !inOwnPail t.val m.hl then .raise s 0x04 il      -- lists are read from the Pail (R244)
      else if !inOwnPail t.val m.hs && !inOwnPail t.val m.hd then .raise s 0x06 is
      else if ((s.tile t).moveOf th.val).isSome then .done s
      else .done (s.modTile t (fun x =>
        if frame then { x with moveF := x.moveF ++ [m] } else { x with moveA := x.moveA ++ [m] }))

def smovSlot : SlotFn := moveSlot false
def smovxSlot : SlotFn := moveSlot true

/-- The move at the head of a lane. -/
def Tile.moveHead (x : Tile) (frame : Bool) : Option Move := (if frame then x.moveF else x.moveA).head?

/-- The move at the head of a lane replaced. -/
def Tile.setMove (x : Tile) (frame : Bool) (m : Move) : Tile :=
  if frame then { x with moveF := x.moveF.set 0 m } else { x with moveA := x.moveA.set 0 m }

/-- The move at the head of a lane removed; the next one starts in a later ck (R244). -/
def Tile.popMove (x : Tile) (frame : Bool) (c : Nat) : Tile :=
  let next (l : List Move) : List Move :=
    match l.tail with
    | m :: r => { m with issueCk := max m.issueCk c } :: r
    | [] => []
  if frame then { x with moveF := next x.moveF } else { x with moveA := next x.moveA }

/-- 64-byte parts of one source row of an indexed move (R243). -/
def Move.rowParts (m : Move) : Nat := ((hExt0 m.hs * fmtBits (hFmt m.hs) + 7) / 8 + 63) / 64

/-- What the list or index bytes of a move describe: its parts, its first index fault, the number of index faults, and
a handle fault that stops it (R92, R243, R246). -/
structure MovePlan where
  parts : List MovePart
  fault : Option Nat
  nfault : Nat
  stop : Option Nat
  deriving DecidableEq, Repr

/-- Entry k of an SMOV list. -/
def State.smovEntry (s : State) (t : TileId) (m : Move) (raw : List (Byte × Bool)) (p : MovePlan) (k : Nat) : MovePlan :=
  if p.stop.isSome then p
  else
    let at4 (o : Nat) : Nat := natOfBytes (((raw.drop (16 * k + o)).take 4).map (·.1))
    let src := hStart m.hs + at4 0 / 64 * 64
    let dst := hStart m.hd + at4 4 / 64 * 64
    let n := at4 8 % 65536
    if n = 0 then p
    else if (s.handleFault (some t.val) m.hs true false (fun _ => true) src (64 * n)).isSome then
      { p with stop := some m.hsIdx }
    else if (s.handleFault (some t.val) m.hd false true (fun _ => true) dst (64 * n)).isSome then
      { p with stop := some m.hdIdx }
    else { p with parts := p.parts ++ (List.range n).map (fun i => ⟨some (src + 64 * i), dst + 64 * i⟩) }

/-- Index k of an SMOVX move (R243, R246). -/
def State.smovxIndex (s : State) (t : TileId) (m : Move) (raw : List (Byte × Bool)) (p : MovePlan) (k : Nat) :
    MovePlan :=
  if p.stop.isSome || (m.pol && p.fault.isSome) then p
  else
    let u := m.unit
    let b := (raw.drop (u * k)).take u
    let x := intOfBits (8 * u) (hFmt m.hl == 0x06) (natOfBytes (b.map (·.1)))
    let n := m.rowParts
    let src := hStart m.hs + x.toNat * hStride0 m.hs
    let dst := hStart m.hd + m.dstOff + k * hStride0 m.hd
    if (s.handleFault (some t.val) m.hd false true (fun _ => true) dst (64 * n)).isSome then
      { p with stop := some m.hdIdx }
    else if b.any (·.2) || decide (x < 0) || decide ((hExt1 m.hs : Int) ≤ x) ||
        (s.handleFault (some t.val) m.hs true false (fun _ => true) src (64 * n)).isSome then
      let p := { p with fault := p.fault.or (some k), nfault := p.nfault + 1 }
      if m.pol then p else { p with parts := p.parts ++ (List.range n).map (fun i => ⟨none, dst + 64 * i⟩) }
    else { p with parts := p.parts ++ (List.range n).map (fun i => ⟨some (src + 64 * i), dst + 64 * i⟩) }

/-- The plan of a move from its list bytes. -/
def State.movePlan (s : State) (t : TileId) (m : Move) (raw : List (Byte × Bool)) : MovePlan :=
  (List.range m.total).foldl
    (fun p k => if m.indexed then s.smovxIndex t m raw p k else s.smovEntry t m raw p k) ⟨[], none, 0, none⟩

/-- The list bytes of a move as they stand, looked at without an access. -/
def State.movePeek (s : State) (m : Move) : List (Byte × Bool) :=
  (s.mem.bytes m.list.1 m.list.2).map (fun b => (b, false))

/-- A move transfers more than 1 KiB (R247). -/
def State.moveLarge (s : State) (t : TileId) (m : Move) : Bool :=
  let p := s.movePlan t m (s.movePeek m)
  p.stop.isNone && decide (1024 < 64 * p.parts.length)

/-- The first schedule ck at or after c that a KIND 0x04 record assigns to the move lane (R244). -/
def Tile.nextStep (x : Tile) (c : Nat) : Option Nat :=
  (x.slots.filter (fun r => r.kind == 4)).foldl
    (fun best r =>
      let p := if r.count = 0 then 1 else max r.period 1
      let i := if c ≤ r.start then 0 else (c - r.start + p - 1) / p
      if r.count < i then best
      else
        let cand := r.start + i * p
        match best with
        | some b => some (min b cand)
        | none => some cand) none

/-- The last frame ck of a frame move whose first step falls in this ck: its list reads, then its parts, each in the
next assigned ck, with what R244 adds to each part; the budget ck where no assigned ck remains. -/
def State.moveEndCk (s : State) (t : TileId) (m : Move) : Nat :=
  let x := s.tile t
  let budget := match s.plan.run with | some p => p.budget | none => 0
  let extra (p : MovePart) : Nat :=
    match p.src with
    | some a => if isVat a then 9 + 2 * hopsSlice t.val (memOf a - 64)
                else 1 + (if isVat p.dst then hopsSlice t.val (memOf p.dst - 64) else 0)
    | none => 1 + (if isVat p.dst then hopsSlice t.val (memOf p.dst - 64) else 0)
  let reads := (m.list.2 + 127) / 128
  let tails := List.replicate reads 0 ++ (s.movePlan t m (s.movePeek m)).parts.map extra
  let r := tails.foldl
    (fun (st : Nat × Nat) d =>
      match x.nextStep st.1 with
      | some c => if c < budget then (c + 1, max st.2 (c + d)) else (budget, max st.2 budget)
      | none => (budget, max st.2 budget))
    (s.sched, s.sched)
  s.tickF + r.2

/-- The leave of a lane's move ends with frame ck c: a plan draw's last ck, or a dynamic grant (R247). -/
def Tile.moveLeaveEnd (x : Tile) (frame : Bool) (c : Nat) : Tile :=
  if frame then
    { x with draws := x.draws.map (fun (d : Nat × Nat × Nat × Nat) =>
        if d.1 = 2 then (d.1, d.2.1, d.2.2.1, min d.2.2.2 c) else d) }
  else { x with grant := x.grant.map (fun (g : LeaveHold) => if g.move then { g with ended := true } else g) }

/-- A move removed by a fault: in a frame thread the tile stops, in an asynchronous one the thread, whose PC names the
bundle that issued the move (R182, R183). -/
def State.moveFault (s : State) (t : TileId) (m : Move) (code addr : Nat) : State :=
  let pc := m.pc.toNat
  let s := s.modTile t (fun x => (x.popMove m.frame s.fck).moveLeaveEnd m.frame s.fck)
  if m.frame then s.tileFault t m.thread code 1 pc addr
  else (s.modThr t (thid m.thread) (fun z => { z with pc := m.pc })).threadFault t (thid m.thread) code 1 pc addr

/-- The next list or index read of a move: one 128-byte read (R244, R245). -/
def State.moveListRead (s : State) (t : TileId) (m : Move) : State :=
  let a := m.list.1 + m.raw.length
  let n := min 128 (m.list.2 - m.raw.length)
  if m.frame && !s.readClaim t m.thread (bankOf a) then (s.satReg (rTile t.val oFaultCount)).moveFault t m 0x07 a
  else
    let s := s.useWide t.val 0 (bankOf a)
    let (s, l) := s.tileRead t m.hl a n
    let m := { m with raw := m.raw ++ l, started := true, ready := s.fck + 1, waited := false }
    if m.raw.length < m.list.2 then s.modTile t (fun x => x.setMove m.frame m)
    else
      let p := s.movePlan t m m.raw
      match p.stop with
      | some i => s.moveFault t m 0x04 i
      | none =>
        let bits := fmtBits (hFmt m.hd)
        let s :=
          if p.nfault = 0 || m.pol then s
          else
            (s.satReg (rTile t.val oFaultCount) p.nfault).poisonStored t m.hdIdx
              (p.nfault * (if bits = 0 then 0 else 512 * m.rowParts / bits))
        s.modTile t (fun x => x.setMove m.frame { m with
          listed := true
          parts := p.parts
          all := p.parts
          fault := p.fault })

/-- A part written, or sent to the Vat, `d` ck from now (R244). -/
def State.moveDue (s : State) (t : TileId) (m : Move) (dst : Nat) (bs : List Byte) (d : Nat) : State :=
  s.modTile t (fun x => x.setMove m.frame { m with due := m.due ++ [(s.fck + d, dst, bs)] })

/-- What the move stores at byte d beside the part that brings source byte a to byte dst: nothing, or whether the byte is
poisoned in transit (R237, R246). -/
def State.moveNear (s : State) (t : TileId) (m : Move) (a dst d : Nat) : Option Bool :=
  let sa := a + d - dst
  if dst ≤ a + d && m.all.contains ⟨some (sa / 64 * 64), d / 64 * 64⟩ then
    some (s.badByte sa || (isVat sa && (s.tile t).lateAt sa))
  else none

/-- Bytes of a move from source byte a as the store to byte dst leaves them (R237). -/
def State.moveFix (s : State) (t : TileId) (m : Move) (a dst : Nat) (l : List (Byte × Bool)) : State × List Byte :=
  let r := substStore (s.subst t.val (hFmt m.hd)) m.hd dst l (s.moveNear t m a dst)
  (s.poisonStored t m.hdIdx r.2, r.1)

/-- A move's part that a bank-violating read brings: substituted (R82, R184), and stored under R237. -/
def State.moveSubst (s : State) (t : TileId) (m : Move) (a dst n : Nat) : State :=
  let (s, l) := s.tileSubst t m.hs a n
  let (s, bs) := s.moveFix t m a dst l
  s.moveDue t m dst bs 1

/-- The next part of a move (R244). -/
def State.movePart (s : State) (t : TileId) (m : Move) (p : MovePart) (rest : List MovePart) : State :=
  let lane := if m.frame then 0 else 1
  let m := { m with parts := rest, started := true, ready := s.fck + 1, waited := false }
  match p.src with
  | none =>
    s.moveDue t m p.dst ((List.range 64).map (fun i => patternByte (s.subst t.val (hFmt m.hd)) m.hd (p.dst + i))) 1
  | some a =>
    if isVat a then
      let who : Purpose := .moveRead t.val lane a p.dst
      if m.frame then
        if !s.sendReserved t 8 1 then s.moveFault t m 0x08 a
        else
          let s := s.modTile t (fun x => x.setMove true { m with inFlight := m.inFlight + 1 })
          let sl := memOf a - 64
          s.sendFrame (.vatRead sl a 64 who t.val true) .request .any t.val
            (servingRouter (rowOfTile t.val) sl) 5 (hopsSlice t.val sl)
      else
        let s := s.modTile t (fun x => x.setMove false { m with inFlight := m.inFlight + (pieces a 64).length })
        s.narrowRead t.val a 64 who
    else if m.frame && !s.readClaim t m.thread (bankOf a) then
      (s.moveSubst t m a p.dst 64).tileFault t m.thread 0x07 1 m.pc.toNat a
    else
      let s := s.useWide t.val 0 (bankOf a)
      let (s, l) := s.tileRead t m.hs a 64
      let (s, bs) := s.moveFix t m a p.dst l
      s.moveDue t m p.dst bs 1

/-- A KIND 0x04 record assigns this ck to the tile's move lane. -/
def State.moveAssigned (s : State) (t : TileId) : Bool := (s.tile t).slots.any (fun r => r.kind == 4 && r.at s.sched)

/-- The next step of a move reads this Pail address, none where it goes to the Vat. -/
def Move.stepAddr (m : Move) : Option Nat :=
  if !m.listed then some (m.list.1 + m.raw.length)
  else match m.parts with
    | p :: _ => match p.src with | some a => if isPail a then some a else none | none => none
    | [] => none

/-- One step of a move whose conditions hold. -/
def State.moveStepNow (s : State) (t : TileId) (m : Move) : State :=
  if !m.listed then s.moveListRead t m
  else match m.parts with
    | p :: rest => s.movePart t m p rest
    | [] => s

/-- A step of the move is due: it started in an earlier ck, no step has been taken in this one, and one is left. -/
def State.moveStepDue (s : State) (m : Move) : Bool :=
  s.frameActs && decide (m.issueCk < s.fck) && decide (m.ready ≤ s.fck) && !(m.listed && m.parts.isEmpty)

/-- An asynchronous move holds the leave that its first step needs (R247). -/
def State.moveGranted (s : State) (t : TileId) (m : Move) : Bool :=
  m.started || !s.moveLarge t m ||
    (match (s.tile t).grant with | some g => g.move && !g.ended && decide (g.ck < s.ck) | none => false)

/-- The Pail address for which the asynchronous move at the head of its lane seeks an open cycle in this ck. -/
def State.moveSeeks (s : State) (t : TileId) : Option Nat :=
  match (s.tile t).moveHead false with
  | some m => if s.moveStepDue m && s.moveGranted t m then m.stepAddr else none
  | none => none

/-- An asynchronous move whose Pail read finds no open cycle in this ck has waited (R172). -/
def State.moveWaits (s : State) (t : TileId) : State :=
  match s.moveSeeks t, (s.tile t).moveHead false with
  | some a, some m => if s.openAt t 1 (bankOf a) then s else s.modTile t (fun x => x.setMove false { m with waited := true })
  | _, _ => s

/-- MOVE_STEP: the frame lane's next step in an assigned ck, or the asynchronous lane's in an open cycle (R244). A move
of more than 1 KiB draws its leave at its first step (R247). -/
def State.moveStep (s : State) (t : TileId) (frame : Bool) : State :=
  match (s.tile t).moveHead frame with
  | none => s
  | some m =>
    if !s.moveStepDue m then s
    else if frame then
      if !s.moveAssigned t then s
      else if !m.started && s.moveLarge t m then
        let e := s.moveEndCk t m
        match s.overdraw t 2 s.fck e with
        | some (w, tot) => (s.overdrawRec t w tot).moveFault t m 0x0C 0
        | none => (s.drawLeave t 2 2 s.fck e).moveStepNow t m
      else s.moveStepNow t m
    else
      if !s.moveGranted t m then s
      else
        match m.stepAddr with
        | some a =>
          if s.openAt t 1 (bankOf a) then (if m.waited then s.countNdet 1 else s).moveStepNow t m else s
        | none => s.moveStepNow t m

/-- The writes and sends of a move that fall in this ck (R244). -/
def State.moveDueNow (s : State) (t : TileId) (frame : Bool) : State :=
  match (s.tile t).moveHead frame with
  | none => s
  | some m =>
    match m.due with
    | [] => s
    | (c, dst, bs) :: rest =>
      if s.fck < c then s
      else
        let lane := if frame then 0 else 1
        let pc := m.pc.toNat
        let done := { m with due := rest }
        if isPail dst then
          if frame then
            if !s.writeClaim t m.thread (bankOf dst) then
              (s.modTile t (fun x => x.setMove true done)).tileFault t m.thread 0x07 1 pc dst
            else ((s.useWide t.val 1 (bankOf dst)).writeClaimed dst bs).modTile t (fun x => x.setMove true done)
          else if !s.openAt t 2 (bankOf dst) then s
          else
            let s := if c < s.fck then s.countNdet 1 else s
            ((s.useWide t.val 1 (bankOf dst)).writeNarrow dst bs).modTile t (fun x => x.setMove false done)
        else
          let who : Purpose := .moveWrite t.val lane
          let sl := memOf dst - 64
          if frame then
            if !s.dataReserved t 8 .write true then
              (s.modTile t (fun x => x.setMove true done)).tileFault t m.thread 0x08 1 pc dst
            else
              (s.modTile t (fun x => x.setMove true { done with inFlight := m.inFlight + 1 })).sendFrame
                (.vatWrite sl dst bs who 0) .data .write t.val (servingRouter (rowOfTile t.val) sl) 5
                (hopsSlice t.val sl)
          else
            (s.modTile t (fun x => x.setMove false { done with inFlight := m.inFlight + (pieces dst bs.length).length })).narrowWrite
              t.val dst bs who

/-- MOVE_END: the last part is written (R244–R246). -/
def State.moveEnd (s : State) (t : TileId) (frame : Bool) : State :=
  match (s.tile t).moveHead frame with
  | none => s
  | some m =>
    if !(s.frameActs && m.listed && m.parts.isEmpty && m.due.isEmpty && m.inFlight = 0) then s
    else
      let s := s.modTile t (fun x => (x.popMove frame s.fck).moveLeaveEnd frame s.fck)
      match m.fault, m.pol with
      | some k, true =>
        let th := thid m.thread
        let s := s.modThr t th (fun z =>
          { z with gfirst := BitVec.ofNat 16 k, gprog := BitVec.ofNat 16 k, pc := m.pc })
        s.threadFault t th 0x04 1 m.pc.toNat m.hsIdx
      | f, _ =>
        let s := match f with
          | some k => s.modThr t (thid m.thread) (fun z => { z with gfirst := BitVec.ofNat 16 k })
          | none => s
        if m.cen then s.signalLocal t m.obj m.frame m.thread 2 else s

/-! ### The commands -/

/-- The effect of an M-slot word given as a command. -/
def mCommand (f : SlotFn) (t : TileId) (th : ThreadId) (w : SlotWord) (s : State) : Host.Outcome State Fault Refusal :=
  .next (slotCommand f 1 t th w s)

def execLd (t : TileId) (th : ThreadId) (w : SlotWord) (s : State) := mCommand ldSlot t th w s
def execSt (t : TileId) (th : ThreadId) (w : SlotWord) (s : State) := mCommand stSlot t th w s
def execSld (t : TileId) (th : ThreadId) (w : SlotWord) (s : State) := mCommand sldSlot t th w s
def execRwr (t : TileId) (th : ThreadId) (w : SlotWord) (s : State) := mCommand rwrSlot t th w s
def execGather (t : TileId) (th : ThreadId) (w : SlotWord) (s : State) := mCommand gatherSlot t th w s
def execLdb (t : TileId) (th : ThreadId) (w : SlotWord) (s : State) := mCommand (slotUnless (bankHeldAt 13) ldbSlot) t th w s
def execStb (t : TileId) (th : ThreadId) (w : SlotWord) (s : State) := mCommand (slotUnless (bankHeldAt 13) stbSlot) t th w s
def execSmov (t : TileId) (th : ThreadId) (w : SlotWord) (s : State) := mCommand smovSlot t th w s
def execSmovx (t : TileId) (th : ThreadId) (w : SlotWord) (s : State) := mCommand smovxSlot t th w s

/-- A step of a move of tile t. -/
def execMoveStep (t : TileId) (lane : MoveLane) (s : State) : Host.Outcome State Fault Refusal :=
  .next (s.moveStep t (lane == .frame))

/-- The end of a move of tile t. -/
def execMoveEnd (t : TileId) (lane : MoveLane) (s : State) : Host.Outcome State Fault Refusal :=
  .next (s.moveEnd t (lane == .frame))

end Sys2Proof.Machine
end

