-- ==== Sys2Proof/Machine/Sync.lean ====
section
/-!
DEFINITION. Synchronisation objects (spec file 08): updates that arrive, acknowledgements, watches and releases of
global WAITs, and the register writes of SYNC and of the local objects. What happens at the end of every ck (watches
and watchers evaluated) stands here too.
-/

namespace Sys2Proof.Machine

/-! ### Updates and acknowledgements (R261, R264) -/

/-- A SIG or ARM flit, or a Ladle signal, reaches its object; an asynchronous thread's is acknowledged by the object's
router, discarded or lost as it may be (R264). -/
def State.syncArrive (s : State) : State :=
  match s.arrival (fun b => match b with | .sync _ => true | .traceNotify _ => true | _ => false) with
  | none => s
  | some f =>
    let s := s.dropFlit f.age
    match f.body with
    | .sync o =>
      let s := s.applySync o false
      if o.ack then s.sendAsync (.syncAck o.unit o.thread) .request .any f.dst o.unit 0 0 f.port else s
    | .traceNotify o => s.applySync o false
    | _ => s

/-- The acknowledgement of a thread's oldest unacknowledged operation reaches it (R264). -/
def State.syncAcked (s : State) (t : TileId) (th : ThreadId) : State :=
  match s.arrival (fun b => match b with | .syncAck t' th' => t' == t.val && th' == th.val | _ => false) with
  | none => s
  | some f => (s.dropFlit f.age).modThr t th (fun z => { z with unacked := z.unacked - 1 })

/-! ### Watches of global WAITs (R277–R281) -/

/-- The key of a watch slot: half, tile and thread (R277). -/
def watchKey (obj t th : Nat) : Nat := 512 * (if obj < 1024 then 0 else 1) + 8 * t + th

/-- The watch slot of a key. -/
def State.watchAt (s : State) (k : Nat) : Option Watch := Sparse.get (fun _ => none) s.sync.watches k

/-- A watch slot written. -/
def State.setWatch (s : State) (k : Nat) (w : Option Watch) : State :=
  { s with sync := { s.sync with watches := Sparse.set (fun _ => none) s.sync.watches k w } }

/-- Links between the SYNC router of a watch and its tile: h_B. -/
def Watch.hops (w : Watch) : Nat := hopsSync w.tile w.obj

/-- A frame watch's latest injection ck, P + S − h_B (R278). -/
def Watch.deadline (w : Watch) : Nat := w.p + w.s - w.hops

/-- A watch word reaches its SYNC block: it replaces a watch still held in the thread's slot there (R277, R281); a
frame watch that arrives after its deadline is discarded. -/
def State.watchArrive (s : State) : State :=
  match s.arrival (fun b => match b with | .watch _ => true | _ => false) with
  | none => s
  | some f =>
    let s := s.dropFlit f.age
    match f.body with
    | .watch w =>
      if !s.pdOn 7 then s
      else
        let k := watchKey w.obj w.tile w.thread
        if w.frame && decide (w.p + w.s < s.sched + w.hops) then s.setWatch k none
        else s.setWatch k (some { w with held := none })
    | _ => s

/-- The ck by which a watch's times are told: the schedule ck for a frame watch. -/
def State.watchNow (s : State) (w : Watch) : Nat := if w.frame then s.sched else s.ck

/-- RELEASE_INJECT: the release of a watch whose condition has held since ck w leaves the SYNC block: handed to the
router from w + 1 on (asynchronous), or injected in max(w + 1, P − h_B) (frame); its slot is freed (R278). -/
def State.releaseInject (s : State) (half : Nat) (t : TileId) (th : ThreadId) : State :=
  let k := 512 * half + 8 * t.val + th.val
  match s.watchAt k with
  | none => s
  | some w =>
    match w.held with
    | none => s
    | some c =>
      let now := s.watchNow w
      let body : Payload := .release t.val th.val w.tag w.who
      if w.frame then
        if s.frameActs && decide (c + 1 ≤ now) && decide (w.p ≤ now + w.hops) && decide (now + w.hops ≤ w.p + w.s) then
          (s.setWatch k none).sendFrame body .request .any (syncRouter w.obj) t.val 0 w.hops 5
        else s
      else if c + 1 ≤ now then (s.setWatch k none).sendAsync body .request .any (syncRouter w.obj) t.val 0 0 5
      else s

/-- WATCH_LAPSE: a frame watch with no release by ck P + S − h_B is discarded in that ck (R278). -/
def State.watchLapse (s : State) (half : Nat) (t : TileId) (th : ThreadId) : State :=
  let k := 512 * half + 8 * t.val + th.val
  match s.watchAt k with
  | none => s
  | some w =>
    let now := s.watchNow w
    let canRelease := match w.held with | some c => decide (c + 1 ≤ now) | none => false
    if w.frame && s.frameActs &&
        (decide (w.p + w.s < now + w.hops) || (decide (w.p + w.s = now + w.hops) && !canRelease)) then
      s.setWatch k none
    else s

/-- RELEASE_ARRIVAL: a release reaches its tile and counts for the thread's outstanding global WAIT of the same tag;
every other one is discarded (R281). -/
def State.releaseArrive (s : State) (t : TileId) : State :=
  match s.arrival (fun b => match b with | .release t' _ _ _ => t' == t.val | _ => false) with
  | none => s
  | some f =>
    let s := s.dropFlit f.age
    match f.body with
    | .release _ th tag who =>
      s.modThr t (thid th) (fun z =>
        match z.wait with
        | some w =>
          if w.obj < 2048 && w.tag = tag && w.c.isNone then
            { z with wait := some { w with c := some (if w.frame then s.sched else s.fck), who := who } }
          else z
        | none => z)
    | _ => s

/-- Every watch evaluated at the end of a ck, on the count after every update of it (R278). -/
def State.evalWatches (s : State) : State :=
  { s with sync := { s.sync with
      watches := s.sync.watches.map (fun e =>
        match e.2 with
        | some w =>
          if w.held.isNone && (!w.frame || s.frameActs) && waitHolds w.eq w.target (s.count w.obj) then
            (e.1, some { w with held := some (s.watchNow w), who := s.whoOf w.obj })
          else e
        | none => e) } }

/-- The 32 watchers evaluated at the end of a ck (R289); one written in this ck makes no evaluation. -/
def State.evalWatchers (s : State) : State :=
  if !s.pdOn 7 then s
  else
    (List.range 32).foldl (fun s w =>
      let cfg := s.reg (rWatchCfg w)
      if bit cfg 16 && !s.sync.skip.contains w &&
          waitHolds (bit cfg 17) (s.reg (rWatchTarget w)) (s.count (fld cfg 0 11)) then
        s.setReg (rWatchStatus w) 1
      else s) s

/-- The local WAITs of a tile's threads evaluated at the start of a ck, on the count after every update of the ck
before (R262). -/
def State.evalWaits (s : State) (t : TileId) : State :=
  allThreads.foldl (fun s th =>
    match (s.thr t th).wait with
    | some w =>
      if w.obj < 2048 || w.c.isSome then s
      else
        let who := s.whoOf w.obj
        let c := if waitHolds w.eq w.target (s.count w.obj) then some (if w.frame then s.sched else s.fck) else none
        s.modThr t th (fun z => { z with wait := some { w with c := c, who := who } })
    | none => s) s

/-! ### Registers (R282, R286, R288–R290) -/

/-- A register update of an object by master m. -/
def regOp (m : Master) (obj : Nat) (arm : Bool) (v : Word) : SyncOp :=
  { obj := obj, arm := arm, value := v, src := .register, frame := false, unit := masterCode m, thread := 0, kind := 4,
    ack := false }

/-- A register write of COUNT, ADD or LSYNC: applied, or discarded with a count and a record (R282). -/
def State.regSync (s : State) (m : Master) (a obj : Nat) (arm : Bool) (v : Word) : State :=
  let o := regOp m obj arm v
  if s.planRuns && s.frameMarked obj && !s.mayUpdate o then (s.dropSync o).regRefuse m a
  else s.applySync o false

/-- SYNC.COUNT n written: ARM (R288). -/
def State.syncCountWrite (s : State) (m : Master) (n : Nat) (v : Word) : State :=
  s.regGate m (rCount n) (fun s => s.regSync m (rCount n) n true v)

/-- SYNC.ADD n written: SIG (R288). -/
def State.syncAddWrite (s : State) (m : Master) (n : Nat) (v : Word) : State :=
  s.regGate m (rAddReg n) (fun s => s.regSync m (rAddReg n) n false v)

/-- TILE t.LSYNC k written: ARM, discarded while the tile runs frame threads unless the plan loader writes (R290). -/
def State.lsyncWrite (s : State) (m : Master) (t : TileId) (k : Nat) (v : Word) : State :=
  let a := rTile t.val (oLsync k)
  let obj := 2048 + 32 * t.val + k
  s.regGate m a (fun s =>
    let o := regOp m obj true v
    if s.planRuns && s.frameMarked obj && !s.mayUpdate o then (s.dropSync o).regRefuse m a
    else if (s.tile t).frameRun && m ≠ .swap then s.regRefuse m a
    else s.applySync o false)

/-- SYNC.PACE written: added to the frame-ready object, or discarded while PACED reads 0 (R286). -/
def State.paceWrite (s : State) (m : Master) (v : Word) : State :=
  s.regGate m rPace (fun s =>
    let o : SyncOp := { obj := fld (s.reg rFrObj) 0 11, arm := false, value := v, src := .pace, frame := false
                        unit := masterCode m, thread := 0, kind := 6, ack := false }
    if bit (s.reg rTickStatus) 3 then s.applySync o false else (s.dropSync o).regRefuse m rPace)

/-- WATCH_CFG w or WATCH_TARGET w written: HIT is cleared, and the watcher makes no evaluation in this ck (R289). -/
def State.watchCfgWrite (s : State) (m : Master) (w : Nat) (target : Bool) (v : Word) : State :=
  let a := if target then rWatchTarget w else rWatchCfg w
  s.regGate m a (fun s =>
    let s := (s.setReg a (if target then v else v &&& 0x307FF)).setReg (rWatchStatus w) 0
    { s with sync := { s.sync with skip := w :: s.sync.skip } })

/-! ### The commands -/

def execSyncUpdateArrival (s : State) : Host.Outcome State Fault Refusal := .next s.syncArrive
def execSyncAck (t : TileId) (th : ThreadId) (s : State) : Host.Outcome State Fault Refusal := .next (s.syncAcked t th)
def execWatchWordArrival (s : State) : Host.Outcome State Fault Refusal := .next s.watchArrive
def execReleaseInject (half : Fin 2) (t : TileId) (th : ThreadId) (s : State) : Host.Outcome State Fault Refusal :=
  .next (s.releaseInject half.val t th)
def execWatchLapse (half : Fin 2) (t : TileId) (th : ThreadId) (s : State) : Host.Outcome State Fault Refusal :=
  .next (s.watchLapse half.val t th)
def execReleaseArrival (t : TileId) (s : State) : Host.Outcome State Fault Refusal := .next (s.releaseArrive t)
def execPace (m : Master) (v : BitVec 32) (s : State) : Host.Outcome State Fault Refusal := .next (s.paceWrite m v)
def execSyncCountWrite (m : Master) (n : Fin 2048) (v : BitVec 32) (s : State) : Host.Outcome State Fault Refusal :=
  .next (s.syncCountWrite m n.val v)
def execSyncAddWrite (m : Master) (n : Fin 2048) (v : BitVec 32) (s : State) : Host.Outcome State Fault Refusal :=
  .next (s.syncAddWrite m n.val v)
def execLsyncWrite (m : Master) (t : TileId) (k : Fin 32) (v : BitVec 32) (s : State) :
    Host.Outcome State Fault Refusal := .next (s.lsyncWrite m t k.val v)
def execWatchCfgWrite (m : Master) (w : Fin 32) (target : Bool) (v : BitVec 32) (s : State) :
    Host.Outcome State Fault Refusal := .next (s.watchCfgWrite m w.val target v)

end Sys2Proof.Machine
end

