-- ==== Sys2Proof/Machine/Control.lean ====
section
/-!
DEFINITION. The C slot (R233): synchronisation operations (R259–R264), WAIT completion and slip (R37, R38, R506),
landing checks (R256–R258), credit grants (R255), the handle swap (R271), scalar arithmetic, predicates, branches,
counters, HOLD and END (R265–R270).
-/

namespace Sys2Proof.Machine

/-- A C-slot instruction: illegal unless its fields are legal, no effect where its predicate selects it off. -/
def cSlot (legal : Bool) (effect : State → SlotOut) (s : State) (y : Thread) (w : SlotWord) : SlotOut :=
  if !legal then .illegal s else if !guardOn y w then .done s else effect s

/-! ### Synchronisation operations (R259–R264) -/

/-- The object is a local object of tile t. -/
def ownObj (t obj : Nat) : Bool := decide (2048 ≤ obj) && (obj - 2048) / 32 == t

/-- Hop count, router and output port from a tile to an object's place. -/
def objRoute (t obj : Nat) : Nat × Nat × Nat :=
  if obj < 2048 then (hopsSync t obj, syncRouter obj, 5)
  else (hopsTile t ((obj - 2048) / 32), (obj - 2048) / 32, 0)

/-- A SIG or ARM of a thread (R261, R264): at once on an own local object, a remote-class flit otherwise. An
asynchronous thread's operation is held while an earlier one is unacknowledged. -/
def State.syncIssue (s : State) (t : TileId) (th : ThreadId) (obj : Nat) (arm : Bool) (v : Word) : SlotOut :=
  let frame := s.isFrame t th
  let own := ownObj t.val obj
  let o : SyncOp := { obj := obj, arm := arm, value := v, src := .thread, frame := frame, unit := t.val
                      thread := th.val, kind := 0, ack := !frame && !own }
  if frame && !own && !s.dataReserved t th.val .remote false then .raise s 0x08 0
  else if !frame && (s.thr t th).unacked ≠ 0 then .done s
  else
    let s := s.trace t th (if arm then 2 else 1) obj 0 v
    if own then .done (s.applySync o true)
    else
      let r := objRoute t.val obj
      let s := if frame then s else s.modThr t th (fun z => { z with unacked := z.unacked + 1 })
      .done (s.sendBy frame (.sync o) .data .remote t.val r.2.1 r.2.2 r.1)

/-- SIG. -/
def sigSlot : SlotFn := fun s t th y w =>
  cSlot (!sb w 9 || sf w 0 4 == 0)
    (fun s => s.syncIssue t th (sf w 10 12) false (if sb w 9 then y.rs (sf w 4 5) else BitVec.ofNat 32 (sf w 0 9))) s y w

/-- ARM: a global object or a local one of the thread's tile (R260). -/
def armSlot : SlotFn := fun s t th y w =>
  cSlot (sf w 0 5 == 0 && (decide (sf w 10 12 < 2048) || ownObj t.val (sf w 10 12)))
    (fun s => s.syncIssue t th (sf w 10 12) true (y.rs (sf w 5 5))) s y w

/-- The fields of WAIT (R259, R260). -/
def waitLegal (t : TileId) (w : SlotWord) : Bool :=
  sf w 0 4 == 0 && sf w 4 5 % 4 == 0 && sf w 4 5 != 0 && (decide (sf w 10 12 < 2048) || ownObj t.val (sf w 10 12))

/-- WAIT issued (R262, R277, R281): a local object is evaluated from this ck on; a global one sends a watch word with
the thread's next tag. -/
def waitSlot : SlotFn := fun s t th y w =>
  cSlot (waitLegal t w)
    (fun s =>
      let obj := sf w 10 12
      let tq := sf w 4 5
      let frame := s.isFrame t th
      let global := decide (obj < 2048)
      let eq := sb w 9
      let target := y.rs tq
      let p := (y.rs (tq + 1)).toNat
      let sl := (y.rs (tq + 2)).toNat % 256
      let now := if frame then s.sched else s.fck
      if (s.thr t th).wait.isSome then .done s
      else if frame && global && !s.sendReserved t th.val 1 then .raise s 0x08 0
      else
        let s := s.trace t th 3 obj (s.whoOf obj) target
        let tag := if global then (s.thr t th).tag + 1 else (s.thr t th).tag
        let c := if !global && waitHolds eq target (s.countBefore obj) then some now else none
        let rec_ : WaitRec :=
          { obj := obj, eq := eq, target := target, frame := frame, p := if frame then p else 0
            s := if frame then sl else 0, i := now, tag := tag, c := c, who := s.whoOf obj, bundled := false }
        let s := s.modThr t th (fun z => { z with wait := some rec_, tag := tag, st := .stall, stall := 6 })
        if !global then .done s
        else
          let word : Watch :=
            { tile := t.val, thread := th.val, tag := tag, obj := obj, eq := eq, target := target, frame := frame
              p := rec_.p, s := rec_.s, held := none, who := 0 }
          .done (s.sendBy frame (.watch word) .request .any t.val (syncRouter obj) 5 (hopsSync t.val obj))) s y w

/-- The ck in which a frame WAIT completes: max(i, P, c) (R37). -/
def WaitRec.due (w : WaitRec) (c : Nat) : Nat := max (max w.i w.p) c

/-- The wait of a thread ends: the bundle's other slots may issue (R171). -/
def Thread.endWait (z : Thread) : Thread :=
  { z with wait := none, waitDone := (z.wait.map (·.bundled)).getD false, st := .run, stall := 0 }

/-- WAIT_COMPLETE: a frame WAIT in ck max(i, P, c) and in no other, where that is no later than P + S (R37), with the
ledger's record (R38); an asynchronous one in c, no earlier than its issue (R262). -/
def State.waitComplete (s : State) (t : TileId) (th : ThreadId) : State :=
  match (s.thr t th).wait with
  | none => s
  | some w =>
    match w.c with
    | none => s
    | some c =>
      if !s.frameActs then s
      else if w.frame then
        if w.p + w.s < w.due c || s.sched ≠ w.due c then s
        else
          let late := w.due c - w.p
          let a := rTile t.val oLedgerSlack
          let s := if (s.reg a).toNat < late then s.setReg a (BitVec.ofNat 32 late) else s
          let s := s.trace t th 4 w.obj w.who (BitVec.ofNat 32 (min late 255))
          s.modThr t th Thread.endWait
      else if s.fck ≠ max w.i c then s
      else
        let s := s.trace t th 4 w.obj w.who 0
        s.modThr t th Thread.endWait

/-- SLIP: a frame WAIT not satisfied by P + S slips in ck max(i, P + S + 1); in a recovery of another tile it is
absorbed and the WAIT completes (R37, R38, R506). -/
def State.slipNow (s : State) (t : TileId) (th : ThreadId) : State :=
  match (s.thr t th).wait with
  | none => s
  | some w =>
    let missed := match w.c with | some c => decide (w.p + w.s < w.due c) | none => true
    if !(w.frame && s.frameActs && missed && decide (s.sched = max w.i (w.p + w.s + 1))) then s
    else
      let count := s.count w.obj
      let s := s.trace t th 5 w.obj w.who count
      if s.absorbs t then (s.absorb t).modThr t th Thread.endWait
      else
        let s := s.modTile t (fun x =>
          { x with slip := some { thread := th.val, obj := w.obj, p := w.p, s := w.s, count := count } })
        (s.tickFlag 11).tileFault t th.val 0x09 0 (s.thr t th).pc.toNat 0

/-! ### Landing checks (R256–R258) -/

/-- A late range recorded: a seventeenth widens the sixteenth (R258). -/
def Tile.addLate (x : Tile) (lo hi : Nat) : Tile :=
  if x.late.length < 16 then { x with late := x.late ++ [(lo, hi)] }
  else
    let l := x.late.getD 15 (lo, hi)
    { x with late := x.late.take 15 ++ [(min l.1 lo, max l.2 hi)] }

/-- LCHK. -/
def lchkSlot : SlotFn := fun s t th y w =>
  let h := sf w 11 6
  let n := sf w 6 5
  cSlot (s.isFrame t th && sf w 0 6 == 0 && n % 2 == 0)
    (fun s =>
      let obj := 2048 + 32 * t.val + sf w 17 5
      let e := s.handle t h
      match s.handleFault (some t.val) e false false (fun _ => true) (hStart e) 0 with
      | some c => .raise s c h
      | none =>
        let target := y.rs n
        let q := (y.rs (n + 1)).toNat
        let count := s.countBefore obj
        let landed := decide (target.toNat ≤ count.toNat)
        let s := s.trace t th 6 obj (s.whoOf obj) (BitVec.ofNat 32 (b2n landed + 2 * count.toNat))
        if landed then .done s
        else
          let j0 := q % 65536
          let rows := q / 2 ^ 16 % 256
          let lo := hStart e + j0 * hStride0 e
          let hi := hStart e + (j0 + rows) * hStride0 e
          let s := if lo < hi then s.modTile t (fun x => x.addLate lo (hi - 1)) else s
          if q / 2 ^ 30 % 2 = 1 then
            .done ((s.countNdet 3).sendAsync (.lateNote (q / 2 ^ 24 % 64) (bit (s.reg rFrame) 0)) .data .remote t.val notePortRouter 5)
          else .done s) s y w

/-! ### Credit and handles (R103, R255, R271) -/

/-- CREDIT.GRANT: s[A][23:0] bytes through window CW; a disabled window sends nothing. -/
def creditGrantSlot : SlotFn := fun s t th y w =>
  cSlot (sf w 0 13 == 0)
    (fun s =>
      let cfg := s.treg t.val (oCwCfg (sf w 18 4))
      let frame := s.isFrame t th
      if !bit cfg 16 then .done s
      else if frame && !(posClass s.round == .remote && s.sendReserved t th.val 1) then .raise s 0x08 0
      else
        let dst := fld cfg 0 6
        .done (s.sendBy frame (.grant dst (fld cfg 6 4) ((y.rs (sf w 13 5)).toNat % 2 ^ 24)) .request .remote
          t.val dst 0 (hopsTile t.val dst))) s y w

/-- A tile's handle table switched to its other bank (R96). -/
def State.swapHandles (s : State) (t : TileId) : State := s.modReg (rTile t.val oHbank) (fun r => r ^^^ 1)

/-- HSWAP, in frame threads only. -/
def hswapSlot : SlotFn := fun s t th y w =>
  cSlot (s.isFrame t th && sf w 0 22 == 0) (fun s => .done (s.swapHandles t)) s y w

/-! ### Scalar arithmetic (R265, R266) -/

/-- The second operand of a scalar instruction: s[[10:6]], or the sign-extended immediate (R265). -/
def scalarB (y : Thread) (w : SlotWord) : Word := if sb w 11 then sext 11 (sf w 0 11) else y.rs (sf w 6 5)

/-- A scalar instruction with a result of class A in s[SD]. -/
def scalarSlot (g : Word → Word → Word) : SlotFn := fun s t th y w =>
  cSlot (sb w 11 || sf w 0 6 == 0)
    (fun s => .done (s.modThr t th (fun z => z.ws (sf w 17 5) (g (y.rs (sf w 12 5)) (scalarB y w)) (s.fck + 1)))) s y w

def saddSlot : SlotFn := scalarSlot (fun a b => a + b)
def ssubSlot : SlotFn := scalarSlot (fun a b => a - b)
def sandSlot : SlotFn := scalarSlot (fun a b => a &&& b)
def sorSlot : SlotFn := scalarSlot (fun a b => a ||| b)
def sxorSlot : SlotFn := scalarSlot (fun a b => a ^^^ b)
def sshlSlot : SlotFn := scalarSlot (fun a b => a <<< (b.toNat % 32))
def sshrSlot : SlotFn := scalarSlot (fun a b => a.sshiftRight (b.toNat % 32))
def smulSlot : SlotFn := scalarSlot (fun a b => a * b)

/-- SLI. -/
def sliSlot : SlotFn := fun s t th y w =>
  cSlot true (fun s => .done (s.modThr t th (fun z => z.ws (sf w 17 5) (sext 17 (sf w 0 17)) (s.fck + 1)))) s y w

/-- SLUI. -/
def sluiSlot : SlotFn := fun s t th y w =>
  cSlot (!sb w 16)
    (fun s => .done (s.modThr t th (fun z =>
      z.ws (sf w 17 5) ((y.rs (sf w 17 5) &&& 0xFFFF) ||| BitVec.ofNat 32 (sf w 0 16 * 65536)) (s.fck + 1)))) s y w

/-- The second operand of SCMP (R266). -/
def scmpB (y : Thread) (w : SlotWord) : Word := if sb w 13 then sext 10 (sf w 3 10) else y.rs (sf w 8 5)

/-- SCMP. -/
def scmpSlot : SlotFn := fun s t th y w =>
  match scmpRel (sf w 0 3) (y.rs (sf w 14 5)) (scmpB y w) with
  | none => .illegal s
  | some b =>
    cSlot (sb w 13 || sf w 3 5 == 0) (fun s => .done (s.modThr t th (fun z => z.wp (sf w 19 3) b (s.fck + 1)))) s y w

/-- PLOG. -/
def plogSlot : SlotFn := fun s t th y w =>
  cSlot (sf w 0 11 == 0)
    (fun s => .done (s.modThr t th (fun z =>
      z.wp (sf w 19 3) (plogFn (sf w 11 2) (y.rp (sf w 16 3)) (y.rp (sf w 13 3))) (s.fck + 1)))) s y w

/-! ### Branches, counters, HOLD and END (R267–R270) -/

/-- BR. -/
def brSlot : SlotFn := fun s t th y w =>
  cSlot (sf w 0 10 == 0)
    (fun s => .done (s.modThr t th (fun z => { z with next := some (BitVec.ofNat 12 (sf w 10 12)) }))) s y w

/-- LOOP: s[SR] − 1 is written, and the branch is taken when that value is not 0. -/
def loopSlot : SlotFn := fun s t th y w =>
  cSlot (sf w 0 5 == 0)
    (fun s =>
      let v := y.rs (sf w 5 5) - 1
      .done (s.modThr t th (fun z =>
        let z := z.ws (sf w 5 5) v (s.fck + 1)
        if v = 0 then z else { z with next := some (BitVec.ofNat 12 (sf w 10 12)) }))) s y w

/-- The value that RDC reads (R268): the schedule line, the ck relative to the tick, or SR_WINDOW. -/
def State.rdcValue (s : State) (t : TileId) (sel : Nat) : Word :=
  match sel with
  | 0 => BitVec.ofNat 32 (schedLine (s.reg rLineCk) s.sched)
  | 1 => BitVec.ofNat 32 (min s.sched 0xFFFFFFFF)
  | _ => s.treg t.val oSrWindow

/-- RDC. -/
def rdcSlot : SlotFn := fun s t th y w =>
  cSlot (sf w 0 15 == 0 && sf w 15 2 != 3)
    (fun s => .done (s.modThr t th (fun z => z.ws (sf w 17 5) (s.rdcValue t (sf w 15 2)) (s.fck + 1)))) s y w

/-- The condition of HOLD (R269). -/
def State.holdMet (s : State) (y : Thread) (w : SlotWord) : Bool :=
  let now := if sb w 16 then schedLine (s.reg rLineCk) s.sched else s.sched
  decide ((y.rs (sf w 17 5)).toNat ≤ now)

/-- HOLD: until its condition is met the thread reads STALL with reason 10. -/
def holdSlot : SlotFn := fun s t th y w =>
  cSlot (sf w 0 16 == 0)
    (fun s =>
      if s.holdMet y w then .done (s.modThr t th (fun z => if z.stall = 10 then { z with st := .run, stall := 0 } else z))
      else .done (s.modThr t th (fun z => { z with st := .stall, stall := 10 }))) s y w

/-- END: the thread reads IDLE until the next tick or START. -/
def endSlot : SlotFn := fun s t th y w =>
  cSlot (sf w 0 22 == 0)
    (fun s => .done ((s.trace t th 7 0 0 0).modThr t th (fun z => { z with ended := true, st := .idle, stall := 0 }))) s y w

/-! ### The commands -/

/-- The effect of a C-slot word given as a command; a branch taken moves the thread's PC (R163). -/
def cCommand (f : SlotFn) (t : TileId) (th : ThreadId) (w : SlotWord) (s : State) : Host.Outcome State Fault Refusal :=
  .next ((slotCommand f 0 t th w s).modThr t th (fun z => { z with pc := z.next.getD z.pc, next := none }))

def execEndMark (t : TileId) (th : ThreadId) (w : SlotWord) (s : State) := cCommand endSlot t th w s
def execBr (t : TileId) (th : ThreadId) (w : SlotWord) (s : State) := cCommand brSlot t th w s
def execLoopOp (t : TileId) (th : ThreadId) (w : SlotWord) (s : State) := cCommand loopSlot t th w s
def execRdc (t : TileId) (th : ThreadId) (w : SlotWord) (s : State) := cCommand rdcSlot t th w s
def execHold (t : TileId) (th : ThreadId) (w : SlotWord) (s : State) := cCommand holdSlot t th w s
def execSig (t : TileId) (th : ThreadId) (w : SlotWord) (s : State) := cCommand sigSlot t th w s
def execWait (t : TileId) (th : ThreadId) (w : SlotWord) (s : State) := cCommand waitSlot t th w s
def execArm (t : TileId) (th : ThreadId) (w : SlotWord) (s : State) := cCommand armSlot t th w s
def execLchk (t : TileId) (th : ThreadId) (w : SlotWord) (s : State) := cCommand lchkSlot t th w s
def execCreditGrant (t : TileId) (th : ThreadId) (w : SlotWord) (s : State) := cCommand creditGrantSlot t th w s
def execHswap (t : TileId) (th : ThreadId) (w : SlotWord) (s : State) := cCommand hswapSlot t th w s
def execSadd (t : TileId) (th : ThreadId) (w : SlotWord) (s : State) := cCommand saddSlot t th w s
def execSsub (t : TileId) (th : ThreadId) (w : SlotWord) (s : State) := cCommand ssubSlot t th w s
def execSand (t : TileId) (th : ThreadId) (w : SlotWord) (s : State) := cCommand sandSlot t th w s
def execSor (t : TileId) (th : ThreadId) (w : SlotWord) (s : State) := cCommand sorSlot t th w s
def execSxor (t : TileId) (th : ThreadId) (w : SlotWord) (s : State) := cCommand sxorSlot t th w s
def execSshl (t : TileId) (th : ThreadId) (w : SlotWord) (s : State) := cCommand sshlSlot t th w s
def execSshr (t : TileId) (th : ThreadId) (w : SlotWord) (s : State) := cCommand sshrSlot t th w s
def execSmul (t : TileId) (th : ThreadId) (w : SlotWord) (s : State) := cCommand smulSlot t th w s
def execSli (t : TileId) (th : ThreadId) (w : SlotWord) (s : State) := cCommand sliSlot t th w s
def execSlui (t : TileId) (th : ThreadId) (w : SlotWord) (s : State) := cCommand sluiSlot t th w s
def execScmp (t : TileId) (th : ThreadId) (w : SlotWord) (s : State) := cCommand scmpSlot t th w s
def execPlog (t : TileId) (th : ThreadId) (w : SlotWord) (s : State) := cCommand plogSlot t th w s

/-- A WAIT of thread th of tile t completes. -/
def execWaitComplete (t : TileId) (th : ThreadId) (s : State) : Host.Outcome State Fault Refusal :=
  .next (s.waitComplete t th)

/-- The ledger of tile t raises, or absorbs, a slip. -/
def execSlip (t : TileId) (th : ThreadId) (s : State) : Host.Outcome State Fault Refusal := .next (s.slipNow t th)

end Sys2Proof.Machine
end

