-- ==== Sys2Proof/Machine/Mesh.lean ====
section
/-!
DEFINITION. The mesh (R51–R65): asynchronous flits from router to router, the injection of reserved data at a slice, and
what arrives at a tile from another one: remote writes (R100–R102) and credit (R103).
-/

namespace Sys2Proof.Machine

/-! ### Routes (R52, R652) -/

/-- The output port that a flit takes at router r: along its row first, then along its column (R52). -/
def Flit.outAt (f : Flit) (r : Nat) : Nat :=
  if colOf r < colOf f.dst then 2
  else if colOf f.dst < colOf r then 4
  else if rowOfTile r < rowOfTile f.dst then 3
  else if rowOfTile f.dst < rowOfTile r then 1
  else f.port

/-- The neighbour of router r through output 1–4, and the input by which it is entered. -/
def neighbour (r out : Nat) : Nat × Nat :=
  match out with
  | 1 => (r - 8, 3)
  | 2 => (r + 1, 4)
  | 3 => (r + 8, 1)
  | _ => (r - 1, 2)

/-- Links of an output port in one lane: two at a slice attachment (R54). -/
def linkCount (r out : Nat) : Nat := if out = 5 && (colOf r == 0 || colOf r == 7) then 2 else 1

/-- The number of a lane in a slot record. -/
def laneNo : MeshLane → Nat
  | .data => 0
  | .request => 1

/-- The record holds a cycle of output `out` in a lane in schedule ck c (KIND 0x05, R330). -/
def SlotRec.holdsLink (k : SlotRec) (out : Nat) (l : MeshLane) (c : Nat) : Bool :=
  k.kind == 5 && k.arg % 8 == out && k.arg / 16 % 2 == laneNo l && k.at c

/-- Link cycles of an output that records of the router reserve in this ck: link 0 or 1 of a slice attachment each count
once (R330, R652). -/
def State.linksReserved (s : State) (r out : Nat) (l : MeshLane) : Nat :=
  if !s.frameActs then 0
  else (((s.routerSlots r).filter (fun k => k.holdsLink out l s.sched)).map (fun k => k.arg / 8 % 2)).eraseDups.length

/-- Records of the routers' tables hold every link cycle of a flit's way from router r, where it takes a link in schedule
ck c, to its destination's port (R59, R298, R330); `fuel` bounds the links. -/
def pathHeld (table : Nat → List SlotRec) (fuel : Nat) (f : Flit) (r c : Nat) : Bool :=
  match fuel with
  | 0 => false
  | n + 1 =>
    let out := f.outAt r
    f.lanes.all (fun l => (table r).any (fun k => k.holdsLink out l c)) &&
      ((r == f.dst && out == f.port) || pathHeld table n f (neighbour r out).1 (c + 1))

/-- The tables in force hold the way (R59, R293). -/
def State.pathReserved (s : State) (fuel : Nat) (f : Flit) (r c : Nat) : Bool := pathHeld s.routerSlots fuel f r c

/-- Link cycles that asynchronous traffic has used in this ck. -/
def State.linksUsed (s : State) (r out : Nat) (l : MeshLane) : Nat :=
  (s.mesh.used.filter (fun u => u.1 == r && u.2.1 == out && u.2.2 == l)).length

/-- An asynchronous flit may take output `out` of router r in this ck (R61). -/
def State.linkOpen (s : State) (r out : Nat) (l : MeshLane) : Bool :=
  decide (s.linksReserved r out l + s.linksUsed r out l < linkCount r out)

/-- The slice at an edge router, and which of its two routers this is. -/
def sliceAt (r : Nat) : Nat × Nat := ((if colOf r = 0 then 0 else 4) + rowOfTile r / 2, rowOfTile r % 2)

/-- The direction of an output seen from a slice: 0 along the row, 1 along the column, 2 into the tile (R330). -/
def sliceLink (out : Nat) : Nat := if out = 2 || out = 4 then 0 else if out = 1 || out = 3 then 1 else 2

/-- The part of a band with a slot in this ck. -/
def State.slotPart (s : State) (b : Band) : Option Nat :=
  b.slots.findSome? (fun pass => pass.findIdx? (fun c => c == s.sched))

/-- A band's planned sends take a lane of its Ladle's edge link in this ck (R293): landing writes both lanes, write-out
reads the request lane, commits the data lane. -/
def State.bandSends (s : State) (b : Band) (l : MeshLane) : Bool :=
  ((s.slotPart b).isSome && (b.kind == 0 || l == .request)) ||
    (l == .data && b.commits.any (fun c => c.ck == s.sched))

/-- The planned sends of the blocks at an edge of router r take its edge link in this ck: the Ladles' bands, and the
releases of frame watches that the SYNC block is to inject (R278, R293). -/
def State.edgeDue (s : State) (r inp : Nat) (l : MeshLane) : Bool :=
  (List.finRange 16).any (fun k => ladleRouter k.val == r && ladlePort k.val == inp &&
      s.ladle.ladles[k].runs.any (fun b => s.bandSends b.band l)) ||
    (l == .request && inp == 5 && s.sync.watches.any (fun p => match p.2 with
      | some w => w.frame && syncRouter w.obj == r && decide (w.p ≤ s.sched + w.hops) &&
          (match w.held with | some c => decide (c + 1 ≤ s.sched) | none => false)
      | none => false))

/-- Injection cycles by which a waiting flit would enter router r that are reserved in this ck (R60, R61): a send of the
tile, the injections of a slice's edge router, or the planned sends of the block at the edge. A slice's injection
towards the flit's own output takes both of its links from it. -/
def State.injectReserved (s : State) (r : Nat) (f : Flit) (l : MeshLane) : Nat :=
  if !s.frameActs then 0
  else if f.inp = 0 then
    b2n ((s.tile (tid r)).slots.any (fun k => k.kind == 3 && k.arg % 2 == laneNo l && k.at s.sched))
  else if f.inp = 5 && (colOf r == 0 || colOf r == 7) then
    if l == .request then 0
    else
      let (n, e) := sliceAt r
      let links := (((s.sliceSlots n).filter (fun k => k.kind == 0x12 && k.arg % 2 == e && k.at s.sched)).map
        (fun k => k.arg / 2 % 4)).eraseDups
      if links.contains (sliceLink (f.outAt r)) then 2 else links.length
  else b2n (s.mesh.sent.contains (r, f.inp, l) || s.edgeDue r f.inp l)

/-- The Ladle whose copy engine sends a flit; 0 for any other (R293). -/
def Flit.ladleNo (f : Flit) : Nat :=
  match f.body with
  | .narrow _ q => (match q.who with | .copyRead l _ => l | .copyWrite l _ => l | _ => 0)
  | .sync o => if o.src = .ladle then o.unit else 0
  | _ => 0

/-- Two flits have one source and one destination (R63). -/
def Flit.samePair (f g : Flit) : Bool :=
  g.src == f.src && g.inp == f.inp && g.dst == f.dst && g.port == f.port && g.ladleNo == f.ladleNo

/-- A flit or word of the same source and destination waits outside since earlier than f, which does not pass it
(R63, R433, notes/assumptions/39.md). -/
def State.behind (s : State) (c : Nat) (f : Flit) : Bool :=
  s.mesh.flits.any (fun g =>
    !g.frame && f.samePair g &&
      (match g.pos with | .source d => decide (d < c) || (d == c && decide (g.age < f.age)) | _ => false))

/-- A flit or word waiting outside router r may enter it in this ck: its position is of its class, and its injection
link is neither reserved nor taken (R57, R61). Injection links are counted beside the outputs, from number 8. -/
def State.mayEnter (s : State) (r : Nat) (f : Flit) : Bool :=
  match f.pos with
  | .source c =>
    !f.frame && f.src = r && decide (c ≤ s.ck) && (f.cls == .any || f.cls == posClass s.round) &&
      !s.behind c f &&
      [MeshLane.data, MeshLane.request].all (fun l =>
        !f.uses l || decide (s.injectReserved r f l + s.linksUsed r (8 + f.inp) l < linkCount r f.inp))
  | _ => false

/-- Places of an input buffer taken at the start of this ck, or since: 4 in all (R61). A place freed in this ck counts as
taken to its end. -/
def State.buffered (s : State) (r inp : Nat) (l : MeshLane) : Nat :=
  (s.mesh.flits.filter (fun f => f.pos == .buffer r inp && f.uses l)).length +
    (s.mesh.freed.filter (fun u => u.1 == r && u.2.1 == inp && u.2.2 == l)).length

/-- The input buffers of router r that a flit needs have a place. -/
def State.placeFor (s : State) (r inp : Nat) (f : Flit) : Bool :=
  [MeshLane.data, MeshLane.request].all (fun l => !f.uses l || decide (s.buffered r inp l < 4))

/-- Cycles of output `out` (or of an injection link) marked as used by a flit. -/
def State.markUsed (s : State) (r out : Nat) (f : Flit) : State :=
  { s with mesh := { s.mesh with used := f.lanes.map (fun l => (r, out, l)) ++ s.mesh.used } }

/-- A flit replaced by its age. -/
def State.putFlit (s : State) (f : Flit) : State :=
  { s with mesh := { s.mesh with flits := s.mesh.flits.map (fun g => if g.age = f.age then f else g) } }

/-- Input by which a flit stands before router r: its buffer's, or the one by which it enters. -/
def Flit.inputAt (f : Flit) (r : Nat) : Option Nat :=
  match f.pos with
  | .buffer r' i => if r' = r then some i else none
  | .source _ => if f.src = r then some f.inp else none
  | .delivered _ => none

/-- Flit f goes before flit g at a router: the older first, then the lower input (R61), then the lower Ladle (R293), then
the order of injection (R63). -/
def Flit.before (r : Nat) (f g : Flit) : Bool :=
  let i := (f.inputAt r).getD 0
  let j := (g.inputAt r).getD 0
  let later := i == j && (decide (f.ladleNo < g.ladleNo) || (f.ladleNo == g.ladleNo && decide (f.age < g.age)))
  decide (f.born < g.born) || (f.born == g.born && (decide (i < j) || later))

/-- Flit f waits outside a router ahead of flit g: since an earlier ck, then of a lower Ladle (R293), then in the order in
which they were sent. -/
def Flit.aheadOf (f g : Flit) : Bool :=
  match f.pos, g.pos with
  | .source c, .source d =>
    decide (c < d) || (c == d && (decide (f.ladleNo < g.ladleNo) || (f.ladleNo == g.ladleNo && decide (f.age ≤ g.age))))
  | _, _ => decide (f.age ≤ g.age)

/-- A flit or word that may leave router r in this ck through output `out` (R61): it waits in a buffer there since an
earlier ck, or enters from the tile in this one. -/
def State.mayLeave (s : State) (r out : Nat) (f : Flit) : Bool :=
  !f.frame && f.outAt r == out &&
    (match f.pos with
      | .buffer r' _ => r' == r && decide (f.moved < s.ck)
      | .source _ => f.inp = 0 && s.mayEnter r f
      | .delivered _ => false)

/-- The flit that goes first among those of a list. -/
def firstOf (r : Nat) : List Flit → Option Flit
  | [] => none
  | f :: l =>
    match firstOf r l with
    | some g => if f.before r g then some f else some g
    | none => some f

/-- A flit that leaves router r by output `out`: it crosses one link, or is delivered at its destination: into the tile
in this ck, across an edge link in the next (R53, R64). Request words count in MESH_ASYNC_FLITS, and in MESH_ASYNC_HOLD,
as flits do (DESIGN CHOICE, notes/assumptions/77.md: R62 says flit). -/
def State.crossLink (s : State) (r out : Nat) (f : Flit) : State :=
  let s := s.markUsed r out f
  let s := match f.pos with
    | .buffer _ i => { s with mesh := { s.mesh with freed := f.lanes.map (fun l => (r, i, l)) ++ s.mesh.freed } }
    | _ => s.markUsed r (8 + f.inp) f
  let s := s.incReg (rTile r oMeshFlits)
  if r = f.dst && out = f.port then
    s.putFlit { f with pos := .delivered (if out = 0 then s.ck else s.ck + 1), moved := s.ck }
  else
    let (r', i) := neighbour r out
    s.putFlit { f with pos := .buffer r' i, moved := s.ck }

/-- The way on from router r is open to a flit: every lane it uses, and a place at the next router. -/
def State.wayOpen (s : State) (r out : Nat) (f : Flit) : Bool :=
  f.lanes.all (fun l => s.linkOpen r out l) &&
    ((r = f.dst && out = f.port) || s.placeFor (neighbour r out).1 (neighbour r out).2 f)

/-- The flits waiting outside router r for output `out` that enter its buffers in this ck, one after another (R61). -/
def State.enterAll (s : State) (r out : Nat) (l : MeshLane) : State :=
  let ws := s.mesh.flits.filter (fun f => f.uses l && f.outAt r == out &&
    (match f.pos with | .source _ => f.src = r | _ => false))
  (ws.foldr (insertBy Flit.aheadOf) []).foldl (fun s f =>
    if s.mayEnter r f && s.placeFor r f.inp f then
      (s.markUsed r (8 + f.inp) f).putFlit { f with pos := .buffer r f.inp, moved := s.ck, born := s.ck }
    else s) s

/-- MESH_ASYNC_FORWARD: one cycle of an output of router r, in one lane, given to the asynchronous flit that goes first;
the flits that wait outside for that output enter the buffers (R61–R63). -/
def State.meshForward (s : State) (r out : Nat) (l : MeshLane) : State :=
  if !s.pdOn 7 then s
  else
    let now (f : Flit) : Flit := match f.pos with | .source _ => { f with born := s.ck } | _ => f
    let here := (s.mesh.flits.filter (fun f => s.mayLeave r out f)).map now
    let s := match firstOf r (here.filter (fun f => f.uses l)) with
      | none => s
      | some f =>
        -- a flit with its request word goes only where it is first on both lanes
        let first := f.lanes.all (fun k => (firstOf r (here.filter (fun g => g.uses k))).map (fun (g : Flit) => g.age) == some f.age)
        -- an older word of the same source and destination is never overtaken (R63)
        let passed := here.any (fun g => f.samePair g && g.age ≠ f.age && g.before r f)
        if first && !passed && s.wayOpen r out f then s.crossLink r out f else s
    s.enterAll r out l

/-- MESH_ASYNC_HOLD of a router at the end of a ck: a flit has waited in its buffers (R62). -/
def State.countHold (s : State) (r : Nat) : State :=
  if s.mesh.flits.any (fun f =>
      (match f.pos with | .buffer r' _ => r' == r | _ => false) && decide (f.moved < s.ck)) then
    s.incReg (rTile r oMeshHold)
  else s

/-! ### Reserved data leaving a slice (R57, R60, R65) -/

/-- Data of a frame read due at a slice's edge in this ck enter the mesh in the read class and by a reserved injection
(KIND 0x12), one flit for each record; any other is a slot violation, which `viol` raises on the reader's side (R60).
The injections of an edge router are noted by their directions, from number 24. -/
def State.injectData (viol : State → Flit → State) (s : State) (f : Flit) : State :=
  match f.pos with
  | .source c =>
    if !f.frame || s.fck < c then s
    else
      let (n, e) := sliceAt f.src
      let link := sliceLink (f.outAt f.src)
      let ok := posClass s.round == .read && !s.mesh.sent.contains (f.src, 24 + link, .data) &&
        (s.sliceSlots n).any (fun k =>
          k.kind == 0x12 && k.arg % 2 == e && k.arg / 2 % 4 == link && k.at s.sched)
      if ok then
        (s.noteSent f.src (24 + link) [.data]).putFlit
          { f with pos := .delivered (s.fck + 1 + routerDist f.src f.dst + (if f.port = 0 then 0 else 1)) }
      else viol (s.dropFlit f.age) f
  | _ => s

/-! ### Remote writes at the receiver (R92, R100–R102, R254) -/

/-- The receiver's checks of a remote write: `none` where one fails (R102, R253), otherwise the first byte stored to. -/
def State.remoteAddr (s : State) (t : TileId) (src window counter off n : Nat) : Option Nat :=
  let cfg := s.treg t.val (oCwCfg window)
  let e := s.handle t (fld cfg 10 6)
  let a := hStart e + off
  let ok := bit cfg 16 && fld cfg 0 6 == src && fld cfg 6 4 == counter &&
    hV e && hRWR e && hCW e == window && !fmtReserved (hFmt e) &&
    hBytes e != 0 && hExt0 e != 0 && hExt1 e != 0 &&
    decide (a + n ≤ hEnd e) && decide (a % 64 + n ≤ 64) && inOwnPail t.val e
  if ok then some a else none

/-- A remote handle fault at tile t, for the handle of a window (R102). -/
def State.remoteFault (s : State) (t : TileId) (h : Nat) : State :=
  if (s.tile t).frameRun then s.tileFault t 0 0x05 1 0 h
  else s.post 0x05 0 0 t.val (BitVec.ofNat 32 h) 0

/-- REMOTE_WRITE_ARRIVAL at tile t: the payload is checked and written through the wide write port; an asynchronous
one waits for an open cycle (R83, R85). -/
def State.remoteArrive (s : State) (t : TileId) : State :=
  match s.arrival (fun b => match b with | .remoteWrite _ d .. => d == t.val | _ => false) with
  | none => s
  | some f =>
    match f.body with
    | .remoteWrite src _ window counter off data marks frame =>
      let gone := s.dropFlit f.age
      if !s.pdOn (16 + t.val) then gone
      else
        let cfg := s.treg t.val (oCwCfg window)
        let h := fld cfg 10 6
        match s.remoteAddr t src window counter off data.length with
        | none => gone.remoteFault t h
        | some a =>
          let e := s.handle t h
          let l := data.zipIdx.map (fun p => (p.1, marks.getD (p.2 / 8) false))
          if frame then
            if !s.writeClaim t 8 (bankOf a) then gone.tileFault t 0 0x07 1 0 a
            else
              let (s, bs) := gone.fixStore t e h a l
              (s.useWide t.val 1 (bankOf a)).writeClaimed a bs
          else if !s.openAt t 2 (bankOf a) then s
          else
            let late := match f.pos with | .delivered c => decide (c < s.ck) | _ => false
            let (s, bs) := gone.fixStore t e h a l
            let s := if late then s.countNdet 1 else s
            (s.useWide t.val 1 (bankOf a)).writeNarrow a bs
    | _ => s

/-! ### Credit (R103) -/

/-- CREDIT_GRANT_ARRIVAL at tile t: the balance of the counter rises, unless it would pass 0xFF_FFFF: an overflow faults
the tile for a frame thread's grant, while the tile runs frame threads, and is a local record for an asynchronous one
(R183, R498; DEDUCED, notes/assumptions/81.md: the granting thread's domain decides). -/
def State.grantArrive (s : State) (t : TileId) : State :=
  match s.arrival (fun b => match b with | .grant d _ _ => d == t.val | _ => false) with
  | none => s
  | some f =>
    let s := s.dropFlit f.age
    match f.body with
    | .grant _ k n =>
      if !s.pdOn (16 + t.val) then s
      else
        let a := rTile t.val (oCcBal k)
        let bal := fld (s.reg a) 0 24
        if 0xFFFFFF < bal + n then
          if f.frame && (s.tile t).frameRun then s.tileFault t 0 0x0B 0 0 0 else s.post 0x0B 0 0 t.val 0 0
        else
          (s.setReg a (BitVec.ofNat 32 (bal + n))).modTile t (fun x =>
            { x with
              creditNow := Sparse.set (fun _ => 0) x.creditNow k (Sparse.get (fun _ => 0) x.creditNow k + n) })
    | _ => s

/-! ### The commands -/

def execMeshAsyncForward (r : TileId) (out : Fin 6) (lane : MeshLane) (s : State) : Host.Outcome State Fault Refusal :=
  .next (s.meshForward r.val out.val lane)
def execRemoteWriteArrival (t : TileId) (s : State) : Host.Outcome State Fault Refusal := .next (s.remoteArrive t)
def execCreditGrantArrival (t : TileId) (s : State) : Host.Outcome State Fault Refusal := .next (s.grantArrive t)

end Sys2Proof.Machine
end

