-- ==== Sys2Proof/Machine/HostOps.lean ====
section
/-!
DEFINITION. Queues and the entries they hold (R358–R363).
-/

namespace Sys2Proof.Machine

/-! ### Queues and entries (R358–R363) -/

/-- Queue q. -/
def State.q (s : State) (q : Nat) : Queue := Sparse.get (fun _ => Queue.reset) s.host.queues q

/-- Queue q replaced. -/
def State.setQ (s : State) (q : Nat) (x : Queue) : State :=
  { s with host := { s.host with queues := Sparse.set (fun _ => Queue.reset) s.host.queues q x } }

/-- Queue q changed by a function. -/
def State.modQ (s : State) (q : Nat) (f : Queue → Queue) : State := s.setQ q (f (s.q q))

/-- Sizes of the rings of queue q (R359). -/
def State.sqSize (s : State) (q : Nat) : Nat := 2 ^ fld (s.reg (rQueue q 0x10)) 0 4
def State.cqSize (s : State) (q : Nat) : Nat := 2 ^ fld (s.reg (rQueue q 0x10)) 4 4

/-- QCTRL q.EN. -/
def State.qEn (s : State) (q : Nat) : Bool := bit (s.reg (rQueue q 0x14)) 0

/-- Entry of a queue with a serial. -/
def State.entry (s : State) (q serial : Nat) : Option Entry := (s.q q).held.find? (fun e => e.serial == serial)

/-- The entry of a queue with a serial changed by a function. -/
def State.modEntry (s : State) (q serial : Nat) (f : Entry → Entry) : State :=
  s.modQ q (fun x => { x with held := x.held.map (fun e => if e.serial = serial then f e else e) })

/-- The PLAN entry of an arming ends with a status, where it still stands in the steward entry ring (R367). -/
def State.endPlan (s : State) (o : Option (Nat × Nat)) (st detail : Nat) : State :=
  match o with
  | none => s
  | some (q, k) =>
    if s.host.sent.any (fun e => e.queue == q && e.serial == k && !e.stale) then
      let s := { s with host := { s.host with sent := s.host.sent.filter (fun e => !(e.queue == q && e.serial == k)) } }
      s.modEntry q k (fun x => { x with done := some (st, false, detail) })
    else s

/-- A free 64-bit value. -/
def State.fresh64 (s : State) : Nat × State :=
  let (a, s) := s.fresh
  let (b, s) := s.fresh
  (a.toNat + 2 ^ 32 * b.toNat, s)

/-- Bits [lo + n − 1 : lo] of an entry. -/
def Entry.fld (e : Entry) (lo n : Nat) : Nat := (e.raw.toNat / 2 ^ lo) % 2 ^ n

/-- Byte fields of an entry: OPCODE and TAG (R364). -/
def Entry.op (e : Entry) : Nat := e.fld 0 8
def Entry.tag (e : Entry) : Nat := e.fld 32 32

/-- Host address of plane p and pitch of its rows in a PICTURE entry (R364, R365). -/
def Entry.plane (e : Entry) (p : Nat) : Nat := e.fld (64 + 64 * p) 64
def Entry.pitch (e : Entry) (p : Nat) : Nat := e.fld (320 + 32 * p) 32

/-- The oldest arrived entry of queue q that is not yet taken, in the ck before this one (R299, R303). -/
def State.headPicture (s : State) (q : Nat) : Option Entry :=
  (s.q q).held.find? (fun e => e.op == 1 && !e.taken && e.done.isNone &&
    (match e.arrived with | some c => decide (c < s.ck) | none => false))

/-- Queue q accepts opcode op (R358). -/
def accepts (q op : Nat) : Bool :=
  op == 0 ||
  (if q = 0 then op == 2 || op == 4
   else if q = 1 then op == 2 || op == 3
   else if q = 131 then op == 2
   else op == 1)

/-- The first byte of a run that is not zero, counted from its place. -/
def firstNonzero (raw : BitVec 512) (lo hi : Nat) : Option Nat :=
  ((List.range (hi - lo)).map (fun i => lo + i)).find? (fun i => decide ((raw.toNat / 2 ^ (8 * i)) % 256 ≠ 0))

/-- Byte ranges reserved in an entry of an opcode (R364, R366–R368). -/
def reservedRuns (op : Nat) : List (Nat × Nat) :=
  match op with
  | 0 => [(1, 4), (8, 64)]
  | 1 => [(1, 4), (56, 64)]
  | 2 => [(1, 4), (17, 64)]
  | 3 => [(1, 4), (20, 24), (30, 64)]
  | _ => [(1, 4), (10, 16), (28, 32)]

/-- The first offending byte of an entry that fails the checks of R363, or none: reserved bytes, fields, and the host
addresses and pitches that the entry uses (a COPY's descriptor address where its space is host memory); `used` names the
planes that the plan's bands use (R365). -/
def badByteOf (used : Nat → Bool) (raw : BitVec 512) : Option Nat :=
  let op := raw.toNat % 256
  let at_ (lo n : Nat) : Nat := (raw.toNat / 2 ^ (8 * lo)) % 2 ^ (8 * n)
  if 4 < op then some 0
  else
    let res := (reservedRuns op).findSome? (fun r => firstNonzero raw r.1 r.2)
    let mis (l : List (Nat × Nat)) : Option Nat :=
      (l.find? (fun p => decide (at_ p.1 p.2 % 64 ≠ 0))).map (fun (p : Nat × Nat) => p.1)
    let val : Option Nat :=
      match op with
      | 1 => mis (((List.range 4).filter used).map (fun p => (8 + 8 * p, 8)) ++
          ((List.range 4).filter used).map (fun p => (40 + 4 * p, 4)))
      | 2 => if at_ 16 1 / 2 ≠ 0 then some 16 else (if at_ 16 1 % 2 = 1 then mis [(8, 8)] else none)
      | 3 => if at_ 28 1 / 16 ≠ 0 then some 28 else if 2 < at_ 29 1 then some 29 else if at_ 29 1 = 0 then mis [(8, 8)] else none
      | 4 => mis [(16, 8)]
      | _ => none
    match res, val with
    | some a, some b => some (min a b)
    | some a, none => some a
    | none, v => v

/-- The condition of an entry at its arrival (R363): STATUS and DETAIL of one that fails. -/
def arrivalFault (used : Nat → Bool) (q : Nat) (raw : BitVec 512) : Option (Nat × Nat) :=
  let op := raw.toNat % 256
  if 4 < op then some (1, 0)
  else if !accepts q op then some (2, 0)
  else (badByteOf used raw).map (fun b => (1, b))

/-- A fresh entry read from the ring. -/
def Entry.fresh (serial index : Nat) (raw : BitVec 512) : Entry :=
  { serial := serial, raw := raw, index := index, arrived := none, epoch := 0, taken := false, stream := 0xFF, frame := 0,
    moved := 0, skipped := 0, degraded := false, late := false, forced := false, subst := false, lastDone := false, ended := false,
    fence := none, done := none }

end Sys2Proof.Machine
end

