-- ==== Sys2Proof/Machine/Ladle.lean ====
section
/-!
DEFINITION. The Ladles (spec file 09): landing and write-out bands, notes and fences, completions of pictures, and the
copy engines.
-/

namespace Sys2Proof.Machine

/-! ### Places and access (R292–R295) -/

/-- Ladle l. -/
def State.lad (s : State) (l : Fin 16) : Ladle := s.ladle.ladles[l]

/-- Ladle l changed by a function. -/
def State.modLad (s : State) (l : Fin 16) (f : Ladle → Ladle) : State :=
  { s with ladle := { s.ladle with ladles := s.ladle.ladles.set l (f (s.lad l)) } }

/-- A Ladle number from a natural number. -/
def lid (n : Nat) : Fin 16 := Fin.ofNat 16 n

/-- Hops from Ladle l to a slice, and to a tile (R294). -/
def ladleHops (l n : Nat) : Nat := 2 + routerDist (ladleRouter l) (servingRouter 0 n)
def ladleHopsTile (l t : Nat) : Nat := 1 + routerDist (ladleRouter l) t

/-- A fault of Ladle l: its record, where it posts one, and the Ladle's Bell source (R321, R498). -/
def State.ladleFault (s : State) (l : Nat) (code level addr : Nat) : State :=
  (s.post code level 2 l (BitVec.ofNat 32 addr) 0).bell (144 + l)

/-- A Ladle slot violation (R321). -/
def State.ladleSlotFault (s : State) (l addr : Nat) : State := (s.ladleFault l 0x33 4 addr).variantLevel

/-- A frame-engine send in this ck is one that the plan reserves (R293, R333): its position is of its class, no other
send of this ck has taken its edge link, and records hold every link cycle of its way, the first in the next ck. -/
def State.ladleReserved (s : State) (l dst port : Nat) (cls : SlotClass) (body : Payload) (lane : MeshLane) : Bool :=
  let r := ladleRouter l
  let probe : Flit :=
    { body := body, lane := lane, cls := cls, src := r, dst := dst, port := port, frame := true, age := 0
      pos := .source 0, moved := 0, inp := ladlePort l, born := 0 }
  (cls == .any || posClass s.round == cls) &&
    probe.lanes.all (fun k => !s.mesh.sent.contains (r, ladlePort l, k)) &&
    s.pathReserved 16 probe r (s.sched + 1)

/-- A frame-engine flit sent into the mesh by Ladle l (R293). -/
def State.ladleSend (s : State) (l : Nat) (body : Payload) (lane : MeshLane) (cls : SlotClass) (dst port h : Nat) : State :=
  s.sendFrame body lane cls (ladleRouter l) dst port h (ladlePort l)

/-! ### Bands (R296, R297) -/

/-- The segment, row and part in the row of part k of a band. -/
def partPlace : List Seg → Nat → Option (Nat × Seg × Nat × Nat)
  | [], _ => none
  | g :: r, k =>
    if k < g.rows * g.perRow then some (0, g, k / g.perRow, k % g.perRow)
    else (partPlace r (k - g.rows * g.perRow)).map (fun (p : Nat × Seg × Nat × Nat) => (p.1 + 1, p.2))

/-- Device address of part k, with the handles of its segments (R297). -/
def partDevice (b : Band) (hs : List Quad) (k : Nat) : Option Nat :=
  (partPlace b.segs k).map (fun p =>
    let e := hs.getD p.1 0
    hStart e + (p.2.1.j0 + p.2.2.1) * hStride0 e + 64 * p.2.2.2)

/-- Host address of part k in an entry's planes (R297). -/
def partHost (b : Band) (e : Entry) (k : Nat) : Option Nat :=
  (partPlace b.segs k).map (fun p =>
    e.plane p.2.1.plane + (p.2.1.row0 + p.2.2.1) * e.pitch p.2.1.plane + 64 * p.2.2.2)

/-- Host reads of a landing band: whole parts of one row, at most 4096 bytes, within one 4 KiB page (R300). Parts are
joined to the request before them where this holds. -/
def bandReqs (b : Band) (e : Entry) : List (Nat × Nat) :=
  (List.range b.nparts).foldl
    (fun acc k =>
      match acc.getLast?, partPlace b.segs k, partHost b e k with
      | some (f, n), some p, some a =>
        let a0 := (partHost b e f).getD 0
        if p.2.2.2 ≠ 0 && n < 64 && a / 4096 = a0 / 4096 then acc.dropLast ++ [(f, n + 1)] else acc ++ [(k, 1)]
      | _, _, _ => acc ++ [(k, 1)]) []

/-- The queue that serves the pictures of a band (R299, R303). -/
def bandQueue (b : Band) : Nat := match b.kind with | 0 => 2 + b.stream | 1 => 66 + b.stream | _ => 130

/-- The place of a band's picture among those in service. -/
def bandKey (b : Band) : Nat := 64 * b.kind + b.stream

/-- The band runs in the present window (R296). -/
def State.bandNow (s : State) (l : Fin 16) (b : Band) : Bool :=
  s.planRuns && s.frameActs && s.pdOn 6 && b.cwin == (s.reg rLWindow).toNat % max 1 (s.lad l).cycle

/-- Schedule ck of a band's first slot or ISSUE, and of its last slot or first commit (R298, R320). -/
def Band.begin (b : Band) : Nat := if b.kind = 0 then b.issue else (b.slots.flatten).foldl min 0xFFFFFFFF
def Band.firstCommit (b : Band) : Nat := (b.commits.map (fun (c : Commit) => c.ck)).foldl min 0xFFFFFFFF
def Band.lastCommit (b : Band) : Nat := (b.commits.map (fun (c : Commit) => c.ck)).foldl max 0
def Band.finish (b : Band) : Nat := if b.kind = 0 then b.firstCommit else (b.slots.flatten).foldl max 0

/-- The entry that a picture takes at its FIRST band (R299, R303, R306). -/
def State.takeEntry (s : State) (b : Band) : State :=
  let q := bandQueue b
  let put (s : State) (v : Option (Nat × Nat)) : State :=
    { s with ladle := { s.ladle with current := Sparse.set (fun _ => none) s.ladle.current (bandKey b) v } }
  match s.headPicture q with
  | none => (put s none).satReg rNoentry
  | some e =>
    put (s.modEntry q e.serial (fun e =>
      { e with taken := true, stream := b.stream, frame := s.reg rFrame, forced := s.tick.frameForced
               fence := none })) (some (q, e.serial))

/-- The entry of the picture that a band belongs to. -/
def State.bandEntry (s : State) (b : Band) : Option (Nat × Nat) :=
  match Sparse.get (fun _ => none) s.ladle.current (bandKey b) with
  | some p => if (s.entry p.1 p.2).isSome then some p else none
  | none => none

/-- The Ladles' leave drawn in frame ck c (R320). -/
def State.ladleDrawAt (s : State) (c : Nat) : Nat :=
  (s.ladle.draws.filter (fun d => decide (c ≤ d.2))).foldl (fun n d => n + d.1) 0

/-- A band's leave: drawn when it moves more than 1 KiB; `none` where it would exceed the reservation (R320). -/
def State.bandLeave (s : State) (l : Nat) (b : Band) : State × Bool :=
  if 64 * b.nparts ≤ 1024 then (s, true)
  else
    let e := s.tickF + b.finish
    let w0 := s.leaveWindowAt s.sched
    let w1 := s.leaveWindowAt b.finish
    let len := match s.plan.run with | some p => p.budget / 16 | none => 0
    let past := ((List.range (w1 - w0 + 1)).map (fun i => w0 + i)).findSome? (fun w =>
      let tot := s.ladleDrawAt (max s.fck (s.tickF + w * len)) + 2
      if s.reservation 64 w < tot then some (w, tot) else none)
    match past with
    | none => ({ s with ladle := { s.ladle with draws := (2, e) :: s.ladle.draws } }, true)
    | some (w, tot) =>
      let s := s.satReg rOverdraw
      let s := s.setReg rOverdrawInfo (BitVec.ofNat 32 (64 + 2 ^ 8 * w + 2 ^ 12 * min tot 1023))
      ((s.ladleFault l 0x34 4 0).variantLevel, false)

/-- A band begins: its picture's entry at a FIRST band, its leave, its buffer. -/
def State.bandStart (s : State) (l : Fin 16) (b : Band) : State :=
  let s := if b.first then s.takeEntry b else s
  let (s, ok) := s.bandLeave l.val b
  let p := s.bandEntry b
  let e := p.bind (fun p => s.entry p.1 p.2)
  -- a write-out buffer of 256 KiB, held by earlier bands until their host writes have been issued (R304)
  let used := ((s.lad l).runs.filter (fun r => r.live && decide (r.band.kind ≠ 0))).foldl (fun n r => n + r.band.buf) 0
  let room := decide (b.kind = 0) || decide (used + b.buf ≤ 262144)
  let run : BandRun :=
    { id := s.ladle.nextId, band := b, entry := p, handles := none
      reqs := if b.kind = 0 && ok then (match e with | some e => bandReqs b e | none => []) else []
      parts := List.replicate b.nparts .empty, decided := none, refused := !ok || !room, live := ok && room }
  let s := { s with ladle := { s.ladle with nextId := s.ladle.nextId + 1 } }
  s.modLad l (fun x => { x with runs := x.runs ++ [run] })

/-- A run of Ladle l replaced. -/
def State.setRun (s : State) (l : Fin 16) (r : BandRun) : State :=
  s.modLad l (fun x => { x with runs := x.runs.map (fun y => if y.id = r.id then r else y) })

/-- A run of Ladle l removed. -/
def State.dropRun (s : State) (l : Fin 16) (id : Nat) : State :=
  s.modLad l (fun x => { x with runs := x.runs.filter (fun y => y.id ≠ id) })

/-- BAND_ISSUE: band b of Ladle l in its ISSUE ck (R299, R300, R320). -/
def State.bandIssue (s : State) (l : Fin 16) (b : Nat) : State :=
  match (s.lad l).bands[b]? with
  | none => s
  | some b =>
    if b.kind = 0 && s.bandNow l b && s.sched == b.issue &&
        !(s.lad l).runs.any (fun r => r.band == b && r.decided.isNone) then
      s.bandStart l b
    else s

/-! ### Host reads and writes (R300, R301, R305, R319, R349) -/

/-- Host writes of earlier bands are still to be issued: a DRAIN band's reads wait for them (R309). -/
def State.drainHeld (s : State) (l : Fin 16) (r : BandRun) : Bool :=
  r.band.drain && (s.lad l).runs.any (fun o => decide (o.id < r.id) && decide (o.band.kind ≠ 0) && o.live)

/-- The host read of a copy engine that waits to be issued. -/
def CopyRun.wantsHost (c : CopyRun) : Option (Nat × Nat) :=
  match c.read with
  | some (true, a, n) => if c.got.isEmpty && c.bad = 0 then some (a, n) else none
  | _ => none

/-- The next host read of run r, where INFLIGHT and the band's boundary admit it in this ck (R300, R309, R319): its queue,
its first part and parts, its address, and the requests behind it. -/
def State.nextBandRead (s : State) (l : Fin 16) (r : BandRun) : Option (Nat × Nat × Nat × Nat × List (Nat × Nat)) :=
  match r.reqs, r.entry with
  | (f, n) :: rest, some (q, k) =>
    match s.entry q k with
    | none => none
    | some e =>
      let a := (partHost r.band e f).getD 0
      if r.decided.isNone && s.mayRequest && s.withinLimit l q && !s.drainHeld l r then some (q, f, n, a, rest) else none
  | _, _ => none

/-- The next host read of an engine of Ladle l, tags apart: its address and bytes, and the state once it has been issued. A
band that is held does not hold the bands behind it, each of which issues its own reads in order (R300). -/
def State.nextRead (s : State) (l : Fin 16) (copy : Bool) : Option (Nat × Nat × (State → State)) :=
  if copy then
    match (s.lad l).copy with
    | some c =>
      match c.wantsHost with
      | some (a, n) =>
        if s.mayRequest && s.withinLimit l c.queue && !s.host.reads.any (fun r => r.who == .copy l.val) then
          some (a, n, fun s => s.hostRead (.copy l.val) c.queue a n)
        else none
      | none => none
    | none => none
  else
    ((s.lad l).runs.findSome? (fun r => (s.nextBandRead l r).map (fun p => (r, p)))).map
      (fun (x : BandRun × Nat × Nat × Nat × Nat × List (Nat × Nat)) =>
      (x.2.2.2.2.1, 64 * x.2.2.2.1, fun (s : State) =>
        (s.hostRead (.band l.val x.1.id x.2.2.1 x.2.2.2.1) x.2.1 x.2.2.2.2.1 (64 * x.2.2.2.1)).setRun l
          { x.1 with reqs := x.2.2.2.2.2 }))

/-- No read of another engine has waited longer for a tag (R381). -/
def State.tagTurn (s : State) (key : Nat × Bool) : Bool :=
  match s.host.tagWait.find? (fun k => k == key || (s.nextRead (lid k.1) k.2).isSome) with
  | some k => k == key
  | none => true

/-- HOST_READ_ISSUE: the next host read of Ladle l, of its frame engine or of its copy engine, where INFLIGHT and tags
admit it. A read that finds no free tag waits for one, behind those that have waited longer (R381). -/
def State.hostReadIssue (s : State) (l : Fin 16) (copy : Bool) : State :=
  if !s.pdOn 6 then s
  else
    match s.nextRead l copy with
    | none => s
    | some (a, n, go) =>
      let key := (l.val, copy)
      if s.tagsFor a n && s.tagTurn key then
        go { s with host := { s.host with tagWait := s.host.tagWait.filter (fun k => k != key) } }
      else if s.host.tagWait.contains key then s
      else { s with host := { s.host with tagWait := s.host.tagWait ++ [key] } }

/-- A late band's run, kept while host reads of it are outstanding, goes with the last of them. -/
def State.lateOver (s : State) (l : Fin 16) (x : BandRun) : State :=
  if x.band.lastCommit < s.sched && !s.host.reads.any (fun r => match r.who with
      | .band k i _ _ => k == l.val && i == x.id
      | .copy _ => false) then s.dropRun l x.id
  else s

/-- Data of a landing band reach the buffer: a part is held once its last byte is there (R301). Data of a late band are
discarded and counted (R302); those of a band that a plan swap has ended are discarded. A read in error is a host read
error whenever it ends (R321). -/
def State.landData (s : State) (l : Fin 16) (run first : Nat) (r : HostRead) (ok : Bool) (data : List Byte) : State :=
  let n := r.len / 64
  let s := if ok then s else (s.satReg rHostErr).ladleFault l.val 0x32 1 0
  match (s.lad l).runs.find? (fun x => x.id == run) with
  | none => s
  | some x =>
    if x.decided = some false then (if ok then s.satReg rDiscard n else s).lateOver l x
    else
      let base := match x.entry.bind (fun p => s.entry p.1 p.2) with
        | some e => (partHost x.band e first).getD r.addr
        | none => r.addr
      let k0 := first + (r.addr - base) / 64
      let parts := (List.range n).foldl
        (fun ps i => ps.set (k0 + i) (if ok then .held s.ck ((data.drop (64 * i)).take 64) else .never)) x.parts
      let s := s.setRun l { x with parts := parts }
      match x.entry with
      | some (q, k) => if ok then s.modEntry q k (fun e => { e with moved := e.moved + r.len }) else s
      | none => s

/-- WRITEOUT: the next part that is to go to the host, in part order (R305). -/
def BandRun.nextOut (r : BandRun) : Option (Nat × List Byte) :=
  match r.parts.zipIdx.find? (fun p => p.1 != .written && p.1 != .never) with
  | some (.held _ d, k) => some (k, d)
  | _ => none

/-- The run has no part left to write. -/
def BandRun.drained (r : BandRun) : Bool := r.parts.all (fun p => p == .written || p == .never)

/-! ### Fences and completions of pictures (R306–R308) -/

/-- Tiles that must answer a fence for stream st: those of SMASK that the active variant includes and that are powered,
outside a recovery (R307, R506). -/
def State.fenceTiles (s : State) (st : Nat) : List Nat :=
  (List.range 64).filter (fun t =>
    bit (s.reg (rSmask st (t / 32))) (t % 32) && s.pdOn (16 + t) && !bit (s.reg (rTout (t / 32))) (t % 32) &&
      (match s.plan.run with | some p => p.tmask.getLsbD t | none => false))

/-- A picture whose data conditions hold: its fence words leave the Ladle (R307). -/
def State.pictureOver (s : State) (l : Nat) (p : Nat × Nat) : State :=
  match s.entry p.1 p.2 with
  | none => s
  | some e =>
    let ts := s.fenceTiles e.stream
    let s := s.modEntry p.1 p.2 (fun e => { e with ended := true, fence := some ts })
    ts.foldl (fun s t => s.sendAsync (.fence t p.2) .request .any (ladleRouter l) t 0 0 (ladlePort l)) s

/-- A band of the picture of an entry is still in service, in any Ladle. -/
def State.bandsLeft (s : State) (p : Nat × Nat) : Bool :=
  s.ladle.ladles.toList.any (fun x => x.runs.any (fun r => r.entry == some p))

/-- A write-out run whose parts have all gone: its buffer is free, and the picture is over once its LAST band and every
band before it have issued their host writes (R308). -/
def State.runDrained (s : State) (l : Fin 16) (r : BandRun) : State :=
  if !r.drained then s.setRun l r
  else
    let s := s.dropRun l r.id
    match r.entry with
    | some p =>
      let s := if r.band.last then s.modEntry p.1 p.2 (fun e => { e with lastDone := true }) else s
      match s.entry p.1 p.2 with
      | some e => if e.lastDone && !s.bandsLeft p then s.pictureOver l.val p else s
      | none => s
    | none => s

/-- COMPLETION_POST: the oldest picture of queue q whose conditions hold gets its completion (R308, R371, R372). -/
def State.completionPost (s : State) (q : Nat) : State :=
  match (s.q q).held.find? (fun e => e.ended && e.done.isNone && e.fence == some []) with
  | none => s
  | some e =>
    let st := if e.skipped = 0 then (0, false, e.moved % 2 ^ 32) else (6, true, e.skipped % 2 ^ 32)
    s.modEntry q e.serial (fun e => { e with done := some st })

/-- Pictures of stream st marked by a note with parity bit `odd` (R306). -/
def State.markStream (s : State) (st : Nat) (odd late : Bool) : State :=
  let f := s.reg rFrame
  let f := if bit f 0 = odd then f else f - 1
  [2 + st, 66 + st, 130].foldl (fun s q =>
    s.modQ q (fun x => { x with
      held := x.held.map (fun e =>
        if e.op = 1 && e.taken && e.stream = st && e.frame = f then
          { e with degraded := true, late := e.late || late }
        else e) })) s

/-- DEGRADE_NOTE: a note reaches the note port and is mapped by DMAP (R306). -/
def State.degradeArrive (s : State) : State :=
  match s.arrival (fun b => match b with | .degradeNote .. => true | _ => false) with
  | none => s
  | some f =>
    let s := s.dropFlit f.age
    match f.body with
    | .degradeNote t h odd =>
      if !s.pdOn 6 then s
      else
        let m := fld (s.reg (rDmap t (h / 4))) (8 * (h % 4)) 8
        if m / 128 = 1 then s.markStream (m % 64) odd false else s.satReg rNoteUnmapped
    | _ => s

/-- LATE_NOTE: a late note reaches the note port (R257, R306). -/
def State.lateArrive (s : State) : State :=
  match s.arrival (fun b => match b with | .lateNote .. => true | _ => false) with
  | none => s
  | some f =>
    let s := s.dropFlit f.age
    match f.body with
    | .lateNote st odd => if s.pdOn 6 then s.markStream st odd true else s
    | _ => s

/-- A note of tile t has not yet left its source. -/
def State.noteWaits (s : State) (t : Nat) : Bool :=
  s.mesh.flits.any (fun f => f.src = t && f.inp = 0 &&
    (match f.body with | .degradeNote .. => true | .lateNote .. => true | _ => false) &&
    (match f.pos with | .source _ => true | _ => false))

/-- FENCE_WORD: a fence word reaches tile t, which answers after every note it issued before (R307). -/
def State.fenceArrive (s : State) (t : TileId) : State :=
  match s.arrival (fun b => match b with | .fence t' _ => t' == t.val | _ => false) with
  | none => s
  | some f =>
    match f.body with
    | .fence _ k =>
      if s.noteWaits t.val then s
      else (s.dropFlit f.age).sendAsync (.fenceAck t.val k) .request .any t.val notePortRouter 5
    | _ => s

/-- FENCE_ACK: an acknowledgement reaches the note port (R307). -/
def State.fenceAcked (s : State) : State :=
  match s.arrival (fun b => match b with | .fenceAck .. => true | _ => false) with
  | none => s
  | some f =>
    let s := s.dropFlit f.age
    match f.body with
    | .fenceAck t k =>
      (List.range 132).foldl (fun s q =>
        s.modEntry q k (fun e => { e with fence := e.fence.map (fun l => l.filter (fun u => u ≠ t)) })) s
    | _ => s

/-! ### Landing and commit (R301, R302) -/

/-- Handles of a band's segments, resolved at its first slot (R94, R297). -/
def State.bandHandles (s : State) (r : BandRun) : List Quad :=
  match r.handles with
  | some h => h
  | none => r.band.segs.map (fun g => s.vhandle g.vh)

/-- Part k of a band fails the checks of R92 through its segment's handle, row by row. -/
def State.partFault (s : State) (b : Band) (hs : List Quad) (k : Nat) (rd : Bool) : Bool :=
  match partDevice b hs k, partPlace b.segs k with
  | some a, some p =>
    (s.handleFault none (hs.getD p.1 0) rd (!rd) (fun _ => true) a 64 0 (p.2.1.j0 + p.2.2.1)).isSome
  | _, _ => false

/-- The handles of a run of Ladle l resolved at its first slot; each that fails a check for some part raises one handle
fault, a local record of the Ladle, and its parts are not moved (R92, R297; DEDUCED for the record's form,
notes/assumptions/82.md). -/
def State.resolveBand (s : State) (l : Nat) (r : BandRun) (rd : Bool) : State :=
  if r.handles.isSome then s
  else
    let hs := s.bandHandles r
    let bad := ((List.range r.band.nparts).filter (fun k => s.partFault r.band hs k rd)).filterMap (fun k =>
      (partPlace r.band.segs k).map (fun p => p.2.1.vh))
    bad.eraseDups.foldl (fun s h => s.ladleFault l 0x04 0 h) s

/-- LANDING_WRITE_SLOT: the part of this ck's write slot is written when it became available earlier (R301). -/
def State.landingSlot (s : State) (l : Fin 16) : State :=
  match (s.lad l).runs.find? (fun r => r.band.kind = 0 && r.decided.isNone && (s.slotPart r.band).isSome) with
  | none => s
  | some r =>
    if !s.frameActs || !s.pdOn 6 then s
    else
      let hs := s.bandHandles r
      let s := s.resolveBand l.val r false
      let r := { r with handles := some hs }
      let k := (s.slotPart r.band).getD 0
      match r.parts[k]?, partDevice r.band hs k with
      | some (Part.held c d), some a =>
        if s.ck ≤ c then s.setRun l r
        else if s.partFault r.band hs k false then s.setRun l r
        else
          let n := memOf a - 64
          let body : Payload := .vatWrite n a d (.ladleWrite l.val) 1
          if !s.ladleReserved l.val (servingRouter 0 n) 5 .write body .data then (s.setRun l r).ladleSlotFault l.val a
          else
            let s := s.setRun l { r with parts := r.parts.set k .written }
            s.ladleSend l.val body .data .write (servingRouter 0 n) 5 (ladleHops l.val n)
      | _, _ => s.setRun l r

/-- A commit signal of Ladle l (R302). -/
def State.commitSend (s : State) (l : Nat) (c : Commit) : State :=
  let o : SyncOp :=
    { obj := 2048 + 32 * c.tile + c.obj, arm := false, value := BitVec.ofNat 32 c.value, src := .ladle, frame := true
      unit := l, thread := 0, kind := 3, ack := false }
  if !s.ladleReserved l c.tile 0 .remote (.sync o) .data then s.ladleSlotFault l 0
  else s.ladleSend l (.sync o) .data .remote c.tile 0 (ladleHopsTile l c.tile)

/-- One run of Ladle l in a commit ck (R302). The run of a late band stays while host data of it are still to come. -/
def State.commitRun (s : State) (l : Fin 16) (r : BandRun) : State :=
  if !r.band.commits.any (fun c => c.ck == s.sched) then s
  else
    let ok := match r.decided with
      | some b => b
      | none => r.entry.isSome && !r.refused && r.parts.all (fun p => p == .written)
    let done := { r with decided := some ok, reqs := [], live := false }
    let s := s.setRun l done
    let s := if ok then
        (r.band.commits.filter (fun c => c.ck == s.sched)).foldl (fun s c => s.commitSend l.val c) s
      else s
    let s := if r.decided.isNone && r.band.last then
        (match r.entry with | some p => s.pictureOver l.val p | none => s)
      else s
    let waits := s.host.reads.any (fun h => match h.who with
      | .band k i _ _ => k == l.val && i == r.id
      | .copy _ => false)
    if r.band.lastCommit ≤ s.sched && !waits then s.dropRun l r.id else s

/-- BAND_COMMIT: the bands of Ladle l with a commit entry in this ck. -/
def State.bandCommit (s : State) (l : Fin 16) : State :=
  if !s.frameActs || !s.pdOn 6 then s else (s.lad l).runs.foldl (fun s r => s.commitRun l r) s

/-! ### Write-out (R303–R305) -/

/-- The run of a write-out band with a slot in this ck, begun at its first slot. -/
def State.writeoutRun (s : State) (l : Fin 16) : State × Option BandRun :=
  match (s.lad l).bands.find? (fun b => b.kind ≠ 0 && s.bandNow l b && (s.slotPart b).isSome) with
  | none => (s, none)
  | some b =>
    let s := if b.begin = s.sched then s.bandStart l b else s
    (s, ((s.lad l).runs.filter (fun r => r.band == b)).getLast?)

/-- A part whose read is not issued (R304). -/
def State.skipPart (s : State) (l : Fin 16) (r : BandRun) (k : Nat) : State :=
  let s := s.satReg rWoSkip
  let s := if r.parts.any (fun p => p == .never) then s else s.ladleFault l.val 0x35 0 0
  let s := match r.entry with
    | some (q, e) => s.modEntry q e (fun e => { e with skipped := e.skipped + 1 })
    | none => s
  s.runDrained l { r with parts := r.parts.set k .never }

/-- WRITEOUT_READ_SLOT: the Vat read of this ck's part is issued, or skipped (R304). -/
def State.writeoutSlot (s : State) (l : Fin 16) : State :=
  match s.writeoutRun l with
  | (s, none) => s
  | (s, some r) =>
    let k := (s.slotPart r.band).getD 0
    if r.refused then s.skipPart l r k
    else
      let hs := s.bandHandles r
      let s := s.resolveBand l.val r true
      let r := { r with handles := some hs }
      match partDevice r.band hs k with
      | some a =>
        if s.partFault r.band hs k true then s.skipPart l r k
        else
          let n := memOf a - 64
          let body : Payload := .vatRead n a 64 (.ladleRead l.val r.id k) (ladleRouter l.val) true
          if !s.ladleReserved l.val (servingRouter 0 n) 5 .any body .request then
            (s.ladleSlotFault l.val a).runDrained l { r with parts := r.parts.set k .never }
          else (s.setRun l r).ladleSend l.val body .request .any (servingRouter 0 n) 5 (ladleHops l.val n)
      | none => s.setRun l r

/-- The write-out data of one part reach the Ladle: elements of an uncorrectable word are replaced by LADLE.SUBST of
the handle's format, and the picture is degraded (R305, R306). Data of a picture without an entry are discarded. -/
def State.writeoutData (s : State) (l : Fin 16) (run k a : Nat) (bs : List Byte) (bad : List Bool) : State :=
  match (s.lad l).runs.find? (fun r => r.id == run) with
  | none => s
  | some r =>
    match r.entry with
    | none => s.runDrained l { r with parts := r.parts.set k .written }
    | some (q, ser) =>
      let e := match partPlace r.band.segs k with
        | some p => (r.handles.getD []).getD p.1 0
        | none => 0
      let l0 := (bs.zip bad).map (fun p => (p.1, p.2))
      let fixed := (substStore (s.reg (rLSubst (hFmt e))) e a l0).1
      let s := if bad.any id then s.modEntry q ser (fun e => { e with degraded := true }) else s
      s.setRun l { r with parts := r.parts.set k (.held s.ck fixed) }

/-- The entry's host writes are discarded: its substitution latch is set (R502). -/
def State.substituted (s : State) (e : Entry) : Bool := e.subst || bit (s.reg (rSsub (e.stream / 32))) (e.stream % 32)

/-- HOST_WRITE_ISSUE of the frame engine: the next part in order is accepted within INFLIGHT (R319) and passed to the host
link at once (R305). -/
def State.bandWrite (s : State) (l : Fin 16) : State :=
  match (s.lad l).runs.find? (fun r => r.band.kind ≠ 0 && r.nextOut.isSome) with
  | none => s
  | some r =>
    match r.nextOut, r.entry with
    | some (k, d), some (q, ser) =>
      let done := { r with parts := r.parts.set k .written }
      match s.entry q ser with
      | none => s.runDrained l done
      | some e =>
        if s.substituted e then s.runDrained l done
        else if !s.mayRequest || !s.withinLimit l q then s
        else
          let s := s.hostWrite ((partHost r.band e k).getD 0) d
          (s.modEntry q ser (fun e => { e with moved := e.moved + 64 })).runDrained l done
    | some (k, _), none => s.runDrained l { r with parts := r.parts.set k .written }
    | none, _ => s

end Sys2Proof.Machine
end

