-- ==== Sys2Proof/Machine/Copy.lean ====
section
/-!
DEFINITION. The copy engines of the Ladles (R310–R320) and the commands of the Ladles.
-/

namespace Sys2Proof.Machine

/-! ### Descriptors (R312–R316) -/

/-- n bytes of a descriptor from byte lo, little-endian. -/
def dsc (raw : List Byte) (lo n : Nat) : Nat := natOfBytes ((raw.drop lo).take n)

/-- The header holds no reserved value (R312). -/
def headerOk (raw : List Byte) : Bool :=
  (dsc raw 0 1 == 1 || (dsc raw 0 1 == 2 && dsc raw 1 1 == 0)) && decide (dsc raw 1 1 < 64) &&
    decide (dsc raw 2 1 < 0x12) && decide (dsc raw 3 1 < 8) && decide (dsc raw 4 2 < 4096) && dsc raw 6 2 == 0 &&
    dsc raw 12 4 == 0

/-- Bytes of a descriptor after its header. -/
def bodyLen (raw : List Byte) : Nat := if dsc raw 0 1 = 1 then 32 * (dsc raw 1 1 + 1) else 48

/-- Block b of a block list: byte offset of its entry. -/
def blkAt (b : Nat) : Nat := 16 + 32 * b

/-- A block entry holds no reserved value, is aligned, and has a side that is not host memory (R313, R316). -/
def blockOk (raw : List Byte) (b : Nat) : Bool :=
  let o := blkAt b
  let len := dsc raw (o + 16) 4
  let sfl := dsc raw (o + 20) 1
  let dfl := dsc raw (o + 21) 1
  let side (fl a : Nat) : Bool := decide (fl < 3) && a % 64 == 0 && (fl == 1 || decide (a < 2 ^ 32))
  decide (64 ≤ len) && decide (len ≤ 0x1000000) && len % 64 == 0 && side sfl (dsc raw o 8) && side dfl (dsc raw (o + 8) 8) &&
    !(sfl == 1 && dfl == 1) && dsc raw (o + 22) 2 == 0 && decide (dsc raw (o + 24) 2 < 1024) &&
    decide (dsc raw (o + 26) 2 < 1024) && dsc raw (o + 28) 4 == 0

/-- The fields of an index stream (R314, R316). -/
def indexOk (raw : List Byte) : Bool :=
  let ifl := dsc raw 24 1
  let side (host : Bool) (a : Nat) : Bool := a % 64 == 0 && (host || decide (a < 2 ^ 32))
  decide (ifl < 16) && dsc raw 25 3 == 0 && decide (dsc raw 28 4 < 65536) &&
    side (decide (ifl % 2 = 1)) (dsc raw 16 8) && side (decide (ifl / 4 % 2 = 1)) (dsc raw 32 8) &&
    side (decide (ifl / 8 % 2 = 1)) (dsc raw 48 8) && dsc raw 40 4 % 64 == 0 && dsc raw 56 4 % 64 == 0 &&
    decide (64 ≤ dsc raw 60 4) && decide (dsc raw 60 4 ≤ 65536) && dsc raw 60 4 % 64 == 0 &&
    !(decide (ifl / 4 % 2 = 1) && decide (ifl / 8 % 2 = 1))

/-- Bytes that a descriptor moves (R320). -/
def copyTotal (raw : List Byte) : Nat :=
  if dsc raw 0 1 = 1 then
    (List.range (dsc raw 1 1 + 1)).foldl (fun n b => n + dsc raw (blkAt b + 16) 4) 0
  else (dsc raw 28 4 + 1) * dsc raw 60 4

/-! ### Transfers -/

/-- The copy run of Ladle l replaced. -/
def State.setCopy (s : State) (l : Fin 16) (c : CopyRun) : State := s.modLad l (fun x => { x with copy := some c })

/-- A device side that a copy job reaches: Pail or Vat, with its domain on (R68, R69). -/
def State.copyThere (s : State) (a n : Nat) : Bool :=
  !isSram a && s.memThere a && !isSram (a + n - 1) && s.memThere (a + n - 1)

/-- A read begun: a device side goes to the narrow ports at once, a host side waits for HOST_READ_ISSUE. -/
def State.copyRead (s : State) (l : Fin 16) (c : CopyRun) (host : Bool) (a n : Nat) : State :=
  let s := s.setCopy l { c with read := some (host, a, n), got := [], bad := 0 }
  if host then s
  else s.narrowRead (ladleRouter l.val) a n (.copyRead l.val c.id) (ladlePort l.val)

/-- A write begun: device pieces to the narrow ports, a host write to wait for HOST_WRITE_ISSUE. -/
def State.copyWrite (s : State) (l : Fin 16) (c : CopyRun) (host : Bool) (a : Nat) (bs : List Byte) : State :=
  if host then s.setCopy l { c with read := none, hostOut := some (a, bs) }
  else
    (s.setCopy l { c with read := none, writes := (pieces a bs.length).length }).narrowWrite (ladleRouter l.val) a bs
      (.copyWrite l.val c.id) (ladlePort l.val)

/-- The descriptor ends with a status; a descriptor fault or a host error is counted and recorded (R321). -/
def State.copyEnd (s : State) (l : Fin 16) (c : CopyRun) (status block : Nat) : State :=
  let s := s.setCopy l { c with stage := .ended status block, read := none, request := none
                                grant := c.grant.map (fun g => { g with ended := true }) }
  if status = 3 || status = 5 then
    let s := s.satReg rDescFaults
    if status = 3 then s.ladleFault l.val 0x30 0 c.desc else s
  else s

/-- Space and address of a block's side at an offset, resolved through its handle where the entry says so. -/
def blockSide (c : CopyRun) (b off : Nat) (dst : Bool) : Bool × Nat :=
  let o := blkAt b
  let fl := dsc c.raw (o + (if dst then 21 else 20)) 1
  let a := dsc c.raw (o + (if dst then 8 else 0)) 8 + off
  (fl == 1, if fl / 2 = 1 then hStart (if dst then c.dst else c.src) + a else a)

/-- The handle checks of a block's sides (R316, R92). -/
def State.blockHandles (s : State) (c : CopyRun) (b : Nat) : Bool :=
  let o := blkAt b
  let len := dsc c.raw (o + 16) 4
  let ok (fl : Nat) (e : Quad) (a : Nat) (rd : Bool) : Bool :=
    fl / 2 ≠ 1 || (s.handleFault none e rd (!rd) (fun _ => true) (hStart e + a) len).isNone
  ok (dsc c.raw (o + 20) 1) c.src (dsc c.raw o 8) true && ok (dsc c.raw (o + 21) 1) c.dst (dsc c.raw (o + 8) 8) false

/-- The part of block b at an offset, read next. -/
def State.copyBlock (s : State) (l : Fin 16) (c : CopyRun) (b off : Nat) : State :=
  if dsc c.raw 1 1 < b then s.copyEnd l c 0 0
  else if !blockOk c.raw b then s.copyEnd l c 3 b
  else
    let o := blkAt b
    let c := if off = 0 then { c with src := s.vhandle (dsc c.raw (o + 24) 2), dst := s.vhandle (dsc c.raw (o + 26) 2) } else c
    if !s.blockHandles c b then s.copyEnd l c 3 b
    else
      let (host, a) := blockSide c b off false
      if !host && !s.copyThere a 64 then s.copyEnd l c 3 b
      else s.copyRead l { c with stage := .block b off } host a 64

/-- The part of row k at an offset below ROWLEN written next. -/
def State.copyRowPart (s : State) (l : Fin 16) (c : CopyRun) (k off : Nat) : State :=
  let host := decide (dsc c.raw 24 1 / 8 % 2 = 1)
  let a := dsc c.raw 48 8 + k * dsc c.raw 56 4 + off
  if !host && !s.copyThere a 64 then s.copyEnd l c 3 0
  else s.copyWrite l { c with stage := .writeRow k off } host a ((c.rowBuf.drop off).take 64)

/-- An index fault at k (R315, R321): under POL = 1 the descriptor ends, otherwise the row is written with LADLE.SUBST of
FMT. Every index fault counts in DESC_FAULTS and posts its record; FAULT_IDX takes the first. -/
def State.copyIndexFault (s : State) (l : Fin 16) (c : CopyRun) (k : Nat) : State :=
  let s := if c.faultIdx.isNone then s.setReg (rFaultIdx l.val) (BitVec.ofNat 32 k) else s
  let s := (s.satReg rDescFaults).ladleFault l.val 0x31 0 k
  let c := { c with faultIdx := some (c.faultIdx.getD k) }
  if dsc c.raw 3 1 / 2 % 2 = 1 then s.copyEnd l c 4 0
  else
    let fmt := dsc c.raw 2 1
    let e : Quad := BitVec.ofNat 128 (fmt * 256)
    let row := (List.range (dsc c.raw 60 4)).map (fun i => patternByte (s.reg (rLSubst fmt)) e i)
    s.copyRowPart l { c with rowBuf := row } k 0

/-- Index k of an index stream, read next; a word that cannot be read is an index fault (R315). -/
def State.copyIndex (s : State) (l : Fin 16) (c : CopyRun) (k : Nat) : State :=
  if dsc c.raw 28 4 < k then s.copyEnd l c 0 0
  else
    let ifl := dsc c.raw 24 1
    let w := if ifl / 2 % 2 = 1 then 2 else 4
    let a := dsc c.raw 16 8 + w * k
    let c := { c with stage := .index k, rowBuf := [] }
    if ifl % 2 = 0 && !s.copyThere a w then s.copyIndexFault l c k
    else s.copyRead l c (decide (ifl % 2 = 1)) a w

/-- A part of row k written next, or the next index. -/
def State.copyRowOut (s : State) (l : Fin 16) (c : CopyRun) (k off : Nat) : State :=
  if dsc c.raw 60 4 ≤ off then s.copyIndex l c (k + 1) else s.copyRowPart l c k off

/-- A part of the source row read next. -/
def State.copyRow (s : State) (l : Fin 16) (c : CopyRun) (k off : Nat) : State :=
  let host := decide (dsc c.raw 24 1 / 4 % 2 = 1)
  let a := dsc c.raw 32 8 + c.idx * dsc c.raw 40 4 + off
  if !host && !s.copyThere a 64 then s.copyIndexFault l c k
  else s.copyRead l { c with stage := .row k off } host a 64

/-- Descriptors of source q that copy engines have in service. -/
def State.inService (s : State) (q : Nat) : Nat :=
  (s.ladle.ladles.toList.filter (fun x => match x.copy with | some c => c.queue == q | none => false)).length

/-- An earlier descriptor of the run's source is in service, in another Ladle. -/
def State.copyBehind (s : State) (c : CopyRun) : Bool :=
  s.ladle.ladles.toList.any (fun x => match x.copy with
    | some d => d.queue == c.queue && decide (d.id < c.id)
    | none => false)

/-- A descriptor that turns out to carry FLAGS.DRAIN while an earlier one is in service is not granted (R310): the engine
is free again, and the descriptor waits for those before it (DEDUCED, notes/assumptions/83.md). -/
def State.copyGiveBack (s : State) (l : Fin 16) (c : CopyRun) : State :=
  let s := s.modLad l (fun x => { x with copy := none })
  let s := { s with ladle := { s.ladle with drains := c.queue :: s.ladle.drains } }
  if c.queue < 132 then s.modEntry c.queue c.serial (fun e => { e with taken := false }) else s

/-- The transfers begin (R320). -/
def State.copyBegin (s : State) (l : Fin 16) (c : CopyRun) : State :=
  if dsc c.raw 0 1 = 1 then s.copyBlock l c 0 0 else s.copyIndex l c 0

/-- A read has ended: what follows from the bytes read. `bad` is 1 for an uncorrectable word, 2 for a host error. -/
def State.copyGot (s : State) (l : Fin 16) (c : CopyRun) : State :=
  let data := c.got.map (fun (p : Nat × Byte) => p.2)
  let host := match c.read with | some (h, _, _) => h | none => false
  let s := if c.bad = 2 then (s.satReg rHostErr).ladleFault l.val 0x32 0 c.desc else s
  let c := { c with read := none, moved := if host && c.bad = 0 && c.raw.length > 16 then c.moved + data.length else c.moved }
  match c.stage with
  | .header =>
    if c.bad ≠ 0 then s.copyEnd l c (if c.bad = 2 then 5 else 3) 0
    else if !headerOk data then s.copyEnd l c 3 0
    else if dsc data 3 1 % 2 = 1 && s.copyBehind c then s.copyGiveBack l c
    else
      let n := bodyLen data
      let c := { c with raw := data, stage := .body }
      if !c.descHost && !s.copyThere (c.desc + 16) n then s.copyEnd l c 3 0
      else s.copyRead l c c.descHost (c.desc + 16) n
  | .body =>
    if c.bad ≠ 0 then s.copyEnd l c (if c.bad = 2 then 5 else 3) 0
    else
      let c := { c with raw := c.raw ++ data }
      if dsc c.raw 0 1 = 2 && !indexOk c.raw then s.copyEnd l c 3 0
      else if 1024 < copyTotal c.raw then
        s.setCopy l { c with stage := .leave, request := some { size := 2, stamp := c.granted, move := false } }
      else s.copyBegin l c
  | .block b off =>
    if c.bad ≠ 0 then s.copyEnd l c (if c.bad = 2 then 5 else 3) b
    else
      let (h, a) := blockSide c b off true
      if !h && !s.copyThere a 64 then s.copyEnd l c 3 b
      else s.copyWrite l { c with stage := .writeBlock b off } h a data
  | .index k =>
    let x := natOfBytes data
    if c.bad ≠ 0 || decide (dsc c.raw 44 4 ≤ x) then s.copyIndexFault l c k else s.copyRow l { c with idx := x } k 0
  | .row k off =>
    if c.bad ≠ 0 then s.copyIndexFault l c k
    else
      let c := { c with rowBuf := c.rowBuf ++ data }
      if off + 64 < dsc c.raw 60 4 then s.copyRow l c k (off + 64) else s.copyRowOut l c k 0
  | _ => s

/-- A write has ended. -/
def State.copyWrote (s : State) (l : Fin 16) (c : CopyRun) : State :=
  match c.stage with
  | .writeBlock b off =>
    if off + 64 < dsc c.raw (blkAt b + 16) 4 then s.copyBlock l c b (off + 64) else s.copyBlock l c (b + 1) 0
  | .writeRow k off => s.copyRowOut l c k (off + 64)
  | _ => s

/-- Bytes of a read arrive, in any order of pieces. -/
def State.copyData (s : State) (l : Fin 16) (a : Nat) (bs : List Byte) (bad : Nat) : State :=
  match (s.lad l).copy with
  | none => s
  | some c =>
    match c.read with
    | none => s
    | some (_, _, n) =>
      let got := bs.zipIdx.foldl (fun m p => Sparse.insert m (a + p.2) p.1) c.got
      let c := { c with got := got, bad := if c.bad = 0 then bad else c.bad }
      if n ≤ got.length then s.copyGot l c else s.setCopy l c

/-- One piece of a device write has been performed. -/
def State.copyWriteDone (s : State) (l : Fin 16) : State :=
  match (s.lad l).copy with
  | none => s
  | some c => if c.writes = 1 then s.copyWrote l { c with writes := 0 } else s.setCopy l { c with writes := c.writes - 1 }

/-- The copy run of Ladle l bears a name. -/
def State.copyIs (s : State) (l : Fin 16) (id : Nat) : Bool :=
  match (s.lad l).copy with | some c => c.id == id | none => false

/-! ### Arbitration (R317, R318) -/

/-- The oldest COPY entry of queue q that has not been granted. -/
def State.headCopy (s : State) (q : Nat) : Option Entry :=
  (s.q q).held.find? (fun e => e.op == 2 && e.arrived.isSome && e.done.isNone && !e.taken)

/-- Place of the entry of ring k that is `i` behind its HEAD. -/
def State.ringPlace (s : State) (k i : Nat) : Nat :=
  let h := fld (s.reg (rSringHead k)) 0 8
  if i = 0 then h else (h + i) % (fld (s.reg (rSringCfg k)) 0 8 + 1)

/-- Steward ring k has an entry waiting behind those in service (R311). -/
def State.ringWaits (s : State) (k : Nat) : Bool :=
  (List.range (s.inService (132 + k) + 1)).all (fun i => s.ringPlace k i != fld (s.reg (rSringTail k)) 0 8)

/-- The ring of a steward that halts, or is halted, with SCTRL.DRAIN set is served no further (R597). -/
def State.ringHeld (s : State) (k : Nat) : Bool :=
  let z := s.stew[Fin.ofNat 4 k]
  (z.halted || z.haltReq) && bit (s.reg (rSctrl k)) 3

/-- Source q (a queue, or ring 132 + k) has a descriptor waiting that may be granted: while an earlier one is in service,
one that has not shown FLAGS.DRAIN (R310). -/
def State.copyWaits (s : State) (q : Nat) : Bool :=
  (s.inService q == 0 || !s.ladle.drains.contains q) &&
    (if q < 132 then (s.headCopy q).isSome else s.ringWaits (q - 132) && !s.ringHeld (q - 132))

/-- The copy sources, in the order of R317's last tie. -/
def copySources : List Nat := [0, 1, 131, 132, 133, 134, 135]

/-- Ladle and priority of a source (R317); a write takes effect in the ck after it reaches the block (R318). -/
def State.sourceCfg (s : State) (q : Nat) : Nat × Nat :=
  if q < 132 then (fld (s.regBefore (rQcfg q)) 0 4, fld (s.regBefore (rQcfg q)) 4 3)
  else (fld (s.regBefore (rSringCfg (q - 132))) 8 4, fld (s.regBefore (rSringCfg (q - 132))) 12 3)

/-- One more than the ck from which the head of a source has been eligible; 0 while none waits. -/
def State.eligibleAt (s : State) (q : Nat) : Nat := Sparse.get (fun _ => 0) s.ladle.eligible q

/-- The sources whose head has become eligible in this ck are noted (R317), at its end: a descriptor is the head once those
before it have completed (DEDUCED, notes/assumptions/83.md). -/
def State.noteEligible (s : State) : State :=
  copySources.foldl (fun s q =>
    let v := if !s.copyWaits q || s.inService q ≠ 0 then 0 else if s.eligibleAt q = 0 then s.ck + 1 else s.eligibleAt q
    { s with ladle := { s.ladle with eligible := Sparse.set (fun _ => 0) s.ladle.eligible q v } }) s

/-- Effective priority of a source, and the ck from which it has waited (R317). -/
def State.effPrio (s : State) (q : Nat) : Nat × Nat :=
  let since := if s.eligibleAt q = 0 then s.ck else s.eligibleAt q - 1
  (min 7 ((s.sourceCfg q).2 + (s.ck - since) / max 1 (fld (s.reg rLAgeStep) 0 16)), since)

/-- Source q goes before source r. -/
def State.copyBefore (s : State) (q r : Nat) : Bool :=
  let a := s.effPrio q
  let b := s.effPrio r
  decide (b.1 < a.1) || (a.1 == b.1 && (decide (a.2 < b.2) || (a.2 == b.2 && decide (q ≤ r))))

/-- The source that Ladle l serves next. -/
def State.copyNext (s : State) (l : Nat) : Option Nat :=
  (copySources.filter (fun q => s.copyWaits q && (s.sourceCfg q).1 == l)).foldl
    (fun best q => match best with
      | none => some q
      | some r => if s.copyBefore q r then some q else some r) none

/-- COPY_GRANT: a free copy engine takes the waiting descriptor of highest effective priority (R317). -/
def State.copyGrant (s : State) (l : Fin 16) : State :=
  if !s.pdOn 6 || s.early || (s.lad l).copy.isSome then s
  else
    match s.copyNext l.val with
    | none => s
    | some q =>
      let n := s.inService q
      let s := { s with ladle := { s.ladle with
        eligible := Sparse.set (fun _ => 0) s.ladle.eligible q 0
        drains := if n = 0 then s.ladle.drains.filter (fun d => d ≠ q) else s.ladle.drains } }
      let (serial, desc, host) :=
        match s.headCopy q with
        | some e => if q < 132 then (e.serial, e.fld 64 64, decide (e.fld 128 1 = 1)) else (0, 0, false)
        | none => (0, 0, false)
      let place := s.ringPlace (q - 132) n
      let desc := if q < 132 then desc
        else natOfBytes (s.mem.bytes ((s.reg (rSringBase (q - 132))).toNat + 16 * place) 4)
      let s := if q < 132 then s.modEntry q serial (fun e => { e with taken := true }) else s
      let c : CopyRun :=
        { id := s.ladle.nextId, queue := q, serial := if q < 132 then serial else place, desc := desc, descHost := host
          raw := [], stage := .header, read := none, got := [], bad := 0, writes := 0, hostOut := none, src := 0, dst := 0
          idx := 0, rowBuf := [], faultIdx := none, moved := 0, request := none, grant := none, granted := s.ck }
      let s := ({ s with ladle := { s.ladle with nextId := s.ladle.nextId + 1 } }).setReg (rLstat l.val) 0xFF00
      if desc % 64 ≠ 0 || (!host && !s.copyThere desc 16) then s.copyEnd l c 3 0
      else s.copyRead l c host desc 16

/-- A descriptor waiting for its leave begins in the ck after the grant (R320). -/
def State.copyLeft (s : State) (l : Fin 16) : State :=
  match (s.lad l).copy with
  | some c =>
    match c.stage, c.grant with
    | .leave, some g => if g.ck < s.ck && !g.ended then s.copyBegin l { c with request := none } else s
    | _, _ => s
  | none => s

/-- The signal of a descriptor with SIG = 1 (R312): an asynchronous update by the Ladle. -/
def State.copySignal (s : State) (l : Nat) (raw : List Byte) : State :=
  if dsc raw 3 1 / 4 % 2 ≠ 1 then s
  else
    let obj := dsc raw 4 2
    let o : SyncOp :=
      { obj := obj, arm := false, value := BitVec.ofNat 32 (dsc raw 8 4), src := .ladle, frame := false, unit := l, thread := 0
        kind := 3, ack := false }
    let (dst, port) := if obj < 2048 then (syncRouter obj, 5) else ((obj - 2048) / 32, 0)
    s.sendAsync (.sync o) .data .remote (ladleRouter l) dst port 0 (ladlePort l)

/-- COPY_COMPLETE: the status of a descriptor that has ended goes to its entry, or to its ring slot with HEAD and the
Bell source (R311, R371); a ring's descriptors complete in order. -/
def State.copyComplete (s : State) (l : Fin 16) : State :=
  match (s.lad l).copy with
  | some c =>
    match c.stage with
    | .ended st blk =>
      if decide (132 ≤ c.queue) && c.serial != fld (s.reg (rSringHead (c.queue - 132))) 0 8 then s
      else
      let s := s.modLad l (fun x => { x with copy := none })
      let s := s.copySignal l.val c.raw
      if c.queue < 132 then
        let detail := match st with
          | 3 => blk + 2 ^ 16 * 0x30
          | 4 => c.faultIdx.getD 0
          | _ => c.moved % 2 ^ 32
        s.modEntry c.queue c.serial (fun e => { e with done := some (st, false, detail) })
      else
        let k := c.queue - 132
        let base := (s.reg (rSringBase k)).toNat
        let h := fld (s.reg (rSringHead k)) 0 8
        let n := fld (s.reg (rSringCfg k)) 0 8 + 1
        let word := st + 2 ^ 8 * (if st = 3 || st = 5 then blk else 0) + 2 ^ 16 * (c.faultIdx.getD 0xFFFF)
        let s := if isSram (base + 16 * h + 4) then s.sramWrite none (base + 16 * h + 4) (bytesOfNat 4 word) else s
        (s.setReg (rSringHead k) (BitVec.ofNat 32 ((h + 1) % n))).bellVia (ladleRouter l.val) (ladlePort l.val) (40 + k)
    | _ => s
  | none => s

/-! ### Commands that serve both engines -/

/-- HOST_WRITE_ISSUE: the next host write of a Ladle's frame engine, or of its copy engine. -/
def State.hostWriteIssue (s : State) (l : Fin 16) (copy : Bool) : State :=
  if !s.pdOn 6 then s
  else if !copy then s.bandWrite l
  else
    match (s.lad l).copy with
    | none => s
    | some c =>
      match c.hostOut with
      | none => s
      | some (a, bs) =>
        if !s.mayRequest then s
        else (s.hostWrite a bs).copyWrote l { c with hostOut := none, moved := c.moved + bs.length }

/-- HOST_READ_COMPLETION reports through AER (R352): a poisoned completion (bit 12); one whose status is not successful, or
that answers no read of the Kurix, is an unexpected one (bit 16, PRESUMED, notes/assumptions/84.md). -/
def State.completionAer (s : State) (tag : Nat) (ok : Bool) (data : List Byte) : State :=
  match s.host.reads.find? (fun r => r.tag == tag) with
  | none => if !s.linkUp || s.host.dropped.contains tag then s else s.aer 16
  | some r => if ok then (if data.length == r.len then s else s.aer 16) else s.aer (if data.isEmpty then 16 else 12)

/-- The read request with a tag ends: its data, or an error (R321, R349). -/
def State.readEnd (s : State) (tag : Nat) (ok : Bool) (data : List Byte) : State :=
  match s.host.reads.find? (fun r => r.tag == tag) with
  | none => s
  | some r =>
    let s := { s with host := { s.host with reads := s.host.reads.filter (fun r => r.tag ≠ tag) } }
    let ok := ok && data.length == r.len
    match r.who with
    | .band l run first _ => s.landData (lid l) run first r ok data
    | .copy l => s.copyData (lid l) r.addr (if ok then data else List.replicate r.len 0) (if ok then 0 else 2)

/-- HOST_READ_TIMEOUT: a Completion Timeout is reported through AER (R352), and the read is in error; none happens while
Device Control 2 disables it (R347, R349). -/
def State.readTimeout (s : State) (tag : Nat) : State :=
  if s.host.reads.any (fun r => r.tag == tag) && !bit (s.cfg 0x98) 4 then (s.aer 14).readEnd tag false [] else s

/-- SRING_TAIL k written (R311, R322). -/
def State.sringTail (s : State) (m : Master) (k : Nat) (v : Word) : State :=
  s.regGate m (rSringTail k) (fun s => s.setReg (rSringTail k) (v &&& 0xFF))

/-! ### The commands -/

def execBandIssue (l : Fin 16) (b : Nat) (s : State) : Host.Outcome State Fault Refusal := .next (s.bandIssue l b)
def execHostReadIssue (l : Fin 16) (copy : Bool) (s : State) : Host.Outcome State Fault Refusal :=
  .next (s.hostReadIssue l copy)
def execHostReadCompletion (tag : Fin 768) (ok : Bool) (data : List (BitVec 8)) (s : State) :
    Host.Outcome State Fault Refusal := .next ((s.completionAer tag.val ok data).readEnd tag.val ok data)
def execHostReadTimeout (tag : Fin 768) (s : State) : Host.Outcome State Fault Refusal := .next (s.readTimeout tag.val)
def execLandingWriteSlot (l : Fin 16) (s : State) : Host.Outcome State Fault Refusal := .next (s.landingSlot l)
def execBandCommit (l : Fin 16) (s : State) : Host.Outcome State Fault Refusal := .next (s.bandCommit l)
def execWriteoutReadSlot (l : Fin 16) (s : State) : Host.Outcome State Fault Refusal := .next (s.writeoutSlot l)
def execHostWriteIssue (l : Fin 16) (copy : Bool) (s : State) : Host.Outcome State Fault Refusal :=
  .next (s.hostWriteIssue l copy)
def execDegradeNote (s : State) : Host.Outcome State Fault Refusal := .next s.degradeArrive
def execLateNote (s : State) : Host.Outcome State Fault Refusal := .next s.lateArrive
def execFenceWord (t : TileId) (s : State) : Host.Outcome State Fault Refusal := .next (s.fenceArrive t)
def execFenceAck (s : State) : Host.Outcome State Fault Refusal := .next s.fenceAcked
def execCompletionPost (q : Fin 132) (s : State) : Host.Outcome State Fault Refusal := .next (s.completionPost q.val)
def execCopyGrant (l : Fin 16) (s : State) : Host.Outcome State Fault Refusal := .next (s.copyGrant l)
def execCopyComplete (l : Fin 16) (s : State) : Host.Outcome State Fault Refusal := .next (s.copyComplete l)
def execSringTail (m : Master) (k : Fin 4) (v : BitVec 32) (s : State) : Host.Outcome State Fault Refusal :=
  .next (s.sringTail m k.val v)

end Sys2Proof.Machine
end

