-- ==== Sys2Proof/Machine/Memory.lean ====
section
/-!
DEFINITION. The memory ports (spec file 03): wide accesses at a slice (R79, R82), the narrow ports (R84, R87), an
asynchronous thread's Pail accesses (R85), error injection (R113), and the accesses of masters, whole words and merged
ones (R69, R88, R111).
-/

namespace Sys2Proof.Machine

/-! ### Wide accesses at a slice (R65, R79, R82) -/

/-- Port of a north or south edge attachment (R54, R652). -/
def edgePort (r : Nat) : Nat := if r = 0 || r = 7 then 1 else if r = 56 || r = 63 then 3 else 5

/-- The owner of an access at a slice (R82, R330): 0 tile, 1 Ladle, 2 scan-out. -/
def Purpose.owner : Purpose → Nat
  | .ladleRead .. => 1
  | .ladleWrite _ => 1
  | .scan _ => 2
  | _ => 0

/-- Router and port where the reader of a wide read waits. -/
def Purpose.place (who : Purpose) (back : Nat) : Nat × Nat :=
  match who with
  | .ladleRead l _ _ => (ladleRouter l, ladlePort l)
  | .scan _ => (back, edgePort back)
  | _ => (back, 0)

/-- A broken claim or reservation at a slice (R60, R82, R321): the tile of the access faults; a Ladle's is a Ladle slot
violation. Of scan-out, which no tile contains, the data stay away and its pixels count as missing (R411), and nothing
else is raised (DESIGN CHOICE, notes/assumptions/80.md). -/
def State.sliceFault (s : State) (who : Purpose) (code a : Nat) : State :=
  let tile (t th : Nat) : State := s.tileFault (tid t) th code 1 (s.thr (tid t) (thid th)).pc.toNat a
  let mover (t lane : Nat) : Nat := match (s.tile (tid t)).moveHead (decide (lane = 0)) with | some m => m.thread | none => 0
  match who with
  | .ld t th .. => tile t th
  | .sld t th .. => tile t th
  | .gather t th .. => tile t th
  | .store t th => tile t th
  | .moveRead t lane _ _ => tile t (mover t lane)
  | .moveWrite t lane => tile t (mover t lane)
  | .ladleRead l _ _ => s.ladleSlotFault l a
  | .ladleWrite l => s.ladleSlotFault l a
  | _ => s

/-- A KIND 0x11 record claims the slice's wide port for this bank, direction and owner in this ck, and the port has
performed no access in it (R79, R80, R82). -/
def State.sliceClaim (s : State) (n bank dir owner : Nat) : Bool :=
  s.wideFree (64 + n) 0 && (s.sliceSlots n).any (fun r =>
    r.kind == 0x11 && r.arg == bank && r.arg2 % 2 == dir && r.arg2 / 256 % 4 == owner && r.at s.sched)

/-- A bank-violating read at a slice delivers its lanes with substitution and poison (R82, R184): a load's register, or a
part of a move. -/
def State.sliceSubst (s : State) (who : Purpose) (a n : Nat) : State :=
  let lanes (t : Nat) (h : Quad) : State :=
    let (s, l) := s.tileSubst (tid t) h a n
    -- one awaited piece for each flit of the answer
    s.deliver who a l (fun k z => (List.range ((n + 63) / 64)).foldl (fun z _ => z.gotAwait k (s.fck + 1)) z)
  match who with
  | .ld t _ _ _ h _ => lanes t h
  | .sld t _ _ h => lanes t h
  | .moveRead t lane src dst =>
    (match (s.tile (tid t)).moveHead (decide (lane = 0)) with
      | some m => s.moveSubst (tid t) { m with inFlight := m.inFlight - 1 } a (dst + (a - src)) n
      | none => s)
  | _ => s

/-- VAT_READ_REQUEST at slice n: the claim is checked, the bank read through the wide port, whose only access of the ck it
is and whose block it keeps to, and the data leave the slice from 9 ck on (R65, R76, R79). -/
def State.vatReadRequest (s : State) (n : Nat) : State :=
  match s.arrival (fun b => match b with | .vatRead k .. => k == n | _ => false) with
  | none => s
  | some f =>
    let s := s.dropFlit f.age
    match f.body with
    | .vatRead _ a len who back _ =>
      if !s.pdOn (8 + n) then s
      else if !s.sliceClaim n (bankOf a) 0 who.owner || !oneBlock a len 256 then
        (s.sliceSubst who a len).sliceFault who 0x07 a
      else
        let (s, bs, bad) := (s.useWide (64 + n) 0 (bankOf a)).readMem 1 a len
        let (dst, port) := who.place back
        (List.range ((len + 63) / 64)).foldl (fun s i =>
          s.addFlit
            { body := .vatData (a + 64 * i) ((bs.drop (64 * i)).take 64) ((bad.drop (64 * i)).take 64) who
              lane := .data, cls := .read, src := f.dst, dst := dst, port := port, frame := true, age := 0
              pos := .source (s.fck + 9 + i), moved := 0, inp := 5, born := s.ck }) s
    | _ => s

/-- Data of frame reads due at the slices in this ck (R60, R65). -/
def State.injectAll (s : State) : State :=
  s.mesh.flits.foldl (fun s f =>
    s.injectData (fun s f => match f.body with
      | .vatData a _ _ who => s.sliceFault who 0x08 a
      | _ => s) f) s

/-- A write of a move has been made. -/
def State.moveWritten (s : State) (t lane : Nat) : State :=
  let frame := decide (lane = 0)
  match (s.tile (tid t)).moveHead frame with
  | some m => s.modTile (tid t) (fun x => x.setMove frame { m with inFlight := m.inFlight - 1 })
  | none => s

/-- VAT_WRITE_FLIT at slice n: written to the claimed bank in its arrival ck (R65, R82). -/
def State.vatWriteFlit (s : State) (n : Nat) : State :=
  match s.arrival (fun b => match b with | .vatWrite k .. => k == n | _ => false) with
  | none => s
  | some f =>
    let s := s.dropFlit f.age
    match f.body with
    | .vatWrite _ a bs who owner =>
      if !s.pdOn (8 + n) then s
      else if !s.sliceClaim n (bankOf a) 1 owner then s.sliceFault who 0x07 a
      else
        let s := (s.useWide (64 + n) 0 (bankOf a)).writeClaimed a bs
        match who with
        | .moveWrite t lane => s.moveWritten t lane
        | _ => s
    | _ => s

/-! ### Narrow ports (R83, R84, R87) -/

/-- The queue of narrow port p. -/
def State.portQ (s : State) (p : Nat) : List NarrowReq := Sparse.get (fun _ => []) s.mem.ports p

/-- The queue of narrow port p replaced. -/
def State.setPortQ (s : State) (p : Nat) (l : List NarrowReq) : State :=
  { s with mem := { s.mem with ports := Sparse.set (fun _ => []) s.mem.ports p l } }

/-- The requests that have arrived at port p join its queue, in arrival order, urgent ones ahead of the others (R84, R415). -/
def State.portFill (s : State) (p : Nat) : State :=
  let here (f : Flit) : Bool := s.arrived f && (match f.body with | .narrow k _ => k == p | _ => false)
  let when_ (f : Flit) : Nat := match f.pos with | .delivered c => c | _ => 0
  let now := (s.mesh.flits.filter here).foldr (insertBy (fun f g =>
    decide (when_ f < when_ g) || (when_ f == when_ g && decide (f.age ≤ g.age)))) []
  let s := { s with mesh := { s.mesh with flits := s.mesh.flits.filter (fun f => !here f) } }
  let reqs := now.filterMap (fun f => match f.body with | .narrow _ q => some q | _ => none)
  let q := s.portQ p
  s.setPortQ p (q.filter (·.urgent) ++ reqs.filter (·.urgent) ++ (q.filter (fun r => !r.urgent)) ++
    reqs.filter (fun r => !r.urgent))

/-- The effect of a narrow write on what waits for it. -/
def State.narrowWrote (s : State) (who : Purpose) : State :=
  match who with
  | .copyWrite l id => if s.copyIs (lid l) id then s.copyWriteDone (lid l) else s
  | .moveWrite t lane => s.moveWritten t lane
  | .cacheWb => { s with cacheWork := { s.cacheWork with wb := s.cacheWork.wb - 1 } }
  | _ => s

/-- A read by a tile is of lane level, any other of local level (R498). -/
def Purpose.level : Purpose → Nat
  | .ld .. => 1
  | .sld .. => 1
  | .gather .. => 1
  | .moveRead .. => 1
  | .scan _ => 1
  | _ => 0

/-- A request performed at narrow port p (R84, R87): a read leaves a slice 9 ck later, a Pail in the next. -/
def State.narrowDo (s : State) (p : Nat) (q : NarrowReq) : State :=
  let s := (s.useBank p (bankOf q.addr))
  let s := { s with mem := { s.mem with portsUsed := p :: s.mem.portsUsed } }
  let s := if q.waited then s.countNdet 1 else s
  let s := if q.urgent then s.countNdet 4 else s
  match q.wr with
  | some bs => (if s.memThere q.addr then s.writeNarrow q.addr bs else s).narrowWrote q.who
  | none =>
    let there := s.memThere q.addr
    let (s, bs, bad) := if there then s.readMem q.who.level q.addr q.len
      else (s, List.replicate q.len 0, List.replicate q.len true)
    let (r, inp) := if p < 64 then (p, 0) else (servingRouter (rowOfTile q.home) (p - 64), 5)
    s.sendAsync (.narrowData q.addr bs bad q.who) .data .read r q.home q.port (if p < 64 then 1 else 9) inp

/-- An asynchronous thread's own access takes bank b of its Pail in this ck, ahead of the narrow port (R85): a waiting one of
a thread, or the step of a move. -/
def State.threadTakes (s : State) (p b : Nat) : Bool :=
  decide (p < 64) && s.frameActs &&
    (let t := tid p
     allThreads.any (fun j => match (s.thr t j).pailQ with
       | q :: _ => bankOf q.addr == b && decide (q.since ≤ s.fck) && s.openAt t (if q.wr.isSome then 2 else 1) b
       | [] => false) ||
     (match s.moveSeeks t with | some a => bankOf a == b && s.openAt t 1 b | none => false))

/-- NARROW_ACCESS_PERFORM at port p: the head request, once its bank is free (R84, R85). -/
def State.narrowPerform (s : State) (p : Nat) : State :=
  let s := s.portFill p
  match s.portQ p with
  | [] => s
  | q :: rest =>
    if s.mem.portsUsed.contains p then s
    else if s.bankFree p (bankOf q.addr) && !s.threadTakes p (bankOf q.addr) then (s.setPortQ p rest).narrowDo p q
    else s.setPortQ p ({ q with waited := true } :: rest)

/-! ### Asynchronous threads (R85, R169, R172) -/

/-- ASYNC_PAIL_ACCESS: the oldest waiting Pail access of a thread, in an open cycle. Its thread issues no bundle in
this ck's position (R169). -/
def State.asyncPailDo (s : State) (t : TileId) (th : ThreadId) : State :=
  match (s.thr t th).pailQ with
  | [] => s
  | q :: rest =>
    if s.fck < q.since || !s.openAt t (if q.wr.isSome then 2 else 1) (bankOf q.addr) then s
    else
      -- the next one waits from the next ck on
      let rest := match rest with | r :: l => { r with since := max r.since (s.fck + 1) } :: l | [] => []
      let s := s.modThr t th (fun z => { z with pailQ := rest, lastIssue := s.fck + 1 })
      let s := if q.since < s.fck then s.countNdet 1 else s
      s.pailPerform t q

/-! ### Injection (R113) -/

/-- ECC_INJECT_ARM: ARM and DOUBLE written to a memory's injection register. -/
def State.eccArm (s : State) (m : Master) (mem : Nat) (double : Bool) : State :=
  s.regGate m (injectReg mem) (fun s => s.setReg (injectReg mem) (if double then 3 else 1))

/-! ### Traps and answers of the stewards (R69, R111) -/

/-- Steward k. -/
def State.core (s : State) (k : Fin 4) : Steward := s.stew[k]

/-- Steward k changed by a function. -/
def State.modCore (s : State) (k : Fin 4) (f : Steward → Steward) : State :=
  { s with stew := s.stew.set k (f (s.core k)) }

/-- A trap taken in machine mode: mepc, mcause, mtval and mstatus as the RISC-V privileged architecture sets them
(PRESUMED for mstatus, notes/assumptions/40.md). -/
def Steward.trap (z : Steward) (cause tval : Dword) : Steward :=
  let mie := z.mstatus.getLsbD 3
  let st := z.mstatus &&& ~~~ 0x1888
  let st := st ||| (if mie then 0x80 else 0) ||| (if z.user then 0 else 0x1800)
  { z with
    mepc := z.pc
    mcause := cause
    mtval := tval
    user := false
    mstatus := st
    pc := z.mtvec &&& ~~~ 3 }

/-- The exception causes that the Kurix's rules name: illegal instruction 2, breakpoint 3, misaligned and access faults of
fetch 0 and 1, load 4 and 5, store 6 and 7. -/
def State.coreTrap (s : State) (k : Fin 4) (cause tval : Nat) : State :=
  s.modCore k (fun z => z.trap (BitVec.ofNat 64 cause) (BitVec.ofNat 64 tval))

/-- An instruction of the core has retired (R432). -/
def Steward.retired (z : Steward) : Steward := { z with minstret := z.minstret + 1 }

/-- x[rd] written; x0 stays 0. -/
def Steward.wx (z : Steward) (rd : Nat) (v : Dword) : Steward :=
  if rd % 32 = 0 then z else { z with x := z.x.set (Fin.ofNat 32 rd) v }

/-- n bytes as a register value. -/
def loadValue (bs : List Byte) (sgn : Bool) : Dword :=
  BitVec.ofInt 64 (intOfBits (8 * bs.length) sgn (natOfBytes bs))

/-- The data and the status that DBGACC holds of its last access: 1 for error status (R69, R584). -/
def State.debugDone (s : State) (d : Word) (err : Bool) : State :=
  { s with milk := { s.milk with accData := d, accStatus := b2n err } }

/-- The answer to a master's read: a steward's load goes to x[rd], and its fetch to the core (R69, R111). -/
def State.answerRead (s : State) (m : Master) (rd : Nat) (sgn : Bool) (a : Nat) (bs : List Byte) (err : Bool)
    (fetch : Bool := false) : State :=
  match m with
  | .steward k =>
    if err then (s.coreTrap k (if fetch then 1 else 5) a).emit (.answer m [] true)
    else (s.modCore k (fun z => if fetch then z else (z.wx rd (loadValue bs sgn)).retired)).emit (.answer m bs false)
  | .debug =>
    let d := if err then bs.map (fun _ => 0) else bs
    (s.debugDone (BitVec.ofNat 32 (natOfBytes d)) err).emit (.answer m d err)
  | .host => s.hostAnswer a bs
  | _ => s.emit (.answer m bs false)

/-- A write of a master that is refused: a steward traps, the debug port reports it (R69, R88). -/
def State.refuseWrite (s : State) (m : Master) (a : Nat) : State :=
  match m with
  | .steward k => (s.coreTrap k 7 a).emit (.answer m [] true)
  | .debug => (s.debugDone 0 true).emit (.answer m [] true)
  | _ => s

/-- An access to an address that is unassigned or powered off (R69): the host's is reported by a decode record. -/
def State.noAddress (s : State) (m : Master) (a : Nat) : State :=
  if m = .host then s.post 0x51 0 4 0 (BitVec.ofNat 32 a) 0 else s

/-! ### Accesses of masters through the narrow ports (R68, R88, R650) -/

/-- Router and port by which a master's Pail or Vat access enters the mesh (R650). -/
def masterPlace (m : Master) (a : Nat) : Nat × Nat :=
  match m with
  | .steward k => (k.val / 2, edgePort (k.val / 2))
  | .debug => (63, 3)
  | _ =>
    let east := if isPail a then decide (4 ≤ colOf (memOf a)) else decide (68 ≤ memOf a)
    (if east then 3 else 2, 5)

/-- n bytes from a lie in Pail or Vat, in regions that are on (R66, R69). -/
def State.rangeThere (s : State) (a n : Nat) : Bool :=
  !isSram a && !isSram (a + n - 1) && s.memThere a && s.memThere (a + n - 1) && decide (0 < n)

/-- The whole words that n bytes from a touch: first byte and length. -/
def wordSpan (a n : Nat) : Nat × Nat := (a / 8 * 8, (a + n + 7) / 8 * 8 - a / 8 * 8)

/-- A master's access begun: its reads go to the narrow ports, and its answer waits for them. -/
def State.beginAcc (s : State) (m : Master) (a n : Nat) (wr : Option (List Byte)) (rd : Nat) (sgn : Bool)
    (fetch : Bool := false) : State :=
  let id := s.ladle.nextId
  let s := { s with ladle := { s.ladle with nextId := id + 1 } }
  let acc : Acc := { id := id, m := m, addr := a, len := n, wr := wr, rd := rd, sgn := sgn, got := [], bad := false, fetch := fetch }
  let s := { s with accs := s.accs ++ [acc] }
  let (lo, k) := if wr.isSome then wordSpan a n else (a, n)
  let (r, p) := masterPlace m a
  s.narrowRead r lo k (.access id) p

/-- A read of n bytes by a master. -/
def State.masterRead (s : State) (m : Master) (a n rd : Nat) (sgn : Bool) (fetch : Bool := false) : State :=
  if !s.rangeThere a n then (s.noAddress m a).answerRead m rd sgn a (List.replicate n 0) (m ≠ .host) fetch
  else s.beginAcc m a n none rd sgn fetch

/-- A write by a master: whole words directly, others as a read of the words and a write of the merged ones (R88). -/
def State.masterWrite (s : State) (m : Master) (a : Nat) (bs : List Byte) : State :=
  if !s.rangeThere a bs.length then (s.noAddress m a).refuseWrite m a
  else if a % 8 = 0 && bs.length % 8 = 0 then
    let (r, p) := masterPlace m a
    s.narrowWrite r a bs (.write (masterCode m)) p
  else s.beginAcc m a bs.length (some bs) 0 false

/-- Every byte of an access has arrived: the answer, or the merged write (R88, R111). -/
def State.accDone (s : State) (c : Acc) : State :=
  let s := { s with accs := s.accs.filter (fun x => x.id ≠ c.id) }
  let bytes := c.got.map (fun (p : Nat × Byte) => p.2)
  match c.wr with
  | none => s.answerRead c.m c.rd c.sgn c.addr bytes (c.bad && c.m ≠ .host) c.fetch
  | some bs =>
    if c.bad && c.m ≠ .host then s.refuseWrite c.m c.addr
    else
      let lo := (wordSpan c.addr c.len).1
      let merged := bytes.zipIdx.map (fun p =>
        if c.addr ≤ lo + p.2 && lo + p.2 < c.addr + c.len then bs.getD (lo + p.2 - c.addr) 0 else p.1)
      let (r, p) := masterPlace c.m c.addr
      s.narrowWrite r lo merged (.write (masterCode c.m)) p

/-- Data of a master's access arrive; bytes of an uncorrectable word read as 0 (R88, R111). -/
def State.accData (s : State) (name a : Nat) (bs : List Byte) (bad : List Bool) : State :=
  match s.accs.find? (fun x => x.id == name) with
  | none => s
  | some c =>
    let got := (bs.zip bad).zipIdx.foldl (fun m p => Sparse.insert m (a + p.2) (if p.1.2 then 0 else p.1.1)) c.got
    let c := { c with got := got, bad := c.bad || bad.any id }
    let need := if c.wr.isSome then (wordSpan c.addr c.len).2 else c.len
    if need ≤ got.length then s.accDone c
    else { s with accs := s.accs.map (fun x => if x.id = c.id then c else x) }

/-! ### The commands -/

def execVatReadRequest (n : Fin 8) (s : State) : Host.Outcome State Fault Refusal := .next (s.vatReadRequest n.val)
def execVatWriteFlit (n : Fin 8) (s : State) : Host.Outcome State Fault Refusal := .next (s.vatWriteFlit n.val)
def execNarrowAccessPerform (p : Fin 72) (s : State) : Host.Outcome State Fault Refusal := .next (s.narrowPerform p.val)
def execAsyncPailAccess (t : TileId) (th : ThreadId) (s : State) : Host.Outcome State Fault Refusal :=
  .next (s.asyncPailDo t th)
def execEccInjectArm (m : Master) (mem : Fin 72) (double : Bool) (s : State) : Host.Outcome State Fault Refusal :=
  .next (s.eccArm m mem.val double)

end Sys2Proof.Machine
end

