-- ==== Sys2Proof/Machine/Domain.lean ====
section
/-!
DEFINITION. What a power domain's switch does to the state (R465, R468, R523, R526, R605): the registers, memories and
engines of the domain, and the registers that are loaded rather than reset.
-/

namespace Sys2Proof.Machine

/-! ### Registers of a domain (R605) -/

/-- Register addresses of a domain, as first byte and one past the last. -/
def domainRegs (d : Nat) : List (Nat × Nat) :=
  match d with
  | 2 => [(0x30070000, 0x30080000)]
  | 3 => [(0x30010000, 0x30030000)]
  | 6 => [(0x30060000, 0x30070000)]
  | 7 => [(0x30030000, 0x30040000), (0x30040000, 0x30040090), (0x300400A0, 0x30050000), (0x30050000, 0x30060000),
          (0x30080000, 0x30080040), (0x300800C0, 0x30090000), (0x30090000, 0x300B0000)] ++
         (List.range 64).map (fun t => (rTile t 0xE00, rTile t 0xF00))
  | d =>
    if 16 ≤ d then [(rTile (d - 16) 0, rTile (d - 16) 0xE00), (rTile (d - 16) 0xF00, rTile (d - 16) 0x1000)]
    else if 8 ≤ d then
      let n := d - 8
      [(rSliceCe n, rSliceCe n + 4), (rSliceUe n, rSliceUe n + 4), (rSliceInject n, rSliceInject n + 4),
       (rSliceTrackLost n, rSliceTrackLost n + 4)]
    else []

/-- The registers of a domain returned to their reset values. -/
def State.resetDomainRegs (s : State) (d : Nat) : State :=
  (domainRegs d).foldl (fun s r => s.resetRegs r.1 r.2) s

/-- Registers that keep their values through PD7's power cycles: BUDGET_CAP and PERMA_DISABLE (R526) always, those of the
Bell through fabric sleep (R463). -/
def keptRegs (sleep : Bool) : List Nat :=
  [rBudgetCap, rPermaDisable] ++
    (if sleep then
      (List.range 511).map rSrc ++ (List.range 32).map rGroup ++ [rBellCtrl]
    else [])

/-- The registers of PD7 returned to their reset values, but for those that are kept. -/
def State.resetFabricRegs (s : State) (sleep : Bool) : State :=
  let kept := (keptRegs sleep).map (fun a => (a, s.reg a))
  kept.foldl (fun s p => s.setReg p.1 p.2) (s.resetDomainRegs 7)

/-! ### Memories of a domain (R112, R468) -/

/-- First byte and one past the last of a memory: 0–63 a Pail, 64–71 a slice. -/
def memRange (mem : Nat) : Nat × Nat :=
  if mem < 64 then (mem * 0x400000, (mem + 1) * 0x400000)
  else (0x10000000 + (mem - 64) * 0x4000000, 0x10000000 + (mem - 63) * 0x4000000)

/-- What a memory keeps beside its bytes is gone with its power. -/
def State.clearMem (s : State) (mem : Nat) : State :=
  { s with mem := { s.mem with
      ports := Sparse.set (fun _ => []) s.mem.ports mem []
      slots := if mem < 64 then s.mem.slots else Sparse.set (fun _ => []) s.mem.slots (mem - 64) []
      trackers := Sparse.set (fun _ => []) s.mem.trackers mem []
      cache := if mem = 71 then [] else s.mem.cache } }

/-! ### A domain going off, and coming on -/

/-- LEAVE.PD_ON's bit of a domain. -/
def State.setPd (s : State) (d : Nat) (on : Bool) : State := s.modReg (rPdOn (d / 32)) (fun w => setBit w (d % 32) on)

/-- The output PHYs without power: untrained (R427). -/
def State.untrain (s : State) (o : Nat) : State := s.modReg (rDpStatus o) (fun w => w &&& ~~~ 0x3FE)

/-- The mesh, the SYNC block, the aggregator, the debug port and the swap engine lose their state; the Bell's is kept
through fabric sleep (R463). -/
def State.fabricOff (s : State) (sleep : Bool) : State :=
  let s := s.resetFabricRegs sleep
  { s with
    mesh := { Mesh.reset with age := s.mesh.age }
    sync := .reset
    plan := .reset
    staged := .reset
    errs := []
    bellMsgs := []
    faultSeen := []
    faultedWindow := 0
    variantFault := false
    err := .reset
    bells := if sleep then { s.bells with pend := s.bells.pend ||| s.bells.fresh, fresh := 0, told := 0, heard := 0 }
      else { BellState.reset with mtime := s.bells.mtime, aonPart := s.bells.aonPart, wired := s.bells.wired }
    dbg := .reset
    power := { s.power with light := false }
    mem := { s.mem with vh := [], cacheNext := none } }

/-- Domain d goes off: its registers and engines lose their state (R468, R605). -/
def State.domainOff (s : State) (d : Nat) (sleep : Bool) : State :=
  let s := s.setPd d false
  match d with
  | 1 => { s with
      stew := Vector.replicate 4 .reset
      cacheWork := .reset
      accs := s.accs.filter (fun c => match c.m with | .steward _ => false | _ => true) }
  | 2 => { s.resetDomainRegs 2 with
      host := { HostState.reset with perst := s.host.perst }
      accs := s.accs.filter (fun c => c.m ≠ .host) }
  | 3 => (({ s with tick := .reset, scan := .reset }).resetDomainRegs 3).setReg rHeartbeat 0
  | 4 => s.untrain 0
  | 5 => s.untrain 1
  | 6 => { s.resetDomainRegs 6 with ladle := { LadleState.reset with nextId := s.ladle.nextId } }
  | 7 => s.fabricOff sleep
  | d =>
    let s := s.resetDomainRegs d
    if 16 ≤ d then (s.setTile (tid (d - 16)) .reset).clearMem (d - 16)
    else if 8 ≤ d then s.clearMem (64 + (d - 8))
    else s

/-- HOST.SUBSYS_ID loaded from TOP.SUBSYS: the register's first write (R526). -/
def State.loadSubsys (s : State) : State := (s.setReg rSubsysId (s.reg rSubsys)).orReg rWoState 0x2000

/-- LEAVE.PD_CTRL loaded from the board record (R526), THERM_CFG by the grade (R492), DBG.AUTH from PD0 (R582), and the
requests that the Bell's front end recorded (R464). -/
def State.loadFabric (s : State) : State :=
  let s := (List.range 3).foldl (fun s w => s.setReg (rPdCtrl w) (s.milk.settings.pd.toArray.getD w 0)) s
  let s := s.setReg rThermCfg (if Config.gradeI then 0x0569645F else 0x055F5A55)
  let s := s.setReg rAuth (BitVec.ofNat 32 (s.milk.scope + 256 * s.milk.authFail))
  { s with bells := { s.bells with fresh := s.bells.fresh ||| s.bells.image, image := 0 } }

/-- SCAN.TS_H0 to TS_FLAGS loaded from TOP.TSHADOW, with the commit of R526 left pending for the ck after. -/
def State.loadTiming (s : State) : State :=
  ((List.range 6).foldl (fun s i => s.setReg (rTs i) (s.reg (rTshadow i))) s).setReg rTsCommit 1

/-- Memory number n takes its row mappings from the repair shadow (R116). -/
def MemState.loadRows (m : MemState) (n : Nat) : MemState :=
  { m with rowMaps := m.rowMaps.filter (fun u => u.1 != n) ++ m.repairs.filter (fun u => u.1 == n) }

/-- The physical row behind a row of a bank of memory n: the row, or spare k as 'rows + k', with the mapping loaded at the
last power-on. Distinct rows have distinct physical rows, so the bytes of Memory stand by their address and no access
shows the mapping (R115, R117). -/
def MemState.physRow (m : MemState) (n bank row : Nat) : Nat :=
  match m.rowMaps.find? (fun u => u.1 == n && u.2.1 == bank && u.2.2.1 == row) with
  | some (_, _, _, k) => (if n < 64 then 512 else 4096) + k
  | none => row

/-- Domain d comes on: its registers are at their reset values, but for those that R526 loads, and its memory's contents
are undefined (R112, R468); a Pail or slice takes its row mappings from the repair shadow (R116). -/
def State.domainOn (s : State) (d : Nat) : State :=
  let s := s.setPd d true
  match d with
  | 1 => { s with mem := s.mem.lose 0x34000000 0x34200000 }
  | 2 => s.loadSubsys
  | 3 => s.loadTiming
  | 7 => s.loadFabric
  | d =>
    if 16 ≤ d then { s with mem := (s.mem.loadRows (d - 16)).lose (memRange (d - 16)).1 (memRange (d - 16)).2 }
    else if 8 ≤ d then { s with mem := (s.mem.loadRows (56 + d)).lose (memRange (56 + d)).1 (memRange (56 + d)).2 }
    else s

/-! ### The standing draw (R475) -/

/-- Standing draw of a domain. -/
def standingOf (d : Nat) : Nat :=
  match d with
  | 0 => 0 | 1 => 8 | 2 => 4 | 3 => 6 | 4 => 0 | 5 => 0 | 6 => 4 | 7 => 12
  | d => if d < 16 then 2 else 1

/-- A tile's domain is cycled by recovery, so that its draw stays counted (R468). -/
def State.recovering (s : State) (t : Nat) : Bool := bit (s.reg (rTrec (t / 32))) (t % 32)

/-- Domain d counts against the cap: on, in its switch, or cycled by recovery. -/
def State.countsLeave (s : State) (d : Nat) : Bool :=
  s.pdOn d || (match s.power.switching with | some (k, _) => k == d | none => false) ||
    (decide (16 ≤ d) && s.recovering (d - 16))

/-- LEAVE.STANDING (R492). -/
def State.standing (s : State) : Nat :=
  (List.range 80).foldl (fun n d => n + (if s.countsLeave d then standingOf d else 0)) 0

end Sys2Proof.Machine
end

