-- ==== Sys2Proof/Machine/TileCtl.lean ====
section
/-!
DEFINITION. The control of tiles from registers: threads started and stopped (R177), halts (R178–R180), fault records
(R186), the instruction buffer's image (R174), and tile recovery (R505).
-/

namespace Sys2Proof.Machine

/-! ### What a tile has outstanding (R178, R505) -/

/-- The tile that an access belongs to. -/
def Purpose.tile? : Purpose → Option Nat
  | .ld t .. => some t
  | .sld t .. => some t
  | .gather t .. => some t
  | .store t _ => some t
  | .moveRead t .. => some t
  | .moveWrite t _ => some t
  | .ibuf t _ => some t
  | _ => none

/-- The access that a flit carries, if any. -/
def Payload.who? : Payload → Option Purpose
  | .vatRead _ _ _ w _ _ => some w
  | .vatData _ _ _ w => some w
  | .vatWrite _ _ _ w _ => some w
  | .narrow _ q => some q.who
  | .narrowData _ _ _ w => some w
  | _ => none

/-- An access of tile t is on its way or waits at a port. -/
def State.accessOut (s : State) (t : Nat) : Bool :=
  s.mesh.flits.any (fun f => (f.body.who?.bind Purpose.tile?) == some t) ||
    s.mem.ports.any (fun p => p.2.any (fun q => q.who.tile? == some t)) ||
    allThreads.any (fun j => !(s.thr (tid t) j).pailQ.isEmpty)

/-- An engine of the tile is at work. -/
def Tile.engineBusy (x : Tile) : Bool :=
  x.running.isSome || x.starting.isSome || x.queued.isSome || !x.jobs.isEmpty || !x.moveF.isEmpty || !x.moveA.isEmpty

/-- A flit that tile t has injected is not yet delivered. -/
def State.flitsOut (s : State) (t : Nat) : Bool :=
  s.mesh.flits.any (fun f => f.src = t && f.inp = 0 && !s.arrived f)

/-! ### Threads (R164, R175–R177) -/

/-- HALT_CTRL.HALT. -/
def State.haltOn (s : State) (t : TileId) : Bool := bit (s.treg t.val oHaltCtrl) 0

/-- A thread at bundle e, with nothing outstanding (R176, R177). -/
def Thread.startAt (z : Thread) (e : BitVec 12) : Thread :=
  { z with
    pc := e
    next := none
    stall := 0
    wait := none
    waitDone := false
    ended := false
    fellOff := false }

/-- The ENTRY register of thread th. -/
def State.entryOf (s : State) (t : TileId) (th : ThreadId) : BitVec 12 := (s.treg t.val (oEntry th.val)).setWidth 12

/-- Thread th of tile t reads OFF (R175). -/
def State.isOff (s : State) (t : TileId) (th : ThreadId) : Bool := decide (roundLen (s.tile t).cfgNow ≤ th.val)

/-- A bit for each thread, set for thread th. -/
def thBit (th : ThreadId) : BitVec 8 := BitVec.ofNat 8 (2 ^ th.val)

/-- THREAD_CTRL.START for one asynchronous thread that is IDLE or FAULTED: it starts in its next position, and the bit
reads 1 until then (State.threadNow). -/
def State.threadStart (s : State) (m : Master) (t : TileId) (th : ThreadId) : State :=
  s.regGate m (rTile t.val oThreadCtrl) (fun s =>
    let z := s.thr t th
    if s.isFrame t th || s.isOff t th then s
    else if z.st = .idle || z.st = .faulted then s.modTile t (fun x => { x with starts := x.starts ||| thBit th })
    else s)

/-- THREAD_CTRL.STOP for one asynchronous thread: it stops before its next bundle, in its next position, and the bit
reads 1 until then. -/
def State.threadStop (s : State) (m : Master) (t : TileId) (th : ThreadId) : State :=
  s.regGate m (rTile t.val oThreadCtrl) (fun s =>
    if s.isFrame t th || s.isOff t th then s
    else s.modTile t (fun x => { x with stops := x.stops ||| thBit th }))

/-- A thread stopped: it reads IDLE, and what it waited for is not waited for any more; its accesses complete. -/
def Thread.stopped (z : Thread) : Thread :=
  { z with st := .idle, stall := 0, wait := none, waitDone := false, ended := false }

/-- A thread started at bundle e; in a halted tile it runs when the halt is released (DESIGN CHOICE,
notes/assumptions/44.md). -/
def Thread.started (z : Thread) (halt : Bool) (e : BitVec 12) : Thread :=
  let z := z.startAt e
  if halt then { z with st := .halted, resume := .run } else { z with st := .run }

/-- The pending START or STOP of thread th takes effect in this ck, a position of the thread; where both are pending the
thread stops (R177). -/
def State.threadNow (s : State) (t : TileId) (th : ThreadId) : State :=
  let x := s.tile t
  let start := x.starts &&& thBit th ≠ 0
  let stop := x.stops &&& thBit th ≠ 0
  if !(start || stop) then s
  else
    let s := s.modTile t (fun x => { x with starts := x.starts &&& ~~~ thBit th, stops := x.stops &&& ~~~ thBit th })
    if s.isFrame t th || s.isOff t th then s
    else if stop then s.modThr t th Thread.stopped
    else if (s.thr t th).st = .idle || (s.thr t th).st = .faulted then
      s.modThr t th (fun z => z.started (s.haltOn t) (s.entryOf t th))
    else s

/-- The threads whose position this ck is: the pending actions of THREAD_CTRL. -/
def State.threadsNow (s : State) (t : TileId) : State :=
  let x := s.tile t
  if x.starts = 0 && x.stops = 0 then s
  else
    let k := roundLen x.cfgNow
    allThreads.foldl (fun s th => if s.round % k = th.val then s.threadNow t th else s) s

/-! ### Halts (R178–R180) -/

/-- A thread that a halt stops. A WAIT it has outstanding is no longer outstanding, so that its release is discarded
(R281), and its bundle is the next one, which issues when the thread resumes (DEDUCED, notes/assumptions/44.md). -/
def Thread.halt (z : Thread) : Thread :=
  if z.st = .run || z.st = .stall then
    { z with st := .halted, resume := .run, stall := 0, wait := none, waitDone := z.waitDone && z.wait.isNone }
  else z

/-- Threads that a halt stops: asynchronous ones at once, frame ones unless the halt is pending for them. -/
def State.haltThreads (s : State) (t : TileId) (all : Bool) : State :=
  allThreads.foldl (fun s th =>
    if s.isFrame t th && !all then s
    else s.modThr t th Thread.halt) s

/-- HALT = 1 without FORCE. -/
def State.tileHalt (s : State) (m : Master) (t : TileId) : State :=
  s.regGate m (rTile t.val oHaltCtrl) (fun s =>
    (s.setReg (rTile t.val oHaltCtrl) 1).haltThreads t (!(s.tile t).frameRun))

/-- HALT = 1 and FORCE = 1: a tile-level fault while the tile runs frame threads (R179). -/
def State.tileForcedHalt (s : State) (m : Master) (t : TileId) : State :=
  s.regGate m (rTile t.val oHaltCtrl) (fun s =>
    let s := s.setReg (rTile t.val oHaltCtrl) 1
    if (s.tile t).frameRun then s.tileFault t 0 0x0E 0 (s.thr t 0).pc.toNat 0 else s.haltThreads t true)

/-- HALT = 0: asynchronous threads resume; frame threads wait for the next tick (R180). -/
def State.haltRelease (s : State) (m : Master) (t : TileId) : State :=
  s.regGate m (rTile t.val oHaltCtrl) (fun s =>
    let s := (s.setReg (rTile t.val oHaltCtrl) 0).clrReg (rTile t.val oTileStatus) 2
    allThreads.foldl (fun s th =>
      if (s.thr t th).st ≠ .halted then s
      else s.modThr t th (fun z => { z with st := if s.isFrame t th then .idle else z.resume })) s)

/-- HALT_CTRL.PENDING: a halt of frame threads that run (R178). -/
def State.haltPending (s : State) (t : TileId) : Bool :=
  s.haltOn t && (s.tile t).frameRun && allThreads.any (fun th => s.isFrame t th && (s.thr t th).st ≠ .halted)

/-- The conditions of HALTED (R178). -/
def State.haltDone (s : State) (t : TileId) : Bool :=
  s.haltOn t && !s.haltPending t && !(s.tile t).stopped && !(s.tile t).engineBusy && !s.accessOut t.val &&
    allThreads.all (fun th => (s.thr t th).st ≠ .run && (s.thr t th).st ≠ .stall)

/-- TILE_STATUS.HALTED. -/
def State.tileHalted (s : State) (t : TileId) : Bool := bit (s.treg t.val oTileStatus) 1

/-- TILE_HALT_COMPLETE: HALTED reads 1 once its conditions hold. -/
def State.haltComplete (s : State) (t : TileId) : State :=
  if s.pdOn (16 + t.val) && s.haltDone t then s.orReg (rTile t.val oTileStatus) 2 else s

/-! ### Fault record and instruction buffer (R174, R186) -/

/-- FAULT_CLR: FAULT_INFO.VALID cleared. -/
def State.faultClear (s : State) (m : Master) (t : TileId) : State :=
  s.regGate m (rTile t.val 0x0084) (fun s => s.clrReg (rTile t.val oFaultInfo) 0x10)

/-- IBUF_CTRL.LOAD: accepted while the tile is halted; the image comes through the slice narrow ports. -/
def State.ibufStart (s : State) (m : Master) (t : TileId) : State :=
  let a := rTile t.val oIbufCtrl
  s.regGate m a (fun s =>
    if !s.tileHalted t then s.regRefuse m a
    else if bit (s.reg a) 0 then s
    else
      let src := (s.treg t.val oIbufSrc).toNat
      let s := (s.setReg a 1).modTile t (fun x => { x with ibufLoad := 4096 })
      s.narrowRead t.val src 65536 (.ibuf t.val src))

/-- One 16-byte piece of the image: a bundle; one with an uncorrectable word is in error (DESIGN CHOICE,
notes/assumptions/44.md). -/
def State.ibufPiece (s : State) (t : TileId) (base a : Nat) (bs : List Byte) (bad : List Bool) : State :=
  let i := (a - base) / 16
  s.modTile t (fun x =>
    { x with
      ibuf := Sparse.set (fun _ => 0) x.ibuf i (BitVec.ofNat 128 (natOfBytes bs))
      ibufErr := Sparse.set (fun _ => 0) x.ibufErr i (if bad.any id then 2 else 0)
      ibufLoad := x.ibufLoad - 1 })

/-- IBUF_LOAD_COMPLETE: every piece has been written, and LOAD reads 0. -/
def State.ibufDone (s : State) (t : TileId) : State :=
  let a := rTile t.val oIbufCtrl
  if bit (s.reg a) 0 && (s.tile t).ibufLoad = 0 then s.setReg a 0 else s

/-! ### Recovery (R505) -/

/-- TILE_RECOVERY: once the stopped tile has drained, or 256 ck after its fault, its domain goes off. Under
CTRL.FAULT_STOP this waits for resume (R590). -/
def State.tileRecover (s : State) (t : TileId) : State :=
  if !s.recovering t.val || !s.pdOn (16 + t.val) || !(s.tile t).stopped then s
  else if bit (s.reg rDbgCtrl) 1 && s.dbg.stopped then s
  else if (s.accessOut t.val || s.flitsOut t.val || (s.tile t).engineBusy) && decide (s.ck < (s.tile t).stopCk + 256) then s
  else s.domainOff (16 + t.val) false

/-- TILE_RECOVERY_COMPLETE: the domain is on again, and the tile's TREC bit clears. -/
def State.tileRecovered (s : State) (t : TileId) : State :=
  if !s.recovering t.val || s.pdOn (16 + t.val) then s
  else (s.domainOn (16 + t.val)).clrReg (rTrec (t.val / 32)) (1 <<< (t.val % 32))

/-! ### The commands -/

def execThreadStart (m : Master) (t : TileId) (th : ThreadId) (s : State) : Host.Outcome State Fault Refusal :=
  .next (s.threadStart m t th)
def execThreadStop (m : Master) (t : TileId) (th : ThreadId) (s : State) : Host.Outcome State Fault Refusal :=
  .next (s.threadStop m t th)
def execTileHalt (m : Master) (t : TileId) (s : State) : Host.Outcome State Fault Refusal := .next (s.tileHalt m t)
def execTileForcedHalt (m : Master) (t : TileId) (s : State) : Host.Outcome State Fault Refusal :=
  .next (s.tileForcedHalt m t)
def execTileHaltRelease (m : Master) (t : TileId) (s : State) : Host.Outcome State Fault Refusal :=
  .next (s.haltRelease m t)
def execTileHaltComplete (t : TileId) (s : State) : Host.Outcome State Fault Refusal := .next (s.haltComplete t)
def execFaultClr (m : Master) (t : TileId) (s : State) : Host.Outcome State Fault Refusal := .next (s.faultClear m t)
def execIbufLoad (m : Master) (t : TileId) (s : State) : Host.Outcome State Fault Refusal := .next (s.ibufStart m t)
def execIbufLoadComplete (t : TileId) (s : State) : Host.Outcome State Fault Refusal := .next (s.ibufDone t)
def execTileRecovery (t : TileId) (s : State) : Host.Outcome State Fault Refusal := .next (s.tileRecover t)
def execTileRecoveryComplete (t : TileId) (s : State) : Host.Outcome State Fault Refusal := .next (s.tileRecovered t)

end Sys2Proof.Machine
end

