-- ==== Sys2Proof/Machine/Bell.lean ====
section
/-!
DEFINITION. The Bell (R449–R464): gateways and pending bits, routing and priority, claims and EOIs, hold-off, the global
disable, and the timer and software interrupts.
-/

namespace Sys2Proof.Machine

/-! ### Sources (R449, R450, R452) -/

/-- The bit of source n. -/
def srcBit (n : Nat) : BitVec 512 := (1 : BitVec 512) <<< n

/-- A level source. -/
def isLevel (n : Nat) : Bool := (1 ≤ n && n ≤ 5) || (48 ≤ n && n ≤ 143)

/-- A wired source. -/
def isWired (n : Nat) : Bool := 448 ≤ n && n ≤ 479

/-- The wired source has a pin (R449: 466–479 are never asserted). -/
def wiredPin (i : Nat) : Bool := i < 18

/-- SRC n's trigger: 0 level high, 1 level low, 2 rising, 3 falling. -/
def State.trig (s : State) (n : Nat) : Nat := fld (s.reg (rSrc n)) 10 2

/-- A wired source with a level trigger is asserted. -/
def State.wiredAsserted (s : State) (n : Nat) : Bool :=
  wiredPin (n - 448) && decide (s.trig n < 2) && (s.bells.wired.getLsbD (n - 448) == (s.trig n == 0))

/-- The level sources that send their level as messages: those of TICK and of the tiles (R449, R451). -/
def toldSources : List Nat := (List.range 5).map (· + 1) ++ (List.range 64).map (· + 80)

/-- The power domain of such a source. -/
def toldDomain (n : Nat) : Nat := if n < 80 then 3 else 16 + (n - 80)

/-- The level of such a source at its block. -/
def State.ownLevel (s : State) (n : Nat) : Bool :=
  if n < 80 then bit (s.reg rTickStatus) (7 + n)
  else bit (s.treg (n - 80) oFaultInfo) 4 || s.tileHalted (tid (n - 80))

/-- Bit n of a level record replaced. -/
def putLevel (w : BitVec 144) (n : Nat) (b : Bool) : BitVec 144 :=
  if b then w ||| ((1 : BitVec 144) <<< n) else w &&& ~~~ ((1 : BitVec 144) <<< n)

/-- One level source at the end of a ck: a changed level is sent; a source without power has none, and sends nothing
(R464). -/
def State.tellLevel (s : State) (n : Nat) : State :=
  if !s.pdOn (toldDomain n) then
    if s.bells.told.getLsbD n || s.bells.heard.getLsbD n then
      { s with bells := { s.bells with
          told := putLevel s.bells.told n false
          heard := putLevel s.bells.heard n false } }
    else s
  else
    let now := s.ownLevel n
    if s.bells.told.getLsbD n == now then s
    else
      let s := { s with bells := { s.bells with told := putLevel s.bells.told n now } }
      match bellRoute n with
      | some (r, i) => s.bellVia r i n now
      | none => s

/-- The level sources at the end of a ck, while the Bell has power. -/
def State.tellLevels (s : State) : State := if s.pdOn 7 then toldSources.foldl State.tellLevel s else s

/-- The level of a level source as the Bell has received it, or of a wired source with a level trigger. -/
def State.level (s : State) (n : Nat) : Bool :=
  if 48 ≤ n && n ≤ 79 then bit (s.reg (rWatchStatus (n - 48))) 0
  else if isWired n then s.wiredAsserted n
  else s.bells.heard.getLsbD n

/-- A pending bit set in this ck, observed from the next (R451). -/
def State.setPending (s : State) (n : Nat) : State :=
  { s with bells := { s.bells with fresh := s.bells.fresh ||| srcBit n } }

/-- Source n is pending, or has become so in this ck. -/
def State.isPending (s : State) (n : Nat) : Bool := s.bells.pend.getLsbD n || s.bells.fresh.getLsbD n

/-- One request of source n at its gateway (R450): pending, or remembered while the gateway is closed. -/
def State.request (s : State) (n : Nat) : State :=
  if s.bells.closed.getLsbD n then { s with bells := { s.bells with again := s.bells.again ||| srcBit n } }
  else s.setPending n

/-- A request while PD7 is off: the front end records those of wired sources and message doorbells (R464). -/
def State.recordImage (s : State) (n : Nat) : State :=
  if isWired n || (480 ≤ n && n ≤ 510) then { s with bells := { s.bells with image := s.bells.image ||| srcBit n } }
  else s

/-- A message of a source outside PD7 at its gateway (R450, R451). -/
def State.bellTold (s : State) (n : Nat) (value : Bool) : State :=
  if !isLevel n then s.request n
  else
    let s := { s with bells := { s.bells with heard := putLevel s.bells.heard n value } }
    if value && !s.bells.closed.getLsbD n then s.setPending n else s

/-- BELL_SOURCE_REQUEST: a message of source n that the mesh or a wire has brought reaches its gateway, or a level
source's gateway finds it asserted. -/
def State.sourceRequest (s : State) (n : Nat) : State :=
  match s.arrival (fun b => match b with | .bellMsg k _ => k == n | _ => false) with
  | some f =>
    let s := s.dropFlit f.age
    (match f.body with
      | .bellMsg _ v => s.bellTold n v
      | _ => s)
  | none =>
  if s.bellMsgs.contains n then
    let s := { s with bellMsgs := s.bellMsgs.erase n }
    if s.pdOn 7 then s.request n else s.recordImage n
  else if s.pdOn 7 && s.level n && !s.bells.closed.getLsbD n then s.setPending n
  else s

/-- WIRED_INPUT_CHANGE: the filtered level of wired source 448 + i changes; GPIO levels show in TOP.GPIO_IN (R621). -/
def State.wiredChange (s : State) (i : Nat) (high : Bool) : State :=
  if !wiredPin i || s.bells.wired.getLsbD i == high then s
  else
    let n := 448 + i
    let s := { s with bells := { s.bells with wired := s.bells.wired ^^^ (1 <<< i) } }
    let s := if 2 ≤ i then s.modReg rGpioIn (fun w => setBit w (i - 2) high) else s
    let hit := match s.trig n with
      | 0 => high
      | 1 => !high
      | 2 => high
      | _ => !high
    if !hit then s
    else if !s.pdOn 7 then s.recordImage n
    else if s.trig n < 2 && s.bells.closed.getLsbD n then s
    else s.request n

/-! ### Routing and priority (R453, R454, R459, R460) -/

/-- SRC n as it governs this ck: a write of this ck governs the next (R453). -/
def State.srcNow (s : State) (n : Nat) : Word := s.regBefore (rSrc n)

/-- SRC n's PRIO. -/
def State.prio (s : State) (n : Nat) : Nat := fld (s.srcNow n) 0 4

/-- Source n is routed to target m. -/
def State.routed (s : State) (n m : Nat) : Bool :=
  let w := s.srcNow n
  if bit w 9 then bit w (4 + m) else ((List.range 5).find? (fun k => bit w (4 + k))) == some m

/-- The hold-off of a group runs. -/
def State.heldOff (s : State) (g : Nat) : Bool := Sparse.get (fun _ => 0) s.bells.holdoff g ≠ 0

/-- The stack of target m. -/
def State.stack (s : State) (m : Fin 5) : List (Nat × Nat) := s.bells.stackOf[m]

/-- Running priority of target m. -/
def State.running (s : State) (m : Fin 5) : Nat := match s.stack m with | (_, p) :: _ => p | [] => 0

/-- GDIS bars every source: it reads 1, or has been cleared in this ck (R460). -/
def State.gdis (s : State) : Bool := bit (s.reg rBellCtrl) 0 || bit (s.regBefore rBellCtrl) 0

/-- Source n is eligible for target m. -/
def State.eligible (s : State) (m : Fin 5) (n : Nat) : Bool :=
  s.bells.pend.getLsbD n && decide (s.running m < s.prio n) && s.routed n m.val && !s.heldOff (n / 16) &&
    !s.gdis

/-- The eligible source of highest priority, the lower number winning ties; 511 with none (R455). -/
def State.claimOf (s : State) (m : Fin 5) : Nat :=
  ((List.range 511).foldl (fun (best : Nat × Nat) n =>
    if s.eligible m n && decide (best.2 < s.prio n) then (n, s.prio n) else best) (511, 0)).1

/-- The external interrupt lines as the next ck shows them (R454). -/
def State.nextLines (s : State) : State :=
  { s with bells := { s.bells with
      lines := Vector.ofFn (fun m : Fin 5 => s.pdOn 7 && decide (s.claimOf m ≠ 511)) } }

/-! ### Claims and EOIs (R455–R458) -/

/-- The master that owns a target. -/
def ownTarget (m : Master) (t : Fin 5) : Bool :=
  match m with
  | .steward k => k.val == t.val
  | .milkhouse => t.val == 4
  | _ => false

/-- Address of a target's CLAIM or EOI register. -/
def claimReg (t : Fin 5) : Nat := rClaim t.val
def eoiReg (t : Fin 5) : Nat := rEoi t.val

/-- A claim by the own target: what it returns, and its effects. -/
def State.claim (s : State) (t : Fin 5) : State × Nat :=
  let n := s.claimOf t
  if n = 511 then (s, 511)
  else
    let b := s.bells
    let g := n / 16
    let h := fld (s.reg (rGroup g)) 0 16
    ({ s with bells := { b with
        pend := b.pend &&& ~~~ srcBit n
        closed := b.closed ||| srcBit n
        again := b.again &&& ~~~ srcBit n
        stackOf := b.stackOf.set t ((n, s.prio n) :: s.stack t)
        holdoff := if h = 0 then b.holdoff else Sparse.insert b.holdoff g (b.mtime.toNat + 1 + 25 * h) } }, n)

/-- A CLAIM read of a target's register by a master: its value, and its effects where the master is the target. -/
def State.claimRead (s : State) (m : Master) (t : Fin 5) : State × Word :=
  if !s.pdOn 7 then (s, if m = .milkhouse then 511 else 0)
  else if ownTarget m t then
    let r := s.claim t
    (r.1, BitVec.ofNat 32 r.2)
  else (s, BitVec.ofNat 32 (s.claimOf t))

/-- BELL_CLAIM. The claims of several targets in one ck are in the order of R456 when the queue holds them so
(notes/assumptions/92.md). -/
def State.bellClaim (s : State) (m : Master) (t : Fin 5) : State :=
  let r := s.claimRead m t
  r.1.emit (.answer m (bytesOfNat 4 r.2.toNat) false)

/-- The gateway of a source opens (R450). -/
def State.openGate (s : State) (n : Nat) : State :=
  let again := s.bells.again.getLsbD n
  let s := { s with bells := { s.bells with
      closed := s.bells.closed &&& ~~~ srcBit n
      again := s.bells.again &&& ~~~ srcBit n } }
  let isLvl := isLevel n || (isWired n && decide (s.trig n < 2))
  if (isLvl && s.level n) || (!isLvl && again) then s.setPending n else s

/-- BELL_EOI: an EOI write of a value to a target's register (R457, R458). -/
def State.bellEoi (s : State) (m : Master) (t : Fin 5) (v : Nat) : State :=
  if !s.pdOn 7 then s
  else if !ownTarget m t then s.regFault m (eoiReg t)
  else
    match s.stack t with
    | [] => s.satReg rEoiErr
    | (n, _) :: rest =>
      let s := if v = n then s else s.satReg rEoiErr
      let s := { s with bells := { s.bells with stackOf := s.bells.stackOf.set t rest } }
      s.openGate n

/-! ### Hold-off, global disable, timer and software interrupts (R459–R461) -/

/-- Hold-offs still held past the bound of R459 end: later than one AON cycle after their term. -/
def State.holdoffLate (s : State) : State :=
  let keep := s.bells.holdoff.filter (fun p => decide (s.bells.mtime.toNat < p.2 + 2))
  if keep = s.bells.holdoff then s else { s with bells := { s.bells with holdoff := keep } }

/-- HOLDOFF_EXPIRY of group g, from the end of its term on (R459). -/
def State.holdoffExpire (s : State) (g : Nat) : State :=
  let e := Sparse.get (fun _ => 0) s.bells.holdoff g
  if e ≠ 0 && decide (e ≤ s.bells.mtime.toNat) then
    { s with bells := { s.bells with holdoff := Sparse.set (fun _ => 0) s.bells.holdoff g 0 } }
  else s

/-- GDIS_WRITE. -/
def State.gdisWrite (s : State) (m : Master) (v : Bool) : State :=
  s.regGate m rBellCtrl (fun s => s.setReg rBellCtrl (if v then 1 else 0))

/-- MSIP_WRITE of steward k. -/
def State.msipWrite (s : State) (m : Master) (k : Nat) (v : Bool) : State :=
  s.regGate m (rMsip k) (fun s => s.setReg (rMsip k) (if v then 1 else 0))

/-- MTIMECMP of steward k. -/
def State.mtimecmp (s : State) (k : Nat) : Nat :=
  (s.reg (rMtimecmp k)).toNat + 2 ^ 32 * (s.reg (rMtimecmp k + 4)).toNat

/-- MTIMECMP_MATCH: MTIP of steward k is asserted while MTIME ≥ MTIMECMP; every ck looks at it too (State.nextCk). -/
def State.timerMatch (s : State) (k : Fin 4) : State :=
  let on := decide (s.mtimecmp k.val ≤ s.bells.mtime.toNat)
  if (s.core k).mtip = on then s else s.modCore k (fun z => { z with mtip := on })

/-! ### The commands -/

def execBellSourceRequest (n : Fin 512) (s : State) : Host.Outcome State Fault Refusal := .next (s.sourceRequest n.val)
def execWiredInputChange (i : Fin 32) (high : Bool) (s : State) : Host.Outcome State Fault Refusal :=
  .next (s.wiredChange i.val high)
def execBellClaim (m : Master) (t : Fin 5) (s : State) : Host.Outcome State Fault Refusal := .next (s.bellClaim m t)
def execBellEoi (m : Master) (t : Fin 5) (v : BitVec 9) (s : State) : Host.Outcome State Fault Refusal :=
  .next (s.bellEoi m t v.toNat)
def execHoldoffExpiry (g : Fin 32) (s : State) : Host.Outcome State Fault Refusal := .next (s.holdoffExpire g.val)
def execGdisWrite (m : Master) (v : Bool) (s : State) : Host.Outcome State Fault Refusal := .next (s.gdisWrite m v)
def execMsipWrite (m : Master) (k : Fin 4) (v : Bool) (s : State) : Host.Outcome State Fault Refusal :=
  .next (s.msipWrite m k.val v)
def execMtimecmpMatch (k : Fin 4) (s : State) : Host.Outcome State Fault Refusal := .next (s.timerMatch k)

end Sys2Proof.Machine
end

