-- ==== Sys2Proof/Machine/Crypto.lean ====
section
/-!
DEFINITION. The algorithms that the spec names and takes from their own standards (PRESUMED, notes/assumptions/56.md):
CRC-32C (R439, R534, R535), SHA-384 (R540, R543) and the verification of an ECDSA signature over P-384 (R540, R580).
-/

namespace Sys2Proof.Machine

/-! ### CRC-32C -/

/-- The reflected CRC-32C of R439, one byte on. -/
def crcByte (c : Word) (b : Byte) : Word :=
  (List.range 8).foldl (fun c _ => if c.getLsbD 0 then (c >>> 1) ^^^ 0x82F63B78 else c >>> 1) (c ^^^ b.setWidth 32)

/-- The CRC-32C of bytes. -/
def crc32c (l : List Byte) : Word := ~~~ (l.foldl crcByte 0xFFFFFFFF)

/-! ### SHA-384 -/

/-- The first n primes at or above k. -/
def primesFrom : Nat → Nat → Nat → List Nat
  | 0, _, _ => []
  | fuel + 1, k, n =>
    if n = 0 then []
    else if (List.range k).all (fun d => d < 2 || k % d ≠ 0) then k :: primesFrom fuel (k + 1) (n - 1)
    else primesFrom fuel (k + 1) n

/-- The largest x below 2^bits with x^e ≤ n. -/
def intRoot (e n : Nat) : Nat → Nat
  | 0 => 0
  | b + 1 =>
    let hi := intRoot e (n / 2 ^ e) b * 2
    if (hi + 1) ^ e ≤ n then hi + 1 else hi

/-- The first 64 bits of the fractional part of the e-th root of p. -/
def rootFrac (e p : Nat) : BitVec 64 := BitVec.ofNat 64 (intRoot e (p * 2 ^ (64 * e)) 80)

/-- The 80 round constants. -/
def shaK : List (BitVec 64) := (primesFrom 500 2 80).map (rootFrac 3)

/-- The initial hash value of SHA-384: the ninth to sixteenth primes. -/
def shaInit : List (BitVec 64) := ((primesFrom 100 2 16).drop 8).map (rootFrac 2)

/-- Rotation right. -/
def rotr64 (x : BitVec 64) (n : Nat) : BitVec 64 := (x >>> n) ||| (x <<< (64 - n))

/-- The message schedule extended by n words; the first word of the list is the newest. -/
def shaSchedule : Nat → List (BitVec 64) → List (BitVec 64)
  | 0, w => w
  | n + 1, w =>
    let s0 := rotr64 (w.getD 14 0) 1 ^^^ rotr64 (w.getD 14 0) 8 ^^^ (w.getD 14 0 >>> 7)
    let s1 := rotr64 (w.getD 1 0) 19 ^^^ rotr64 (w.getD 1 0) 61 ^^^ (w.getD 1 0 >>> 6)
    shaSchedule n ((s1 + w.getD 6 0 + s0 + w.getD 15 0) :: w)

/-- One round on the eight working variables. -/
def shaRound (v : List (BitVec 64)) (kw : BitVec 64 × BitVec 64) : List (BitVec 64) :=
  let g (i : Nat) : BitVec 64 := v.getD i 0
  let s1 := rotr64 (g 4) 14 ^^^ rotr64 (g 4) 18 ^^^ rotr64 (g 4) 41
  let ch := (g 4 &&& g 5) ^^^ (~~~ (g 4) &&& g 6)
  let t1 := g 7 + s1 + ch + kw.1 + kw.2
  let s0 := rotr64 (g 0) 28 ^^^ rotr64 (g 0) 34 ^^^ rotr64 (g 0) 39
  let maj := (g 0 &&& g 1) ^^^ (g 0 &&& g 2) ^^^ (g 1 &&& g 2)
  [t1 + s0 + maj, g 0, g 1, g 2, g 3 + t1, g 4, g 5, g 6]

/-- n bytes as a number, the first the most significant. -/
def natBE (l : List Byte) : Nat := l.foldl (fun n b => 256 * n + b.toNat) 0

/-- A number as n bytes, the most significant first. -/
def bytesBE (n v : Nat) : List Byte := (bytesOfNat n v).reverse

/-- One 128-byte block. -/
def shaBlock (h : List (BitVec 64)) (b : List Byte) : List (BitVec 64) :=
  let w := shaSchedule 64 ((List.range 16).map (fun i => BitVec.ofNat 64 (natBE ((b.drop (8 * i)).take 8)))).reverse
  let v := (shaK.zip w.reverse).foldl shaRound h
  (h.zip v).map (fun (p : BitVec 64 × BitVec 64) => p.1 + p.2)

/-- The message with its padding. -/
def shaPad (m : List Byte) : List Byte :=
  m ++ [0x80] ++ List.replicate ((239 - m.length % 128) % 128) 0 ++ bytesBE 16 (8 * m.length)

/-- Blocks absorbed one after another. -/
def shaBlocks : Nat → List (BitVec 64) → List Byte → List (BitVec 64)
  | 0, h, _ => h
  | n + 1, h, m => shaBlocks n (shaBlock h (m.take 128)) (m.drop 128)

/-- The SHA-384 digest, 48 bytes. -/
def sha384 (m : List Byte) : List Byte :=
  let p := shaPad m
  ((shaBlocks (p.length / 128) shaInit p).take 6).flatMap (fun (w : BitVec 64) => bytesBE 8 w.toNat)

/-! ### ECDSA over P-384 -/

def p384P : Nat := 2 ^ 384 - 2 ^ 128 - 2 ^ 96 + 2 ^ 32 - 1
def p384B : Nat := 0xb3312fa7e23ee7e4988e056be3f82d19181d9c6efe8141120314088f5013875ac656398d8a2ed19d2a85c8edd3ec2aef
def p384N : Nat := 0xffffffffffffffffffffffffffffffffffffffffffffffffc7634d81f4372ddf581a0db248b0a77aecec196accc52973
def p384G : Nat × Nat :=
  (0xaa87ca22be8b05378eb1c71ef320ad746e1d3b628ba79b9859f741e082542a385502f25dbf55296c3a545e3872760ab7,
   0x3617de4a96262c6f5d9e98bf9292dc29f8f41dbd289a147ce9da3113b5f0b8c00a60b1ce1d7e819d7a431d7c90ea0e5f)

/-- x^e modulo m, for an exponent of at most 6 × fuel bits. -/
def powMod (m : Nat) : Nat → Nat → Nat → Nat
  | 0, _, _ => 1 % m
  | n + 1, x, e => powMod m n x (e / 64) ^ 64 * x ^ (e % 64) % m

/-- The inverse modulo a prime of 384 bits. -/
def invMod (m x : Nat) : Nat := powMod m 64 (x % m) (m - 2)

/-- The sum of two points of the curve; none is the point at infinity. -/
def ecAdd (a b : Option (Nat × Nat)) : Option (Nat × Nat) :=
  match a, b with
  | none, q => q
  | q, none => q
  | some (x1, y1), some (x2, y2) =>
    if x1 = x2 && (y1 + y2) % p384P = 0 then none
    else
      let l := if x1 = x2 then (3 * x1 * x1 + (p384P - 3)) * invMod p384P (2 * y1) % p384P
        else (y2 + p384P - y1) * invMod p384P (x2 + p384P - x1) % p384P
      let x := (l * l + 2 * p384P - x1 - x2) % p384P
      some (x, (l * (x1 + p384P - x) + p384P - y1) % p384P)

/-- A multiple of a point, for a factor of at most `fuel` bits. -/
def ecMul : Nat → Nat → Option (Nat × Nat) → Option (Nat × Nat)
  | 0, _, _ => none
  | n + 1, k, p => let r := ecMul n (k / 2) (ecAdd p p); if k % 2 = 1 then ecAdd r p else r

/-- A signature r, s over a digest, under a public key in uncompressed form, is valid. -/
def ecdsaValid (key digest sig : List Byte) : Bool :=
  let x := natBE ((key.drop 1).take 48)
  let y := natBE ((key.drop 49).take 48)
  let r := natBE (sig.take 48)
  let s := natBE ((sig.drop 48).take 48)
  let e := natBE (digest.take 48)
  let onCurve := key.take 1 == [4] && decide (x < p384P) && decide (y < p384P) &&
    y * y % p384P == (x * x * x + (p384P - 3) * x + p384B) % p384P
  if !onCurve || r = 0 || p384N ≤ r || s = 0 || p384N ≤ s then false
  else
    let w := invMod p384N s
    match ecAdd (ecMul 384 (e * w % p384N) (some p384G)) (ecMul 384 (r * w % p384N) (some (x, y))) with
    | none => false
    | some (px, _) => px % p384N == r

end Sys2Proof.Machine
end

