-- ==== Sys2Proof/Machine/Steward.lean ====
section
/-!
DEFINITION. The steward cores (R432–R448): memory protection, breakpoints, the long instructions of Xkx with their
progress and exceptions, KX.HSWAP, and interrupts. The base instructions of the cores are no commands of the block
(notes/assumptions/40.md); their accesses are those of STEWARD_MEMORY_ACCESS.
-/

namespace Sys2Proof.Machine

/-! ### Protection (R435) -/

/-- Kinds of an access. -/
inductive Acc3 where
  | read | write | exec
  deriving DecidableEq, Repr

/-- Trailing ones of a number, at most fuel. -/
def trailingOnes : Nat → Nat → Nat
  | 0, _ => 0
  | n + 1, x => if x % 2 = 1 then 1 + trailingOnes n (x / 2) else 0

/-- The range of PMP entry i, first byte and one past the last; none while it is OFF. NA4 is not selectable. -/
def Steward.pmpRange (z : Steward) (i : Fin 16) : Option (Nat × Nat) :=
  let a := z.pmpaddr[i].toNat
  let mode := z.pmpcfg[i].toNat / 8 % 4
  match mode with
  | 1 =>
    let lo := if h : 0 < i.val then z.pmpaddr[i.val - 1].toNat / 16 * 64 else 0
    some (lo, a / 16 * 64)
  | 3 =>
    let a := a / 8 * 8 + 7
    let n := trailingOnes 54 a
    some (a / 2 ^ n * 2 ^ n * 4, a / 2 ^ n * 2 ^ n * 4 + 2 ^ (n + 3))
  | _ => none

/-- PMP admits an access of n bytes from a. -/
def Steward.pmpOk (z : Steward) (user : Bool) (kind : Acc3) (a n : Nat) : Bool :=
  let hit := (List.finRange 16).find? (fun i =>
    match z.pmpRange i with
    | some (lo, hi) => decide (a < hi) && decide (lo < a + n)
    | none => false)
  match hit with
  | none => !user
  | some i =>
    let c := z.pmpcfg[i].toNat
    let whole := match z.pmpRange i with | some (lo, hi) => decide (lo ≤ a) && decide (a + n ≤ hi) | none => false
    let perm := match kind with | .read => c % 2 | .write => c / 2 % 2 | .exec => c / 4 % 2
    whole && ((!user && c / 128 = 0) || perm = 1)

/-! ### Breakpoints and halts (R586, R596) -/

/-- The breakpoint of core k that an access matches. -/
def State.bpHit (s : State) (k : Nat) (kind : Acc3) (a : Nat) : Option Nat :=
  if !s.scope 3 then none
  else
    (List.range 4).find? (fun i =>
      let c := s.reg (rSbpCfg k i)
      let lo := (s.reg (rSbpAddr k i)).toNat
      let n := 2 ^ min 20 (fld c 3 5)
      let kinds : Bool := match fld c 1 2, kind with
        | 0, .exec => true
        | 1, .read => true
        | 2, .write => true
        | 3, .read => true
        | 3, .write => true
        | _, _ => false
      bit c 0 && kinds && decide (lo / n * n ≤ a) && decide (a < lo / n * n + n))

/-- A breakpoint hit: the core halts before the access, and the frame domain stops where CTRL.BP_STOP asks for it. -/
def State.bpTaken (s : State) (k : Fin 4) (i : Nat) : State :=
  let s := s.modCore k (fun z => { z with haltReq := true, cause := 2, bp := i, stepLeft := false, kx := none })
  if bit (s.reg rDbgCtrl) 2 then s.fireStop 4 6 else s

/-- Core k may begin an instruction. -/
def State.coreRuns (s : State) (k : Fin 4) : Bool :=
  let z := s.core k
  s.pdOn 1 && !z.held && !z.halted && z.kx.isNone && (!z.haltReq || z.stepLeft)

/-- One instruction or element of a STEP has been performed. -/
def Steward.stepped (z : Steward) : Steward := { z with stepLeft := false }

/-! ### The slice 7 cache's front (R105, R106) -/

/-- The cached range: from CACHE_LO to CACHE_HI, in the Vat and outside the data store, while the cache has a size. -/
def State.cached (s : State) (a : Nat) : Bool :=
  s.cacheSize ≠ 0 && isVat a && decide ((s.reg rCacheLo).toNat ≤ a) && decide (a < (s.reg rCacheHi).toNat) &&
    !s.inCacheStore a

/-- The edge router by which the cache of slice 7 takes part in the mesh: (7, 6), the slice's serving router for the
stewards' row (R55). Its own fills and write-backs use it too (DESIGN CHOICE, notes/assumptions/78.md: R650 names no
router for them). -/
def cacheRouter : Nat := 55

/-- A steward access sent to the slice 7 cache, through the core's own router (R48, R650). -/
def State.cacheAsk (s : State) (r : CacheReq) : State :=
  let (rt, p) := masterPlace (.steward r.core) r.addr
  if r.wr.isSome then s.sendAsync (.cacheAsk r) .data .write rt cacheRouter 5 0 p
  else s.sendAsync (.cacheAsk r) .request .any rt cacheRouter 5 0 p

/-! ### Elements of long instructions (R436–R444) -/

/-- What an element's read comes to: its bytes at once, a wait, or a stop. -/
inductive ElemRead where
  | data (s : State) (bs : List Byte)
  | wait (s : State)
  | stop (s : State)

/-- Addresses that elements reach: Pail, Vat or steward SRAM, with their domain on (R438, R69). -/
def State.elemThere (s : State) (a n : Nat) : Bool := s.memThere a && s.memThere (a + n - 1)

/-- The element at which a long instruction stands. -/
def Steward.elem (z : Steward) : Nat := z.kxprog.toNat

/-- Source address and bytes of an element's read; none for KX.FILL. -/
def Steward.elemSrc (z : Steward) (r : KxRun) : Option (Nat × Nat) :=
  match r.op with
  | .copy => some (z.x[r.rs2].toNat + 8 * z.elem, 8)
  | .fill => none
  | .crc => some (z.x[r.rs1].toNat + z.elem, 1)
  | .hset => some (z.x[r.rs1].toNat + 16 * z.elem, 16)

/-- An element's read. -/
def State.elemRead (s : State) (k : Fin 4) (r : KxRun) : ElemRead :=
  let z := s.core k
  match z.elemSrc r with
  | none => .data s []
  | some (a, n) =>
    match s.bpHit k.val .read a with
    | some i => .stop (s.bpTaken k i)
    | none =>
      if !z.pmpOk r.user .read a n || !s.elemThere a n then .stop ((s.coreTrap k 5 a).modCore k (fun z => { z with kx := none }))
      else if isSram a then
        let (s, bs, bad) := s.readMem 0 a n
        if bad.any id then .stop ((s.coreTrap k 5 a).modCore k (fun z => { z with kx := none })) else .data s bs
      else
        let s := s.modCore k (fun z => { z with kx := some { r with addr := a, len := n, got := [], bad := false } })
        if s.cached a then .wait (s.cacheAsk { core := k, addr := a, len := n, wr := none, rd := 0, sgn := false, kx := true })
        else
          let (rt, p) := masterPlace (.steward k) a
          .wait (s.narrowRead rt a n (.kx k.val r.id) p)

/-- A core's write of whole words to Pail, Vat or SRAM, once its checks have passed. -/
def State.coreStore (s : State) (k : Fin 4) (a : Nat) (bs : List Byte) (kx : Bool) : State :=
  if isSram a then s.sramWrite (some k) a bs
  else if s.cached a then s.cacheAsk { core := k, addr := a, len := bs.length, wr := some bs, rd := 0, sgn := false, kx := kx }
  else
    let (rt, p) := masterPlace (.steward k) a
    s.narrowWrite rt a bs (.write (masterCode (.steward k))) p

/-- An entry of a handle table written: the table 0–63 or 0xFF, the bank, the index (R90, R440). -/
def State.setHandle (s : State) (table bank i : Nat) (e : Quad) : State :=
  if table < 64 then
    s.modTile (tid table) (fun x => { x with handles := Sparse.set (fun _ => 0) x.handles (64 * bank + i) e })
  else { s with mem := { s.mem with vh := Sparse.set (fun _ => 0) s.mem.vh (1024 * bank + i) e } }

/-- The element names an active bank that may not be written (R97). -/
def State.bankLocked (s : State) (table bank : Nat) : Bool :=
  if table < 64 then (s.tile (tid table)).frameRun && fld (s.treg table oHbank) 0 1 == bank
  else s.planRuns && fld (s.reg rVhBank) 0 1 == bank

/-- A handle table whose domain has power; KX.HSET into another traps as an access without an address does (DEDUCED from
R69, notes/assumptions/45.md). -/
def State.tableThere (s : State) (table : Nat) : Bool := if table < 64 then s.pdOn (16 + table) else s.pdOn 7

/-- An element's work on the bytes read: the state after it, and whether it was done. -/
def State.elemDo (s : State) (k : Fin 4) (r : KxRun) (bs : List Byte) : State × Bool :=
  let z := s.core k
  let put (a : Nat) (d : List Byte) : State × Bool :=
    match s.bpHit k.val .write a with
    | some i => (s.bpTaken k i, false)
    | none =>
      if !z.pmpOk r.user .write a 8 || !s.elemThere a 8 then (s.coreTrap k 7 a, false) else (s.coreStore k a d true, true)
  match r.op with
  | .copy => put (z.x[r.rs1].toNat + 8 * z.elem) bs
  | .fill => put (z.x[r.rs1].toNat + 8 * z.elem) (bytesOfNat 8 z.x[r.rs2].toNat)
  | .crc =>
    let c := if z.elem = 0 then ~~~ (z.x[r.rs2].setWidth 32) else z.kxacc
    (s.modCore k (fun z => { z with kxacc := bs.foldl crcByte c }), true)
  | .hset =>
    let w := z.x[r.rs2].toNat
    let i := w % 65536 + z.elem
    let table := w / 65536 % 256
    let bank := w / 2 ^ 24 % 2
    if s.bankLocked table bank || !s.tableThere table then (s.coreTrap k 7 (z.x[r.rs1].toNat + 16 * z.elem), false)
    else (s.setHandle table bank i (BitVec.ofNat 128 (natOfBytes bs)), true)

/-- Elements in all (R436). -/
def Steward.elems (z : Steward) (r : KxRun) : Nat :=
  match r.op with
  | .copy => z.x[r.rd].toNat / 8
  | .fill => z.x[r.rd].toNat / 8
  | .crc => z.x[r.rd].toNat
  | .hset => z.x[r.rd].toNat

/-- The instruction completes: its result in x[rd], kxprog 0 (R442). -/
def Steward.kxDone (z : Steward) (r : KxRun) : Steward :=
  let v : Dword := match r.op with
    | .crc => (~~~ (if z.elem = 0 then ~~~ (z.x[r.rs2].setWidth 32) else z.kxacc)).setWidth 64
    | _ => 0
  { (z.wx r.rd.val v) with
    kxprog := 0
    kx := none
    pc := z.pc + 4
    stepLeft := false }.retired

/-- One element done: kxprog moves on. -/
def Steward.kxNext (z : Steward) : Steward := { z with kxprog := z.kxprog + 1, kx := none, stepLeft := false }

/-- Elements performed one after another until a read waits, an exception or a halt stops them, or all are done. -/
def State.kxRun (fuel : Nat) (s : State) (k : Fin 4) (r : KxRun) : State :=
  match fuel with
  | 0 => s
  | n + 1 =>
    let z := s.core k
    if z.elems r ≤ z.elem then s.modCore k (fun z => z.kxDone r)
    else if z.haltReq && !z.stepLeft then s.modCore k (fun z => { z with kx := none })
    else
      match s.elemRead k r with
      | .stop s => s
      | .wait s => s
      | .data s bs =>
        let (s, ok) := s.elemDo k r bs
        if ok then State.kxRun n (s.modCore k Steward.kxNext) k r else s

/-- Data of an element's read, unless they answer an element given up before (R443): the element is done and the next ones
follow; an uncorrectable word gives a load access
fault (R438). -/
def State.kxData (s : State) (k : Fin 4) (a : Nat) (bs : List Byte) (bad : Bool) : State :=
  match (s.core k).kx with
  | none => s
  | some r =>
    let got := bs.zipIdx.foldl (fun m p => Sparse.insert m (a + p.2) p.1) r.got
    let r := { r with got := got, bad := r.bad || bad }
    if a < r.addr || r.addr + r.len < a + bs.length then s
    else if got.length < r.len then s.modCore k (fun z => { z with kx := some r })
    else if r.bad then (s.modCore k (fun z => { z with kx := none })).coreTrap k 5 r.addr
    else
      let (s, ok) := s.elemDo k r (got.map (fun (p : Nat × Byte) => p.2))
      if !ok then s.modCore k (fun z => { z with kx := none })
      else
        let s := s.modCore k Steward.kxNext
        s.kxRun ((s.core k).elems r + 1) k r

/-- Why a long instruction does not begin: the cause of its exception and mtval, the address of the element it stands at
(R437, R440, R441, R444). -/
def Steward.kxRefused (z : Steward) (r : KxRun) : Option (Nat × Nat) :=
  let len := z.x[r.rd].toNat
  let a1 := z.x[r.rs1].toNat
  let a2 := z.x[r.rs2].toNat
  let illegal : Bool :=
    r.rd.val = 0 || r.rd = r.rs1 || r.rd = r.rs2 ||
      (match r.op with
        | .hset => r.user || decide (2 ^ 25 ≤ a2) || (decide (64 ≤ a2 / 65536 % 256) && a2 / 65536 % 256 != 255) ||
            decide ((if a2 / 65536 % 256 = 255 then 1024 else 64) < a2 % 65536 + len)
        | .crc => (r.user && !bit z.mkxcfg 0) || decide (0x1000000 < len)
        | _ => (r.user && !bit z.mkxcfg 0) || decide (0x1000000 < len) || len % 8 != 0)
  if illegal then some (2, 0)
  else if len = 0 then none
  else
    match r.op with
    | .copy =>
      if a2 % 8 ≠ 0 then some (4, a2 + 8 * z.elem)
      else if a1 % 8 ≠ 0 then some (6, a1 + 8 * z.elem) else none
    | .fill => if a1 % 8 ≠ 0 then some (6, a1 + 8 * z.elem) else none
    | .hset => if a1 % 16 ≠ 0 then some (4, a1 + 16 * z.elem) else none
    | .crc => none

/-- A long instruction executed by core k: from element kxprog on (R442). -/
def State.kxLong (s : State) (k : Fin 4) (op : KxOp) (rd rs1 rs2 : Fin 32) : State :=
  if !s.coreRuns k then s
  else
    let z := s.core k
    let r : KxRun := { id := s.ladle.nextId, op := op, rd := rd, rs1 := rs1, rs2 := rs2, user := z.user, addr := 0, len := 0
                       got := [], bad := false }
    let s := { s with ladle := { s.ladle with nextId := s.ladle.nextId + 1 } }
    match z.kxRefused r with
    | some (c, v) => (s.coreTrap k c v).modCore k Steward.stepped
    | none => s.kxRun (z.elems r + 1) k r

/-! ### KX.HSWAP (R98, R447) -/

/-- A table switched, or its switch deferred to the next tick: the status of R447. -/
def State.hswap (s : State) (table : Nat) : State × Nat :=
  let reg := if table < 64 then rTile table oHbank else rVhBank
  let held := if table < 64 then (s.tile (tid table)).frameRun else s.planRuns
  if held then
    if bit (s.reg reg) 1 then (s, 2) else (s.orReg reg 2, 1)
  else (s.modReg reg (fun w => w ^^^ 1), 0)

/-- KX.HSWAP by core k. -/
def State.kxHswap (s : State) (k : Fin 4) (rd rs1 : Fin 32) : State :=
  if !s.coreRuns k then s
  else
    let z := s.core k
    let v := z.x[rs1].toNat
    if z.user || decide (256 ≤ v) || (decide (64 ≤ v) && v != 255) then (s.coreTrap k 2 0).modCore k Steward.stepped
    else
      let (s, st) := if s.tableThere v then s.hswap v else (s, 0)
      s.modCore k (fun z => { (z.wx rd.val (BitVec.ofNat 64 st)).stepped.retired with pc := z.pc + 4 })

/-! ### Interrupts (R443, R461) -/

/-- The interrupt that core k takes next: external, then software, then timer. -/
def State.coreIrq (s : State) (k : Fin 4) : Option Nat :=
  let ext : Bool := s.bells.lines[k.val]
  if ext then some 11
  else if bit (s.reg (rMsip k.val)) 0 then some 3
  else if (s.core k).mtip then some 7
  else none

/-- STEWARD_INTERRUPT: an enabled interrupt that is asserted is taken, at an element boundary of a long instruction: the
element in progress is discarded (R443). -/
def State.coreInterrupt (s : State) (k : Fin 4) : State :=
  let z := s.core k
  if !s.pdOn 1 || z.held || z.halted || (z.haltReq && !z.stepLeft) then s
  else
    match s.coreIrq k with
    | none => s
    | some c => s.modCore k (fun z => { z with kx := none }.trap (BitVec.ofNat 64 (2 ^ 63 + c)) 0)

/-! ### The commands -/

def execKxCopy (k : Fin 4) (rd rs1 rs2 : Fin 32) (s : State) : Host.Outcome State Fault Refusal :=
  .next (s.kxLong k .copy rd rs1 rs2)
def execKxFill (k : Fin 4) (rd rs1 rs2 : Fin 32) (s : State) : Host.Outcome State Fault Refusal :=
  .next (s.kxLong k .fill rd rs1 rs2)
def execKxCrc32c (k : Fin 4) (rd rs1 rs2 : Fin 32) (s : State) : Host.Outcome State Fault Refusal :=
  .next (s.kxLong k .crc rd rs1 rs2)
def execKxHset (k : Fin 4) (rd rs1 rs2 : Fin 32) (s : State) : Host.Outcome State Fault Refusal :=
  .next (s.kxLong k .hset rd rs1 rs2)
def execKxHswap (k : Fin 4) (rd rs1 : Fin 32) (s : State) : Host.Outcome State Fault Refusal := .next (s.kxHswap k rd rs1)
def execStewardInterrupt (k : Fin 4) (s : State) : Host.Outcome State Fault Refusal := .next (s.coreInterrupt k)

end Sys2Proof.Machine
end

