-- ==== Sys2Proof/Machine/Cache.lean ====
section
/-!
DEFINITION. The slice 7 cache (R105–R109, R121): 8-way set-associative, 128-byte lines, write-back and write-allocate,
serving the steward cores' accesses to the cached range.
-/

namespace Sys2Proof.Machine

/-! ### Lines -/

/-- Sets of the cache at a size: its bytes over 8 ways of 128 bytes. -/
def cacheSets (size : Nat) : Nat := match size with | 1 => 0x2000 | 2 => 0x4000 | _ => 0x8000

/-- The set of an address. -/
def State.cacheSet (s : State) (a : Nat) : Nat := a / 128 % cacheSets s.cacheSize

/-- The line of an address, if held. -/
def State.cacheLine (s : State) (a : Nat) : Option CacheLine := s.mem.cache.find? (fun l => l.addr == a / 128 * 128)

/-- The line replaced by a fill into a full set: the least recently used one (DESIGN CHOICE, notes/assumptions/43.md). -/
def State.cacheVictim (s : State) (a : Nat) : Option CacheLine :=
  let set := s.mem.cache.filter (fun l => s.cacheSet l.addr == s.cacheSet a)
  if set.length < 8 then none
  else
    set.foldl (fun (best : Option CacheLine) l => match best with
      | some b => if l.used < b.used then some l else some b
      | none => some l) none

/-- A dirty line written back by narrow accesses. -/
def State.writeBack (s : State) (l : CacheLine) : State :=
  if !l.dirty then s
  else
    let s := s.incReg rCacheWb
    let s := { s with cacheWork := { s.cacheWork with wb := s.cacheWork.wb + (pieces l.addr 128).length } }
    s.narrowWrite cacheRouter l.addr l.data .cacheWb 5

/-- Every line removed. -/
def State.cacheEmpty (s : State) : State := { s with mem := { s.mem with cache := [] } }

/-! ### Accesses (R106, R109) -/

/-- The answer to a steward access at its core: an element's data, a load's register, a fetch, or nothing for a store. -/
def State.cacheGot (s : State) (r : CacheReq) (bs : List Byte) (bad : Bool) : State :=
  match r.wr with
  | some _ => if bad then (if r.kx then s.coreTrap r.core 7 r.addr else s.refuseWrite (.steward r.core) r.addr) else s
  | none =>
    if r.kx then s.kxData r.core r.addr bs bad
    else s.answerRead (.steward r.core) r.rd r.sgn r.addr bs bad r.fetch

/-- The answer sent back through the mesh, to the core's own router (R48, R650): read data, or word of a store's fault. A
store that is served has none. -/
def State.cacheAnswer (s : State) (r : CacheReq) (bs : List Byte) (bad : Bool) : State :=
  let (rt, p) := masterPlace (.steward r.core) r.addr
  if r.wr.isNone then s.sendAsync (.cacheData r bs bad) .data .read cacheRouter rt p 0 5
  else if bad then s.sendAsync (.cacheData r [] true) .request .any cacheRouter rt p 0 5
  else s

/-- An access that no longer lies in the cached range when the cache takes it, after a drain to another size: narrow
accesses, as outside the range. -/
def State.uncached (s : State) (r : CacheReq) : State :=
  match r.wr with
  | some bs => s.masterWrite (.steward r.core) r.addr bs
  | none =>
    if r.kx then
      let (rt, p) := masterPlace (.steward r.core) r.addr
      match (s.core r.core).kx with
      | some x => s.narrowRead rt r.addr r.len (.kx r.core.val x.id) p
      | none => s
    else s.masterRead (.steward r.core) r.addr r.len r.rd r.sgn r.fetch

/-- The accesses that have arrived join the cache's queue, in arrival order. -/
def State.cacheTake (s : State) : State :=
  let here (f : Flit) : Bool := s.arrived f && (match f.body with | .cacheAsk _ => true | _ => false)
  let now := (s.mesh.flits.filter here).foldr (insertBy (fun f g => match f.pos, g.pos with
    | .delivered c, .delivered d => decide (c < d) || (c == d && decide (f.age ≤ g.age))
    | _, _ => decide (f.age ≤ g.age))) []
  { s with
    mesh := { s.mesh with flits := s.mesh.flits.filter (fun f => !here f) }
    cacheWork := { s.cacheWork with
      reqs := s.cacheWork.reqs ++ now.filterMap (fun f => match f.body with | .cacheAsk r => some r | _ => none) } }

/-- A request served by a line that the cache holds. -/
def State.cacheServe (s : State) (r : CacheReq) (l : CacheLine) : State :=
  let n := s.ladle.nextId
  let s := { s with ladle := { s.ladle with nextId := n + 1 } }
  let o := r.addr - l.addr
  let l' : CacheLine := match r.wr with
    | some bs => { l with
        data := (l.data.take o) ++ bs ++ (l.data.drop (o + bs.length))
        dirty := true
        used := n }
    | none => { l with used := n }
  let s := { s with mem := { s.mem with
      cache := s.mem.cache.map (fun (x : CacheLine) => if x.addr = l.addr then l' else x) } }
  s.cacheAnswer r ((l.data.drop o).take r.len) false

/-- CACHE_ACCESS: the next access of core k at the cache is decided (R109): a hit is served; a miss replaces a line and
begins a fill. -/
def State.cacheAccess (s : State) (k : Fin 4) : State :=
  let s := s.cacheTake
  if bit (s.reg rCacheStatus) 2 || s.cacheWork.fill.isSome || !s.pdOn 7 then s
  else
    match s.cacheWork.reqs.find? (fun r => r.core == k) with
    | none => s
    | some r =>
      let s := { s with cacheWork := { s.cacheWork with reqs := s.cacheWork.reqs.erase r } }
      if !s.cached r.addr then s.uncached r
      else
      let s := s.countNdet 0
      match s.cacheLine r.addr with
      | some l => (s.incReg rCacheHits).cacheServe r l
      | none =>
        let s := s.incReg rCacheMisses
        let s := match s.cacheVictim r.addr with
          | some v =>
            let s := s.writeBack v
            { s with mem := { s.mem with cache := s.mem.cache.filter (fun l => l.addr ≠ v.addr) } }
          | none => s
        let a := r.addr / 128 * 128
        let s := { s with cacheWork := { s.cacheWork with fill := some { req := r, addr := a, got := [], bad := false } } }
        s.narrowRead cacheRouter a 128 .cacheFill 5

/-- A line written back where it is dirty, and dropped. -/
def State.dropLine (s : State) (a : Nat) : State :=
  match s.cacheLine a with
  | none => s
  | some l =>
    let s := s.writeBack l
    { s with mem := { s.mem with cache := s.mem.cache.filter (fun x => x.addr ≠ l.addr) } }

/-- Data of a line fill; the whole line is installed and the access served; a fill that a drain finds in flight is
written back and dropped with the other lines (R108). A line with an uncorrectable word is not kept, and the access
faults (R111). -/
def State.fillData (s : State) (a : Nat) (bs : List Byte) (bad : Bool) : State :=
  match s.cacheWork.fill with
  | none => s
  | some f =>
    let got := bs.zipIdx.foldl (fun m p => Sparse.insert m (a + p.2) p.1) f.got
    let f := { f with got := got, bad := f.bad || bad }
    if got.length < 128 then { s with cacheWork := { s.cacheWork with fill := some f } }
    else
      let s := { s with cacheWork := { s.cacheWork with fill := none } }
      if f.bad then s.cacheAnswer f.req [] true
      else
        let l : CacheLine := { addr := f.addr, data := got.map (fun (p : Nat × Byte) => p.2), dirty := false, used := 0 }
        let s := { s with mem := { s.mem with cache := s.mem.cache ++ [l] } }
        let s := s.cacheServe f.req l
        if bit (s.reg rCacheStatus) 2 then s.dropLine f.addr else s

/-! ### Size, clean and invalidate (R108, R121) -/

/-- A plan claims a bank that the cache would hold at a size. -/
def State.sizeClaimed (s : State) (size : Nat) : Bool :=
  let first := match size with | 0 => 16 | 1 => 14 | 2 => 12 | _ => 8
  s.planRuns && (s.sliceSlots 7).any (fun r => r.kind == 0x11 && decide (first ≤ r.arg))

/-- A drain begun: every dirty line is written back and every line invalidated; the size waits for its end. -/
def State.cacheDrain (s : State) (size : Nat) : State :=
  let s := s.mem.cache.foldl (fun s l => s.writeBack l) s
  let s := (s.cacheEmpty.setReg rCacheCfg (BitVec.ofNat 32 size)).orReg rCacheStatus 4
  { s with mem := { s.mem with cacheNext := some size } }

/-- CACHE_SIZE_WRITE. A write during a drain replaces the size that the drain will apply. -/
def State.cacheSizeSet (s : State) (size : Nat) : State :=
  if s.sizeClaimed size then s.orReg rCacheStatus 8
  else if bit (s.reg rCacheStatus) 2 then
    { s.setReg rCacheCfg (BitVec.ofNat 32 size) with mem := { s.mem with cacheNext := some size } }
  else s.cacheDrain size

/-- CACHE_SIZE_WRITE by a master. -/
def State.cacheSizeWrite (s : State) (m : Master) (size : Nat) : State :=
  s.regGate m rCacheCfg (fun s => s.cacheSizeSet size)

/-- CACHE_DRAIN_COMPLETE: the new size applies; banks that enter or leave the data store lose their contents. -/
def State.drainDone (s : State) : State :=
  match s.mem.cacheNext with
  | none => s
  | some size =>
    if s.cacheWork.wb ≠ 0 || s.cacheWork.fill.isSome then s
    else
      let lo := min (cacheStoreLo s.cacheSize) (cacheStoreLo size)
      let hi := max (cacheStoreLo s.cacheSize) (cacheStoreLo size)
      let s := s.setReg rCacheStatus ((s.reg rCacheStatus &&& 8) ||| BitVec.ofNat 32 size)
      { s with mem := { (if lo = hi then s.mem else s.mem.lose lo hi) with cacheNext := none } }

/-- CACHE_CLEAN: dirty lines are written back and stay. -/
def State.cacheClean (s : State) (m : Master) : State :=
  s.regGate m rCacheCtrl (fun s =>
    let s := s.mem.cache.foldl (fun s l => s.writeBack l) s
    { s.orReg rCacheCtrl 1 with mem := { s.mem with
        cache := s.mem.cache.map (fun (l : CacheLine) => { l with dirty := false }) } })

/-- CACHE_INVAL: every line is discarded, dirty ones unwritten; after a clean written with it, none is dirty. -/
def State.cacheInval (s : State) (m : Master) : State :=
  s.regGate m rCacheCtrl (fun s => (s.orReg rCacheCtrl 2).cacheEmpty)

/-- CACHE_CTRL_COMPLETE: the write-backs have been made, and both bits read 0. -/
def State.cacheCtrlDone (s : State) : State := if s.cacheWork.wb = 0 then s.clrReg rCacheCtrl 3 else s

/-! ### The commands -/

def execCacheAccess (k : Fin 4) (s : State) : Host.Outcome State Fault Refusal := .next (s.cacheAccess k)
def execCacheSizeWrite (m : Master) (size : Fin 4) (s : State) : Host.Outcome State Fault Refusal :=
  .next (s.cacheSizeWrite m size.val)
def execCacheDrainComplete (s : State) : Host.Outcome State Fault Refusal := .next s.drainDone
def execCacheClean (m : Master) (s : State) : Host.Outcome State Fault Refusal := .next (s.cacheClean m)
def execCacheInval (m : Master) (s : State) : Host.Outcome State Fault Refusal := .next (s.cacheInval m)
def execCacheCtrlComplete (s : State) : Host.Outcome State Fault Refusal := .next s.cacheCtrlDone

end Sys2Proof.Machine
end

