-- ==== Sys2Proof/Machine/Lanczos.lean ====
section
/-!
DEFINITION. The tap weights of the Skim scaler (R424): w[p][k] for phases 0–63, computed from
round(256 × sinc(x) × sinc(x / 4)) at x = k − 3 − p / 64, with tap 3 or 4 set so that each phase sums to 256.
-/

namespace Sys2Proof.Machine

/-- Phases 0 to 15. -/
def skimTaps0 : List (List Int) :=
  [ [0, 0, 0, 256, 0, 0, 0, 0],
    [0, 1, -4, 256, 4, -1, 0, 0],
    [-1, 2, -7, 257, 7, -3, 1, 0],
    [-1, 4, -10, 255, 11, -4, 1, 0],
    [-1, 5, -13, 253, 15, -5, 2, 0],
    [-2, 6, -16, 253, 20, -7, 2, 0],
    [-2, 7, -19, 251, 24, -8, 3, 0],
    [-2, 8, -22, 251, 28, -10, 3, 0],
    [-3, 9, -24, 248, 33, -11, 4, 0],
    [-3, 10, -27, 247, 38, -13, 4, 0],
    [-3, 10, -29, 245, 42, -14, 5, 0],
    [-3, 11, -31, 243, 47, -16, 5, 0],
    [-3, 12, -33, 240, 52, -17, 6, -1],
    [-4, 13, -35, 239, 57, -19, 6, -1],
    [-4, 13, -36, 235, 62, -20, 7, -1],
    [-4, 14, -38, 232, 67, -22, 8, -1] ]

/-- Phases 16 to 31. -/
def skimTaps1 : List (List Int) :=
  [ [-4, 14, -39, 229, 72, -23, 8, -1],
    [-4, 15, -40, 224, 78, -25, 9, -1],
    [-4, 15, -41, 221, 83, -26, 9, -1],
    [-4, 15, -42, 218, 88, -28, 10, -1],
    [-4, 16, -43, 214, 94, -29, 10, -2],
    [-4, 16, -44, 211, 99, -31, 11, -2],
    [-4, 16, -44, 206, 105, -32, 11, -2],
    [-4, 16, -44, 201, 110, -33, 12, -2],
    [-4, 16, -45, 198, 116, -35, 12, -2],
    [-4, 16, -45, 193, 121, -36, 13, -2],
    [-4, 16, -45, 188, 127, -37, 13, -2],
    [-4, 16, -45, 184, 132, -38, 14, -3],
    [-4, 16, -45, 179, 138, -39, 14, -3],
    [-4, 16, -44, 174, 143, -40, 14, -3],
    [-3, 16, -44, 168, 148, -41, 15, -3],
    [-3, 16, -43, 162, 154, -42, 15, -3] ]

/-- Phases 32 to 47. -/
def skimTaps2 : List (List Int) :=
  [ [-3, 15, -43, 159, 159, -43, 15, -3],
    [-3, 15, -42, 154, 162, -43, 16, -3],
    [-3, 15, -41, 148, 168, -44, 16, -3],
    [-3, 14, -40, 143, 174, -44, 16, -4],
    [-3, 14, -39, 138, 179, -45, 16, -4],
    [-3, 14, -38, 132, 184, -45, 16, -4],
    [-2, 13, -37, 127, 188, -45, 16, -4],
    [-2, 13, -36, 121, 193, -45, 16, -4],
    [-2, 12, -35, 116, 198, -45, 16, -4],
    [-2, 12, -33, 110, 201, -44, 16, -4],
    [-2, 11, -32, 105, 206, -44, 16, -4],
    [-2, 11, -31, 99, 211, -44, 16, -4],
    [-2, 10, -29, 94, 214, -43, 16, -4],
    [-1, 10, -28, 88, 218, -42, 15, -4],
    [-1, 9, -26, 83, 221, -41, 15, -4],
    [-1, 9, -25, 78, 224, -40, 15, -4] ]

/-- Phases 48 to 63. -/
def skimTaps3 : List (List Int) :=
  [ [-1, 8, -23, 72, 229, -39, 14, -4],
    [-1, 8, -22, 67, 232, -38, 14, -4],
    [-1, 7, -20, 62, 235, -36, 13, -4],
    [-1, 6, -19, 57, 239, -35, 13, -4],
    [-1, 6, -17, 52, 240, -33, 12, -3],
    [0, 5, -16, 47, 243, -31, 11, -3],
    [0, 5, -14, 42, 245, -29, 10, -3],
    [0, 4, -13, 38, 247, -27, 10, -3],
    [0, 4, -11, 33, 248, -24, 9, -3],
    [0, 3, -10, 28, 251, -22, 8, -2],
    [0, 3, -8, 24, 251, -19, 7, -2],
    [0, 2, -7, 20, 253, -16, 6, -2],
    [0, 2, -5, 15, 253, -13, 5, -1],
    [0, 1, -4, 11, 255, -10, 4, -1],
    [0, 1, -3, 7, 257, -7, 2, -1],
    [0, 0, -1, 4, 256, -4, 1, 0] ]

/-- Every phase. -/
def skimTaps : List (List Int) := skimTaps0 ++ skimTaps1 ++ skimTaps2 ++ skimTaps3

end Sys2Proof.Machine
end

