-- ==== Sys2Proof/Machine/Plan.lean ====
section
/-!
DEFINITION. The frame plan container and the swap engine (spec file 10): the header and variant entry, the hardware
checks of R336, arming (R338, R448, R487), the engine's start, loads and end (R339–R345, R508), and the core clock
(R471–R473).
-/

namespace Sys2Proof.Machine

/-! ### The timing set in force and what follows from the clock (R27, R390, R430) -/

/-- The fields of a timing set, from TS_H0 to TS_FLAGS. -/
def tsHActive (ts : Vector Word 6) : Nat := fld ts[0] 0 13
def tsHTotal (ts : Vector Word 6) : Nat := fld ts[0] 16 13
def tsHFp (ts : Vector Word 6) : Nat := fld ts[1] 0 12
def tsHSync (ts : Vector Word 6) : Nat := fld ts[1] 16 12
def tsVActive (ts : Vector Word 6) : Nat := fld ts[2] 0 12
def tsVbMin (ts : Vector Word 6) : Nat := fld ts[2] 16 12
def tsVbMax (ts : Vector Word 6) : Nat := fld ts[3] 0 13
def tsVFp (ts : Vector Word 6) : Nat := fld ts[3] 16 8
def tsVSync (ts : Vector Word 6) : Nat := fld ts[3] 24 8

/-- The realised pixel clock: TS_PCLK rounded down to 100 Hz (R390). -/
def tsPclk (ts : Vector Word 6) : Nat := ts[4].toNat / 100 * 100

/-- The limits of R390; `pair` is the mode in force after the request. -/
def tsLegal (ts : Vector Word 6) (pair : Bool) : Bool :=
  let ha := tsHActive ts
  let inr (lo hi v : Nat) : Bool := decide (lo ≤ v) && decide (v ≤ hi)
  ha % 8 == 0 && inr 640 (if pair then 3840 else 4096) ha && inr 8 1023 (tsHFp ts) && inr 8 1023 (tsHSync ts) &&
    inr (ha + tsHFp ts + tsHSync ts + 8) 8191 (tsHTotal ts) && tsVActive ts % 8 == 0 && inr 480 2160 (tsVActive ts) &&
    inr 1 255 (tsVFp ts) && inr 1 255 (tsVSync ts) && inr (tsVFp ts + tsVSync ts + 1) 4095 (tsVbMin ts) &&
    inr (tsVbMin ts) 8191 (tsVbMax ts) && inr 25000000 600000000 ts[4].toNat

/-- The minimum frame period of a timing set at a core clock in kHz (R27). -/
def minPeriod (ts : Vector Word 6) (kHz : Nat) : Nat :=
  (tsVActive ts + tsVbMin ts) * tsHTotal ts * (kHz * 1000) / tsPclk ts

/-- The line period in Q16.16 ck, rounded to nearest (R21). A period of 65 536 ck or more does not fit the register, which
then holds it modulo 2³² (DESIGN CHOICE, notes/assumptions/75.md). -/
def linePeriod (ts : Vector Word 6) (kHz : Nat) : Nat :=
  (2 * tsHTotal ts * (kHz * 1000) * 65536 + tsPclk ts) / (2 * tsPclk ts)

/-- LEAVE.CLK_NOW. -/
def State.clkNow (s : State) : Nat := (s.reg rClkNow).toNat

/-- TICK.MINPER and TICK.LINE_CK computed again (R27, R473). -/
def State.retime (s : State) : State :=
  (s.setReg rMinper (BitVec.ofNat 32 (minPeriod s.scan.ts s.clkNow))).setReg rLineCk
    (BitVec.ofNat 32 (linePeriod s.scan.ts s.clkNow))

/-- The fields SCAN.TS_H0 to TS_FLAGS as last written. -/
def State.tsWritten (s : State) : Vector Word 6 := Vector.ofFn (fun i => s.reg (rTs i.val))

/-- The thermal step (R486). -/
def State.thermStep (s : State) : Nat := fld (s.reg rLvStatus) 0 2

/-- The core clock while no plan runs (R472). -/
def State.idleClock (s : State) : Nat :=
  let i := (s.reg rIdleClk).toNat
  if s.thermStep = 3 then min i (s.reg rThermClk).toNat else i

/-! ### The container (R324–R334) -/

/-- n bytes from a, as a number. -/
def State.le (s : State) (a n : Nat) : Nat := natOfBytes (s.mem.bytes a n)

/-- n bytes from a can be read: in the Vat, with power, and no uncorrectable word among them. -/
def State.vatOk (s : State) (a n : Nat) : Bool :=
  (wordsOf a n).all (fun w => isVat (8 * w) && s.memThere (8 * w) && decide (s.mem.eccAt w < 2))

/-- The counters of R110 for a read of n bytes. -/
def State.countReads (s : State) (a n : Nat) : State := (s.readMem 0 a n).1

/-- Variant v of the container at a, without what its sections add. -/
def State.planAt (s : State) (a v : Nat) : PlanRun :=
  let e := a + 128 + 64 * v
  { addr := a
    planId := BitVec.ofNat 32 (s.le (a + 20) 4)
    variant := v
    tmask := BitVec.ofNat 64 (s.le e 8)
    vmask := BitVec.ofNat 8 (s.le (e + 8) 1)
    lmask := BitVec.ofNat 16 (s.le (e + 10) 2)
    budget := s.le (e + 12) 4
    frTarget := BitVec.ofNat 32 (s.le (e + 16) 4)
    frObj := s.le (a + 36) 4 % 2048
    paced := s.le (e + 20) 1 % 2 == 1
    handover := BitVec.ofNat 32 (s.le (e + 24) 4)
    clock := s.le (a + 24) 4
    light := s.le (a + 29) 1
    cache := s.le (a + 30) 1 % 4
    htotal := s.le (a + 40) 4
    vactive := s.le (a + 44) 4
    vbmin := s.le (a + 48) 4
    pclk := s.le (a + 52) 4
    cycle := 1
    leave := [] }

/-- The timing set that will be in force (R336): the one in force, or a requested one while no plan runs. -/
def State.tsNext (s : State) : Vector Word 6 :=
  if !s.planRuns && bit (s.reg rTsCommit) 0 && tsLegal s.tsWritten (bit (s.reg rOutNow) 1) then s.tsWritten else s.scan.ts

/-- A core clock setting that R471 allows. -/
def clockLegal (kHz : Nat) : Bool := decide (250000 ≤ kHz) && decide (kHz ≤ 1250000) && kHz % 6250 == 0

/-- Tiles that an arming may not name: their domain is off, or in recovery. -/
def State.tileAbsent (s : State) (t : Nat) : Bool := !s.pdOn (16 + t) || s.recovering t

/-- The first hardware check of R336 that a variant fails, counted from 1 in the order of its table; the read of the
container is part of the first. -/
def State.hwRow (s : State) (a v : Nat) : Option Nat :=
  let p := s.planAt a v
  if a % 64 ≠ 0 || !s.vatOk a 128 then some 1
  else if s.le a 4 ≠ 0x4C50584B || s.le (a + 4) 2 ≠ 1 || s.le (a + 16) 4 ≠ 0x731800B0 then some 1
  else if s.le (a + 28) 1 ≤ v || 8 ≤ v || (s.le (a + 28) 1 ≤ p.light && p.light ≠ 255) then some 2
  else if !s.vatOk (a + 128 + 64 * v) 64 then some 1
  else if !clockLegal p.clock || (s.thermStep = 3 && decide ((s.reg rThermClk).toNat < p.clock)) then some 3
  else if p.htotal ≠ tsHTotal s.tsNext || p.vactive ≠ tsVActive s.tsNext || p.vbmin ≠ tsVbMin s.tsNext ||
      p.pclk ≠ tsPclk s.tsNext then some 4
  else if p.budget % 16 ≠ 0 || minPeriod s.tsNext p.clock < p.budget + 65536 then some 5
  else if (List.range 64).any (fun t => p.tmask.getLsbD t && s.tileAbsent t) then some 6
  else none

/-! ### The thermal step and arming (R338, R486, R487, R491) -/

/-- An edge cause of SB_ALERT_N latched (R574). -/
def State.latchAlert (s : State) (c : Nat) : State :=
  { s with milk := { s.milk with alerts := s.milk.alerts ||| (1#5 <<< c), alertSeen := s.milk.alertSeen &&& ~~~ (1#5 <<< c) } }

/-- The thermal step changed (R491, R574). -/
def State.setStep (s : State) (n : Nat) : State :=
  if s.thermStep = n then s
  else ((s.modReg rLvStatus (fun w => setFld w 0 2 n)).satReg rThermEvents).bell 38 |>.latchAlert 2

/-- An arming, held: it replaces one that is held (R338), whose PLAN entry completes as abandoned (DESIGN CHOICE,
notes/assumptions/91.md: R367 has no word on it). -/
def State.arm (s : State) (a : Arming) : State :=
  let s := s.endPlan s.plan.armEntry 8 0
  { s with plan := { s.plan with arming := some a, armEntry := none } }

/-- The stop index. -/
def stopArming : Arming := { addr := 0, index := 15 }

/-- The LIGHT arming of the governor is over: STATUS.LIGHT_ARMED reads 0. -/
def State.lightOver (s : State) : State :=
  { s.modReg rLvStatus (fun w => setBit w 3 false) with power := { s.power with light := false } }

/-- Step 3 entered: the governor arms the stop index (R486). -/
def State.stepThree (s : State) : State := (s.lightOver.setStep 3).arm stopArming

/-- The engine has started and its swap has not taken effect. -/
def State.engineBusy (s : State) : Bool := s.plan.engine != .idle

/-- KX.PLANGO's status for an arming that is accepted (R448). -/
def State.armStatus (s : State) : Nat := if s.engineBusy then 2 else if s.plan.arming.isSome then 1 else 0

/-- The governor's hold on armings at steps 2 and 3 (R487): the variant is not LIGHT of the running container. -/
def State.armBarred (s : State) (a v : Nat) : Bool :=
  match s.thermStep with
  | 2 => match s.plan.run with
    | some p => !(p.addr == a && p.light == v)
    | none => true
  | _ => false

/-- An arming asked for: accepted with its status, or refused with the row of its check (R336, R448, R487). -/
def State.planGo (s : State) (a v : Nat) : State × Nat × Nat :=
  if v = 15 then (s.lightOver.arm stopArming, s.armStatus, 0)
  else
    let row := match s.hwRow a v with
      | some r => if 3 < r && s.armBarred a v then some 3 else some r
      | none => if s.armBarred a v then some 3 else none
    match row with
    | some r => (s, 3, r)
    | none => ((s.lightOver.countReads a 128).arm { addr := a, index := v }, s.armStatus, 0)

/-- KX.PLANGO by core k: reserved bits of rs1 or rs2 raise the illegal-instruction exception (DEDUCED from R440 and R447,
notes/assumptions/45.md). -/
def State.kxPlango (s : State) (k : Fin 4) (rd rs1 rs2 : Fin 32) : State :=
  if !s.coreRuns k then s
  else
    let z := s.core k
    let a := z.x[rs1].toNat
    let v := z.x[rs2].toNat
    if z.user || decide (2 ^ 32 ≤ a) || decide (16 ≤ v) then (s.coreTrap k 2 0).modCore k Steward.stepped
    else
      let (s, st, row) := if s.pdOn 7 then s.planGo a v else (s, 3, 1)
      s.modCore k (fun z => { (z.wx rd.val (BitVec.ofNat 64 (st + 256 * row))).stepped.retired with pc := z.pc + 4 })

/-! ### The engine's start (R339, R340, R508) -/

/-- A swap is seamless (R344). -/
def State.seamless (s : State) (p : PlanRun) : Bool :=
  match s.plan.run with
  | some q => q.addr == p.addr && p.handover != 0 && q.handover == p.handover && q.clock == p.clock &&
      (s.cacheSize == p.cache && s.mem.cacheNext.isNone)
  | none => false

/-- The budget ck of a window from which an arming may start the engine: the next window is cycle window 0 (R339). -/
def State.budgetCk (s : State) : Bool :=
  match s.plan.run with
  | some p => s.frameActs && decide (s.sched = p.budget)
  | none => false

def State.cycleEnds (s : State) : Bool :=
  match s.plan.run with
  | some p => ((s.reg rLWindow).toNat + 1) % max 1 p.cycle == 0
  | none => true

/-- Every asynchronous thread stopped, as THREAD_CTRL.STOP does (R340). -/
def State.stopAsync (s : State) : State :=
  s.mapTiles (fun t x =>
    { x with th := Vector.ofFn (fun j : Fin 8 =>
        let z := x.th[j]
        if isFrameThread x.cfgNow j.val || decide (roundLen x.cfgNow ≤ j.val) || decide (64 ≤ t.val) then z
        else { z with st := .idle, stall := 0, wait := none, waitDone := false, ended := false }) })

/-- The engine starts on a target; step 1 of R340, the cache size, begins. -/
def State.engineGo (s : State) (target : Option PlanRun) (seamless : Bool) : State :=
  let s := { s.stopAsync.lightOver with
    variantFault := false
    plan := { s.plan with
      arming := none
      armEntry := none
      engine := .loading target seamless
      swapEntry := s.plan.armEntry } }
  match target with
  | none => s
  | some p =>
    if s.mem.cacheNext.isSome then { s with mem := { s.mem with cacheNext := some p.cache } }
    else if s.cacheSize = p.cache then s
    else s.cacheDrain p.cache

/-- The plan-swap source and a record of the swap engine. -/
def State.swapRecord (s : State) (code level a : Nat) : State :=
  (s.post code level 9 0 (BitVec.ofNat 32 a) 0).bell 6

/-- An arming dropped at the start checks (R339), by the check of this row: its PLAN entry is refused (R367; DEDUCED,
notes/assumptions/91.md); a LIGHT arming dropped raises the step to 3 (R486). -/
def State.dropArming (s : State) (a row : Nat) : State :=
  let light := s.power.light
  let s := s.endPlan s.plan.armEntry 7 row
  let s := ({ s with plan := { s.plan with arming := none, armEntry := none } }).swapRecord 0x60 0 a
  if light && s.thermStep = 2 then s.stepThree else s

/-- The engine cannot read the header or the variant entry that it is to load. -/
def State.unreadable (s : State) (a v : Nat) : Bool :=
  a % 64 == 0 && (!s.vatOk a 128 || (decide (v < s.le (a + 28) 1) && !s.vatOk (a + 128 + 64 * v) 64))

/-- The swap is abandoned: no plan runs from the next tick (R343), and its PLAN entry ends so (R367). -/
def State.abandon (s : State) (a : Nat) : State :=
  let s := s.endPlan s.plan.swapEntry 8 0
  ({ s with
    plan := { s.plan with engine := .done none false, swapEntry := none }
    staged := .reset }).swapRecord 0x61 4 a

/-- The engine, started, meets an uncorrectable word or a failed access at the container's head (R340, R343). -/
def State.abandonAtStart (s : State) (a : Nat) : State := ((s.countReads a 128).engineGo none false).abandon a

/-- The engine starts with the arming that is held, when its checks pass now. -/
def State.startArmed (s : State) (a : Arming) (covered : Bool) : State × Bool :=
  if a.index = 15 then (s.engineGo none false, true)
  else if s.unreadable a.addr a.index then (s.abandonAtStart a.addr, true)
  else
    match s.hwRow a.addr a.index with
    | some r => (s.dropArming a.addr r, false)
    | none =>
      let p := s.planAt a.addr a.index
      ((s.countReads a.addr 128).engineGo (some p) (!covered && s.seamless p), true)

/-- A variant-level fault's start: the fallback, or the stop index (R508). -/
def State.startFallback (s : State) : State :=
  let f := s.reg rFallback
  let a := f.toNat / 64 * 64
  let v := fld f 0 4
  if !bit f 4 || v = 15 then s.engineGo none false
  else if s.unreadable a v then s.abandonAtStart a
  else
    match s.hwRow a v with
    | some _ => (s.swapRecord 0x63 4 a).engineGo none false
    | none => (s.countReads a 128).engineGo (some (s.planAt a v)) false

/-- SWAP_ENGINE_START. -/
def State.engineStart (s : State) : State :=
  if !s.pdOn 7 || s.engineBusy then s
  else if s.planRuns then
    if !s.budgetCk then s
    else if s.variantFault then
      match s.plan.arming with
      | some a => match s.startArmed a true with
        | (s, true) => s
        | (s, false) => match s.plan.arming with
          | some b => (s.startArmed b true).1
          | none => s.startFallback
      | none => s.startFallback
    else
      match s.plan.arming with
      | some a => if s.cycleEnds then (s.startArmed a false).1 else s
      | none => s
  else
    match s.plan.arming with
    | some a => (s.startArmed a true).1
    | none => s

/-! ### The engine's loads (R328–R334, R340) -/

/-- A section of a container: type, target, address, length. -/
structure Sect where
  type : Nat
  target : Nat
  addr : Nat
  len : Nat
  deriving DecidableEq, Repr

/-- The sections of variant v (R327). -/
def State.sections (s : State) (a v : Nat) : List Sect :=
  let dir := a + 128 + 64 * s.le (a + 28) 1
  ((List.range (s.le (a + 32) 4 % 8192)).map (fun i => dir + 16 * i)).filterMap (fun e =>
    if s.le (e + 1) 1 / 2 ^ v % 2 = 1 then
      some { type := s.le e 1, target := s.le (e + 2) 2, addr := a + s.le (e + 4) 4, len := s.le (e + 8) 4 }
    else none)

/-- Slot record at address a (R330). -/
def State.slotRecAt (s : State) (a : Nat) : SlotRec :=
  { start := s.le a 4, count := s.le (a + 4) 2, period := s.le (a + 6) 2, kind := s.le (a + 8) 1, arg := s.le (a + 9) 1
    arg2 := s.le (a + 10) 2 }

/-- The slot records of a section. -/
def State.slotRecs (s : State) (c : Sect) : List SlotRec :=
  (List.range (c.len / 16)).map (fun i => s.slotRecAt (c.addr + 16 * i))

/-- Records that a ledger holds: 4096 at a tile, 8192 at a slice (R331). -/
def ledgerCap (type : Nat) : Nat := if type = 3 then 4096 else 8192

/-- Band record at address a of the BANDS section at base (R332, R333). -/
def State.bandAt (s : State) (base a : Nat) : Band :=
  let fl := s.le (a + 2) 1
  let nparts := s.le (a + 16) 4
  let slots := base + s.le (a + 20) 4
  { kind := s.le a 1
    stream := s.le (a + 1) 1 % 64
    first := fl % 2 == 1
    last := fl / 2 % 2 == 1
    drain := fl / 4 % 2 == 1
    cwin := s.le (a + 3) 1
    issue := s.le (a + 8) 4
    buf := s.le (a + 12) 4
    nparts := nparts
    segs := (List.range (min 4 (s.le (a + 4) 1))).map (fun i =>
      let g := a + 32 + 16 * i
      { plane := s.le g 1 % 4, rows := s.le (g + 1) 1 + 1, perRow := s.le (g + 2) 1 + 1, row0 := s.le (g + 4) 2
        vh := s.le (g + 6) 2 % 1024, j0 := s.le (g + 8) 2 })
    slots := (List.range (s.le (a + 5) 1)).map (fun p =>
      (List.range nparts).map (fun k => s.le (slots + 4 * (p * nparts + k)) 4))
    commits := (List.range (min 8 (s.le (a + 6) 1))).map (fun i =>
      let c := a + 96 + 8 * i
      { ck := s.le c 4, tile := s.le (c + 4) 1 % 64, obj := s.le (c + 5) 1 % 32, value := s.le (c + 6) 1 }) }

/-- A BANDS section: CYCLE and the bands. -/
def State.bandsAt (s : State) (c : Sect) : Nat × List Band :=
  (max 1 (s.le c.addr 1), (List.range (s.le (c.addr + 2) 2)).map (fun i => s.bandAt c.addr (c.addr + 8 + 160 * i)))

/-- The registers of a REGS section for tile t (R329). -/
def planTileReg (off : Nat) : Bool :=
  off == oTileCfg || (decide (0x30 ≤ off) && decide (off < 0x50)) || (decide (0x840 ≤ off) && decide (off < 0x880)) ||
    (decide (0x8C0 ≤ off) && decide (off < 0x940)) || (decide (0xA00 ≤ off) && decide (off ≤ 0xA48)) ||
    (decide (0xB00 ≤ off) && decide (off ≤ 0xB84))

/-- The layer whose registers hold an address of SCAN (R431). -/
def layerOf (a : Nat) : Option Nat := if rLayer 0 0 ≤ a && a < rLayer 4 0 then some ((a - rLayer 0 0) / 0x40) else none

/-- The registers of a global REGS section of a plan that owns the layers of `marks` (R329, R408). -/
def planGlobalReg (marks : Word) (a : Nat) : Bool :=
  (decide (rCount 0 ≤ a) && decide (a < rCount 2048)) || (decide (rTickval 0 ≤ a) && decide (a < rTickval 2048)) ||
    (decide (rFrameMap 0 ≤ a) && decide (a < rFrameMap 64)) || (decide (rTickarmMap 0 ≤ a) && decide (a < rTickarmMap 64)) ||
    (decide (rDmap 0 0 ≤ a) && decide (a < rDmap 64 0)) || (decide (rSmask 0 0 ≤ a) && decide (a < rSmask 64 0)) ||
    (decide (rLSubst 0 ≤ a) && decide (a ≤ rLSubst 17)) || a == rBg || a == rCreamWm || a == rLeadMax || a == rPlanLayers ||
    (match layerOf a with | some k => bit marks k && decide (a % 0x40 < 0x24) | none => false)

/-- A write of the RW bits of a register. -/
def State.writeRw (s : State) (a : Nat) (v : Word) : State :=
  match regRow a with
  | some r => s.modReg a (fun w => (w &&& ~~~ BitVec.ofNat 32 r.rw) ||| (v &&& BitVec.ofNat 32 r.rw))
  | none => s

/-- The value that a register of the plan stores for the value written: what a write by any master stores (R143, R416). -/
def planValue (a : Nat) (v : Word) : Word :=
  if a = rCreamWm then creamWm v
  else if a = rLeadMax then leadMaxOf v
  else if a = rLSubst 0xE || (isTileReg a && decide (a % 0x1000 = oSubst 0xE)) then substE v
  else v

/-- A write of the swap engine as plan loader. -/
def State.loaderWrite (s : State) (a : Nat) (v : Word) : State :=
  if decide (rCount 0 ≤ a) && decide (a < rCount 2048) then s.syncCountWrite .swap ((a - rCount 0) / 4) v
  else if isTileReg a && decide (0xB00 ≤ a % 0x1000) && decide (a % 0x1000 < 0xB80) then
    s.lsyncWrite .swap (tid ((a - tileBase 0) / 0x1000)) ((a % 0x1000 - 0xB00) / 4) v
  else s.writeRw a (planValue a v)

/-- The registers that a REGS section for `target` may name (R329). -/
def planReg (marks : Word) (target a : Nat) : Bool :=
  a % 4 == 0 && (if target < 64 then isTileReg a && (a - tileBase 0) / 0x1000 == target && planTileReg (a % 0x1000)
    else planGlobalReg marks a)

/-- One entry of a REGS section; `none` where its address is not allowed or its block has no power. -/
def State.loadReg (s : State) (marks : Word) (target a : Nat) (v : Word) : Option State :=
  if planReg marks target a && s.regOn a then some (s.loaderWrite a v) else none

/-- Places that a section's writes reach have power (R69, R343). -/
def State.targetThere (s : State) (c : Sect) : Bool :=
  match c.type with
  | 4 => decide (c.target < 8) && s.pdOn (8 + c.target)
  | 5 => decide (c.target < 16) && s.pdOn 6
  | 7 => true
  | 8 => true
  | 2 => decide (64 ≤ c.target) || s.pdOn (16 + c.target)
  | _ => decide (c.target < 64) && s.pdOn (16 + c.target)

/-- Entry i of a REGS section: its address and its value. -/
def State.regEntry (s : State) (c : Sect) (i : Nat) : Nat × Word :=
  (s.le (c.addr + 8 * i) 4, BitVec.ofNat 32 (s.le (c.addr + 8 * i + 4) 4))

/-- PLAN_LAYERS as a global REGS section leaves it: the layers that the plan owns (R408). -/
def State.marksOf (s : State) (c : Sect) : Word :=
  ((List.range (c.len / 8)).map (s.regEntry c)).foldl (fun w (e : Nat × Word) => if e.1 = rPlanLayers then e.2 else w)
    (s.reg rPlanLayers)

/-- Items loaded one after another, each of n bytes from `base`, until a read or a write fails (R343). -/
def loadItems (base n : Nat) (f : State → Nat → Option State) : List Nat → State → State × Bool
  | [], s => (s, true)
  | i :: r, s =>
    let s := s.countReads (base + n * i) n
    if !s.vatOk (base + n * i) n then (s, false)
    else
      match f s i with
      | some s => loadItems base n f r s
      | none => (s, false)

/-- A section staged whole for the tick. -/
def State.stageSect (s : State) (c : Sect) (f : Staged → Staged) : State × Bool :=
  let s := s.countReads c.addr c.len
  if s.vatOk c.addr c.len then ({ s with staged := f s.staged }, true) else (s, false)

/-- One section loaded, and whether every read and write of it succeeded. -/
def State.loadSect (s : State) (c : Sect) : State × Bool :=
  if !s.targetThere c then (s, false)
  else
    match c.type with
    | 1 => loadItems c.addr 16 (fun s i =>
        some (s.modTile (tid c.target) (fun x =>
          { x with
            ibuf := Sparse.set (fun _ => 0) x.ibuf i (BitVec.ofNat 128 (s.le (c.addr + 16 * i) 16))
            ibufErr := Sparse.set (fun _ => 0) x.ibufErr i 0 }))) (List.range (min 4096 (c.len / 16))) s
    | 2 =>
      let marks := s.marksOf c
      loadItems c.addr 8 (fun s i => let e := s.regEntry c i; s.loadReg marks c.target e.1 e.2) (List.range (c.len / 8)) s
    | 3 => s.stageSect c (fun g =>
        { g with tslots := Sparse.set (fun _ => []) g.tslots c.target ((s.slotRecs c).take (ledgerCap 3)) })
    | 4 => s.stageSect c (fun g =>
        { g with vslots := Sparse.set (fun _ => []) g.vslots c.target ((s.slotRecs c).take (ledgerCap 4)) })
    | 5 => s.stageSect c (fun g => { g with bands := Sparse.set (fun _ => (1, [])) g.bands c.target (s.bandsAt c) })
    | 6 => loadItems c.addr 16 (fun s i =>
        some (s.setHandle c.target 0 i (BitVec.ofNat 128 (s.le (c.addr + 16 * i) 16)))) (List.range (min 64 (c.len / 16))) s
    | 7 => loadItems c.addr 16 (fun s i =>
        some (s.setHandle 255 0 i (BitVec.ofNat 128 (s.le (c.addr + 16 * i) 16)))) (List.range (min 1024 (c.len / 16))) s
    | 8 => loadItems c.addr 80 (fun s _ => some s) (List.range (c.len / 80)) s
    | _ => (s, true)

/-- Sections loaded in order until one fails. -/
def loadSects : List Sect → State → State × Bool
  | [], s => (s, true)
  | c :: r, s =>
    match s.loadSect c with
    | (s, true) => loadSects r s
    | (s, false) => (s, false)

/-- Sections in the order of R340. -/
def State.loadOrder (l : List Sect) : List Sect :=
  [1, 3, 4, 5, 6, 7, 2, 8].flatMap (fun ty => l.filter (fun c => c.type == ty))

/-- The rows of a LEAVE section (R334). -/
def State.leaveRowsAt (s : State) (c : Sect) : List (List Nat) :=
  (List.range 16).map (fun w => (List.range 65).map (fun r => s.le (c.addr + 80 * w + r) 1))

/-- The target with what its LEAVE and BANDS sections say. With Ladles of different CYCLE, every one of them is in its
cycle window 0 once in the least common multiple (R339). -/
def State.finishPlan (s : State) (p : PlanRun) (l : List Sect) : PlanRun :=
  { p with
    cycle := ((s.staged.bands.filter (fun b => p.lmask.getLsbD b.1)).map (fun (b : Nat × Nat × List Band) => b.2.1)).foldl Nat.lcm 1
    leave := match l.find? (fun c => c.type == 8) with | some c => s.leaveRowsAt c | none => [] }

/-- Steps 2 to 5 of R340: the state after the loads, and the target, or none where the swap is abandoned with what was
loaded before (R343). -/
def State.loadPlan (s : State) (p : PlanRun) : State × Option PlanRun :=
  let n := s.le (p.addr + 32) 4 % 8192
  let dir := p.addr + 128 + 64 * s.le (p.addr + 28) 1
  if !s.vatOk p.addr 128 || !s.vatOk dir (16 * n) then (s, none)
  else
    let l := s.sections p.addr p.variant
    match loadSects (State.loadOrder l) { s with staged := .reset } with
    | (s, false) => (s, none)
    | (s, true) =>
      let s := (s.setReg rBudget (BitVec.ofNat 32 p.budget)).setReg rFrObj (BitVec.ofNat 32 p.frObj)
      let s := (s.setReg rFrTarget p.frTarget).modReg rTickStatus (fun w => setBit w 3 p.paced)
      (s, some (s.finishPlan p l))

/-- A relock to a clock, where it differs from the running one (R340, R472). -/
def State.relockTo (s : State) (kHz : Nat) : State :=
  if s.clkNow = kHz then s else { s with power := { s.power with relock := some kHz } }

/-- SWAP_ENGINE_COMPLETE: steps 2 to 6 of R340, once the cache size applies; an uncorrectable word or a failed access
abandons the swap (R343). -/
def State.engineComplete (s : State) : State :=
  match s.plan.engine with
  | .loading target seamless =>
    if s.mem.cacheNext.isSome then s
    else
      match target with
      | none => State.relockTo { s with plan := { s.plan with engine := .done none true }, staged := .reset } s.idleClock
      | some p =>
        match s.loadPlan p with
        | (s, some p) => State.relockTo { s with plan := { s.plan with engine := .done (some p) seamless } } p.clock
        | (s, none) => s.abandon p.addr
  | _ => s

/-- RELOCK_COMPLETE (R473). -/
def State.relockDone (s : State) : State :=
  match s.power.relock with
  | none => s
  | some c => State.retime { s.setReg rClkNow (BitVec.ofNat 32 c) with
      power := { s.power with relock := none }
      tick := { s.tick with relocked := true } }

/-! ### The commands -/

def execKxPlango (k : Fin 4) (rd rs1 rs2 : Fin 32) (s : State) : Host.Outcome State Fault Refusal :=
  .next (s.kxPlango k rd rs1 rs2)
def execSwapEngineStart (s : State) : Host.Outcome State Fault Refusal := .next s.engineStart
def execSwapEngineComplete (s : State) : Host.Outcome State Fault Refusal := .next s.engineComplete
def execRelockComplete (s : State) : Host.Outcome State Fault Refusal := .next s.relockDone

end Sys2Proof.Machine
end

