-- ==== Sys2Proof/Machine/Power.lean ====
section
/-!
DEFINITION. The leave governor (R474–R484), the switching of power domains (R465–R470), and the thermal ladder
(R485–R491).
-/

namespace Sys2Proof.Machine

/-! ### Leave (R474, R478–R483) -/

/-- LEAVE.BUDGET_CAP in LU. -/
def State.cap (s : State) : Nat := fld (s.reg rBudgetCap) 0 10

/-- Dynamic grants held (R480): those whose operation ended in this ck are still held. -/
def State.dynHeld (s : State) : Nat :=
  (allTiles.map (fun t => match (s.tile t).grant with | some g => g.size | none => 0)).sum +
    ((List.finRange 16).map (fun l => match (s.lad l).copy with
      | some c => (match c.grant with | some g => g.size | none => 0)
      | none => 0)).sum

/-- The usable dynamic remainder (R479). -/
def State.dynUsable (s : State) : Nat :=
  let d := s.cap - s.standing - s.plan.peak
  if s.thermStep = 0 then d else d * fld (s.reg rThrotCfg) 0 5 / 16

/-- The waiting request of requester r: its size and stamp (R480). -/
def State.leaveReq (s : State) (r : Nat) : Option LeaveReq :=
  if r < 64 then (s.tile (tid r)).request
  else match (s.lad (lid (r - 64))).copy with | some c => c.request | none => none

/-- The grant of requester r. -/
def State.leaveGrant (s : State) (r : Nat) : Option LeaveHold :=
  if r < 64 then (s.tile (tid r)).grant
  else match (s.lad (lid (r - 64))).copy with | some c => c.grant | none => none

/-- The priority of requester r in this ck's arbitration: a write of this ck applies from the next (R480, R483). -/
def State.leavePrio (s : State) (r : Nat) : Nat :=
  if r < 64 then fld (s.regBefore (rTile r oLvCfg)) 0 3
  else match (s.lad (lid (r - 64))).copy with
    | some c => (s.sourceCfg c.queue).2
    | none => 0

/-- The effective priority of a waiting request (R482). -/
def State.leaveEff (s : State) (r : Nat) (q : LeaveReq) : Nat :=
  min 7 (s.leavePrio r + (s.ck - q.stamp) / max 1 (fld (s.regBefore rLvAgeStep) 0 16))

/-- The requesters that wait, in the governor's order (R481). -/
def State.leaveOrder (s : State) : List (Nat × LeaveReq) :=
  let before (a b : Nat × LeaveReq) : Bool :=
    let pa := s.leaveEff a.1 a.2
    let pb := s.leaveEff b.1 b.2
    if pa ≠ pb then decide (pb < pa)
    else if a.2.stamp ≠ b.2.stamp then decide (a.2.stamp < b.2.stamp)
    else decide (a.1 ≤ b.1)
  ((List.range 80).filterMap (fun r => (s.leaveReq r).map (fun q => (r, q)))).foldl (fun l x => insertBy before x l) []

/-- A request granted in this ck. -/
def State.grantLeave (s : State) (r : Nat) (q : LeaveReq) : State :=
  let h : LeaveHold := { size := q.size, ck := s.ck, move := q.move, ended := false }
  if r < 64 then s.modTile (tid r) (fun x => { x with request := none, grant := some h })
  else s.modLad (lid (r - 64)) (fun x => { x with copy := x.copy.map (fun c => { c with request := none, grant := some h }) })

/-- The standing draw that a domain waiting to come on needs (R484). -/
def State.switchNeeds (s : State) (d : Nat) : Nat := if s.countsLeave d then 0 else standingOf d

/-- Domains that PD_CTRL can name (R466). -/
def pdCtrlDomain (d : Nat) : Bool := d == 4 || d == 5 || (decide (8 ≤ d) && decide (d < 80))

/-- PD_CTRL's bit of a domain. -/
def State.pdAsked (s : State) (d : Nat) : Bool := bit (s.reg (rPdCtrl (d / 32))) (d % 32)

/-- The lowest domain whose state differs from the one asked for (R466). -/
def State.pdNext (s : State) : Option Nat :=
  (List.range 80).find? (fun d => pdCtrlDomain d && s.pdAsked d != s.pdOn d && !(decide (16 ≤ d) && s.recovering (d - 16)))

/-- The draw that the governor keeps free for a domain that waits to come on (R484). -/
def State.keptFree (s : State) : Nat :=
  if s.power.switching.isSome || !s.power.seq.isEmpty then 0
  else match s.pdNext with
    | some d => if s.pdAsked d then s.switchNeeds d else 0
    | none => 0

/-- A request fits beside the grants held, and leaves room for a domain that waits (R479, R484). -/
def State.leaveFits (s : State) (n : Nat) : Bool :=
  decide (s.dynHeld + n ≤ s.dynUsable) && decide (s.standing + s.plan.peak + s.dynHeld + n + s.keptFree ≤ s.cap)

/-- Grants in order while each fits; the first that does not ends the ck's grants (R481). -/
def grantInOrder : List (Nat × LeaveReq) → State → State
  | [], s => s
  | (r, q) :: rest, s => if s.leaveFits q.size then grantInOrder rest (s.grantLeave r q) else s

/-- LEAVE_GRANT. -/
def State.leaveGrantAll (s : State) : State := if s.pdOn 7 then grantInOrder s.leaveOrder s else s

/-! ### Domain switches (R466, R467, R484) -/

/-- Plans that run or are armed, the engine's target among them. -/
def State.plansHeld (s : State) : List PlanRun :=
  s.plan.run.toList ++
    (match s.plan.arming with
      | some a => if a.index = 15 then [] else [s.planAt a.addr a.index]
      | none => []) ++
    (match s.plan.engine with
      | .loading (some p) _ => [p]
      | .done (some p) _ => [p]
      | _ => [])

/-- Why a domain may not change state: the reason code of PD_ERR (R467, R492). -/
def State.pdRefused (s : State) (d : Nat) (on : Bool) : Option Nat :=
  if d < 8 then
    if on then (if s.pdOn 3 then none else some 5)
    else if bit (s.reg rOutNow) (d - 2) then some 4 else none
  else if on then (if s.pdOn 7 then none else some 5)
  else if d < 16 then
    if s.plansHeld.any (fun p => p.vmask.getLsbD (d - 8)) then some 2
    else if d = 15 && s.cacheSize ≠ 0 then some 3 else none
  else if !s.tileHalted (tid (d - 16)) || s.plansHeld.any (fun p => p.tmask.getLsbD (d - 16)) then some 1
  else none

/-- PD_CTRL_WRITE. -/
def State.pdCtrlWrite (s : State) (m : Master) (w : Nat) (v : Word) : State :=
  s.regGate m (rPdCtrl w) (fun s => { s.writeRw (rPdCtrl w) v with power := { s.power with pdBy := m } })

/-- A change refused: its bit is not stored, and the write is reported (R466). -/
def State.pdRefuse (s : State) (d reason : Nat) : State :=
  let a := rPdCtrl (d / 32)
  ((s.modReg a (fun w => setBit w (d % 32) (s.pdOn d))).setReg rPdErr (BitVec.ofNat 32 (d + 256 * reason))).regFault
    s.power.pdBy a

/-- The switch of a domain starts. -/
def State.pdStart (s : State) (d : Nat) (on : Bool) : State :=
  { s with power := { s.power with switching := some (d, on) } }

/-- A domain's draw fits (R484). -/
def State.pdFits (s : State) (d : Nat) : Bool :=
  decide (s.standing + s.switchNeeds d + s.plan.peak + s.dynHeld ≤ s.cap)

/-- PD_SWITCH: the next switch of a sequence of the Milkhouse's, or of PD_CTRL's changes in ascending order. -/
def State.pdSwitch (s : State) : State :=
  if s.power.switching.isSome then s
  else
    match s.power.seq with
    | (d, on) :: r => ({ s with power := { s.power with seq := r } }).pdStart d on
    | [] =>
      if !s.pdOn 7 then s
      else
        match s.pdNext with
        | none => s
        | some d =>
          let on := s.pdAsked d
          match s.pdRefused d on with
          | some r => s.pdRefuse d r
          | none => if on && !s.pdFits d then s else s.pdStart d on

/-- MRESP written with a status, and source 161 raised (R575, R576). -/
def State.mresp (s : State) (status : Nat) : State :=
  (((s.setReg rMresp (BitVec.ofNat 32 (0x100 + status))).noteSet rMresp 0x100).clrReg rMreq 0x100).bell 161

/-- What the end of a sequence brings: the next boot stage after main sequencing, an answer after a sleep or a wake. -/
def State.seqEnd (s : State) : State :=
  let s := if fld (s.reg rBootStage) 0 4 = 2 then s.setReg rBootStage 3 else s
  let code := fld (s.reg rMreq) 0 8
  if bit (s.reg rMreq) 8 && (code == 1 || code == 2) then
    State.mresp { s with power := { s.power with sleep := decide (code = 1) } } 0
  else s

/-- PD_SWITCH_COMPLETE (R468). -/
def State.pdSwitchDone (s : State) : State :=
  match s.power.switching with
  | none => s
  | some (d, on) =>
    let inSeq := !s.power.seq.isEmpty
    let s := { s with power := { s.power with switching := none } }
    let s := if on then s.domainOn d else s.domainOff d s.power.sleep
    if !inSeq && (fld (s.reg rBootStage) 0 4 = 2 || bit (s.reg rMreq) 8) then s.seqEnd else s

/-! ### Main sequencing and fabric sleep (R469, R470) -/

/-- The main domains in the order of R469: of the slices and tiles, those that the board record enables. -/
def State.mainOrder (s : State) : List Nat :=
  [7, 2, 1, 3, 6, 4, 5] ++ ((List.range 72).map (fun i => 8 + i)).filter (fun d =>
    bit (s.milk.settings.pd.toArray.getD (d / 32) 0) (d % 32))

/-- The stages at which main sequencing may begin: the settings have been read (R528), or MAIN_POWER asks for it (R566). -/
def State.maySequence (s : State) : Bool :=
  let st := fld (s.reg rBootStage) 0 4
  s.milk.settled && (st == 1 || st == 2 || st == 0xB)

/-- MAIN_SEQUENCING: PG_CORE and PG_MEM are high, and the Milkhouse begins. Domains that kept their power through main
reset stay on (R511). -/
def State.mainSequencing (s : State) : State :=
  if !s.milk.aon || !s.milk.rom || !s.milk.enMain || s.milk.holdOff || !s.power.seq.isEmpty || s.pdOn 7 || !s.maySequence then s
  else
    { s.setReg rBootStage 2 with
      milk := { s.milk with pgCore := true, pgMem := true }
      power := { s.power with
        sleep := false
        switching := none
        seq := (s.mainOrder.filter (fun d => !s.pdOn d)).map (fun d => (d, true)) } }

/-- The conditions of fabric sleep (R470). -/
def State.maySleep (s : State) : Bool :=
  !s.planRuns && s.plan.arming.isNone && !s.engineBusy && !bit (s.reg rOutNow) 0 &&
    (List.range 80).all (fun d => !pdCtrlDomain d || !s.pdOn d) &&
    (List.finRange 16).all (fun l => (s.lad l).copy.isNone) && copySources.all (fun q => !s.copyWaits q)

/-- A write of MREQ with a request code and GO (R576); while GO reads 1 it changes nothing. -/
def State.mreqGate (s : State) (m : Master) (code : Nat) (k : State → State) : State :=
  s.regGate m rMreq (fun s => if bit (s.reg rMreq) 8 then s else k (s.setReg rMreq (BitVec.ofNat 32 (0x100 + code))))

/-- FABRIC_SLEEP. -/
def State.fabricSleep (s : State) (m : Master) : State :=
  s.mreqGate m 1 (fun s =>
    if !s.maySleep || !s.power.seq.isEmpty || s.power.switching.isSome then s.mresp 4
    else if !s.pdOn 7 then s.mresp 0
    else { s with power := { s.power with sleep := true, seq := [(6, false), (3, false), (7, false)] } })

/-- FABRIC_WAKE. -/
def State.fabricWake (s : State) (m : Master) : State :=
  s.mreqGate m 2 (fun s =>
    let l := [7, 3, 6].filter (fun d => !s.pdOn d)
    if l.isEmpty then s.mresp 0
    else { s with power := { s.power with seq := l.map (fun d => (d, true)) } })

/-! ### The thermal ladder (R485, R486, R488, R490) -/

/-- A signed 8-bit temperature. -/
def degC (w : Nat) : Int := if 128 ≤ w % 256 then (w % 256 : Nat) - 256 else (w % 256 : Nat)

/-- Thresholds T1 to T3, and the temperature below which step 1 is left. -/
def State.threshold (s : State) (i : Nat) : Int := degC (fld (s.reg rThermCfg) (8 * (i - 1)) 8)
def State.coolBelow (s : State) : Int := s.threshold 1 - (fld (s.reg rThermCfg) 24 4 : Nat)

/-- Step 2 entered: LIGHT is armed, or the step rises directly to 3 (R486). -/
def State.stepTwo (s : State) : State :=
  match s.plan.run with
  | none => s.stepThree
  | some p =>
    if p.light = 255 || p.light = p.variant || (s.hwRow p.addr p.light).isSome then s.stepThree
    else
      let s := ((s.setStep 2).arm { addr := p.addr, index := p.light }).modReg rLvStatus (fun w => setBit w 3 true)
      { s with power := { s.power with light := true } }

/-- The highest step whose threshold two consecutive samples reach. -/
def State.reached (s : State) (a b : Int) : Nat :=
  if decide (s.threshold 3 ≤ a) && decide (s.threshold 3 ≤ b) then 3
  else if decide (s.threshold 2 ≤ a) && decide (s.threshold 2 ≤ b) then 2
  else if decide (s.threshold 1 ≤ a) && decide (s.threshold 1 ≤ b) then 1 else 0

/-- The highest valid reading of a sample, 127 with none (R485). -/
def sampleMax (valid : BitVec 8) (temps : BitVec 64) : Int :=
  let l := ((List.range 8).filter (fun i => valid.getLsbD i)).map (fun i => degC (temps.toNat / 2 ^ (8 * i)))
  match l with
  | [] => 127
  | x :: r => r.foldl max x

/-- THERMAL_SAMPLE: byte i of `temps` is sensor i's reading, and bit i of `valid` its self-check. -/
def State.thermalSample (s : State) (valid : BitVec 8) (temps : BitVec 64) : State :=
  let now := sampleMax valid temps
  let last := s.power.lastMax
  let s := { s with power := { s.power with lastMax := some now, sensorOk := valid, sensors := temps } }
  if !s.pdOn 7 then s
  else
    let s := (List.range 8).foldl (fun s i =>
      s.setReg (rTemp i) (BitVec.ofNat 32 (temps.toNat / 2 ^ (8 * i) % 256 + 256 * b2n (valid.getLsbD i)))) s
    let s := s.setReg rTempMax ((BitVec.ofInt 8 now).setWidth 32)
    match last with
    | none => s
    | some b =>
      let hi := s.reached now b
      if s.thermStep < hi then
        match hi with
        | 1 => s.setStep 1
        | 2 => s.stepTwo
        | _ => s.stepThree
      else if s.thermStep = 1 && decide (now < s.coolBelow) && decide (b < s.coolBelow) && !s.power.throt then s.setStep 0
      else s

/-- THERMAL_RELEASE. -/
def State.thermalRelease (s : State) (m : Master) : State :=
  s.regGate m rThermCtrl (fun s =>
    if decide (degC (s.reg rTempMax).toNat < s.coolBelow) && !s.power.throt then s.setStep 0
    else s.orReg rThermCtrl 2)

/-- PWR_THROT_CHANGE: the filtered level of PWR_THROT_N. -/
def State.throtChange (s : State) (low : Bool) : State :=
  let s := { s with power := { s.power with throt := low } }
  if low && s.pdOn 7 && s.thermStep = 0 then s.setStep 1 else s

/-! ### The commands -/

def execLeaveGrant (s : State) : Host.Outcome State Fault Refusal := .next s.leaveGrantAll
def execPdCtrlWrite (m : Master) (w : Fin 3) (v : BitVec 32) (s : State) : Host.Outcome State Fault Refusal :=
  .next (s.pdCtrlWrite m w.val v)
def execPdSwitch (s : State) : Host.Outcome State Fault Refusal := .next s.pdSwitch
def execPdSwitchComplete (s : State) : Host.Outcome State Fault Refusal := .next s.pdSwitchDone
def execMainSequencing (s : State) : Host.Outcome State Fault Refusal := .next s.mainSequencing
def execFabricSleep (m : Master) (s : State) : Host.Outcome State Fault Refusal := .next (s.fabricSleep m)
def execFabricWake (m : Master) (s : State) : Host.Outcome State Fault Refusal := .next (s.fabricWake m)
def execThermalSample (valid : BitVec 8) (temps : BitVec 64) (s : State) : Host.Outcome State Fault Refusal :=
  .next (s.thermalSample valid temps)
def execThermalRelease (m : Master) (s : State) : Host.Outcome State Fault Refusal := .next (s.thermalRelease m)
def execPwrThrotChange (low : Bool) (s : State) : Host.Outcome State Fault Refusal := .next (s.throtChange low)

end Sys2Proof.Machine
end

