-- ==== Sys2Proof/Machine/Scan.lean ====
section
/-!
DEFINITION. Scan-out (spec file 12): the timing set and the output mode, layers and their fetch, the Creamline, the
scan of a line with its underrun policies, the Skim scaler, and the DisplayPort ports.
-/

namespace Sys2Proof.Machine

/-! ### Outputs and the raster (R398, R407) -/

/-- OUT_NOW's bits. -/
def State.outNow (s : State) (i : Nat) : Bool := bit (s.reg rOutNow) i

/-- The timing generator runs. -/
def State.tgOn (s : State) : Bool := s.pdOn 3 && s.outNow 0

/-- Output o is composed: A, and B in locked-pair mode, whether or not its link is enabled (R398,
notes/assumptions/47.md). -/
def State.outUsed (s : State) (o : Nat) : Bool := s.tgOn && (o == 0 || s.outNow 1)

/-- SEAM of the mode in force. -/
def State.seam (s : State) : Nat := fld (s.reg rOutNow) 8 7

/-- First wall column of output o, and the wall's width. -/
def State.outColumn (s : State) (o : Nat) : Nat := if o = 0 then 0 else tsHActive s.scan.ts - s.seam
def State.wallWidth (s : State) : Nat :=
  if s.outNow 1 then 2 * tsHActive s.scan.ts - s.seam else tsHActive s.scan.ts

/-- The raster line (R20, R45). -/
def State.rasterLine (s : State) : Nat := fld (s.reg rLine) 0 16

/-- LEAD_MAX as the present line took it (R406, R407). -/
def State.leadMax (s : State) : Nat := s.scan.lead

/-- A line takes LEAD_MAX at its start (R406). -/
def State.takeLead (s : State) : State := { s with scan := { s.scan with lead := fld (s.reg rLeadMax) 0 7 } }

/-- Lines of the next frame may be fetched from this raster line on (R407). -/
def State.leadLine (s : State) : Nat := tsVActive s.scan.ts + tsVbMin s.scan.ts - s.leadMax

/-- Lines fetched for the next frame belong to Skim: no plan will drive the next frame (R342, R345, R421). -/
def State.nextSkim (s : State) : Bool :=
  match s.plan.engine with
  | .idle => !s.planRuns
  | .loading (some _) true => false
  | .done (some _) true => false
  | _ => true

/-- Skim drives the outputs (R46). -/
def State.skimOn (s : State) : Bool := bit (s.reg rTickStatus) 2

/-! ### Requests of the timing set and the mode (R26, R392, R393, R398, R651) -/

/-- A requested timing set may stand with the running plan (R26). -/
def State.tsFitsPlan (s : State) (ts : Vector Word 6) : Bool :=
  match s.plan.run with
  | none => true
  | some p => p.htotal == tsHTotal ts && p.vactive == tsVActive ts && p.vbmin == tsVbMin ts && p.pclk == tsPclk ts &&
      decide (p.budget + 65536 ≤ minPeriod ts s.clkNow)

/-- PAIR after a mode request, if one waits that SEAM does not refuse. -/
def State.pairNext (s : State) : Bool :=
  if s.scan.modeWaits && decide (fld (s.reg rOutMode) 8 7 ≤ 64) then bit (s.reg rOutMode) 1 else s.outNow 1

/-- A pending COMMIT decided: the set applies whole, or is discarded whole (R392). -/
def State.decideTs (s : State) : State :=
  if !bit (s.reg rTsCommit) 0 then s
  else
    let s' := s.setReg rTsCommit 0
    let ts := s.tsWritten
    if tsLegal ts s.pairNext && s.tsFitsPlan ts then State.retime { s' with scan := { s'.scan with ts := ts } }
    else (s'.tickFlag 12).post 0x45 0 3 0 0 0

/-- The mode that waits, refused or not (R651). -/
def State.modeRefused (s : State) : Bool :=
  decide (64 < fld (s.reg rOutMode) 8 7) || (bit (s.reg rOutMode) 1 && decide (3840 < tsHActive s.scan.ts))

/-- The generator starts at blanking line 0 (R20, R393). -/
def State.tgStart (s : State) : State :=
  let v := tsVActive s.scan.ts
  let s := ((s.setReg rLine (BitVec.ofNat 32 v)).orReg rTickStatus 1).takeLead
  { s with
    tick := { s.tick with blank := .active, activeLine := v, blankLine := 0, ticked := false, ready := false }
    scan := { s.scan with lines := [], fetchAt := (List.range 16).map (fun k => (k, v)), lastPix := [], underBell := [] } }

/-- The mode that waits takes effect, or is refused whole and reported (R398, R651). -/
def State.decideMode (s : State) : State :=
  if !s.scan.modeWaits then s
  else
    let refused := s.modeRefused
    let s := { s with scan := { s.scan with modeWaits := false } }
    if refused then s.regFault s.scan.modeBy rOutMode
    else
      let was := s.outNow 0
      let s := s.setReg rOutNow (s.reg rOutMode &&& 0x7F1F)
      if !was && s.outNow 0 then s.tgStart else s

/-- TS_COMMIT: COMMIT reads 1 until the request is decided. -/
def State.tsCommit (s : State) (m : Master) : State := s.regGate m rTsCommit (fun s => s.setReg rTsCommit 1)

/-- OUT_MODE: the request waits for the tick, or for the next ck while the generator is off. -/
def State.outModeWrite (s : State) (m : Master) (v : Word) : State :=
  s.regGate m rOutMode (fun s =>
    let s := s.writeRw rOutMode v
    { s with scan := { s.scan with modeWaits := true, modeBy := m } })

/-! ### Tearing effect (R396, R397) -/

/-- TE_EDGE: an active edge sets the latch in the next ck, and is recorded in MEASURE mode. -/
def State.teEdge (s : State) : State :=
  if !s.pdOn 3 then s
  else
    let s := { s with now := { s.now with te := true } }
    if fld (s.reg rTeCfg) 0 2 = 2 then (s.modReg rTeLine (fun w => setFld w 0 16 s.rasterLine)).incReg rTeCount else s

/-! ### Layers (R400, R403, R404, R412) -/

/-- The registers LCTRL to LRING of layer k, as a fetch captures them. -/
def State.layerRegs (s : State) (k : Nat) : List Word := (List.range 6).map (fun i => s.reg (rLayer k (4 * i)))

/-- Fields of captured registers. -/
def lyCtl (r : List Word) : Word := r.getD 0 0
def lyX (r : List Word) : Nat := fld (r.getD 1 0) 0 13
def lyY (r : List Word) : Nat := fld (r.getD 1 0) 16 12
def lyW (r : List Word) : Nat := fld (r.getD 2 0) 0 13
def lyH (r : List Word) : Nat := fld (r.getD 2 0) 16 12
def lyRing (r : List Word) : Nat := fld (r.getD 5 0) 0 12
def lySx (r : List Word) : Nat := if fld (lyCtl r) 3 2 = 0 then 1 else 2
def lySy (r : List Word) : Nat := if fld (lyCtl r) 3 2 = 2 then 2 else 1
def lyMode (r : List Word) : Nat := fld (lyCtl r) 9 2
def lyFmt (r : List Word) : Nat := if bit (lyCtl r) 2 then 0x0F else 0x03
def lyHandle (s : State) (r : List Word) (i : Nat) : Quad := s.vhandle (fld (r.getD (3 + i / 2) 0) (16 * (i % 2)) 10)

/-- The columns of a layer on output o, in layer columns: first and one past the last. -/
def State.layerCols (s : State) (o : Nat) (r : List Word) : Nat × Nat :=
  let c0 := s.outColumn o
  let c1 := c0 + tsHActive s.scan.ts
  (max c0 (lyX r) - lyX r, min c1 (lyX r + lyW r) - lyX r)

/-- A layer takes part on line r of output o, by its registers (R400). -/
def State.takesPart (s : State) (o : Nat) (rg : List Word) (r : Nat) : Bool :=
  let (a, b) := s.layerCols o rg
  bit (lyCtl rg) 0 && decide (lyY rg ≤ r) && decide (r < lyY rg + lyH rg) && decide (a < b)

/-- Layer k is dropped on output o for the rest of the frame (R419). -/
def State.dropped (s : State) (o k : Nat) : Bool := bit (s.reg (rLayer k 0x30)) o

/-- An opaque layer (R412). -/
def lyOpaque (r : List Word) : Bool := lyMode r == 0 || (lyMode r == 1 && fld (lyCtl r) 16 8 == 255)

/-- The wall columns that layer k has on output o: first and one past the last. Skim has all of them (R421). -/
def State.colsOf (s : State) (o k : Nat) : Nat × Nat :=
  if k = 4 then (s.outColumn o, s.outColumn o + tsHActive s.scan.ts)
  else
    let (a, b) := s.layerCols o (s.layerRegs k)
    (lyX (s.layerRegs k) + a, lyX (s.layerRegs k) + b)

/-- Higher layers that take part on line r all are opaque and cover layer k's columns on output o (R412); Skim lies in the
place of layer 0. -/
def State.covered (s : State) (o k r : Nat) (next : Bool) : Bool :=
  let hi := ((List.range 4).filter (fun j => decide (k % 4 < j) && s.takesPart o (s.layerRegs j) r && (next || !s.dropped o j))).map
    (fun j => s.layerRegs j)
  let (a, b) := s.colsOf o k
  !hi.isEmpty && hi.all lyOpaque &&
    (List.range (b - a)).all (fun i => hi.any (fun g => decide (lyX g ≤ a + i) && decide (a + i < lyX g + lyW g)))

/-- The refusals of R404 that the registers alone decide. -/
def lyRefused (r : List Word) : Bool :=
  let sub := fld (lyCtl r) 3 2
  sub == 3 || (lySx r == 2 && (lyX r % 2 == 1 || lyW r % 2 == 1)) || (lySy r == 2 && (lyY r % 2 == 1 || lyH r % 2 == 1)) ||
    lyRing r % (if sub = 2 then 16 else 8) != 0 || (bit (lyCtl r) 1 && lyRing r == 0)

/-- Source row of luma line y, and of chroma row j (R403). -/
def lyRow (r : List Word) (y : Nat) : Nat := if bit (lyCtl r) 1 then y % max 1 (lyRing r) else y
def lyCRow (r : List Word) (j : Nat) : Nat := if bit (lyCtl r) 1 then j % max 1 (lyRing r / lySy r) else j

/-- The chroma rows that luma line y uses, its own first: the neighbour of R405 too with 4:2:0. -/
def lyCRows (r : List Word) (y : Nat) : List Nat :=
  if lySy r = 2 then
    let j := y / 2
    let n := if y % 2 = 0 then j - 1 else min (j + 1) (lyH r / 2 - 1)
    [j, n]
  else [y]

/-- Chroma columns that layer columns a … b − 1 use (R405). -/
def lyCCols (r : List Word) (a b : Nat) : Nat × Nat :=
  if lySx r = 2 then (a / 2 - 1, min ((b - 1) / 2 + 2) (lyW r / 2)) else (a, b)

/-- What a line reads of one plane: its handle, rows, and elements from e0 to e1 − 1 of a format. -/
structure PlaneUse where
  h : Quad
  rows : List Nat
  e0 : Nat
  e1 : Nat
  fmt : Nat
  deriving DecidableEq, Repr

/-- The planes that layer line y reads on output o (R402, R403, R405). -/
def State.layerPlanes (s : State) (o : Nat) (r : List Word) (y : Nat) : List PlaneUse :=
  let (a, b) := s.layerCols o r
  let (ca, cb) := lyCCols r a b
  let crows := ((lyCRows r y).map (lyCRow r)).eraseDups
  let f := lyFmt r
  [{ h := lyHandle s r 0, rows := [lyRow r y], e0 := a, e1 := b, fmt := f }] ++
    (if bit (lyCtl r) 5 then [{ h := lyHandle s r 1, rows := crows, e0 := 2 * ca, e1 := 2 * cb, fmt := f }]
     else [{ h := lyHandle s r 1, rows := crows, e0 := ca, e1 := cb, fmt := f },
           { h := lyHandle s r 2, rows := crows, e0 := ca, e1 := cb, fmt := f }]) ++
    (if 2 ≤ lyMode r then [{ h := lyHandle s r 3, rows := [lyRow r y], e0 := a, e1 := b, fmt := 0x03 }] else [])

/-- Bytes of an element of a sample plane. -/
def smpBytes (fmt : Nat) : Nat := if fmt = 0x0F then 2 else 1

/-- The byte ranges of a plane's use. -/
def PlaneUse.ranges (u : PlaneUse) : List (Nat × Nat) :=
  u.rows.map (fun j => (hAddr u.h u.e0 j 0, (u.e1 - u.e0) * smpBytes u.fmt))

/-- A check of R92 fails for a plane's use. -/
def State.planeFault (s : State) (u : PlaneUse) : Bool :=
  decide (hExt0 u.h < u.e1) || u.rows.any (fun j => decide (hExt1 u.h ≤ j)) ||
    u.ranges.any (fun p => (s.handleFault none u.h true false (fun f => f == u.fmt) p.1 p.2).isSome)

/-! ### Skim tiles (R422, R423) -/

/-- Word i of the latched Skim registers: SKIM_CTRL, then six for each tile. -/
def State.skimWord (s : State) (i : Nat) : Word := s.scan.skim.getD i (if i = 0 then 6 else 0)
def State.skReg (s : State) (t i : Nat) : Word := s.skimWord (1 + 6 * t + i)

/-- SKIM_CTRL.PATTERN as latched. -/
def State.skimPattern (s : State) : Bool := bit (s.skimWord 0) 1

/-- Decimation of a field value; 3 is no factor. -/
def skDec (v : Nat) : Nat := match v with | 0 => 1 | 1 => 2 | 2 => 4 | _ => 0

/-- A Skim tile by its registers: enabled, and within the rules of R422. -/
def skTileOk (ctl src size : Word) : Bool :=
  let hd := skDec (fld ctl 4 2)
  let vd := skDec (fld ctl 6 2)
  let ws := fld src 0 13
  let hs := fld src 16 12
  decide (0 < hd) && decide (0 < vd) && decide (0 < ws) && decide (0 < hs) && ws % (2 * hd) == 0 && hs % (2 * vd) == 0 &&
    decide (ws / hd ≤ fld size 0 13) && decide (hs / vd ≤ fld size 16 12)

/-- Tile t is shown. -/
def State.skShown (s : State) (t : Nat) : Bool :=
  bit (s.skReg t 0) 0 && skTileOk (s.skReg t 0) (s.skReg t 1) (s.skReg t 3)

/-- Rows of tile t inside its destination on line r. -/
def State.skOnLine (s : State) (t r : Nat) : Bool :=
  let y := fld (s.skReg t 2) 16 12
  s.skShown t && decide (y ≤ r) && decide (r < y + fld (s.skReg t 3) 16 12)

/-- The Q16 source position of output index x, floored, for sizes ns and nd: index and phase (R424). -/
def skimPos (ns nd x : Nat) : Int × Nat :=
  let q : Int := (ns * 65536 / max 1 nd : Nat)
  let p := ((2 * (x : Int) + 1) * q - 65536).fdiv 2
  (p.fdiv 65536, ((p.fmod 65536) / 1024).toNat)

/-- Decimated source indices of the eight taps, clamped (R424). -/
def skimTapIdx (ns : Nat) (i : Int) : List Nat :=
  (List.range 8).map (fun (k : Nat) => (min (max (i - 3 + (k : Int)) 0) ((ns : Int) - 1)).toNat)

/-- One scaled sample of eight. -/
def skimSum (phase : Nat) (v : List Nat) : Nat :=
  let w := skimTaps.getD phase []
  let t : Int := ((w.zip v).map (fun (p : Int × Nat) => p.1 * (p.2 : Int))).sum
  (min (max ((t + 128).fdiv 256) 0) 255).toNat

/-- Handles of Skim tile t: Y, Cb or CbCr, Cr. -/
def State.skHandles (s : State) (t : Nat) : List Quad :=
  [s.vhandle (fld (s.skReg t 4) 0 10), s.vhandle (fld (s.skReg t 4) 16 10), s.vhandle (fld (s.skReg t 5) 0 10)]

/-- Source rows of a plane that a tile's line y needs: ns rows after decimation by dv. -/
def skimRows (ns nd dv y : Nat) : List Nat := ((skimTapIdx ns (skimPos ns nd y).1).map (fun i => i * dv)).eraseDups

/-- The planes that Skim line r reads. -/
def State.skimPlanes (s : State) (r : Nat) : List PlaneUse :=
  if s.skimPattern then []
  else
    ((List.range 16).filter (fun t => s.skOnLine t r)).flatMap (fun t =>
      let ctl := s.skReg t 0
      let ws := fld (s.skReg t 1) 0 13
      let hs := fld (s.skReg t 1) 16 12
      let dv := skDec (fld ctl 6 2)
      let nd := fld (s.skReg t 3) 16 12
      let y := r - fld (s.skReg t 2) 16 12
      let h := s.skHandles t
      let cr := skimRows (hs / 2 / dv) nd dv y
      [{ h := h.getD 0 0, rows := skimRows (hs / dv) nd dv y, e0 := 0, e1 := ws, fmt := 0x03 }] ++
        (if bit ctl 1 then [{ h := h.getD 1 0, rows := cr, e0 := 0, e1 := ws, fmt := 0x03 }]
         else [{ h := h.getD 1 0, rows := cr, e0 := 0, e1 := ws / 2, fmt := 0x03 },
               { h := h.getD 2 0, rows := cr, e0 := 0, e1 := ws / 2, fmt := 0x03 }]))

/-! ### Fetch (R406–R413, R415, R650) -/

/-- The key of a layer on an output; layer 4 is Skim. -/
def lyKey (o k : Nat) : Nat := 8 * o + k

/-- Next line to fetch. -/
def State.fetchLine (s : State) (o k : Nat) : Nat := Sparse.get (fun _ => 0) s.scan.fetchAt (lyKey o k)

/-- The line held or in fetch for line n, counted from line 0 of the present frame. -/
def State.creamAt (s : State) (o k n : Nat) : Option CreamLine :=
  let v := tsVActive s.scan.ts
  s.scan.lines.find? (fun l => l.output == o && l.layer == k && l.line + (if l.next then v else 0) == n)

/-- A layer that the plan fetches (R410). -/
def State.planned (s : State) (k : Nat) : Bool := decide (k < 4) && s.planRuns && bit (s.reg rPlanLayers) k

/-- Layer k is one that a line of the present or the next frame composes (R421). -/
def State.layerLive (s : State) (k : Nat) (next : Bool) : Bool :=
  let skim := if next then s.nextSkim else s.skimOn
  match k with | 0 => !skim | 4 => skim | _ => true

/-- The router by which output o fetches a layer's data from a slice (R409, R650). -/
def State.scanRouter (s : State) (o k n : Nat) : Nat :=
  let base := if s.outNow 1 then 2 * o else if k = 2 || k = 3 then 2 else 0
  56 + base + (if n < 4 then 0 else 1)

/-- A band's presence at its first line, and E raised (R413). -/
def State.bandCheck (s : State) (o k n : Nat) : State :=
  let rg := s.layerRegs k
  let lb := s.reg (rLayer k 0x18)
  let v := tsVActive s.scan.ts
  let line := if v ≤ n then n - v else n
  if 4 ≤ k || !bit (lyCtl rg) 1 || !bit lb 31 || line < lyY rg || lyY rg + lyH rg ≤ line || (line - lyY rg) % 8 ≠ 0 then s
  else
    let er := rLayer k (0x1C + 4 * o)
    let step := BitVec.ofNat 32 (fld lb 16 8)
    let lead : Word := s.countBefore (fld lb 0 11) - s.reg er - step
    let s := s.hwReg er (s.reg er + step)
    { s with scan := { s.scan with absent := Sparse.set (fun _ => false) s.scan.absent (lyKey o k) lead.msb } }

/-- A line of a layer passed over or begun: the next one comes. -/
def State.fetchNext (s : State) (o k n : Nat) : State :=
  { s with scan := { s.scan with fetchAt := Sparse.set (fun _ => 0) s.scan.fetchAt (lyKey o k) (n + 1) } }

/-- 64-byte parts that cover a range of bytes. -/
def parts64 (a n : Nat) : List (Nat × Nat) :=
  if n = 0 then [] else (List.range ((a + n - 1) / 64 - a / 64 + 1)).map (fun i => ((a / 64 + i) * 64, 64))

/-- A free read of scan-out: narrow accesses at the slices (R411). -/
def State.freeRead (s : State) (l : CreamLine) (a n : Nat) (urgent : Bool) : State :=
  (pieces a n).foldl (fun s p =>
    let slice := memOf p.1 - 64
    let r := s.scanRouter l.output l.layer slice
    let d := memRoute r p.1
    let q : NarrowReq :=
      { addr := p.1, len := p.2, wr := none, who := .scan l.id, home := r, port := edgePort r, waited := false
        urgent := urgent, since := s.ck }
    s.sendAsync (.narrow (memOf p.1) q) .request .any r d.1 d.2 0 (edgePort r)) s

/-- A planned read of scan-out: a reserved request word (R410). -/
def State.plannedRead (s : State) (l : CreamLine) (a n : Nat) : State :=
  let slice := memOf a - 64
  let r := s.scanRouter l.output l.layer slice
  let d := servingRouter 7 slice
  s.sendFrame (.vatRead slice a n (.scan l.id) r true) .request .any r d 5 (routerDist r d + 2) (edgePort r)

/-- The next planned read of a line, if one is left. -/
def State.sendNext (s : State) (l : CreamLine) : State :=
  match l.toSend with
  | [] => s
  | (a, n) :: rest =>
    let s := { s with scan := { s.scan with lines := s.scan.lines.map (fun (x : CreamLine) =>
      if x.id = l.id then { x with toSend := rest } else x) } }
    s.plannedRead l a n

/-- The fetch of line n of a layer on an output starts (R406, R411, R412). -/
def State.fetchStart (s : State) (o k n : Nat) : State :=
  let v := tsVActive s.scan.ts
  let next := decide (v ≤ n)
  let line := if next then n - v else n
  let s := (s.bandCheck o k n).fetchNext o k n
  let rg := if k < 4 then s.layerRegs k else []
  let skim := decide (4 ≤ k)
  let part := skim || (s.takesPart o rg line && (next || !s.dropped o k))
  let skipped := !part || s.covered o k line next
  let planes := if skim then s.skimPlanes line else s.layerPlanes o rg (line - lyY rg)
  let bad := !skipped && ((!skim && lyRefused rg) || planes.any (fun u => s.planeFault u))
  let missing := !skipped && !skim && Sparse.get (fun _ => false) s.scan.absent (lyKey o k) &&
    bit (lyCtl rg) 1 && bit (s.reg (rLayer k 0x18)) 31
  let reads := if skipped || bad || missing then [] else planes.flatMap PlaneUse.ranges
  let plan := s.planned k
  let l : CreamLine :=
    { id := s.scan.nextId, output := o, layer := k, line := line, next := next, regs := rg
      handles := if skim then [] else (List.range 4).map (fun i => lyHandle s rg i)
      skipped := skipped, refused := bad || missing
      toSend := if plan then reads.flatMap (fun p => parts64 p.1 p.2) else []
      left := if plan then 64 * (reads.flatMap (fun p => parts64 p.1 p.2)).length
        else reads.foldl (fun c (p : Nat × Nat) => c + p.2) 0
      data := [] }
  let s := { s with scan := { s.scan with lines := s.scan.lines ++ [l], nextId := s.scan.nextId + 1 } }
  let s := if bad then s.satReg rHandleErr else s
  if plan then s.sendNext l
  else reads.foldl (fun s p => s.freeRead l p.1 p.2 (s.scan.urgent.contains (lyKey o k))) s

/-- LINE_FETCH: the next read of a planned line in fetch, or the start of the layer's next line. -/
def State.lineFetch (s : State) (o k : Nat) : State :=
  let plan := s.planned k
  if !s.outUsed o || (plan && !s.frameActs) then s
  else
    match s.scan.lines.find? (fun l => l.output == o && l.layer == k && !l.toSend.isEmpty) with
    | some l => s.sendNext l
    | none =>
      let v := tsVActive s.scan.ts
      let n := s.fetchLine o k
      let held := (s.scan.lines.filter (fun l => l.output == o && l.layer == k)).length
      if 64 ≤ held || 2 * v ≤ n || !s.layerLive k (decide (v ≤ n)) then s
      else if v ≤ n && s.rasterLine < s.leadLine then s
      else s.fetchStart o k n

/-- Bytes of a line's fetch arriving. -/
def State.creamData (s : State) (id a : Nat) (bs : List Byte) (bad : List Bool) : State :=
  { s with scan := { s.scan with lines := s.scan.lines.map (fun (l : CreamLine) =>
      if l.id = id then
        { l with
          left := l.left - bs.length
          data := l.data ++ ((bs.zip (bad ++ List.replicate bs.length false)).zipIdx.map
            (fun (p : (Byte × Bool) × Nat) => (a + p.2, p.1))) }
      else l) } }

/-! ### Samples (R144–R150, R402–R405) -/

/-- A sample, or none where it is missing. -/
abbrev Smp := Option Nat

/-- The 10-bit sample of element i, row j of a plane in a line's data. -/
def CreamLine.sample (l : CreamLine) (h : Quad) (fmt i j : Nat) : Smp :=
  let a := hAddr h i j 0
  let get (a : Nat) : Option Nat :=
    match l.data.find? (fun p => p.1 == a) with
    | some p => if p.2.2 then none else some p.2.1.toNat
    | none => none
  if fmt = 0x0F then
    match get a, get (a + 1) with
    | some x, some y => some ((x + 256 * y) % 1024)
    | _, _ => none
  else (get a).map (fun x => 4 * x)

/-- f of two samples. -/
def smp2 (f : Nat → Nat → Nat) : Smp → Smp → Smp
  | some a, some b => some (f a b)
  | _, _ => none

/-- A chroma sample of plane p (0 Cb, 1 Cr) at chroma column i for luma line y, after the vertical step (R405). -/
def CreamLine.chromaV (l : CreamLine) (p y i : Nat) : Smp :=
  let r := l.regs
  let semi := bit (lyCtl r) 5
  let h := l.handles.getD (if semi then 1 else 1 + p) 0
  let at_ (j : Nat) : Smp := l.sample h (lyFmt r) (if semi then 2 * i + p else i) (lyCRow r j)
  match lyCRows r y with
  | [j, n] => smp2 (fun a b => (3 * a + b + 2) / 4) (at_ j) (at_ n)
  | [j] => at_ j
  | _ => none

/-- The chroma of layer column x (R405). -/
def CreamLine.chroma (l : CreamLine) (p y x : Nat) : Smp :=
  let r := l.regs
  if lySx r = 1 then l.chromaV p y x
  else
    let i := x / 2
    let up := min (i + 1) (lyW r / 2 - 1)
    if bit (lyCtl r) 6 then
      if x % 2 = 0 then smp2 (fun a b => (3 * a + b + 2) / 4) (l.chromaV p y i) (l.chromaV p y (i - 1))
      else smp2 (fun a b => (3 * a + b + 2) / 4) (l.chromaV p y i) (l.chromaV p y up)
    else if x % 2 = 0 then l.chromaV p y i
    else smp2 (fun a b => (a + b + 1) / 2) (l.chromaV p y i) (l.chromaV p y up)

/-- The coefficients of R150. -/
def colourCoef (bt2020 full : Bool) : Int × Int × Int × Int × Int :=
  match bt2020, full with
  | false, false => (4783, 7365, 876, 2189, 8678)
  | false, true => (4096, 6450, 767, 1917, 7601)
  | true, false => (4783, 6896, 770, 2672, 8799)
  | true, true => (4096, 6040, 674, 2340, 7706)

/-- A value clamped to 10 bits. -/
def clamp10 (v : Int) : Nat := (min (max v 0) 1023).toNat

/-- 10-bit RGB of 10-bit samples (R149). -/
def toRgb (bt2020 full : Bool) (y cb cr : Nat) : Nat × Nat × Nat :=
  let (kY, kRc, kGb, kGc, kBb) := colourCoef bt2020 full
  let yy : Int := if full then (y : Int) else (y : Int) - 64
  let b : Int := (cb : Int) - 512
  let c : Int := (cr : Int) - 512
  (clamp10 ((kY * yy + kRc * c + 2048).fdiv 4096), clamp10 ((kY * yy - kGb * b - kGc * c + 2048).fdiv 4096),
    clamp10 ((kY * yy + kBb * b + 2048).fdiv 4096))

/-- 8 bits of a 10-bit component (R149, R401). -/
def to8 (v : Nat) : Nat := min ((v + 2) / 4) 255

/-- A pixel of a layer: red, green, blue and alpha. -/
abbrev Pix := Nat × Nat × Nat × Nat

/-- The alpha of layer column x (R402). -/
def CreamLine.alpha (l : CreamLine) (y x : Nat) : Smp :=
  let r := l.regs
  let g := fld (lyCtl r) 16 8
  let plane : Smp := (l.sample (l.handles.getD 3 0) 0x03 x (lyRow r y)).map (fun v => v / 4)
  match lyMode r with
  | 0 => some 255
  | 1 => some g
  | 2 => plane
  | _ => plane.map (fun v => (v * g + 127) / 255)

/-- The pixel of layer column x on layer line y; none where it is missing (R417). -/
def CreamLine.pixel (l : CreamLine) (y x : Nat) : Option Pix :=
  if l.refused || l.left ≠ 0 || !l.toSend.isEmpty then none
  else
    let r := l.regs
    match l.sample (l.handles.getD 0 0) (lyFmt r) x (lyRow r y), l.chroma 0 y x, l.chroma 1 y x, l.alpha y x with
    | some yv, some cb, some cr, some a =>
      let (rr, gg, bb) := toRgb (bit (lyCtl r) 7) (bit (lyCtl r) 8) yv cb cr
      some (rr, gg, bb, a)
    | _, _, _, _ => none

/-! ### Skim's pixels (R421, R422, R424) -/

/-- Components of an RGB8 word, extended to 10 bits. -/
def rgb8 (w : Word) : Nat × Nat × Nat :=
  let e (v : Nat) : Nat := 4 * v + v / 64
  (e (fld w 16 8), e (fld w 8 8), e (fld w 0 8))

/-- A decimated source sample of a Skim plane, 8 bits. -/
def CreamLine.skimSample (l : CreamLine) (h : Quad) (i j : Nat) : Smp := (l.sample h 0x03 i j).map (fun v => v / 4)

/-- All of a list of samples, or none. -/
def allSmp : List Smp → Option (List Nat)
  | [] => some []
  | some a :: r => (allSmp r).map (fun l => a :: l)
  | none :: _ => none

/-- A scaled sample at destination (x, y): `el` gives the element of decimated column i. -/
def CreamLine.skimScaled (l : CreamLine) (h : Quad) (el : Nat → Nat) (ncol nrow wd hd dv x y : Nat) : Smp :=
  let (ix, px) := skimPos ncol wd x
  let (iy, py) := skimPos nrow hd y
  let col (i : Nat) : Smp :=
    (allSmp ((skimTapIdx nrow iy).map (fun j => l.skimSample h (el i) (j * dv)))).map (skimSum py)
  (allSmp ((skimTapIdx ncol ix).map col)).map (skimSum px)

/-- The pixel of Skim tile t at (x, y) of its destination. -/
def State.skimTilePix (s : State) (l : CreamLine) (t x y : Nat) : Option (Nat × Nat × Nat) :=
  let ctl := s.skReg t 0
  let wd := fld (s.skReg t 3) 0 13
  let hd := fld (s.skReg t 3) 16 12
  let bw := fld ctl 8 4
  if x < bw || y < bw || wd ≤ x + bw || hd ≤ y + bw then some (rgb8 (s.reg rSkimBorder))
  else
    let ws := fld (s.skReg t 1) 0 13
    let hs := fld (s.skReg t 1) 16 12
    let dh := skDec (fld ctl 4 2)
    let dv := skDec (fld ctl 6 2)
    let h := s.skHandles t
    let semi := bit ctl 1
    let c (p : Nat) : Smp :=
      l.skimScaled (h.getD (if semi then 1 else 1 + p) 0) (fun i => if semi then 2 * (i * dh) + p else i * dh)
        (ws / 2 / dh) (hs / 2 / dv) wd hd dv x y
    match l.skimScaled (h.getD 0 0) (fun i => i * dh) (ws / dh) (hs / dv) wd hd dv x y, c 0, c 1 with
    | some yv, some cb, some cr =>
      let (r, g, b) := toRgb (bit ctl 2) (bit ctl 3) (4 * yv) (4 * cb) (4 * cr)
      let e (v : Nat) : Nat := 4 * to8 v + to8 v / 64
      some (e r, e g, e b)
    | _, _, _ => none

/-- Skim's pixel at wall column w of line r (R422). -/
def State.skimPixel (s : State) (l : CreamLine) (w r : Nat) : Option Pix :=
  let opaque_ (p : Nat × Nat × Nat) : Pix := (p.1, p.2.1, p.2.2, 255)
  if s.skimPattern then
    let x := 8 * (s.reg rFrame).toNat % max 1 (s.wallWidth - 64)
    let y := tsVActive s.scan.ts / 2 - 32
    let inSq := decide (x ≤ w) && decide (w < x + 64) && decide (y ≤ r) && decide (r < y + 64)
    some (opaque_ (rgb8 (if inSq then s.reg rSkimBorder else s.reg rSkimBg)))
  else
    let on := ((List.range 16).filter (fun t =>
      let x0 := fld (s.skReg t 2) 0 13
      s.skOnLine t r && decide (x0 ≤ w) && decide (w < x0 + fld (s.skReg t 3) 0 13))).getLast?
    match on with
    | none => some (opaque_ (rgb8 (s.reg rSkimBg)))
    | some t =>
      if l.refused || l.left ≠ 0 then none
      else (s.skimTilePix l t (w - fld (s.skReg t 2) 0 13) (r - fld (s.skReg t 2) 16 12)).map opaque_

/-! ### The scan of a line (R401, R414–R420) -/

/-- Line n of a layer, counted from line 0 of the present frame, is complete: fetched, skipped, or the layer does not take
part on it. Seen from an active line, a line of the next frame that is not in fetch is complete (DEDUCED,
notes/assumptions/48.md); `blank` tells that a blanking line asks. -/
def State.lineReady (s : State) (o k : Nat) (blank : Bool) (n : Nat) : Bool :=
  let v := tsVActive s.scan.ts
  match s.creamAt o k n with
  | some l => l.skipped || (l.left = 0 && l.toSend.isEmpty && !l.refused)
  | none =>
    if v ≤ n then !blank || (if k = 4 then s.skimPattern else !s.takesPart o (s.layerRegs k) (n - v))
    else if k = 4 then s.skimPattern
    else !s.takesPart o (s.layerRegs k) n || s.dropped o k

/-- A number of true places from the front, at most fuel. -/
def countFrom (p : Nat → Bool) (n : Nat) : Nat → Nat
  | 0 => 0
  | f + 1 => if p n then 1 + countFrom p (n + 1) f else 0

/-- The occupancy of a layer on an output at the start of line n, which is the first of the next frame in blanking
(R414). -/
def State.occupancy (s : State) (o k : Nat) (blank : Bool) (n : Nat) : Nat := countFrom (s.lineReady o k blank) n 64

/-- The layers that a line of a frame composes, Skim in the place of layer 0. -/
def layersOf (skim : Bool) : List Nat := (if skim then [4] else [0]) ++ [1, 2, 3]

/-- The layers that a line of the present frame composes. -/
def State.liveLayers (s : State) : List Nat := layersOf s.skimOn

/-- Occupancies reported, urgency and the critical count, at the start of line n of output o (R415, R416); a blanking
line looks at line 0 of the next frame. -/
def State.lineStart (s : State) (o : Nat) (blank : Bool) (n : Nat) : State :=
  let occ := (if blank then layersOf s.nextSkim else s.liveLayers).map (fun k => (k, s.occupancy o k blank n))
  let low := fld (s.reg rCreamWm) 0 6
  let crit := fld (s.reg rCreamWm) 8 6
  let s := s.setReg (rOcc o) (BitVec.ofNat 32 (occ.foldl (fun w (p : Nat × Nat) => w + min p.2 127 * 2 ^ (8 * (p.1 % 4))) 0))
  let urgent := (occ.filter (fun p => decide (p.2 < low) && !s.planned p.1)).map (fun (p : Nat × Nat) => lyKey o p.1)
  let s := { s with scan := { s.scan with urgent := s.scan.urgent.filter (fun k => k / 8 ≠ o) ++ urgent } }
  if occ.any (fun p => decide (p.2 < crit)) then (s.satReg rCritCount).bell 9 else s

/-- The underrun source of an output, once in a frame (R420). -/
def State.underrun (s : State) (o : Nat) : State :=
  if s.scan.underBell.contains o then s
  else ({ s with scan := { s.scan with underBell := o :: s.scan.underBell } }).bell 8

/-- One column of a layer under its policy: what it shows, and whether it was missing. `last` is the layer's last
composed pixel. -/
structure LayerScan where
  last : Option Pix
  off : Bool
  missed : Bool
  out : List (Option Pix)
  deriving DecidableEq, Repr

/-- A column added to a layer's scan. -/
def LayerScan.step (z : LayerScan) (hold : Bool) (p : Option (Option Pix)) : LayerScan :=
  if z.off then { z with out := z.out ++ [none] }
  else
    match p with
    | none => { z with out := z.out ++ [none] }
    | some (some v) => { z with last := some v, out := z.out ++ [some v] }
    | some none =>
      if hold then { z with missed := true, out := z.out ++ [z.last] }
      else { z with missed := true, off := true, out := z.out ++ [none] }

/-- The columns of layer k on line n of output o: none outside the layer, `some none` where the pixel is missing. -/
def State.layerColumns (s : State) (o k n : Nat) : List (Option (Option Pix)) :=
  let c0 := s.outColumn o
  let line := s.creamAt o k n
  let rg := match line with | some l => l.regs | none => s.layerRegs k
  (List.range (tsHActive s.scan.ts)).map (fun c =>
    let w := c0 + c
    if k = 4 then
      match line with
      | some l => if l.skipped then none else some (s.skimPixel l w n)
      | none =>
        some ( if s.skimPattern then
            s.skimPixel { id := 0, output := o, layer := 4, line := n, next := false, regs := [], handles := []
                          skipped := false, refused := false, toSend := [], left := 0, data := [] } w n
          else none)
    else
      match line with
      | some l =>
        if l.skipped || w < lyX rg || lyX rg + lyW rg ≤ w then none
        else some (l.pixel (n - lyY rg) (w - lyX rg))
      | none =>
        if s.takesPart o rg n && decide (lyX rg ≤ w) && decide (w < lyX rg + lyW rg) then some none else none)

/-- Layer k of output o scanned on line n: its columns, and what its misses bring (R418–R420). -/
def State.scanLayer (s : State) (o k n : Nat) : State × List (Option Pix) :=
  let s := if s.fetchLine o k ≤ n then (s.bandCheck o k n).fetchNext o k n else s
  let reg := if k = 4 then 0 else k
  let cols := s.layerColumns o k n
  if s.dropped o reg then (s, cols.map (fun _ => none))
  else
    let rg := match s.creamAt o k n with | some l => l.regs | none => s.layerRegs reg
    let hold := decide (k < 4) && bit (lyCtl rg) 11
    let last := Sparse.get (fun _ => none) s.scan.lastPix (lyKey o k)
    let z := cols.foldl (fun z p => LayerScan.step z hold p) { last := last, off := false, missed := false, out := [] }
    let s := { s with scan := { s.scan with lastPix := Sparse.set (fun _ => none) s.scan.lastPix (lyKey o k) z.last } }
    let s :=
      if z.off then
        let s := s.modReg (rLayer reg 0x2C) (fun w => setFld w (16 * o) 16 (min 65535 (fld w (16 * o) 16 + 1)))
        (s.orReg (rLayer reg 0x30) (1 <<< o)).bell 8
      else if z.missed then (s.satReg (rLayer reg (0x24 + 4 * o))).underrun o
      else s
    (s, z.out)

/-- Composition of one pixel over the background (R401). -/
def composePix (bg : Nat × Nat × Nat) (l : List (Option Pix)) : Nat × Nat × Nat :=
  let mix (v a c : Nat) : Nat := (v * a + c * (255 - a) + 127) / 255
  l.foldl (fun c p => match p with
    | some (r, g, b, a) => (mix r a c.1, mix g a c.2.1, mix b a c.2.2)
    | none => c) bg

/-- A pixel packed: red above green above blue, 10 bits each. -/
def packPix (ten : Bool) (p : Nat × Nat × Nat) : Nat :=
  let e (v : Nat) : Nat := if ten then v else to8 v
  e p.1 * 2 ^ 20 + e p.2.1 * 2 ^ 10 + e p.2.2

/-- The link of output o carries the stream: it is enabled, its PHY has power and it is trained without BW_FAIL (R398,
R426). -/
def State.linkCarries (s : State) (o : Nat) : Bool :=
  s.outNow (2 + o) && s.pdOn (4 + o) && bit (s.reg (rDpStatus o)) 1 && !bit (s.reg (rDpStatus o)) 9

/-- Line n of output o scanned and composed. -/
def State.scanOutput (s : State) (o n : Nat) : State :=
  if !s.outUsed o then s
  else
    let s := s.lineStart o false n
    let bg := (fld (s.reg rBg) 20 10, fld (s.reg rBg) 10 10, fld (s.reg rBg) 0 10)
    let (s, ls) := s.liveLayers.foldl (fun (acc : State × List (List (Option Pix))) k =>
      let (s, l) := acc.1.scanLayer o k n
      (s, acc.2 ++ [l])) (s, [])
    let px := (List.range (tsHActive s.scan.ts)).map (fun c =>
      packPix (s.outNow 4) (composePix bg (ls.map (fun l => l.getD c none))))
    let s := { s with scan := { s.scan with lines := s.scan.lines.filter (fun l =>
      !(l.output == o && !l.next && decide (l.line ≤ n))) } }
    if s.linkCarries o then s.emit (.line o n px) else s

/-- SCAN_LINE: the next active line of every output in use, in lock (R399). -/
def State.scanLine (s : State) : State :=
  let n := s.tick.activeLine
  if !s.tgOn || s.tick.blank != .active || tsVActive s.scan.ts ≤ n then s
  else
    let s := (s.setReg rLine (BitVec.ofNat 32 n)).takeLead
    let s := (s.scanOutput 0 n).scanOutput 1 n
    { s with tick := { s.tick with activeLine := n + 1 } }

/-! ### Blanking lines (R391, R414–R416, R428) -/

/-- Where blanking line b lies. -/
def porchOf (ts : Vector Word 6) (b : Nat) : Porch :=
  if b < tsVFp ts then .front else if b < tsVFp ts + tsVSync ts then .sync else .back

/-- What output o shows at the start of blanking line b: the line, and the MSA at the first one. -/
def State.blankOut (s : State) (b o : Nat) : State :=
  let ts := s.scan.ts
  if !s.outUsed o || !s.linkCarries o then s
  else
    let hs := tsHActive ts + tsHFp ts
    let s := s.emit (.blank o (tsVActive ts + b) (porchOf ts b) hs (hs + tsHSync ts) (bit ts[5] 0) (bit ts[5] 1))
    if b = 0 then
      s.emit (.msa o (tsHTotal ts) (tsHActive ts) (tsVActive ts) (tsVActive ts + tsVbMin ts) (if s.outNow 4 then 10 else 8))
    else s

/-- The Creamline at the start of blanking line b: LEAD_MAX is taken, and from the first line at which R407 lets the next
frame be fetched its occupancy is looked at (DESIGN CHOICE, notes/assumptions/48.md). -/
def State.blankCream (s : State) (o : Nat) : State :=
  if !s.outUsed o || s.rasterLine < s.leadLine then s else s.lineStart o true (tsVActive s.scan.ts)

/-! ### DisplayPort (R425–R429) -/

/-- DP_TRAIN: DP_CTRL written with TRAIN; it reads 1 while training. -/
def State.dpTrain (s : State) (m : Master) (o : Nat) : State :=
  s.regGate m (rDpCtrl o) (fun s => s.orReg (rDpCtrl o) 1)

/-- Link rate of a code, in 10 Mbit/s. -/
def dpRate (r : Nat) : Nat := match r with | 0 => 162 | 1 => 270 | 2 => 540 | _ => 810

/-- DP_TRAIN_COMPLETE: the outcome of training, within DP_CTRL's limits: rate and lanes, TPS4 use and Adaptive-Sync. -/
def State.dpTrained (s : State) (o : Nat) (ok : Bool) (rate lanes : Nat) (tps4 async : Bool) : State :=
  if !s.pdOn 3 || !bit (s.reg (rDpCtrl o)) 0 then s
  else
    let s := s.hwReg (rDpCtrl o) (s.reg (rDpCtrl o) &&& ~~~ 1)
    if !ok || !s.pdOn (4 + o) then s.untrain o
    else
      let rate := min rate (fld (s.reg (rDpCtrl o)) 1 3)
      let lanes := min lanes (fld (s.reg (rDpCtrl o)) 4 3)
      let bpc := if s.outNow 4 then 10 else 8
      let fail := decide (lanes * dpRate rate * 8000000 < tsPclk s.scan.ts * 3 * bpc)
      let s := if async then s.emit (.msaIgnore o) else s
      (s.untrain o).orReg (rDpStatus o)
        (BitVec.ofNat 32 (2 + 4 * (rate % 4) + 16 * (lanes % 8) + 128 * b2n tps4 + 256 * b2n async + 512 * b2n fail))

/-- AUX_CMD: GO starts a transaction when none is in progress. -/
def State.auxCmd (s : State) (m : Master) (o : Nat) (v : Word) : State :=
  s.regGate m (rAuxCmd o) (fun s =>
    if bit (s.reg (rAuxStat o)) 0 then s
    else
      let s := s.setReg (rAuxCmd o) (v &&& 0x8FFFFFFF)
      if bit v 31 then s.setReg (rAuxStat o) 1 else s)

/-- AUX_DONE: the outcome 0 ACK, 1 NACK, 2 DEFER exhausted, 3 timeout, and the bytes that a read brings. -/
def State.auxDone (s : State) (o outcome : Nat) (data : List Byte) : State :=
  if !s.pdOn 3 || !bit (s.reg (rAuxStat o)) 0 then s
  else
    let n := min 16 data.length
    let s := s.hwReg (rAuxCmd o) (s.reg (rAuxCmd o) &&& 0x7FFFFFFF)
    let s := s.setReg (rAuxStat o) (BitVec.ofNat 32 (2 * (outcome % 4) + 16 * n))
    let s := ((data.take 16).zipIdx).foldl (fun (s : State) (p : Byte × Nat) =>
      s.modReg (rAuxData o (p.2 / 4)) (fun w => setFld w (8 * (p.2 % 4)) 8 p.1.toNat)) s
    s.bell (12 + o)

/-- HPD_EVENT: 0 IRQ_HPD, 1 unplug, 2 plug (R427). -/
def State.hpdEvent (s : State) (o kind : Nat) : State :=
  if !s.pdOn 3 then s
  else
    let s := match kind with
      | 0 => s.orReg (rDpStatus o) 0x40000
      | 1 => ((s.untrain o).clrReg (rDpStatus o) 1).orReg (rDpStatus o) 0x20000
      | _ => s.orReg (rDpStatus o) 0x10001
    s.bell (10 + o)

/-- The conditions of VIDEO_OK (R429). -/
def State.videoHolds (s : State) : Bool :=
  bit (s.reg rVokCtrl) 0 && s.tgOn && (s.planRuns || s.skimOn) &&
    [0, 1].all (fun o => !s.outNow (2 + o) || (o == 1 && !s.outNow 1) || s.linkCarries o)

/-! ### The commands -/

def execTsCommit (m : Master) (s : State) : Host.Outcome State Fault Refusal := .next (s.tsCommit m)
def execOutMode (m : Master) (v : BitVec 32) (s : State) : Host.Outcome State Fault Refusal := .next (s.outModeWrite m v)
def execTeEdge (s : State) : Host.Outcome State Fault Refusal := .next s.teEdge
def execLineFetch (o : Fin 2) (layer : Fin 5) (s : State) : Host.Outcome State Fault Refusal :=
  .next (s.lineFetch o.val layer.val)
def execScanLine (s : State) : Host.Outcome State Fault Refusal := .next s.scanLine
def execDpTrain (m : Master) (o : Fin 2) (s : State) : Host.Outcome State Fault Refusal := .next (s.dpTrain m o.val)
def execDpTrainComplete (o : Fin 2) (ok : Bool) (rate : Fin 4) (lanes : Fin 5) (tps4 async : Bool) (s : State) :
    Host.Outcome State Fault Refusal := .next (s.dpTrained o.val ok rate.val lanes.val tps4 async)
def execAuxCmd (m : Master) (o : Fin 2) (v : BitVec 32) (s : State) : Host.Outcome State Fault Refusal :=
  .next (s.auxCmd m o.val v)
def execAuxDone (o : Fin 2) (outcome : Fin 4) (data : List (BitVec 8)) (s : State) : Host.Outcome State Fault Refusal :=
  .next (s.auxDone o.val outcome.val data)
def execHpdEvent (o : Fin 2) (kind : Fin 3) (s : State) : Host.Outcome State Fault Refusal := .next (s.hpdEvent o.val kind.val)

end Sys2Proof.Machine
end

