-- ==== Sys2Proof/Machine/Deliver.lean ====
section
/-!
DEFINITION. Data that a memory sends back reaching whoever asked (R65, R235, R244, R305, R411): a tile's register or
move, an instruction-buffer load, a master, a long instruction, the cache, a Ladle, or scan-out.
-/

namespace Sys2Proof.Machine

/-- Bytes of one part of a move from the Vat, for its destination: through the tile's substitution and the store's
(R246, R237). -/
def State.movePartData (s : State) (t : TileId) (m : Move) (a dst : Nat) (bs : List Byte) (bad : List Bool) :
    State × List Byte :=
  let (s, l) := s.tileDeliver t m.hs a bs bad
  s.moveFix t m a dst l

/-- Data of a move's Vat read reach tile t (R244): a frame move writes them in this ck through a claimed bank; an
asynchronous one in an open cycle, for which its data wait (R85). -/
def State.moveData (s : State) (f : Flit) (t : TileId) (lane src dst a : Nat) (bs : List Byte) (bad : List Bool) : State :=
  let gone := s.dropFlit f.age
  match (s.tile t).moveHead (decide (lane = 0)) with
  | none => gone
  | some m =>
    let dst := dst + (a - src)
    if m.frame then
      -- data of the mesh are written under a claim for mesh delivery (R82, R330)
      if !s.writeClaim t 8 (bankOf dst) then
        (gone.moveWritten t.val lane).tileFault t m.thread 0x07 1 m.pc.toNat dst
      else
        let (s, out) := gone.movePartData t m a dst bs bad
        ((s.useWide t.val 1 (bankOf dst)).writeClaimed dst out).moveWritten t.val lane
    else if !s.openAt t 2 (bankOf dst) then s
    else
      let late := match f.pos with | .delivered c => decide (c < s.ck) | _ => false
      let (s, out) := gone.movePartData t m a dst bs bad
      let s := if late then s.countNdet 1 else s
      ((s.useWide t.val 1 (bankOf dst)).writeNarrow dst out).moveWritten t.val lane

/-- Data for a register of a thread: readable from the next ck (R235). -/
def State.registerData (s : State) (who : Purpose) (t : TileId) (h : Quad) (a : Nat) (bs : List Byte) (bad : List Bool) : State :=
  let (s, l) := s.tileDeliver t h a bs bad
  s.deliver who a l (fun k z => z.gotAwait k (s.fck + 1))

/-- A powered tile takes data; those for a tile without power are lost (R468). -/
def State.forTile (s : State) (age t : Nat) (k : State → State) : State :=
  if s.pdOn (16 + t) then k s else s.dropFlit age

/-- One arrived flit of read data given to its reader. -/
def State.readData (s : State) (f : Flit) (a : Nat) (bs : List Byte) (bad : List Bool) (who : Purpose) : State :=
  let gone := s.dropFlit f.age
  let anyBad := bad.any id
  match who with
  | .ld t _ _ _ h _ => s.forTile f.age t (fun _ => gone.registerData who (tid t) h a bs bad)
  | .sld t _ _ h => s.forTile f.age t (fun _ => gone.registerData who (tid t) h a bs bad)
  | .gather t _ _ _ h => s.forTile f.age t (fun _ => gone.registerData who (tid t) h a bs bad)
  | .moveRead t lane src dst => s.forTile f.age t (fun s => s.moveData f (tid t) lane src dst a bs bad)
  | .ibuf t base => s.forTile f.age t (fun _ => gone.ibufPiece (tid t) base a bs bad)
  | .access n => gone.accData n a bs bad
  | .kx k n =>
    match (gone.core (Fin.ofNat 4 k)).kx with
    | some r => if r.id = n then gone.kxData (Fin.ofNat 4 k) a bs anyBad else gone
    | none => gone
  | .cacheFill => gone.fillData a bs anyBad
  | .copyRead l n => if gone.copyIs (lid l) n then gone.copyData (lid l) a bs (b2n anyBad) else gone
  | .ladleRead l run part => gone.writeoutData (lid l) run part a bs bad
  | .scan n => gone.creamData n a bs bad
  | _ => gone

/-- Read data flits that have arrived. -/
def Payload.isReadData : Payload → Bool
  | .vatData .. => true
  | .narrowData .. => true
  | .cacheData .. => true
  | _ => false

/-- The ages of the read data flits that have arrived, the oldest first. -/
def State.arrivedData (s : State) : List Flit := s.mesh.flits.filter (fun f => s.arrived f && f.body.isReadData)

/-- A flit whose data wait for an open cycle of the Pail in this ck (R85). -/
def State.dataWaits (s : State) (f : Flit) : Bool :=
  match f.body with
  | .narrowData a _ _ (.moveRead t _ src dst) => s.pdOn (16 + t) && !s.openAt (tid t) 2 (bankOf (dst + (a - src))) && !f.frame
  | _ => false

/-- VAT_READ_DATA: the oldest arrived data flit that can be taken in this ck. -/
def State.deliverData (s : State) : State :=
  match s.arrivedData.find? (fun f => !s.dataWaits f) with
  | none => s
  | some f =>
    match f.body with
    | .vatData a bs bad who => s.readData f a bs bad who
    | .narrowData a bs bad who => s.readData f a bs bad who
    | .cacheData r bs bad => (s.dropFlit f.age).cacheGot r bs bad
    | _ => s

/-! ### The commands -/

def execVatReadData (s : State) : Host.Outcome State Fault Refusal := .next s.deliverData

end Sys2Proof.Machine
end

