-- ==== Sys2Proof/Machine/Bundle.lean ====
section
/-!
DEFINITION. Bundles (R158–R163, R168–R173): the slots of a bundle by opcode, the registers they name, the conditions
that hold a bundle, and its issue.
-/

namespace Sys2Proof.Machine

/-! ### Opcodes (R190, R191, R232, R233) -/

/-- OP of a 32-bit slot. -/
def slotOp (w : Word) : Nat := w.toNat / 2 ^ 26

/-- The C-slot instruction of an opcode. -/
def cOp (op : Nat) : Option SlotFn :=
  match op with
  | 0x01 => some endSlot | 0x02 => some brSlot | 0x03 => some loopSlot | 0x04 => some rdcSlot
  | 0x05 => some holdSlot | 0x08 => some sigSlot | 0x09 => some waitSlot | 0x0A => some armSlot
  | 0x0B => some lchkSlot | 0x0C => some creditGrantSlot | 0x0D => some hswapSlot
  | 0x10 => some saddSlot | 0x11 => some ssubSlot | 0x12 => some sandSlot | 0x13 => some sorSlot
  | 0x14 => some sxorSlot | 0x15 => some sshlSlot | 0x16 => some sshrSlot | 0x17 => some smulSlot
  | 0x18 => some sliSlot | 0x19 => some sluiSlot | 0x1A => some scmpSlot | 0x1B => some plogSlot
  | _ => none

/-- The M-slot instruction of an opcode. -/
def mOp (op : Nat) : Option SlotFn :=
  match op with
  | 0x01 => some ldSlot | 0x02 => some stSlot | 0x03 => some rwrSlot | 0x04 => some gatherSlot
  | 0x05 => some ldbSlot | 0x06 => some stbSlot | 0x07 => some sldSlot | 0x08 => some smovSlot
  | 0x09 => some smovxSlot | _ => none

/-- The V-slot instruction of an opcode. -/
def vOp (op : Nat) : Option SlotFn :=
  match op with
  | 0x01 => some vaddSlot | 0x02 => some vsubSlot | 0x03 => some vmulSlot | 0x04 => some vmulhSlot
  | 0x05 => some vfmaSlot | 0x06 => some vminSlot | 0x07 => some vmaxSlot | 0x08 => some vandSlot
  | 0x09 => some vorSlot | 0x0A => some vxorSlot | 0x0B => some vshlSlot | 0x0C => some vshrSlot
  | 0x0D => some vcmpSlot | 0x0E => some vselSlot | 0x0F => some vbcastSlot | 0x10 => some vabsSlot
  | 0x11 => some vnegSlot | 0x18 => some vrsumSlot | 0x19 => some vrmaxSlot | 0x1A => some vrminSlot
  | 0x1B => some vrargmaxSlot | 0x20 => some vlutSlot | 0x21 => some lutLoadSlot | 0x24 => some vqntSlot
  | n => if 0x28 ≤ n ∧ n ≤ 0x2F then some (vcvtSlot (n - 0x28)) else none

/-- The T-slot instruction of an opcode. -/
def tOp (op : Nat) : Option SlotFn :=
  match op with
  | 0x01 => some mmSlot | 0x02 => some convSlot | 0x03 => some dwSlot | 0x08 => some accRdSlot
  | 0x09 => some accWrSlot | 0x0A => some accClrSlot | _ => none

/-- The instruction of slot k (0 C, 1 M, 2 V, 3 T); none for a reserved opcode. -/
def opOf (k op : Nat) : Option SlotFn :=
  match k with | 0 => cOp op | 1 => mOp op | 2 => vOp op | _ => tOp op

/-! ### Registers a slot names (R162, R168, R170) -/

/-- Scoreboard keys that an instruction reads and writes. -/
structure SlotRegs where
  src : List Nat
  dst : List Nat
  deriving DecidableEq, Repr

/-- Registers of a C-slot instruction. -/
def cRegs (op : Nat) (w : SlotWord) (frame : Bool) : SlotRegs :=
  let f := sf w
  match op with
  | 0x03 => ⟨[keyS (f 5 5)], [keyS (f 5 5)]⟩
  | 0x04 => ⟨[], [keyS (f 17 5)]⟩
  | 0x05 => ⟨[keyS (f 17 5)], []⟩
  | 0x08 => ⟨if sb w 9 then [keyS (f 4 5)] else [], []⟩
  | 0x09 => ⟨if frame then [keyS (f 4 5), keyS (f 4 5 + 1), keyS (f 4 5 + 2)] else [keyS (f 4 5)], []⟩
  | 0x0A => ⟨[keyS (f 5 5)], []⟩
  | 0x0B => ⟨[keyS (f 6 5), keyS (f 6 5 + 1)], []⟩
  | 0x0C => ⟨[keyS (f 13 5)], []⟩
  | 0x18 => ⟨[], [keyS (f 17 5)]⟩
  | 0x19 => ⟨[keyS (f 17 5)], [keyS (f 17 5)]⟩
  | 0x1A => ⟨keyS (f 14 5) :: (if sb w 13 then [] else [keyS (f 8 5)]), [keyP (f 19 3)]⟩
  | 0x1B => ⟨[keyP (f 16 3), keyP (f 13 3)], [keyP (f 19 3)]⟩
  | n =>
    if 0x10 ≤ n ∧ n ≤ 0x17 then
      ⟨keyS (f 12 5) :: (if sb w 11 then [] else [keyS (f 6 5)]), [keyS (f 17 5)]⟩
    else ⟨[], []⟩

/-- Registers of an M-slot instruction. -/
def mRegs (op : Nat) (w : SlotWord) : SlotRegs :=
  let f := sf w
  match op with
  | 0x01 => ⟨[keyS (f 6 5)], [keyV (f 17 5)]⟩
  | 0x02 => ⟨[keyV (f 17 5), keyS (f 6 5)], []⟩
  | 0x03 => ⟨[keyV (f 17 5), keyS (f 8 5)], []⟩
  | 0x04 => ⟨[keyV (f 6 5), keyV (f 17 5), keyG], [keyV (f 17 5), keyG]⟩
  | 0x05 => ⟨[keyS (f 8 5)], []⟩
  | 0x06 => ⟨[keyS (f 8 5)], []⟩
  | 0x07 => ⟨[keyS (f 6 5)], [keyS (f 17 5)]⟩
  | 0x08 => ⟨[keyS (f 5 5), keyS (f 5 5 + 1), keyS (f 5 5 + 2)], []⟩
  | 0x09 => ⟨[keyS (f 5 5), keyS (f 5 5 + 1), keyS (f 5 5 + 2)], []⟩
  | _ => ⟨[], []⟩

/-- Registers of a V-slot instruction. -/
def vRegs (op : Nat) (w : SlotWord) : SlotRegs :=
  let vd := sf w 17 5
  let va := sf w 12 5
  let vb := sf w 7 5
  let b := if sb w 3 then keyS vb else keyV vb
  match op with
  | 0x05 => ⟨[keyV vd, keyV va, b], [keyV vd]⟩
  | 0x0E => ⟨[keyV vd, keyV va, b], [keyV vd]⟩
  | 0x0F => ⟨[keyS va], [keyV vd]⟩
  | 0x10 => ⟨[keyV va], [keyV vd]⟩
  | 0x11 => ⟨[keyV va], [keyV vd]⟩
  | 0x20 => ⟨[keyV va], [keyV vd]⟩
  | 0x21 => ⟨[keyS (sf w 11 5), keyS (sf w 11 5 + 1)], []⟩
  | 0x24 => ⟨[keyV va, keyV vd, keyS vb, keyS (vb + 1)], [keyV vd]⟩
  | n =>
    if 0x18 ≤ n ∧ n ≤ 0x1B then ⟨[keyV va], [keyS vd, keyP (sf w 1 3)]⟩
    else if 0x28 ≤ n then
      ⟨keyV va :: (if 2048 / regBits (sf w 7 5) < 2048 / regBits (sf w 2 5) then [keyV vd] else []), [keyV vd]⟩
    else ⟨[keyV va, b], [keyV vd]⟩

/-- Registers of a T-slot instruction. -/
def tRegs (op : Nat) (w : SlotWord) : SlotRegs :=
  let sq := sf w 0 5
  match op with
  | 0x08 => ⟨[], [keyV (sf w 17 5)]⟩
  | 0x09 => ⟨[keyV (sf w 17 5)], []⟩
  | 0x0A => ⟨[], []⟩
  | _ => ⟨[keyS sq, keyS (sq + 1), keyS (sq + 2), keyS (sq + 3)], []⟩

/-- One slot of a bundle, decoded. -/
structure BSlot where
  k : Nat
  op : Nat
  w : SlotWord
  deriving DecidableEq, Repr

/-- A slot that is not a NOP (R653) and whose opcode is not reserved. -/
def BSlot.live (b : BSlot) : Bool := b.op != 0 && (opOf b.k b.op).isSome

/-- The registers a slot names, its predicate among its sources. -/
def BSlot.regs (b : BSlot) (frame : Bool) : SlotRegs :=
  if b.op = 0 then ⟨[], []⟩
  else
    let r : SlotRegs :=
      if !b.live then ⟨[], []⟩
      else match b.k with | 0 => cRegs b.op b.w frame | 1 => mRegs b.op b.w | 2 => vRegs b.op b.w | _ => tRegs b.op b.w
    { r with src := keyP (sf b.w 23 3) :: r.src }

/-- The four slots of a bundle (R158). -/
def slotsOf (q : Quad) : List BSlot :=
  (List.range 4).map (fun k =>
    let w := BitVec.ofNat 32 (q.toNat / 2 ^ (32 * k))
    { k := k, op := slotOp w, w := BitVec.ofNat 26 w.toNat })

/-- The bundle at an index of a tile's instruction buffer (R173). -/
def Tile.bundleAt (x : Tile) (i : Nat) : Quad := Sparse.get (fun _ => 0) x.ibuf i

/-! ### Conditions that hold a bundle (R170) -/

/-- A register whose result is not yet readable in frame ck c (R168, R169). -/
def Thread.pendingKey (y : Thread) (c k : Nat) : Bool :=
  decide (c < Sparse.get (fun _ => 0) y.ready k) || y.await.contains k

/-- The accumulator bank condition of a T- or M-slot instruction (R166, R241). -/
def State.bankHold (s : State) (t : TileId) (th : ThreadId) (y : Thread) (b : BSlot) : Bool :=
  let x := s.tile t
  match b.k, b.op with
  | 3, 0x08 => bankHeldAt 14 s t th y b.w
  | 3, 0x09 => bankHeldAt 14 s t th y b.w
  | 3, 0x0A => clrHeld s t th y b.w
  | 3, 0x01 => (macroOf .mm s t th y b.w).banks.any x.bankHeld
  | 3, 0x02 => (macroOf .conv s t th y b.w).banks.any x.bankHeld
  | 3, 0x03 => (macroOf .dw s t th y b.w).banks.any x.bankHeld
  | 1, 0x05 => bankHeldAt 13 s t th y b.w
  | 1, 0x06 => bankHeldAt 13 s t th y b.w
  | _, _ => false

/-- The first condition of R170 that holds the bundle, by its code (R187); a WAIT's own condition apart. -/
def State.holdCode (s : State) (t : TileId) (th : ThreadId) (y : Thread) (bs : List BSlot) : Option Nat :=
  let x := s.tile t
  let frame := s.isFrame t th
  let on := bs.filter (fun b => b.live && guardOn y b.w)
  let isMacro (b : BSlot) := b.k == 3 && decide (1 ≤ b.op) && decide (b.op ≤ 3)
  let conds : List (Nat × Bool) :=
    [(1, bs.any (fun b => (b.regs frame).src.any (y.pendingKey s.fck))),
     (2, bs.any (fun b => (b.regs frame).dst.any (y.pendingKey s.fck))),
     (3, on.any (s.bankHold t th y)),
     (4, on.any isMacro && x.queueHeld frame),
     (5, x.lutLoading && on.any (fun b => b.k == 2 && (b.op == 0x20 || b.op == 0x21))),
     (7, !y.pailQ.isEmpty),
     (8, match x.queued with | some m => !m.frame && m.thread == th.val | none => false),
     (9, !frame && y.unacked != 0 && on.any (fun b => b.k == 0 && (b.op == 0x08 || b.op == 0x0A))),
     (10, on.any (fun b => b.k == 0 && b.op == 0x05 && sf b.w 0 16 == 0 && !s.holdMet y b.w)),
     (11, match x.moveOf th.val with
          | some m => m.pol || on.any (fun b => b.k == 1 && (b.op == 0x08 || b.op == 0x09))
          | none => false)]
  (conds.find? (·.2)).map (·.1)

/-- The slot of an illegal bundle (R162): the highest-numbered one that names a destination already named. -/
def illegalSlot (bs : List BSlot) (frame : Bool) : Option Nat :=
  (bs.filter (fun b =>
    (b.regs frame).dst.any (fun d => bs.any (fun c => decide (c.k < b.k) && (c.regs frame).dst.contains d)))).getLast?.map
    (·.k)

/-! ### Issue (R152, R161–R163, R171, R173) -/

/-- The effects of slots, each with the thread as it stood before the bundle; the C slot last, so that a handle swap
does not reach its own bundle (R96). The faults are kept, by slot. -/
def State.runSlots (s : State) (t : TileId) (th : ThreadId) (y : Thread) (bs : List BSlot) :
    State × List (Nat × Nat × Nat) :=
  bs.foldl (fun (st : State × List (Nat × Nat × Nat)) b =>
    if b.op = 0 then st
    else
      match opOf b.k b.op with
      | none => (st.1, st.2 ++ [(b.k, 0x01, 0)])
      | some f =>
        let r := f st.1 t th y b.w
        match r.fault with
        | none => (r.st, st.2)
        | some (c, a) => (r.st, st.2 ++ [(b.k, c, a)])) (s, [])

/-- The fault of the lowest-numbered slot. -/
def firstFault (l : List (Nat × Nat × Nat)) : Option (Nat × Nat × Nat) :=
  l.foldl (fun b f => match b with | some g => if f.1 < g.1 then some f else b | none => some f) none

/-- What a precise-stop gather of a faulting bundle does, its other slots having no effect (R182, R251). -/
def State.keepGather (s : State) (t : TileId) (th : ThreadId) (bs : List BSlot) : State :=
  let y := s.thr t th
  match bs.find? (fun b => b.k == 1 && b.op == 0x04 && guardOn y b.w && sb b.w 3) with
  | some b => (gatherSlot s t th y b.w).st
  | none => s

/-- The slots given issue whole, or raise their fault: at tile level their other effects stand (R181), in an
asynchronous thread none does (R182). -/
def State.issueSlots (s : State) (t : TileId) (th : ThreadId) (bs : List BSlot) : State × Bool :=
  let y := s.thr t th
  let order := bs.filter (fun b => b.k ≠ 0) ++ bs.filter (fun b => b.k = 0)
  let (s', faults) := s.runSlots t th y order
  match firstFault faults with
  | none => (s', false)
  | some (k, c, a) =>
    if s.isFrame t th then (s'.slotFault t th c k a, true)
    else
      let s0 := if k == 1 && c == 0x04 then s.keepGather t th bs else s
      (s0.slotFault t th c k a, true)

/-- The thread after a bundle has issued without a fault (R163, R175). -/
def Thread.advance (z : Thread) (c : Nat) : Thread :=
  let fell := z.next.isNone && z.pc == 4095
  { z with
    pc := z.next.getD (if fell then z.pc else z.pc + 1)
    next := none
    fellOff := fell
    waitDone := false
    lastIssue := c + 1
    st := if z.ended then .idle else .run
    stall := 0 }

/-- A thread may issue in this ck: a position of its own (R152), the thread running, no WAIT outstanding, the tile
powered and not stopped by a fault. -/
def State.mayIssue (s : State) (t : TileId) (th : ThreadId) : Bool :=
  let y := s.thr t th
  let k := roundLen (s.tile t).cfgNow
  s.frameActs && s.pdOn (16 + t.val) && !(s.tile t).stopped && decide (th.val < k) && s.round % k == th.val &&
    (y.st == .run || y.st == .stall) && y.wait.isNone && decide (y.lastIssue ≤ s.fck)

/-- BUNDLE_ISSUE: the thread's next bundle issues, is held, or raises its fault. -/
def State.bundleIssue (s : State) (t : TileId) (th : ThreadId) : State :=
  if !s.mayIssue t th then s
  else
    let y := s.thr t th
    let frame := s.isFrame t th
    if y.fellOff then s.slotFault t th 0x01 0 0
    else
      let err := Sparse.get (fun _ => 0) (s.tile t).ibufErr y.pc.toNat
      if err = 2 then
        if (s.tile t).frameRun then s.tileFault t th.val 0x03 0 y.pc.toNat 0 else s.slotFault t th 0x03 0 0
      else
        let bs := slotsOf ((s.tile t).bundleAt y.pc.toNat)
        match s.holdCode t th y bs with
        | some c => s.modThr t th (fun z => { z with st := .stall, stall := c })
        | none =>
          match illegalSlot bs frame with
          | some k => s.slotFault t th 0x02 k 0
          | none =>
            let isWait := bs.any (fun b => b.k == 0 && b.op == 0x09 && guardOn y b.w)
            if isWait && !y.waitDone then
              -- the WAIT issues ahead of the other slots (R171)
              let (s, bad) := s.issueSlots t th (bs.filter (fun b => b.k = 0))
              if bad then s
              else s.modThr t th (fun z => { z with wait := z.wait.map (fun w => { w with bundled := true }) })
            else
              let (s, bad) := s.issueSlots t th (if isWait then bs.filter (fun b => b.k ≠ 0) else bs)
              if bad then s
              else
                let s := if err = 1 then s.satReg (rTile t.val oIbufCe) else s
                s.modThr t th (fun z => z.advance s.fck)

/-- BUNDLE_ISSUE. -/
def execBundleIssue (t : TileId) (th : ThreadId) (s : State) : Host.Outcome State Fault Refusal :=
  .next (s.bundleIssue t th)

/-- NOP: no effect, whatever its bits (R653). -/
def execNop (_t : TileId) (_th : ThreadId) (_slot : SlotKind) (_w : SlotWord) (s : State) :
    Host.Outcome State Fault Refusal := .next s

end Sys2Proof.Machine
end

