-- ==== Sys2Proof/Machine/Loader.lean ====
section
/-!
DEFINITION. The loader routine's checks of a container that lies in the Vat (R324–R337): the rows of R336 that follow
from the container's bytes and the registers. What needs the compiled programs' timing (R29, R33, R41, R264, R279, the
landing check of R298, the end of macro-ops, the PRIME checks of R307) is no part of them (notes/assumptions/50.md).
-/

namespace Sys2Proof.Machine

/-! ### The container as the loader reads it (R324–R328, R335) -/

/-- n bytes from a are all 0. -/
def State.zeroAt (s : State) (a n : Nat) : Bool := (s.mem.bytes a n).all (fun b => b == 0)

/-- TOTAL of the container at a. -/
def State.planTotal (s : State) (a : Nat) : Nat := s.le (a + 8) 4

/-- The sections of a container, whatever their variants, with their VMASK. -/
def State.allSections (s : State) (a : Nat) : List (Nat × Sect) :=
  let dir := a + 128 + 64 * s.le (a + 28) 1
  ((List.range (s.le (a + 32) 4 % 8192)).map (fun i => dir + 16 * i)).map (fun e =>
    (s.le (e + 1) 1, { type := s.le e 1, target := s.le (e + 2) 2, addr := a + s.le (e + 4) 4, len := s.le (e + 8) 4 }))

/-- The segments of an IMAGE section from address `a` up to `stop`: device address, length, address of the data. A head
that does not fit, or data that run past the section, give none (R335); `fuel` bounds the segments. -/
def State.segments (s : State) (fuel a stop : Nat) : Option (List (Nat × Nat × Nat)) :=
  match fuel with
  | 0 => none
  | k + 1 =>
    if stop ≤ a then some []
    else
      let n := s.le (a + 4) 4
      if stop < a + 8 + n then none
      else (s.segments k ((a + 8 + n + 63) / 64 * 64) stop).map (fun r => (s.le a 4, n, a + 8) :: r)

/-- The segments of a section, one at least for every 64 bytes. -/
def State.segmentsOf (s : State) (c : Sect) : Option (List (Nat × Nat × Nat)) :=
  s.segments (c.len / 64 + 2) c.addr (c.addr + c.len)

/-- Every segment of the container's image. -/
def State.imageOf (s : State) (a : Nat) : List (Nat × Nat × Nat) :=
  ((s.allSections a).filter (fun c => c.2.type == 9)).flatMap (fun c => (s.segmentsOf c.2).getD [])

/-- The image written, by copies of the loader routine (R323, R335). -/
def State.writeImage (s : State) (a : Nat) : State :=
  (s.imageOf a).foldl (fun s g =>
    (pieces g.1 g.2.1).foldl (fun s p =>
      if s.memThere p.1 && !isSram p.1 then s.writeNarrow p.1 (s.mem.bytes (g.2.2 + (p.1 - g.1)) p.2) else s) s) s

/-! ### Row 1: integrity (R325–R335) -/

/-- Reserved bytes of the header and of the variant entries. -/
def State.headZeros (s : State) (a : Nat) : Bool :=
  s.zeroAt (a + 31) 1 && decide (s.le (a + 36) 4 < 2048) && s.zeroAt (a + 56) 72 &&
    (List.range (s.le (a + 28) 1)).all (fun v =>
      let e := a + 128 + 64 * v
      s.zeroAt (e + 9) 1 && decide (s.le (e + 20) 1 < 2) && s.zeroAt (e + 21) 3 && s.zeroAt (e + 28) 36)

/-- A slot record of a section type without reserved values (R330). -/
def State.recordOk (s : State) (type a : Nat) : Bool :=
  let r := s.slotRecAt a
  let kind := match r.kind with
    | 1 => type == 3 && decide (r.arg < 16) && decide (r.arg2 < 8)
    | 2 => type == 3 && decide (r.arg < 16) && decide (r.arg2 ≤ 8)
    | 3 => type == 3 && decide (r.arg < 2) && decide (r.arg2 ≤ 8)
    | 4 => type == 3
    | 5 => type == 3 && decide (r.arg < 32) && decide (r.arg % 8 ≤ 5)
    | 0x11 => type == 4 && decide (r.arg < 16) && decide (r.arg2 % 256 < 2) && decide (r.arg2 / 256 < 3)
    | 0x12 => type == 4 && decide (r.arg < 8) && decide (r.arg / 2 < 3)
    | _ => false
  kind && s.zeroAt (a + 12) 4 && (r.count == 0 || r.period != 0)

/-- A band record without reserved values, its slot array in its section (R332, R333). -/
def State.bandOk (s : State) (c : Sect) (cycle a : Nat) : Bool :=
  let kind := s.le a 1
  let nseg := s.le (a + 4) 1
  let npass := s.le (a + 5) 1
  let ncommit := s.le (a + 6) 1
  let nparts := s.le (a + 16) 4
  decide (kind < 3) && decide (s.le (a + 1) 1 < 64) && decide (s.le (a + 2) 1 < 8) && decide (s.le (a + 3) 1 < cycle) &&
    decide (1 ≤ nseg ∧ nseg ≤ 4) &&
    (if kind = 0 then decide (1 ≤ npass ∧ npass ≤ 4) && decide (1 ≤ ncommit ∧ ncommit ≤ 8)
     else npass == 1 && ncommit == 0 && s.le (a + 8) 4 == 0) &&
    s.zeroAt (a + 7) 1 && s.le (a + 12) 4 % 64 == 0 && s.zeroAt (a + 24) 8 &&
    (List.range (min 4 nseg)).all (fun i =>
      let g := a + 32 + 16 * i
      decide (s.le g 1 < 4) && decide (s.le (g + 1) 1 < 16) && decide (s.le (g + 2) 1 < 128) && s.zeroAt (g + 3) 1 &&
        decide (s.le (g + 6) 2 < 1024) && s.zeroAt (g + 10) 6) &&
    (List.range (min 8 ncommit)).all (fun i =>
      let e := a + 96 + 8 * i
      decide (s.le (e + 4) 1 < 64) && decide (s.le (e + 5) 1 < 32) && s.le (e + 6) 1 != 0 && s.zeroAt (e + 7) 1) &&
    decide (nparts = ((s.bandAt c.addr a).segs.map (fun (g : Seg) => g.rows * g.perRow)).sum) &&
    decide (s.le (a + 20) 4 + 4 * npass * nparts ≤ c.len)

/-- Contents of a section by its type, without reserved values (R328–R335). -/
def State.contentsOk (s : State) (c : Sect) : Bool :=
  match c.type with
  | 1 => decide (c.target < 64) && c.len % 16 == 0 && decide (c.len ≤ 65536)
  | 2 => (decide (c.target < 64) || c.target == 0xFFFF) && c.len % 8 == 0 &&
      (List.range (c.len / 8)).all (fun i => planReg (s.marksOf c) c.target (s.regEntry c i).1)
  | 3 => decide (c.target < 64) && c.len % 16 == 0 && (List.range (c.len / 16)).all (fun i => s.recordOk 3 (c.addr + 16 * i))
  | 4 => decide (c.target < 8) && c.len % 16 == 0 && (List.range (c.len / 16)).all (fun i => s.recordOk 4 (c.addr + 16 * i))
  | 5 =>
    let cycle := s.le c.addr 1
    let n := s.le (c.addr + 2) 2
    decide (c.target < 16) && decide (8 + 160 * n ≤ c.len) && decide (1 ≤ cycle ∧ cycle ≤ 8) && s.zeroAt (c.addr + 1) 1 &&
      s.zeroAt (c.addr + 4) 4 && (List.range n).all (fun i => s.bandOk c cycle (c.addr + 8 + 160 * i))
  | 6 => decide (c.target < 64) && c.len == 1024
  | 7 => c.target == 0xFFFF && c.len % 16 == 0 && decide (16 ≤ c.len ∧ c.len ≤ 16384)
  | 8 => c.target == 0xFFFF && c.len == 1280 && (List.range 16).all (fun w => s.zeroAt (c.addr + 80 * w + 65) 15)
  | 9 => c.target == 0xFFFF && (s.segmentsOf c).isSome
  | _ => false

/-- Every section is aligned, lies within TOTAL and holds no reserved value, and no variant has two sections of one type
marked "one" for a target (R324, R327, R328). -/
def State.sectionsOk (s : State) (a : Nat) : Bool :=
  let dir := a + 128 + 64 * s.le (a + 28) 1
  let l := s.allSections a
  let one (c : Nat × Sect) (rest : List (Nat × Sect)) : Bool :=
    c.2.type == 9 || rest.all (fun d =>
      c.2.type != d.2.type || c.2.target != d.2.target ||
        !(List.range (s.le (a + 28) 1)).any (fun v => decide (c.1 / 2 ^ v % 2 = 1 ∧ d.1 / 2 ^ v % 2 = 1)))
  (List.range l.length).all (fun i => s.zeroAt (dir + 16 * i + 12) 4) &&
    l.all (fun c => (c.2.addr - a) % 64 == 0 && decide (c.2.addr + c.2.len ≤ a + s.planTotal a) && s.contentsOk c.2) &&
    l.zipIdx.all (fun p => one p.1 (l.drop (p.2 + 1)))

/-- The CRC-32C of the container at a from byte 16 to TOTAL is the one that its header holds (R325). -/
def State.crcOk (s : State) (a : Nat) : Bool :=
  crc32c (s.mem.bytes (a + 16) (s.planTotal a - 16)) == BitVec.ofNat 32 (s.le (a + 12) 4)

/-- Row 1 of R336. -/
def State.integrityOk (s : State) (a : Nat) : Bool :=
  let total := s.planTotal a
  let nvar := s.le (a + 28) 1
  let nsec := s.le (a + 32) 4
  a % 64 == 0 && s.vatOk a 128 && s.le a 4 == 0x4C50584B && s.le (a + 4) 2 == 1 && s.le (a + 6) 2 == 128 &&
    s.le (a + 16) 4 == 0x731800B0 && decide (total ≤ 2 ^ 24) && decide (1 ≤ nvar ∧ nvar ≤ 8) &&
    decide (1 ≤ nsec ∧ nsec ≤ 4096) && decide (s.le (a + 30) 1 < 4) && decide (128 + 64 * nvar + 16 * nsec ≤ total) &&
    s.vatOk a total && decide (a + total ≤ cacheStoreLo (s.le (a + 30) 1)) &&
    s.crcOk a && s.headZeros a && s.sectionsOk a

/-! ### Planned values -/

/-- The value that a register has once the REGS sections of a variant are written (R329). -/
def State.plannedReg (s : State) (l : List Sect) (target a : Nat) : Word :=
  ((l.filter (fun c => c.type == 2 && c.target == target)).flatMap (fun c => (List.range (c.len / 8)).map (s.regEntry c))).foldl
    (fun w (e : Nat × Word) => if e.1 = a then planValue a e.2 else w) (s.reg a)

/-- Slot records of a variant's sections of a type, by target. -/
def State.plannedSlots (s : State) (l : List Sect) (type target : Nat) : List SlotRec :=
  (l.filter (fun c => c.type == type && c.target == target)).flatMap s.slotRecs

/-- Handle vh i of bank 0 once the VHANDLES section is loaded (R340). -/
def State.plannedVh (s : State) (l : List Sect) (i : Nat) : Quad :=
  match l.find? (fun c => c.type == 7 && decide (16 * i + 16 ≤ c.len)) with
  | some c => BitVec.ofNat 128 (s.le (c.addr + 16 * i) 16)
  | none => Sparse.get (fun _ => 0) s.mem.vh i

/-! ### Row 10: claims and slots (R59, R81, R298, R303, R309, R331, R652) -/

/-- Two records hold their resource in one ck. -/
def SlotRec.meets (r k : SlotRec) : Bool :=
  let (x, y) := if r.count ≤ k.count then (r, k) else (k, r)
  (List.range (x.count + 1)).any (fun i => y.at (x.start + i * x.period))

/-- The link that a record reserves, by its kind and link: a send of the tile, a router's link, or a slice's injection. -/
def SlotRec.link (r : SlotRec) : Option (Nat × Nat) := if r.kind = 3 || r.kind = 5 || r.kind = 0x12 then some (r.kind, r.arg) else none

/-- Two records of a table meet on one link in one ck, or claim a Pail bank for both ports (R59, R81). -/
def SlotRec.clash (r k : SlotRec) : Bool :=
  ((r.link.isSome && r.link == k.link) || (r.arg == k.arg && ((r.kind == 1 && k.kind == 2) || (r.kind == 2 && k.kind == 1)))) &&
    r.meets k

/-- No two records of a table clash. -/
def noClash : List SlotRec → Bool
  | [] => true
  | r :: l => l.all (fun k => !r.clash k) && noClash l

/-- The positions of a record's occurrences are all of some classes (R57). -/
def SlotRec.inClass (r : SlotRec) (ok : SlotClass → Bool) : Bool :=
  (List.range (min (r.count + 1) 16)).all (fun i => ok (posClass ((r.start + i * r.period) % 16)))

/-- Sorted by START and then by KIND (R330). -/
def sortedRecs : List SlotRec → Bool
  | r :: k :: l => (decide (r.start < k.start) || (r.start == k.start && decide (r.kind ≤ k.kind))) && sortedRecs (k :: l)
  | _ => true

/-- A KIND 0x05 record names an output port of router r (R652). -/
def portNamed (r arg : Nat) : Bool :=
  let p := arg % 8
  let corner := (colOf r == 0 || colOf r == 7) && (rowOfTile r == 0 || rowOfTile r == 7)
  let slice := colOf r == 0 || colOf r == 7
  let edge := slice || rowOfTile r == 0 || rowOfTile r == 7
  let named := match p with
    | 0 => true
    | 1 => rowOfTile r != 0 || corner
    | 2 => colOf r != 7
    | 3 => rowOfTile r != 7 || corner
    | 4 => colOf r != 0
    | _ => edge
  named && (arg / 8 % 2 == 0 || (p == 5 && slice))

/-- The records of tile t in a variant: their number and places, the classes of its sends, the ports of its router, and
no record that addresses a tile outside TMASK (R59, R331, R336, R652). -/
def tileTableOk (p : PlanRun) (t : Nat) (l : List SlotRec) : Bool :=
  decide (l.length ≤ ledgerCap 3) && sortedRecs l && noClash l &&
    l.all (fun r => decide (r.start + r.count * r.period < p.budget) &&
      (r.kind != 3 || r.arg != 0 || r.inClass (fun c => c != .read)) &&
      (r.kind != 5 || portNamed t r.arg) &&
      (p.tmask.getLsbD t || (r.kind == 5 && r.arg % 8 != 0)))

/-- The records of slice n in a variant: its injections in the read class, and no claim of a bank that the cache holds
(R59, R81, R331). -/
def sliceTableOk (p : PlanRun) (n : Nat) (l : List SlotRec) : Bool :=
  decide (l.length ≤ ledgerCap 4) && sortedRecs l && noClash l &&
    l.all (fun r => decide (r.start + r.count * r.period < p.budget) &&
      (r.kind != 0x12 || r.inClass (fun c => c == .read)) &&
      !(r.kind == 0x11 && n == 7 && decide (cacheStoreLo p.cache ≤ 0x2C000000 + r.arg * 2 ^ 22)))

/-- A flit or word of a Ladle's frame engine, for its way alone. -/
def bandProbe (src dst port : Nat) (body : Payload) (lane : MeshLane) (inp : Nat) : Flit :=
  { body := body, lane := lane, cls := .any, src := src, dst := dst, port := port, frame := true, age := 0
    pos := .source 0, moved := 0, inp := inp, born := 0 }

/-- A slice's table claims the bank of an address for a Ladle in schedule ck c (KIND 0x11). -/
def sliceClaims (l : List SlotRec) (a dir c : Nat) : Bool :=
  l.any (fun k => k.kind == 0x11 && k.arg == bankOf a && k.arg2 % 2 == dir && k.arg2 / 256 == 1 && k.at c)

/-- Slot ck c of a part at device address a has its class, its links and its claim (R298): a landing write, or a write-out
read with the injection and the way back of its data. -/
def State.slotMatched (s : State) (l : List Sect) (k : Nat) (landing : Bool) (a c : Nat) : Bool :=
  let table := s.plannedSlots l 3
  let n := memOf a - 64
  let claims := s.plannedSlots l 4 n
  let r := ladleRouter k
  let e := servingRouter 0 n
  let h := ladleHops k n
  isVat a &&
    (if landing then
      posClass (c % 16) == .write && sliceClaims claims a 1 (c + h) &&
        pathHeld table 16 (bandProbe r e 5 (.vatWrite n a [] (.ladleWrite k) 1) .data (ladlePort k)) r (c + 1)
    else
      let back := bandProbe e r (ladlePort k) (.vatData a [] [] (.ladleRead k 0 0)) .data 5
      posClass (c % 16) == .read && sliceClaims claims a 0 (c + h) &&
        pathHeld table 16 (bandProbe r e 5 (.vatRead n a 64 (.ladleRead k 0 0) r true) .request (ladlePort k)) r (c + 1) &&
        claims.any (fun q => q.kind == 0x12 && q.arg % 2 == (sliceAt e).2 && q.arg / 2 % 4 == sliceLink (back.outAt e) &&
          q.at (c + h + 9)) &&
        pathHeld table 16 back e (c + h + 10))

/-- A commit entry: in the remote class, its links reserved, its tile in the variant, its object marked in LSYNC_FRAME
(R298, R336). -/
def State.commitMatched (s : State) (l : List Sect) (p : PlanRun) (k : Nat) (c : Commit) : Bool :=
  let o : SyncOp :=
    { obj := 0, arm := false, value := 0, src := .ladle, frame := true, unit := k, thread := 0, kind := 3, ack := false }
  posClass (c.ck % 16) == .remote && p.tmask.getLsbD c.tile &&
    bit (s.plannedReg l c.tile (rTile c.tile oLsyncFrame)) c.obj &&
    pathHeld (s.plannedSlots l 3) 16 (bandProbe (ladleRouter k) c.tile 0 (.sync o) .data (ladlePort k)) (ladleRouter k)
      (c.ck + 1)

/-- Every slot and commit of a band of Ladle k is matched, and lies before the budget ck. -/
def State.bandMatched (s : State) (l : List Sect) (p : PlanRun) (k : Nat) (b : Band) : Bool :=
  let hs := b.segs.map (fun (g : Seg) => s.plannedVh l g.vh)
  b.slots.all (fun pass => pass.zipIdx.all (fun q =>
      decide (q.1 < p.budget) &&
        (match partDevice b hs q.2 with | some a => s.slotMatched l k (b.kind == 0) a q.1 | none => false))) &&
    b.commits.all (fun c => decide (c.ck < p.budget) && s.commitMatched l p k c)

/-- The bands of a variant, with their Ladle, CYCLE and place. -/
def State.plannedBands (s : State) (l : List Sect) : List (Nat × Nat × Nat × Band) :=
  (l.filter (fun c => c.type == 5)).flatMap (fun c =>
    let x := s.bandsAt c
    x.2.zipIdx.map (fun b => (c.target, x.1, b.2, b.1)))

/-- Two bands run in one window of some cycle. -/
def sameWindow (x y : Nat × Nat × Nat × Band) : Bool := x.2.2.2.cwin % Nat.gcd x.2.1 y.2.1 == y.2.2.2.cwin % Nat.gcd x.2.1 y.2.1

/-- Bytes of the bands of a list. -/
def bufSum (l : List (Nat × Nat × Nat × Band)) : Nat := (l.map (fun x => x.2.2.2.buf)).sum

/-- The conditions of R298, R303 and R309 on one band x among all: its picture's FIRST and LAST band in one cycle window,
its Ladle's buffers, the order of the feature pictures, and its DRAIN boundary. -/
def bandPlaced (all : List (Nat × Nat × Nat × Band)) (x : Nat × Nat × Nat × Band) : Bool :=
  let b := x.2.2.2
  let mates := all.filter (fun y => y.1 == x.1 && y.2.2.2.cwin == b.cwin)
  let pic := all.filter (fun y => y.2.2.2.kind == b.kind && y.2.2.2.stream == b.stream && y.2.2.2.cwin == b.cwin)
  (!(b.first || b.last) || (pic.any (fun y => y.2.2.2.first) && pic.any (fun y => y.2.2.2.last))) &&
    (if b.kind = 0 then
      decide (bufSum (mates.filter (fun y =>
        y.2.2.2.kind == 0 && decide (y.2.2.2.issue ≤ b.issue ∧ b.issue ≤ y.2.2.2.firstCommit))) ≤ 262144)
    else decide (bufSum (mates.filter (fun y => y.2.2.2.kind != 0)) ≤ 262144)) &&
    (!(b.kind == 2 && b.first) || all.all (fun y =>
      let o := y.2.2.2
      !(o.kind == 2 && o.first && sameWindow x y) || (y.1 == x.1 && y.2.2.1 == x.2.2.1) ||
        (o.begin != b.begin && (decide (o.begin < b.begin) || decide (b.stream ≤ o.stream))))) &&
    (!b.drain || mates.all (fun y => decide (x.2.2.1 ≤ y.2.2.1) ||
      (decide ((y.2.2.2.slots.flatten).foldl max 0 < b.begin) && decide (y.2.2.2.lastCommit < b.begin))))

/-- Row 10 of R336. -/
def State.slotsOk (s : State) (l : List Sect) (p : PlanRun) : Bool :=
  let bands := s.plannedBands l
  (List.range 64).all (fun t => tileTableOk p t (s.plannedSlots l 3 t)) &&
    (List.range 8).all (fun n => sliceTableOk p n (s.plannedSlots l 4 n)) &&
    bands.all (fun x => s.bandMatched l p x.1 x.2.2.2 && bandPlaced bands x)

/-! ### Rows 11 and 13: programs and fences (R162, R307) -/

/-- The program of tile t, from its PROG section. -/
def State.plannedProg (s : State) (l : List Sect) (t : Nat) : List Quad :=
  match l.find? (fun c => c.type == 1 && c.target == t) with
  | some c => (List.range (c.len / 16)).map (fun i => BitVec.ofNat 128 (s.le (c.addr + 16 * i) 16))
  | none => []

/-- Bundles that may follow bundle i: its branch target, and the next one unless the branch or the END is unconditional
(R163, R267, R270). -/
def bundleNext (q : Quad) (i : Nat) : List Nat :=
  match (slotsOf q).head? with
  | some b =>
    let always := sf b.w 22 4 == 0
    if b.op = 1 then (if always then [] else [i + 1])
    else if b.op = 2 then sf b.w 10 12 :: (if always then [] else [i + 1])
    else if b.op = 3 then [sf b.w 10 12, i + 1]
    else [i + 1]
  | none => [i + 1]

/-- The bundles of a program that a thread may reach; `fuel` bounds the search. -/
def reachBundles (prog : List Quad) (fuel : Nat) (todo seen : List Nat) : List Nat :=
  match fuel, todo with
  | n + 1, i :: r =>
    if seen.contains i then reachBundles prog n r seen
    else
      match prog[i]? with
      | some q => reachBundles prog n (bundleNext q i ++ r) (i :: seen)
      | none => reachBundles prog n r seen
  | _, _ => seen

/-- The bundles that the threads of tile t may reach from their entries: its frame threads, or every thread. -/
def State.reachedBundles (s : State) (l : List Sect) (t : Nat) (frame : Bool) : List Quad :=
  let cfg := s.plannedReg l t (rTile t oTileCfg)
  let prog := s.plannedProg l t
  let js := (List.range (roundLen cfg)).filter (fun j => !frame || isFrameThread cfg j)
  (reachBundles prog (3 * prog.length + 16) (js.map (fun j => fld (s.plannedReg l t (rTile t (oEntry j))) 0 12)) []).filterMap
    (fun i => prog[i]?)

/-- No bundle that a frame thread may reach is illegal (R162). -/
def State.programsOk (s : State) (l : List Sect) (p : PlanRun) : Bool :=
  (List.range 64).all (fun t => !p.tmask.getLsbD t ||
    (s.reachedBundles l t true).all (fun q => (illegalSlot (slotsOf q) true).isNone))

/-- Tile handles through which a bundle's M slot stores to the tile's own memories: ST, STB, SMOV and SMOVX. -/
def storeHandles (q : Quad) : List Nat :=
  (slotsOf q).filterMap (fun b =>
    if b.k != 1 then none
    else match b.op with
      | 2 => some (sf b.w 11 6)
      | 6 => some (sf b.w 16 6)
      | 8 => some (sf b.w 10 6)
      | 9 => some (sf b.w 10 6)
      | _ => none)

/-- A tile that stores through a handle mapped to a stream is in that stream's SMASK (R307). -/
def State.fencesOk (s : State) (l : List Sect) (p : PlanRun) : Bool :=
  (List.range 64).all (fun t => !p.tmask.getLsbD t ||
    ((s.reachedBundles l t false).flatMap storeHandles).eraseDups.all (fun h =>
      let m := fld (s.plannedReg l 0xFFFF (rDmap t (h / 4))) (8 * (h % 4)) 8
      m / 128 == 0 || bit (s.plannedReg l 0xFFFF (rSmask (m % 64) (t / 32))) (t % 32)))

/-! ### The other rows -/

/-- Row 7: the frame-ready object is marked in FRAME_MAP and not in TICKARM_MAP (R284, R285). -/
def State.frameReadyOk (s : State) (l : List Sect) (p : PlanRun) : Bool :=
  bit (s.plannedReg l 0xFFFF (rFrameMap (p.frObj / 32))) (p.frObj % 32) &&
    !bit (s.plannedReg l 0xFFFF (rTickarmMap (p.frObj / 32))) (p.frObj % 32)

/-- Row 12: no entry of a REGS section sets a TERN substitution element to 0b10 (R143). -/
def State.formatsOk (s : State) (l : List Sect) : Bool :=
  (l.filter (fun c => c.type == 2)).all (fun c => (List.range (c.len / 8)).all (fun i =>
    let e := s.regEntry c i
    !(e.1 == rLSubst 0xE || (isTileReg e.1 && e.1 % 0x1000 == oSubst 0xE)) || fld e.2 0 2 != 2))

/-- Row 14: in each window the reservations and the standing draw are within the cap. -/
def State.leaveOk (s : State) (l : List Sect) : Bool :=
  match l.find? (fun c => c.type == 8) with
  | some c => (s.leaveRowsAt c).all (fun w => decide (w.sum + s.standing ≤ fld (s.reg rBudgetCap) 0 10))
  | none => decide (s.standing ≤ fld (s.reg rBudgetCap) 0 10)

/-- Row 15: every segment of the image lies wholly in Pail or Vat, off the container and the banks of the cache mode, aligned
(R335). -/
def State.imageOk (s : State) (a : Nat) : Bool :=
  let lo := cacheStoreLo (s.le (a + 30) 1)
  (s.imageOf a).all (fun g =>
    g.1 % 64 == 0 && g.2.1 % 64 == 0 && decide (g.1 + g.2.1 ≤ lo) &&
      (decide (g.1 + g.2.1 ≤ a) || decide (a + s.planTotal a ≤ g.1)))

/-- The first row of R336, counted from 1, that variant v of the container at a fails by its bytes. -/
def State.loaderRow (s : State) (a v : Nat) : Option Nat :=
  if !s.integrityOk a then some 1
  else
    match s.hwRow a v with
    | some r => some r
    | none =>
      let p := s.planAt a v
      let l := s.sections a v
      if !s.frameReadyOk l p then some 7
      else if !s.slotsOk l p then some 10
      else if !s.programsOk l p then some 11
      else if !s.formatsOk l then some 12
      else if !s.fencesOk l p then some 13
      else if !s.leaveOk l then some 14
      else if !s.imageOk a then some 15
      else none

/-! ### The image (R337) -/

/-- The routine must stop a plan before it writes a container at a, with its image: a variant runs, of this container or,
where the container at a has an image, of another; or an arming of this container is held (R324, R337). -/
def State.mustStop (s : State) (a : Nat) (image : Bool) : Bool :=
  (match s.plan.run with | some p => image || p.addr == a | none => false) ||
    (match s.plan.arming with | some r => r.index != 15 && r.addr == a | none => false)

end Sys2Proof.Machine
end

