-- ==== Sys2Proof/Machine/HostLink.lean ====
section
/-!
DEFINITION. The host link (spec file 11): configuration requests, the BAR2 window, doorbells, entries from their fetch to
their completion, steward-served entries, function-level reset, and the link's own state.
-/

namespace Sys2Proof.Machine

/-! ### Requests that reach the function (R352, R353, R387) -/

/-- The memory requests of the host reach a BAR: the link is up, memory space is enabled and the function is in D0. -/
def State.barOpen (s : State) : Bool := s.linkUp && !s.host.perst && bit (s.cfg 0x04) 1 && !bit (s.reg rLink) 10

/-- A request that no BAR takes (R352). -/
def State.unsupported (s : State) (posted : Bool) : State :=
  let s := s.aer 20
  if posted then s else s.emit (.completion none)

/-- UNSUPPORTED_REQUEST: 0 a request outside every BAR, 1 a poisoned write, 2 a malformed TLP, 3 an ECRC failure: the
last three are discarded. -/
def State.badRequest (s : State) (kind : Nat) (posted : Bool) : State :=
  if !s.linkUp || s.host.perst then s
  else
    match kind with
    | 0 => s.unsupported posted
    | 1 => s.aer 12
    | 2 => s.aer 18
    | _ => s.aer 19

/-! ### The epoch (R382, R512) -/

/-- TOP.EPOCH increments, and EVENT's epoch bit is set. -/
def State.nextEpoch (s : State) : State := (s.incReg rEpoch).event 2

/-- Pending bits of vectors 0–67 cleared (R512). -/
def State.clearPending (s : State) : State :=
  ((s.setReg (rPba 0) 0).setReg (rPba 1) 0).modReg (rPba 2) (fun w => w &&& 0xFFFFFFF0)

/-- Read completions that arrive from now on are discarded; a steward ring's descriptor reads again (DESIGN CHOICE,
notes/assumptions/51.md). -/
def State.dropReads (s : State) : State :=
  let s := { s with host := { s.host with
    reads := []
    dropped := s.host.reads.map (fun (r : HostRead) => r.tag) ++ s.host.dropped } }
  { s with ladle := { s.ladle with ladles := s.ladle.ladles.map (fun (l : Ladle) =>
      match l.copy with
      | some c =>
        match c.read with
        | some (true, _, _) => { l with copy := some { c with got := [], bad := 0 } }
        | _ => l
      | none => l) } }

/-! ### Function-level reset (R384, R524) -/

/-- A copy engine that works for a queue stops (R384). -/
def State.stopCopies (s : State) : State :=
  (List.finRange 16).foldl (fun s l =>
    match (s.lad l).copy with
    | some c => if c.queue < 132 then s.copyEnd l { c with hostOut := none } 9 0 else s
    | none => s) s

/-- HOST registers that function-level reset returns to their reset values: all but SUBSYS_ID, FLR_COUNT and SENT_BASE,
and but for the link's own state. -/
def State.resetHost (s : State) : State :=
  let kept := [rSubsysId, rFlrCount, rSentBase].map (fun a => (a, s.reg a))
  let link := s.reg rLink &&& 0xFF
  let s := kept.foldl (fun s p => s.setReg p.1 p.2) (s.resetRegs 0x30070000 0x30080000)
  s.setReg rLink link

/-- Steps 1 to 4 of R384. `sticky` keeps the AER bits. -/
def State.flrStart (s : State) (sticky : Bool) : State :=
  let s := { s with host := { s.host with flr := true } }
  let s := s.dropReads.stopCopies
  let s := { s with
    accs := s.accs.filter (fun (c : Acc) => c.m ≠ Master.host)
    host := { s.host with
      queues := []
      sent := s.host.sent.map (fun (e : Sent) => { e with stale := true })
      sentWait := [] } }
  let s := s.nextEpoch.satReg rFlrCount
  let aer := s.host.cfg.filter (fun (e : Nat × Word) => decide (0x104 ≤ e.1) && decide (e.1 < 0x120))
  let s := { s with host := { s.host with cfg := if sticky then aer else [] } }
  s.resetHost

/-- FLR: Initiate Function Level Reset is written. -/
def State.flr (s : State) : State := if !s.linkUp || s.host.perst || s.host.flr then s else s.flrStart true

/-- Step 5 of R384. -/
def State.flrDone (s : State) : State :=
  if s.host.flr then ({ s with host := { s.host with flr := false } }).bell 33 else s

/-- The Bell source of a link that has come up or gone down (R449: 34). -/
def State.linkBell (s : State) (was : Bool) : State := if s.linkUp == was then s else s.bell 34

/-- PERST# asserted (R524): a function-level reset at once, the link down, READY_CFG clear. -/
def State.perstAssert (s : State) : State :=
  let was := s.linkUp
  let s := s.setReg rReadyCfg 0
  let s := if s.pdOn 2 then ((s.flrStart false).flrDone.setReg rLink 0).linkBell was else s
  { s with host := { s.host with perst := true } }

/-- The link up, at a width and a rate, once PERST# is deasserted; or down (R531). READY_CFG is set with SUBSYS_ID
loaded, which PD2's power-on has done. -/
def State.linkChange (s : State) (up : Bool) (width rate : Nat) : State :=
  let was := s.linkUp
  if !s.pdOn 2 then s
  else if up then
    let s := s.modReg rLink (fun w => setFld (setFld (setBit w 0 true) 1 4 width) 5 3 rate)
    (({ s with host := { s.host with perst := false } }.setReg rReadyCfg 1).msixFlush).linkBell was
  else (s.modReg rLink (fun w => w &&& 0x700)).linkBell was

/-! ### Configuration space (R350, R386, R387) -/

/-- HOST.LINK's copies of the enables, from configuration space (R388). -/
def State.mirrorLink (s : State) : State :=
  (s.modReg rLink (fun w => setBit (setBit (setBit w 8 (bit (s.cfg 0x04) 2)) 9 (bit (s.cfg 0x50) 31)) 10
    (fld (s.cfg 0x44) 0 2 == 3))).msixFlush

/-- Bus Master Enable changed. -/
def State.busMaster (s : State) (on : Bool) : State :=
  if !s.linkUp then s else (s.setCfg 0x04 (setBit (s.cfg 0x04) 2 on)).mirrorLink

/-- D3hot entered, or D0 returned to; nothing else changes (No_Soft_Reset). -/
def State.powerState (s : State) (d3 : Bool) : State :=
  if !s.linkUp then s else (s.setCfg 0x44 (setFld (s.cfg 0x44) 0 2 (if d3 then 3 else 0))).mirrorLink

/-- Configuration bits that a write of 1 clears (PRESUMED, notes/assumptions/33.md). -/
def cfgW1c (o : Nat) : Word :=
  match o with
  | 0x04 => 0xF9000000 | 0x78 => 0x000F0000 | 0x104 => 0xFFFFFFFF | 0x110 => 0xFFFFFFFF
  | _ => 0

/-- What a configuration read of the DW at o returns; Link Status shows the negotiated rate and width (R347). -/
def State.cfgRead (s : State) (o : Nat) : Word :=
  match o with
  | 0x2C => s.reg rSubsysId
  | 0x154 => Config.serial.setWidth 32
  | 0x158 => (Config.serial >>> 32).setWidth 32
  | 0x80 => s.cfg 0x80 ||| BitVec.ofNat 32 (fld (s.reg rLink) 5 3 * 2 ^ 16 + fld (s.reg rLink) 1 4 * 2 ^ 20)
  | _ => s.cfg o

/-- A configuration write of the enabled bytes of the DW at o. -/
def State.cfgWrite (s : State) (o : Nat) (be : BitVec 4) (v : Word) : State :=
  let en : Word := (List.range 4).foldl (fun m i => if be.getLsbD i then m ||| maskOf (8 * i) 8 else m) 0
  let old := s.cfg o
  let new := ((old &&& ~~~ (cfgMask o &&& en)) ||| (v &&& cfgMask o &&& en)) &&& ~~~ (v &&& cfgW1c o &&& en)
  let new := if o = 0x44 && (fld new 0 2 = 1 || fld new 0 2 = 2) then setFld new 0 2 (fld old 0 2) else new
  let s := (s.setCfg o new).mirrorLink
  if o = 0x78 && bit (v &&& en) 15 then s.flr else s

/-- CONFIGURATION_REQUEST: retry status before READY_CFG and during a reset; otherwise the answer. -/
def State.cfgRequest (s : State) (wr : Bool) (dw : Nat) (be : BitVec 4) (v : Word) : State :=
  if !s.linkUp || s.host.perst then s
  else if !bit (s.reg rReadyCfg) 0 || s.host.flr then s.emit .retry
  else if wr then (s.cfgWrite (4 * dw) be v).emit (.completion (some 0))
  else s.emit (.completion (some ((s.cfgRead (4 * dw)).setWidth 64)))

/-! ### The BAR2 window (R355, R356, R532) -/

/-- BAR2_ACCESS at offset off: a read of n bytes, or a write of bytes. -/
def State.bar2 (s : State) (off n : Nat) (wr : Option (List Byte)) : State :=
  if !s.linkUp || s.host.perst then s
  else if !s.barOpen then s.unsupported wr.isSome
  else
    let a := (s.reg rWinBase).toNat + off
    match wr with
    | some bs => if s.early then s.satReg rEarlyDrop else s.masterWrite .host a bs
    | none => if s.early then s.hostAnswer a (List.replicate n 0) else s.masterRead .host a n 0 false

/-! ### Doorbells (R357, R360, R361, R375) -/

/-- An invalid doorbell (R361). -/
def State.dbError (s : State) (q kind v : Nat) : State :=
  (((s.setReg rDbErr (BitVec.ofNat 32 (q + 256 * kind + 65536 * (v % 4096)))).satReg rDbErrCount)).event 0

/-- A write to a doorbell that is not one DW: logged as another BAR4 write, with the other fields of DB_ERR open. -/
def State.dbOther (s : State) : State :=
  let (w, s) := s.fresh
  s.setReg rDbErr ((w &&& 0x0FFF01FF) ||| 0x200)

/-- The MSI-X vector of a queue (R376). -/
def queueVector (q : Nat) : Nat := if q < 66 then q else if q < 130 then q - 64 else q - 64

/-- Entries from index a up to index b of a ring of n. -/
def ringDist (a b n : Nat) : Nat := (b + n - a) % n

/-- A submission tail doorbell that R361 discards: a value past the ring, or one that, reached from the present tail,
would leave more than size − 1 entries behind the head (notes/assumptions/53.md). -/
def Queue.sqBad (x : Queue) (n t : Nat) : Bool :=
  decide (n ≤ t) || decide (n - 1 < ringDist x.sqHead x.sqTail n + ringDist x.sqTail t n)

/-- A submission tail doorbell. -/
def State.sqTail (s : State) (q : Nat) (dw : Bool) (v : Word) : State :=
  if !s.linkUp || s.host.perst then s
  else if !s.barOpen then s.unsupported true
  else if !dw then s.dbOther
  else
    let t := fld v 0 12
    if !s.qEn q || (s.q q).sqBad (s.sqSize q) t then s.dbError q 0 t else s.modQ q (fun x => { x with sqTail := t })

/-- A completion head doorbell: the arm bit is set, and the vector is signalled at once when completions remain
(notes/assumptions/53.md). -/
def State.cqHead (s : State) (q : Nat) (dw : Bool) (v : Word) : State :=
  if !s.linkUp || s.host.perst then s
  else if !s.barOpen then s.unsupported true
  else if !dw then s.dbOther
  else
    let h := fld v 0 12
    let x := s.q q
    let n := s.cqSize q
    if !s.qEn q || decide (n ≤ h) || decide (ringDist x.cqHead x.cqTail n < ringDist x.cqHead h n) then s.dbError q 1 h
    else if h ≠ x.cqTail && bit (s.reg (rQueue q 0x14)) 1 then
      (s.modQ q (fun x => { x with cqHead := h, arm := false })).msix (queueVector q)
    else s.modQ q (fun x => { x with cqHead := h, arm := true })

/-- A host message doorbell (R357). -/
def State.hostMessage (s : State) (d : Nat) (dw : Bool) (v : Word) : State :=
  if !s.linkUp || s.host.perst then s
  else if !s.barOpen then s.unsupported true
  else if !dw then s.dbOther
  else (s.setReg (rMsg d) v).bell (480 + d)

/-- HOST_MESSAGE_DOORBELL, and the requests to BAR4 that no doorbell takes: a write is discarded and logged, a read gives
zeros (R357). -/
def State.bar4 (s : State) (r : Bar4) (dw : Bool) (v : Word) : State :=
  match r with
  | .msg d => s.hostMessage d.val dw v
  | .other _ =>
    if !s.linkUp || s.host.perst then s
    else if !s.barOpen then s.unsupported true
    else s.dbOther
  | .read _ n =>
    if !s.linkUp || s.host.perst then s
    else if !s.barOpen then s.unsupported false
    else s.hostAnswer 0 (List.replicate n 0)

/-! ### Entries (R362, R363, R378) -/

/-- Planes that the bands of queue q's pictures use in the running plan (R365). -/
def State.planesUsed (s : State) (q p : Nat) : Bool :=
  s.ladle.ladles.toList.any (fun l => l.bands.any (fun b =>
    (if q = 130 then b.kind = 2 else decide (b.kind < 2) && bandQueue b == q) && b.segs.any (fun g => g.plane == p)))

/-- The oldest entry of queue q that has not arrived. -/
def State.nextArrival (s : State) (q : Nat) : Option Entry := (s.q q).held.find? (fun e => e.arrived.isNone)

/-- An entry arrives, with its completion where it has one (R362, R382). -/
def State.entryArrives (s : State) (q serial : Nat) (done : Option (Nat × Bool × Nat)) : State :=
  s.modEntry q serial (fun e => { e with arrived := some s.ck, epoch := s.reg rEpoch, done := done })

/-- Slots of the steward entry ring are all in use (R378; DEDUCED from R360, notes/assumptions/52.md). -/
def State.sentFull (s : State) : Bool := decide ((fld (s.reg rSentHead) 0 4 + 1) % 16 = fld (s.reg rSentTail) 0 4)

/-- One waiting steward-served entry copied to the ring, with the host-entry source. -/
def State.sendOne (s : State) : State :=
  match s.host.sentWait with
  | [] => s
  | (q, k) :: rest =>
    if s.sentFull || !s.pdOn 1 then s
    else
      let h := fld (s.reg rSentHead) 0 4
      let a := (s.reg rSentBase).toNat + 64 * h
      let raw := match s.entry q k with | some e => e.raw.toNat | none => 0
      let s := if isSram a then s.sramWrite none a (bytesOfNat 64 raw) else s
      let s := (s.setReg rSentHead (BitVec.ofNat 32 ((h + 1) % 16))).bell 32
      { s with host := { s.host with
          sentWait := rest
          sent := s.host.sent ++ [{ queue := q, serial := k, stale := false }] } }

/-- The entries that wait for the ring, copied while it has room: at most 16. -/
def State.sendAll (s : State) : State := (List.range 16).foldl (fun s _ => s.sendOne) s

/-- Entries at the front that need no engine arrive: those that fail R363, and steward-served ones (R378). -/
def State.settle (fuel : Nat) (s : State) (q : Nat) : State :=
  match fuel with
  | 0 => s
  | n + 1 =>
    match s.nextArrival q with
    | none => s
    | some e =>
      match arrivalFault (s.planesUsed q) q e.raw with
      | some (st, d) => State.settle n (s.entryArrives q e.serial (some (st, false, d))) q
      | none =>
        if e.op = 3 || e.op = 4 then
          let s := s.entryArrives q e.serial none
          let s := { s with host := { s.host with sentWait := s.host.sentWait ++ [(q, e.serial)] } }
          State.settle n s.sendAll q
        else s

/-- Entries that ENTRY_FETCH may read now: to 8 held, to the tail, and to the ring's wrap. -/
def State.fetchRoom (s : State) (q : Nat) : Nat :=
  let x := s.q q
  min (8 - x.held.length) (min (ringDist x.fetch x.sqTail (s.sqSize q)) (s.sqSize q - x.fetch))

/-- The address of a ring of queue q. -/
def State.sqBase (s : State) (q : Nat) : Nat := (s.reg (rQueue q 0)).toNat + 2 ^ 32 * (s.reg (rQueue q 4)).toNat
def State.cqBase (s : State) (q : Nat) : Nat := (s.reg (rQueue q 8)).toNat + 2 ^ 32 * (s.reg (rQueue q 12)).toNat

/-- ENTRY_FETCH: the next entries of queue q come into the device. -/
def State.entryFetch (s : State) (q : Nat) (raws : List (BitVec 512)) : State :=
  if !s.mayRequest || !s.qEn q then s
  else
    let raws := raws.take (s.fetchRoom q)
    if raws.isEmpty then s
    else
      let x := s.q q
      let reads := s.fetchPieces (s.sqBase q + 64 * x.fetch) (64 * raws.length)
      let tags := s.freeTags
      if tags.length < reads.length then s
      else
        let s := (tags.zip reads).foldl (fun s p => s.emit (.hostRead p.1 p.2.1 p.2.2)) s
        let new := raws.zipIdx.map (fun p => Entry.fresh (s.host.serial + p.2) (x.fetch + p.2) p.1)
        let s := { s with host := { s.host with serial := s.host.serial + raws.length } }
        let s := s.modQ q (fun x => { x with held := x.held ++ new, fetch := (x.fetch + raws.length) % s.sqSize q })
        State.settle 9 s q

/-- The next entry of queue q arrives when its opcode is op; those behind it that need no engine follow. -/
def State.arriveOp (s : State) (q op : Nat) (done : State → State × Option (Nat × Bool × Nat)) : State :=
  match s.nextArrival q with
  | none => s
  | some e =>
    if e.op ≠ op || !s.pdOn 2 then s
    else
      let (s, d) := done s
      State.settle 9 (s.entryArrives q e.serial d) q

/-- ENTRY_NOP: completed OK at arrival; the spec states no DETAIL for it. -/
def State.entryNop (s : State) (q : Nat) : State :=
  s.arriveOp q 0 (fun s => let (d, s) := s.fresh64; (s, some (0, false, d)))

/-- PICTURE and COPY: the entry waits for its engine. -/
def State.entryEngine (s : State) (q op : Nat) : State := s.arriveOp q op (fun s => (s, none))

/-! ### Completions (R369–R375) -/

/-- The CQ of queue q is full. -/
def State.cqFull (s : State) (q : Nat) : Bool := decide (((s.q q).cqTail + 1) % s.cqSize q = (s.q q).cqHead)

/-- FRAME and STREAM of a completion; a picture that took no window has neither stated, but for the stream of its
queue. -/
def State.completionFrame (s : State) (q : Nat) (e : Entry) : State × Nat × Nat :=
  if e.op ≠ 1 then (s, (s.reg rFrame).toNat, 0xFF)
  else if e.taken then (s, e.frame.toNat, e.stream)
  else
    let (f, s) := s.fresh
    let (t, s) := s.fresh
    (s, f.toNat, if 2 ≤ q && q < 66 then q - 2 else if 66 ≤ q && q < 130 then q - 66 else t.toNat % 64)

/-- An entry of a queue that was disabled, aborted without service, waits until every entry of it whose service has started
has completed (R389). -/
def State.abortWaits (s : State) (q : Nat) (e : Entry) : Bool :=
  !s.qEn q && !e.taken && (match e.done with | some (_, aborted, _) => aborted | none => false) &&
    (s.q q).held.any (fun x => x.taken && x.done.isNone)

/-- COMPLETION_WRITE: the completion of queue q's oldest entry, once it is ready and the CQ has room (R373, R374). -/
def State.completionWrite (s : State) (q : Nat) : State :=
  let x := s.q q
  match x.held with
  | [] => s
  | e :: rest =>
    match e.done with
    | none => s
    | some (st, aborted, detail) =>
      if s.cqFull q || !s.mayRequest || s.abortWaits q e then s
      else
        let head := (e.index + 1) % s.sqSize q
        let (s, frame, stream) := s.completionFrame q e
        let flags := b2n e.subst + 2 * b2n e.degraded + 4 * b2n e.late + 8 * b2n e.forced + 16 * b2n aborted
        let rec_ := bytesOfNat 4 e.tag ++ bytesOfNat 4 frame ++ bytesOfNat 4 e.epoch.toNat ++ bytesOfNat 2 head ++
          bytesOfNat 1 st ++ bytesOfNat 1 flags ++ bytesOfNat 8 detail ++ bytesOfNat 1 q ++ bytesOfNat 1 stream ++
          bytesOfNat 5 0 ++ bytesOfNat 1 (b2n x.phase)
        let s := s.emit (.hostWrite (s.cqBase q + 32 * x.cqTail) rec_)
        let tail := (x.cqTail + 1) % s.cqSize q
        let irq := x.arm && bit (s.reg (rQueue q 0x14)) 1
        let s := s.modQ q (fun x =>
          { x with
            held := rest
            sqHead := head
            cqTail := tail
            phase := if tail = 0 then !x.phase else x.phase
            arm := x.arm && !irq })
        if irq then s.msix (queueVector q) else s

/-! ### Steward-served entries (R367, R368, R378, R379) -/

/-- ABORTED is set with this status (R371). -/
def abortStatus (st : Nat) : Bool := st == 0x06 || st == 0x09 || st == 0x0B

/-- The oldest uncompleted steward-served entry of queue q ends with a status. -/
def State.sentDone (s : State) (q st detail : Nat) : Option State :=
  match s.host.sent.find? (fun e => e.queue == q) with
  | none => none
  | some e =>
    let s := { s with host := { s.host with sent := s.host.sent.erase e } }
    if e.stale then some s
    else some (s.modEntry q e.serial (fun x => { x with taken := true, done := some (st, abortStatus st, detail) }))

/-- SDONE written by a master (R379). -/
def State.sdone (s : State) (m : Master) (v : Word) : State :=
  s.regGate m rSdone (fun s =>
    let detail := (s.reg (rSdoneDetail 0)).toNat + 2 ^ 32 * (s.reg (rSdoneDetail 1)).toNat
    if 0x0C ≤ fld v 8 8 then s.regRefuse m rSdone
    else
      match s.sentDone (fld v 0 8) (fld v 8 8) detail with
      | some s => s
      | none => s.regRefuse m rSdone)

/-- SMSG written (R388). -/
def State.smsg (s : State) (m : Master) (v : Word) : State := s.regGate m rSmsg (fun s => (s.setReg rSmsg v).event 24)

/-- Steward firmware runs. -/
def State.stewardsRun (s : State) : Bool := s.pdOn 1 && decide (fld (s.reg rBootStage) 0 4 = 4)

/-- The steward-served entry that firmware serves next, in ring order, with its queue. -/
def State.nextServed (s : State) : Option (Nat × Entry) :=
  if !s.stewardsRun then none
  else
    s.host.sent.findSome? (fun e =>
      if e.stale then none
      else match s.entry e.queue e.serial with
        | some x => if x.taken then none else some (e.queue, x)
        | none => none)

/-- The service of an entry begins. -/
def State.startService (s : State) (q : Nat) (e : Entry) : State := s.modEntry q e.serial (fun x => { x with taken := true })

/-- The first row of R336 that fails: of those that follow from the container, and of the one that firmware finds in the
compiled schedule (`fw`, 0 for none). -/
def State.firstRow (s : State) (fw a v : Nat) : Nat :=
  match s.loaderRow a v with
  | some r => if fw ≠ 0 && decide (fw < r) then fw else r
  | none => fw

/-- The arming just made is the one that entry k of queue q asked for. -/
def State.armedFor (s : State) (q k : Nat) : State := { s with plan := { s.plan with armEntry := some (q, k) } }

/-- An arming asked for by firmware for entry k of queue q: a refused entry completes at once, and an accepted one once the
arming takes effect or is given up (R336, R367). -/
def State.armEntry (s : State) (q k fw a v : Nat) : State :=
  if v = 15 then (s.planGo 0 15).1.armedFor q k
  else if s.firstRow fw a v ≠ 0 then s.endPlan (some (q, k)) 7 (s.firstRow fw a v)
  else
    let (s, st, row) := s.planGo a v
    if st = 3 then s.endPlan (some (q, k)) 7 row else s.armedFor q k

/-- The directory of container bytes names an IMAGE section (R327, R328). -/
def hasImage (data : List Byte) : Bool :=
  let le (o n : Nat) : Nat := natOfBytes ((data.drop o).take n)
  let dir := 128 + 64 * le 28 1
  (List.range (min 4096 (le 32 4))).any (fun i => le (dir + 16 * i) 1 == 9)

/-- Container bytes copied to address a of the Vat (R367). -/
def State.placeContainer (s : State) (a : Nat) (data : List Byte) : State :=
  (pieces a data.length).foldl (fun s p =>
    if isVat p.1 && s.memThere p.1 then s.writeNarrow p.1 ((data.drop (p.1 - a)).take p.2) else s) s

/-- The container copied, its image written where the container is intact and its segments well placed, and the variant
armed (R323, R335, R367). -/
def State.loadAndArm (s : State) (q k fw a v : Nat) (data : List Byte) : State :=
  let s := s.placeContainer a data
  let s := if s.integrityOk a && s.imageOk a then s.writeImage a else s
  s.armEntry q k fw a v

/-- PLAN_LOAD_AND_ARM, PLAN_ARM and PLAN_STOP: the entry that firmware serves next, when it is a PLAN entry of this
ACTION. `fw` is the first check of R336 that firmware finds failed in the compiled schedule, 0 for none; `data` is the
container as the host holds it (notes/assumptions/50.md). VARIANT 0xF is a stop whatever the ACTION (R367). Where a plan
must stop before the image may be written, the routine arms the stop index first, and the entry waits (R337). -/
def State.planEntry (s : State) (action fw : Nat) (data : List Byte) : State :=
  match s.nextServed with
  | none => s
  | some (q, e) =>
    if e.op ≠ 3 || e.fld 232 8 ≠ action then s
    else
      let a := e.fld 192 32
      let v := e.fld 224 4
      if action = 2 || v = 15 then (s.startService q e).armEntry q e.serial 0 0 15
      else if action = 1 then (s.startService q e).armEntry q e.serial fw a v
      else if data.length ≠ e.fld 128 32 || !s.mayRequest then s
      else if s.engineBusy then s
      else if s.mustStop a (hasImage data) then (s.planGo 0 15).1
      else (s.startService q e).loadAndArm q e.serial fw a v data

/-- An ADMIN entry that firmware serves next, when it has this COMMAND; `k` serves it, and its DETAIL is
firmware-defined. One with a COMMAND beyond R368's table completes with ADMIN_ERROR and DETAIL 1 in the course of
whichever command comes first. -/
def State.adminEntry (s : State) (command : Nat) (k : State → Entry → Option State) : State :=
  match s.nextServed with
  | none => s
  | some (q, e) =>
    if e.op ≠ 4 then s
    else if e.fld 64 16 = 0 || 4 < e.fld 64 16 then ((s.startService q e).sentDone q 0x0A 1).getD s
    else if e.fld 64 16 ≠ command || !s.mayRequest then s
    else
      let s := s.startService q e
      let (d, s) := s.fresh64
      match k s e with
      | some s => (s.sentDone q 0 d).getD s
      | none => (s.sentDone q 0x0A d).getD s

/-- ADDR and LEN of an ADMIN entry. -/
def Entry.addr (e : Entry) : Nat := e.fld 128 64
def Entry.len (e : Entry) : Nat := e.fld 192 32

/-- IDENTIFY: the page, whose layout is firmware's, goes to ADDR. -/
def State.identify (s : State) (page : List Byte) : State :=
  s.adminEntry 1 (fun s e => some (s.hostWrite e.addr ((page ++ List.replicate 4096 0).take 4096)))

/-- Bytes of a record as it is read and copied (R495). -/
def ErrRec.bytes (r : ErrRec) (seq : Word) : List Byte :=
  [r.code, r.level, r.unit, r.index].map (BitVec.ofNat 8) ++
    ([r.frame, r.ckrel, r.epoch, r.addr, r.info, seq, 0].flatMap (fun (w : Word) => bytesOfNat 4 w.toNat))

/-- FAULT_LOG: the aggregator's records, up to LEN bytes, go to ADDR. -/
def State.faultLog (s : State) : State :=
  s.adminEntry 2 (fun s e =>
    some (s.hostWrite e.addr ((s.err.recs.flatMap (fun (r : ErrRec × Word) => r.1.bytes r.2)).take e.len)))

/-- The word at byte o of host data. -/
def wordAt (data : List Byte) (o : Nat) : Word := BitVec.ofNat 32 (natOfBytes ((data.drop o).take 4))

/-- TIMING_SET: the timing set of a DISPLAY_TIMING record's value (DEDUCED, notes/assumptions/54.md), requested. -/
def State.timingSet (s : State) (data : List Byte) : State :=
  s.adminEntry 3 (fun s e =>
    if data.length ≠ e.len || e.len < 24 then none
    else
      let s := (List.range 6).foldl (fun s i => s.writeRw (rTs i) (wordAt data (4 * i))) s
      some (s.tsCommit (.steward 0)))

/-- One tile entry of a Skim layout into tile i's registers; a tile beyond the layout is disabled
(notes/assumptions/55.md). -/
def State.skimTile (s : State) (data : List Byte) (n i : Nat) : State :=
  let o := 16 + 64 * i
  if n ≤ i then s.writeRw (rSkTile i 0) 0
  else
    let vh := natOfBytes ((data.drop (o + 48)).take 2) % 1024
    let s := (List.range 4).foldl (fun s j => s.writeRw (rSkTile i (4 * j)) (wordAt data (o + 4 * j))) s
    (s.writeRw (rSkTile i 16) (BitVec.ofNat 32 (vh + 65536 * ((vh + 1) % 1024)))).writeRw (rSkTile i 20)
      (BitVec.ofNat 32 ((vh + 2) % 1024))

/-- SKIM_LAYOUT: the layout of R547 written into the Skim registers. -/
def State.skimLayout (s : State) (data : List Byte) : State :=
  s.adminEntry 4 (fun s e =>
    let n := min 16 (natOfBytes (data.take 1))
    if data.length ≠ e.len || e.len < 16 + 64 * n then none
    else
      let pattern := natOfBytes ((data.drop 1).take 1) % 2
      let div := natOfBytes ((data.drop 2).take 1) % 8
      let s := s.writeRw rSkimCtrl (BitVec.ofNat 32 (2 * pattern + 4 * div))
      let s := (s.writeRw rSkimBg (wordAt data 4)).writeRw rSkimBorder (wordAt data 8)
      some ((List.range 16).foldl (fun s i => s.skimTile data n i) s))

/-! ### Queues (R359, R360, R380, R389) -/

/-- QCTRL's stored value, with INFLIGHT from 1 to 256. -/
def qctrlValue (v : Word) : Word := setFld (v &&& 3) 16 9 (max 1 (min 256 (fld v 16 9)))

/-- Entries of a queue that is being disabled: those not arrived go, those not taken are completed (R389). -/
def disabledEntries (l : List Entry) : List Entry :=
  (l.filter (fun e => e.arrived.isSome)).map (fun e =>
    if e.taken || e.done.isSome then e
    else { e with done := some (if e.op = 3 || e.op = 4 then 0x0B else 0x09, true, 0) })

/-- QCTRL q written. Enabling a queue that is not idle changes no EN (DESIGN CHOICE, notes/assumptions/51.md). -/
def State.qctrlSet (s : State) (q : Nat) (v : Word) : State :=
  let v := qctrlValue v
  let was := s.qEn q
  let idle := (s.q q).held.isEmpty
  if bit v 0 && !was then
    if !idle then s.setReg (rQueue q 0x14) (setBit v 0 false)
    else (s.setReg (rQueue q 0x14) v).setQ q { Queue.reset with arm := true }
  else if !bit v 0 && was then
    let s := s.setReg (rQueue q 0x14) v
    let old := (s.q q).held
    let s := s.modQ q (fun x => { x with held := disabledEntries x.held })
    let gone (k : Nat) : Bool := old.any (fun e => e.serial == k && !e.taken)
    { s with host := { s.host with
        sent := s.host.sent.filter (fun e => e.stale || e.queue ≠ q || !gone e.serial)
        sentWait := s.host.sentWait.filter (fun p => p.1 ≠ q) } }
  else s.setReg (rQueue q 0x14) v

/-- QUEUE_ENABLE and QUEUE_DISABLE by a master. -/
def State.qctrlWrite (s : State) (m : Master) (q : Nat) (v : Word) : State :=
  s.regGate m (rQueue q 0x14) (fun s => s.qctrlSet q v)

/-! ### The commands -/

def execConfigurationRequest (wr : Bool) (dw : Fin 1024) (be : BitVec 4) (v : BitVec 32) (s : State) :
    Host.Outcome State Fault Refusal := .next (s.cfgRequest wr dw.val be v)
def execBar2Access (off : BitVec 28) (n : Nat) (wr : Option (List (BitVec 8))) (s : State) :
    Host.Outcome State Fault Refusal := .next (s.bar2 off.toNat n wr)
def execSqTailDoorbell (q : Fin 132) (dw : Bool) (v : BitVec 32) (s : State) : Host.Outcome State Fault Refusal :=
  .next (s.sqTail q.val dw v)
def execCqHeadDoorbell (q : Fin 132) (dw : Bool) (v : BitVec 32) (s : State) : Host.Outcome State Fault Refusal :=
  .next (s.cqHead q.val dw v)
def execHostMessageDoorbell (r : Bar4) (dw : Bool) (v : BitVec 32) (s : State) : Host.Outcome State Fault Refusal :=
  .next (s.bar4 r dw v)
def execEntryFetch (q : Fin 132) (raws : List (BitVec 512)) (s : State) : Host.Outcome State Fault Refusal :=
  .next (s.entryFetch q.val raws)
def execEntryNop (q : Fin 132) (s : State) : Host.Outcome State Fault Refusal := .next (s.entryNop q.val)
def execPicture (q : Fin 132) (s : State) : Host.Outcome State Fault Refusal := .next (s.entryEngine q.val 1)
def execCopy (q : Fin 132) (s : State) : Host.Outcome State Fault Refusal := .next (s.entryEngine q.val 2)
def execPlanLoadAndArm (fw : Fin 16) (data : List (BitVec 8)) (s : State) : Host.Outcome State Fault Refusal :=
  .next (s.planEntry 0 fw.val data)
def execPlanArm (fw : Fin 16) (s : State) : Host.Outcome State Fault Refusal := .next (s.planEntry 1 fw.val [])
def execPlanStop (s : State) : Host.Outcome State Fault Refusal := .next (s.planEntry 2 0 [])
def execIdentify (page : List (BitVec 8)) (s : State) : Host.Outcome State Fault Refusal := .next (s.identify page)
def execFaultLog (s : State) : Host.Outcome State Fault Refusal := .next s.faultLog
def execTimingSet (data : List (BitVec 8)) (s : State) : Host.Outcome State Fault Refusal := .next (s.timingSet data)
def execSkimLayout (data : List (BitVec 8)) (s : State) : Host.Outcome State Fault Refusal := .next (s.skimLayout data)
def execCompletionWrite (q : Fin 132) (s : State) : Host.Outcome State Fault Refusal := .next (s.completionWrite q.val)
def execSdone (m : Master) (v : BitVec 32) (s : State) : Host.Outcome State Fault Refusal := .next (s.sdone m v)
def execHostSmsg (m : Master) (v : BitVec 32) (s : State) : Host.Outcome State Fault Refusal := .next (s.smsg m v)
def execQueueEnable (m : Master) (q : Fin 132) (v : BitVec 32) (s : State) : Host.Outcome State Fault Refusal :=
  .next (s.qctrlWrite m q.val (v ||| 1))
def execQueueDisable (m : Master) (q : Fin 132) (v : BitVec 32) (s : State) : Host.Outcome State Fault Refusal :=
  .next (s.qctrlWrite m q.val (v &&& ~~~ 1))
def execFlr (s : State) : Host.Outcome State Fault Refusal := .next s.flr
def execFlrComplete (s : State) : Host.Outcome State Fault Refusal := .next s.flrDone
def execPerst (s : State) : Host.Outcome State Fault Refusal := .next s.perstAssert
def execLinkStateChange (up : Bool) (width : Fin 16) (rate : Fin 8) (s : State) : Host.Outcome State Fault Refusal :=
  .next (s.linkChange up width.val rate.val)
def execBusMasterEnable (on : Bool) (s : State) : Host.Outcome State Fault Refusal := .next (s.busMaster on)
def execPowerStateChange (d3 : Bool) (s : State) : Host.Outcome State Fault Refusal := .next (s.powerState d3)
def execUnsupportedRequest (kind : Fin 4) (posted : Bool) (s : State) : Host.Outcome State Fault Refusal :=
  .next (s.badRequest kind.val posted)

end Sys2Proof.Machine
end

