-- ==== Sys2Proof/Machine/Window.lean ====
section
/-!
DEFINITION. The raster's decisions (R22, R23, R25, R395), the tick ck and what it brings to every unit (R20, R44, R98,
R104, R155, R176, R284, R285, R342, R344, R345, R394, R408, R423, R507, R589), the budget check (R30), and the
non-determinism counters' commands (R43, R44).
-/

namespace Sys2Proof.Machine

/-! ### Blanking (R22, R23, R25, R395–R397) -/

/-- The frame-ready object's count has reached its target (R22). -/
def State.frameReady (s : State) : Bool :=
  decide ((s.reg rFrTarget).toNat ≤ (s.count (fld (s.reg rFrObj) 0 11)).toNat)

/-- TE_CFG.MODE is GATE. -/
def State.teGate (s : State) : Bool := fld (s.reg rTeCfg) 0 2 == 1

/-- The TE latch (R396). -/
def State.teLatch (s : State) : Bool := bit (s.reg rTeLine) 16

/-- The timing generator at the start of blanking line b, whose sample takes in every update of this ck (R22, R285):
State.blankDecide takes it at the ck's end. -/
def State.blankAt (s : State) (b : Nat) : State :=
  let s := s.setReg rLine (BitVec.ofNat 32 (tsVActive s.scan.ts + b))
  let s := if b = 0 then (s.orReg rTickStatus 1).clrReg rTeLine 0x10000 else s
  let s := ((s.takeLead.blankCream 0).blankCream 1).blankOut b 0 |>.blankOut b 1
  { s with
    tick := { s.tick with blank := .blanking, blankLine := b, ready := decide (b ≠ 0) && s.tick.ready }
    now := { s.now with sample := true } }

/-- The sample of the blanking line that this ck has started: whether it is the last one. -/
def State.blankDecide (s : State) : State :=
  let b := s.tick.blankLine
  let ready := s.tick.ready
  let set (s : State) (z : Blank) (r : Bool) : State := { s with tick := { s.tick with blank := z, ready := r } }
  let minDone := decide (tsVbMin s.scan.ts ≤ b + 1)
  if !s.planRuns then set s (if minDone then .last else .blanking) ready
  else
    let fr := s.frameReady
    let ready := ready || (fr && (!s.teGate || s.teLatch))
    if ready && minDone then set s .last ready
    else if tsVbMax s.scan.ts ≤ b + 1 then
      let s := if s.teGate && fr && !s.teLatch then s.incReg rTeMiss else s
      set s .forced ready
    else set s .blanking ready

/-- The sampling ck of blanking line b, in ck after the last tick ck (R22). -/
def State.sampleCk (s : State) (b : Nat) : Nat :=
  ((tsVActive s.scan.ts + b) * (s.reg rLineCk).toNat + 65535) / 65536

/-- This ck may be the sampling ck of blanking line b: after a tick, with no relock since, it is the one of
State.sampleCk; otherwise the one in which the line's start is recognised. -/
def State.samplesNow (s : State) (b : Nat) : Bool :=
  !s.tick.ticked || s.tick.relocked || decide ((s.reg rCkrel).toNat = s.sampleCk b)

/-- BLANKING_LINE_SAMPLE: the next blanking line starts, in its sampling ck. -/
def State.blankingSample (s : State) : State :=
  if !s.tgOn || s.now.sample then s
  else
    match s.tick.blank with
    | .active => if s.tick.activeLine < tsVActive s.scan.ts || !s.samplesNow 0 then s else s.blankAt 0
    | .blanking => if s.samplesNow (s.tick.blankLine + 1) then s.blankAt (s.tick.blankLine + 1) else s
    | _ => s

/-! ### The TICK registers at a tick ck (R20, R23, R44, R45, R499) -/

/-- The six counters latched, and cleared where that was asked for; the events of the tick ck count after both (R44). -/
def State.ndetTick (s : State) : State :=
  let sum := s.tick.ndet[5] - s.now.ndet[5]
  let diff := (sum - s.tick.sumAtTick).toNat
  let s := s.setReg rNdetFrame (BitVec.ofNat 32 (min diff 0xFFFFFFFF))
  if bit (s.reg rNdetCtrl) 0 then
    let s := s.setReg rNdetCtrl 0
    { s with tick := { s.tick with ndet := s.now.ndet, sumAtTick := 0 } }
  else { s with tick := { s.tick with sumAtTick := sum } }

/-- A forced start (R23), and a run of them (R499). -/
def State.forcedStart (s : State) : State :=
  let s := (s.tickFlag 9).satReg rForcedCount
  let n := s.tick.forcedRun + 1
  let s := { s with tick := { s.tick with forcedRun := n } }
  let lim := fld (s.reg rLimits) 8 8
  if lim ≠ 0 && n = lim then (s.post 0x41 4 6 0 0 0).variantLevel else s

/-- The TICK actions of R20, whether or not the tick is delivered to the frame domain. -/
def State.tickRegs (s : State) (forced : Bool) : State :=
  let s := s.setReg rLastPeriod (s.reg rCkrel)
  let s := (s.incReg rFrame).setReg rCkrel 0
  let s := s.setReg rLastVb (BitVec.ofNat 32 (s.tick.blankLine + 1))
  let s := (s.modReg rHeartbeat (fun w => w ^^^ 1)).tickFlag 8
  let s := { s with
    tick := { s.tick with
      heartbeatPin := !s.tick.heartbeatPin
      frameForced := forced
      relocked := false }
    milk := { s.milk with tickTime := s.bells.mtime.toNat } }
  let s := if forced then s.forcedStart else { s with tick := { s.tick with forcedRun := 0 } }
  s.ndetTick

/-! ### The frame threads at a tick (R139, R154, R164, R176, R178, R180) -/

/-- The thread's registers cleared, as a variant that takes effect does to frame threads (R164). -/
def Thread.cleared (z : Thread) : Thread :=
  { z with
    s := Vector.replicate 32 0
    p := 0
    v := Vector.replicate 32 0
    poison := Vector.replicate 32 0
    gfirst := 0xFFFF
    gprog := 0xFFFF
    ready := []
    await := [] }

/-- A configuration taking effect in a tile: threads without positions are OFF, so that they idle when they get one. -/
def Tile.setCfg (x : Tile) (cfg : Word) : Tile :=
  { x with
    cfgNow := cfg
    th := Vector.ofFn (fun j : ThreadId =>
      if roundLen cfg ≤ j.val || roundLen x.cfgNow ≤ j.val then { x.th[j] with st := .idle, wait := none, stall := 0 }
      else x.th[j]) }

/-- Every frame thread of a tile changed by a function. -/
def Tile.mapFrame (x : Tile) (f : ThreadId → Thread → Thread) : Tile :=
  { x with th := Vector.ofFn (fun j : ThreadId =>
      if isFrameThread x.cfgNow j.val && decide (j.val < roundLen x.cfgNow) then f j x.th[j] else x.th[j]) }

/-- Frame threads read HALTED, as a halt leaves them. -/
def Tile.haltFrame (x : Tile) : Tile :=
  x.mapFrame (fun _ z =>
    let z := z.halt
    if z.st = .idle then { z with st := .halted, resume := .idle } else z)

/-- The frame threads restart at their entries (R176). -/
def State.restartFrame (s : State) (t : TileId) : State :=
  s.modTile t (fun x => x.mapFrame (fun j z =>
    if z.st = .idle then { z.startAt (s.entryOf t j) with st := .run } else z))

/-- What a tick delivered to the frame domain does to every powered tile, a variant taking effect or not: the ledger's
records (R38), the notes of the window (R237), the draw counters (R139), and the reload of frame credit (R104). -/
def State.tileTick (s : State) (t : TileId) : State :=
  if !s.pdOn (16 + t.val) then s
  else
    let s := s.setReg (rTile t.val oLedgerSlack) 0
    let s := (List.range 16).foldl (fun s k =>
      if bit (s.treg t.val (oCcCfg k)) 10 then s.setReg (rTile t.val (oCcBal k)) (s.treg t.val (oCcPre k)) else s) s
    let s := if bit (s.treg t.val oHbank) 1 then s.modReg (rTile t.val oHbank) (fun w => (w ^^^ 1) &&& 1) else s
    s.modTile t (fun x =>
      { x with
        late := []
        noted := []
        creditNow := x.creditNow.filter (fun p => !bit (s.treg t.val (oCcCfg p.1)) 10)
        th := Vector.ofFn (fun j : ThreadId => { x.th[j] with draw := BitVec.ofNat 32 (j.val * 2 ^ 27) }) })

/-! ### The end of a plan (R342, R394, R408, R507) -/

/-- Pictures in service whose bands do not all run any more: completed ABORTED in their place (R394; for every way a
plan ends DEDUCED, notes/assumptions/63.md). A picture whose LAST band is in service goes on. -/
def State.abortPictures (s : State) : State :=
  let lastHeld (q k : Nat) : Bool :=
    s.ladle.ladles.toList.any (fun l => l.runs.any (fun r =>
      r.band.last && decide (r.band.kind ≠ 0) && r.entry == some (q, k)))
  let qs := s.host.queues.map (fun (p : Nat × Queue) =>
    (p.1, { p.2 with held := p.2.held.map (fun e =>
      if e.op = 1 && e.taken && e.done.isNone && !e.ended && !lastHeld p.1 e.serial then { e with done := some (9, true, 0) }
      else e) }))
  { s with
    host := { s.host with queues := qs }
    ladle := { s.ladle with current := [] } }

/-- The bands of a plan that ends: landing bands in service go, write-out bands bring out what they have read. -/
def State.dropBands (s : State) : State :=
  { s with ladle := { s.ladle with
      draws := []
      ladles := s.ladle.ladles.map (fun (l : Ladle) =>
        { l with
          cycle := 1
          bands := []
          runs := (l.runs.filter (fun r => r.band.kind ≠ 0)).map (fun r =>
            { r with parts := r.parts.map (fun p => if p == .empty then .never else p) }) }) } }

/-- ERR.TOUT cleared (R507). -/
def State.clearTout (s : State) : State := (s.setReg (rTout 0) 0).setReg (rTout 1) 0

/-- The plan-swap source, and its event. -/
def State.planSignal (s : State) : State := (s.bell 6).event 13

/-- A tile that runs frame threads no longer: a halt that waited for this takes hold of them (R178). -/
def State.frameEnds (s : State) (t : TileId) : State :=
  let halt := s.haltOn t && (s.tile t).frameRun
  s.modTile t (fun x =>
    let x := { x with frameRun := false, draws := [] }
    if halt then x.haltFrame else x)

/-- From this ck no plan runs. The registers that the engine has already written for its target stay (DEDUCED,
notes/assumptions/63.md). -/
def State.planOff (s : State) (tout : Bool) : State :=
  let s := if tout then s.clearTout else s
  if !s.planRuns then s
  else
    let s := allTiles.foldl State.frameEnds s
    let s := s.dropBands.abortPictures
    let kept := match s.plan.engine with | .done (some _) _ => true | _ => false
    let s :=
      if kept then s
      else
        let s := (List.range 4).foldl (fun s k =>
          if bit (s.reg rPlanLayers) k then s.hwReg (rLayer k 0) (s.reg (rLayer k 0) &&& ~~~ 1) else s) s
        (s.hwReg rPlanLayers 0).modReg rTickStatus (fun w => setBit w 3 false)
    let s := { s with
      plan := { s.plan with run := none, priming := false, peak := 0, leaveWin := 0 }
      mem := { s.mem with slots := [] }
      mesh := { s.mesh with slots := [] } }
    let s := s.mapTiles (fun _ x => { x with slots := [] })
    (s.modReg rTickStatus (fun w => setBit w 1 false)).planSignal

/-! ### A variant taking effect (R342, R344, R345, R478) -/

/-- The stop index takes effect at a tick as a variant does (R342): bank 0 of every handle table, frame threads' registers
cleared, SR_WINDOW and LADLE.WINDOW 0. -/
def State.stopEffect (s : State) : State :=
  let s := allTiles.foldl (fun s t =>
    if !s.pdOn (16 + t.val) then s
    else
      let s := (s.setReg (rTile t.val oHbank) 0).setReg (rTile t.val oSrWindow) 0
      s.modTile t (fun x => x.mapFrame (fun _ z => z.cleared))) s
  (s.setReg rVhBank 0).setReg rLWindow 0

/-- Slot records and bands of the new variant p in force: bands in the Ladles of LMASK, claims in the slices of
VMASK_SLICE (R326). -/
def State.loadStaged (s : State) (p : PlanRun) : State :=
  let g := s.staged
  let s := s.mapTiles (fun t x => { x with slots := Sparse.get (fun _ => []) g.tslots t.val })
  let lads := Vector.ofFn (fun l : Fin 16 =>
    let b := if p.lmask.getLsbD l.val then Sparse.get (fun _ => (1, [])) g.bands l.val else (1, [])
    { s.lad l with cycle := b.1, bands := b.2 })
  { s with
    mem := { s.mem with slots := g.vslots.filter (fun e => p.vmask.getLsbD e.1) }
    mesh := { s.mesh with slots := (g.tslots.map (fun p => (p.1, p.2.filter (fun k => k.kind == 5)))).filter (fun p => !p.2.isEmpty) }
    ladle := { s.ladle with ladles := lads }
    staged := .reset }

/-- The largest total of one window's reservations (R478). -/
def PlanRun.peak (p : PlanRun) : Nat := (p.leave.map (fun (w : List Nat) => w.sum)).foldl max 0

/-- A tile in the tick ck in which a variant takes effect: it runs frame threads when the variant's TMASK includes it,
whatever state its threads are in (R155). -/
def State.tileEffect (s : State) (p : PlanRun) (t : TileId) : State :=
  if !s.pdOn (16 + t.val) then s.modTile t (fun x => { x with frameRun := p.tmask.getLsbD t.val })
  else
    let was := (s.tile t).frameRun
    let s := (s.setReg (rTile t.val oHbank) 0).setReg (rTile t.val oSrWindow) 0
    let cfg := s.treg t.val oTileCfg
    let s := s.modTile t (fun x => (x.setCfg cfg).mapFrame (fun _ z => z.cleared))
    if p.tmask.getLsbD t.val then
      let halt := s.haltOn t && !was
      s.modTile t (fun x =>
        let x := { x with frameRun := true }
        if halt then x.haltFrame else x)
    else s.frameEnds t

/-- A variant takes effect: seamlessly, or with its priming window. -/
def State.takeEffect (s : State) (p : PlanRun) (seamless : Bool) : State :=
  let s := if seamless then s else s.dropBands.abortPictures
  let s := s.clearTout.loadStaged p
  let s := { s with plan := { s.plan with run := some p, priming := !seamless, engine := .idle, peak := p.peak } }
  let s := allTiles.foldl (fun s t => s.tileEffect p t) s
  let s := s.endPlan s.plan.swapEntry 0 (p.planId.toNat + 2 ^ 32 * p.variant)
  let s := { s with plan := { s.plan with swapEntry := none } }
  ((s.setReg rVhBank 0).setReg rLWindow 0).planSignal

/-- The stop index has taken effect: the PLAN entry that armed it completes; R371 states a plan and a variant for its
DETAIL, and the stop has none (notes/assumptions/91.md). -/
def State.stopEntryEnds (s : State) : State :=
  match s.plan.swapEntry with
  | none => s
  | some e =>
    let (d, s) := s.fresh64
    let s := s.endPlan (some e) 0 d
    { s with plan := { s.plan with swapEntry := none } }

/-- The plan at a delivered tick: what the swap engine has loaded takes effect, a covered swap leaves no plan from the
first tick after its start, and otherwise the running variant begins its next window. -/
def State.planTick (s : State) : State :=
  match s.plan.engine with
  | .idle =>
    if s.planRuns then
      let s := s.incReg rLWindow
      let s := allTiles.foldl (fun s t =>
        if s.pdOn (16 + t.val) then s.incReg (rTile t.val oSrWindow) else s) s
      { s with plan := { s.plan with priming := false } }
    else s
  | .done (some p) seamless =>
    if s.power.relock.isNone then s.takeEffect p (seamless && s.planRuns)
    else
      let s := s.planOff false
      { s with plan := { s.plan with engine := .done (some p) false } }
  | .done none stop =>
    let s := if s.planRuns then (let s := s.planOff true; if stop then s.stopEffect else s) else s.clearTout
    let s := s.stopEntryEnds
    { s with plan := { s.plan with engine := .idle } }
  | .loading (some p) _ =>
    let s := s.planOff false
    { s with plan := { s.plan with engine := .loading (some p) false } }
  | .loading none _ => if s.planRuns then (s.planOff true).stopEffect else s.planOff true

/-! ### Synchronisation at a tick (R275, R284, R285) -/

/-- The WHO of a tick action (R600). -/
def tickWho : Nat := 5 * 512

/-- A tick action sets an object's count before any other update of the ck. -/
def State.tickSet (s : State) (o : Nat) (v : Word) : State := s.putSync o { s.syncCkOf o with tick := some v } tickWho

/-- The count that tick actions so far leave. -/
def SyncCk.start (r : SyncCk) : Word := match r.tick with | some v => v | none => r.base

/-- The tick actions of the SYNC block and of the tiles' objects. -/
def State.syncTick (s : State) : State :=
  if !s.pdOn 7 then s
  else
    let s := (List.range 2048).foldl (fun s o =>
      if bit (s.reg (rTickarmMap (o / 32))) (o % 32) then s.tickSet o (s.reg (rTickval o)) else s) s
    let s := allTiles.foldl (fun s t =>
      let m := s.treg t.val oLsyncTickzero
      if m = 0 || !s.pdOn (16 + t.val) then s
      else (List.range 32).foldl (fun s k => if bit m k then s.tickSet (2048 + 32 * t.val + k) 0 else s) s) s
    if s.planRuns then
      let o := fld (s.reg rFrObj) 0 11
      let c := (s.syncCkOf o).start
      let g := s.reg rFrTarget
      s.tickSet o (if c.toNat < g.toNat then 0 else c - g)
    else s

/-! ### The tick's delivery to the frame domain (R589) -/

/-- The tick is delivered: the frame domain is not stopped, and its window is over. -/
def State.tickDelivered (s : State) : Bool :=
  s.frameActs && (match s.plan.run with | some p => decide (p.budget ≤ s.sched) | none => true)

/-- A delivered tick. -/
def State.deliverTick (s : State) : State :=
  let s := s.planTick
  let s := { s with
    tickF := s.fck
    frameF := s.reg rFrame
    round := 0
    faultedWindow := 0
    plan := { s.plan with leaveWin := 0 } }
  let s := allTiles.foldl State.tileTick s
  let s := if bit (s.reg rVhBank) 1 then s.modReg rVhBank (fun w => (w ^^^ 1) &&& 1) else s
  let s := allTiles.foldl (fun s t => if (s.tile t).frameRun then s.restartFrame t else s) s
  s.syncTick

/-! ### Scan-out at a tick (R26, R342, R398, R419, R423, R429) -/

/-- The latching interval of Skim, in frames, by the DIV that was latched last (R406, R423). -/
def State.skimEvery (s : State) : Nat :=
  let m := 30 * (s.reg rMinper).toNat
  max (fld (s.skimWord 0) 2 3) (if m = 0 then 1 else (s.clkNow * 1000 + m - 1) / m)

/-- The Skim registers as a latch takes them: SKIM_CTRL, then six for each tile. -/
def State.skimRegs (s : State) : List Word :=
  s.reg rSkimCtrl :: (List.range 16).flatMap (fun t => (List.range 6).map (fun i => s.reg (rSkTile t (4 * i))))

/-- A tile that breaks a rule of R422 while Skim shows tiles. -/
def State.skimBroken (s : State) : Bool :=
  !bit (s.reg rSkimCtrl) 1 && (List.range 16).any (fun t =>
    bit (s.reg (rSkTile t 0)) 0 && !skTileOk (s.reg (rSkTile t 0)) (s.reg (rSkTile t 4)) (s.reg (rSkTile t 12)))

/-- Skim's registers latched at a latching tick (R423). -/
def State.skimLatch (s : State) : State :=
  if (s.reg rFrame).toNat % max 1 s.skimEvery ≠ 0 then s
  else
    let s := { s with scan := { s.scan with skim := s.skimRegs } }
    if s.skimBroken then s.orReg rSkimCtrl 1 else s

/-- The frame that begins: what was fetched for it stays, unless the mode or the timing set changed (DEDUCED,
notes/assumptions/63.md). -/
def State.frameBegin (s : State) (v : Nat) (kept : Bool) : State :=
  let s := ((s.setReg rLine 0).clrReg rTickStatus 1).takeLead
  let s := (List.range 4).foldl (fun s k => s.setReg (rLayer k 0x30) 0) s
  { s with
    tick := { s.tick with blank := .active, blankLine := 0, activeLine := 0, ticked := true, ready := false }
    scan := { s.scan with
      lines := if kept then (s.scan.lines.filter (fun l => l.next)).map (fun l => { l with next := false }) else []
      fetchAt := if kept then s.scan.fetchAt.filterMap (fun p => if v < p.2 then some (p.1, p.2 - v) else none) else []
      lastPix := []
      underBell := [] } }

/-- Skim drives exactly while no plan runs or a variant is in its priming window (R345, R421). -/
def State.driveBits (s : State) : State :=
  s.modReg rTickStatus (fun w => setBit (setBit w 1 s.planRuns) 2 (!s.planRuns || s.plan.priming))

/-- Scan-out and the timing generator at a tick. -/
def State.scanTick (s : State) : State :=
  let v := tsVActive s.scan.ts
  let mode := s.reg rOutNow
  let ts := s.scan.ts
  let s := s.decideTs.decideMode
  let s := s.driveBits.frameBegin v (s.reg rOutNow == mode && s.scan.ts == ts)
  let s := s.skimLatch
  if s.videoHolds then { s with scan := { s.scan with videoOk := true } } else s

/-! ### The generator disabled at a tick (R393, R394) -/

/-- An OUT_MODE request that disables the generator applies at this tick. -/
def State.tgStops (s : State) : Bool := s.scan.modeWaits && !s.modeRefused && !bit (s.reg rOutMode) 0

/-- The timing generator without a raster: no line, nothing fetched, no picture held. -/
def State.rasterOff (s : State) : State :=
  let s := (s.setReg rLine 0).clrReg rTickStatus 5
  { s with
    tick := { s.tick with blank := .active, blankLine := 0, activeLine := 0, ticked := false, ready := false, forcedRun := 0 }
    scan := { s.scan with modeWaits := false, lines := [], fetchAt := [], lastPix := [], underBell := [], urgent := [] } }

/-- The generator stops in this ck; the tick does not fire. -/
def State.tgStop (s : State) : State :=
  ((s.setReg rOutNow (s.reg rOutMode &&& 0x7F1F)).planOff true).rasterOff

/-- TICK. -/
def State.tickEvent (s : State) : State :=
  if !s.tgOn then s
  else
    let fire (s : State) (forced : Bool) : State :=
      if s.tgStops then s.tgStop
      else
        let s := s.tickRegs forced
        let s := if s.tickDelivered then s.deliverTick else s.satReg rTicksHeld
        s.scanTick
    match s.tick.blank with
    | .last => fire s false
    | .forced => fire s true
    | _ => s

/-! ### The budget ck and the leave windows (R30, R244, R477) -/

/-- A frame move of the tile with steps left. -/
def Tile.moveLeft (x : Tile) : Option Move := x.moveF.find? (fun m => !m.listed || !m.parts.isEmpty || !m.due.isEmpty)

/-- The budget check of one tile. -/
def State.tileBudget (s : State) (t : TileId) : State :=
  let x := s.tile t
  if !x.frameRun || x.stopped then s
  else
    match allThreads.find? (fun th => s.isFrame t th && ((x.thr th).st == .run || (x.thr th).st == .stall)) with
    | some th => (s.tickFlag 10).tileFault t th.val 0x0D 0 (x.thr th).pc.toNat 0
    | none =>
      match x.moveLeft with
      | some m => s.tileFault t m.thread 0x08 1 m.pc.toNat 0
      | none => s

/-- BUDGET_CHECK. -/
def State.budgetCheck (s : State) : State := if s.budgetCk then allTiles.foldl State.tileBudget s else s

/-- LEAVE_WINDOW_ADVANCE: the window of this schedule ck is in force. -/
def State.leaveAdvance (s : State) : State :=
  if s.planRuns && s.frameActs then { s with plan := { s.plan with leaveWin := s.leaveWindowAt s.sched } } else s

/-! ### The non-determinism counters (R43, R44) -/

/-- NDET_CLEAR: CLEAR reads 1 until the next tick ck. -/
def State.ndetClear (s : State) (m : Master) : State := s.regGate m rNdetCtrl (fun s => s.setReg rNdetCtrl 1)

/-- The halves of counter k of R42; 5 is the sum. -/
def State.ndetLo (s : State) (k : Fin 6) : Word := s.tick.ndet[k].setWidth 32
def State.ndetHi (s : State) (k : Fin 6) : Word := (s.tick.ndet[k] >>> 32).setWidth 32

/-- A read of a counter's _LO register: _HI goes into the master's shadow. -/
def State.ndetLoRead (s : State) (m : Master) (k : Fin 6) : State :=
  if !s.regOn (rNdet k.val) then s.emit (.answer m (bytesOfNat 4 0) false)
  else
    let s := { s with tick := { s.tick with
      shadow := Sparse.set (fun _ => none) s.tick.shadow (16 * masterCode m + k.val) (some (s.ndetHi k)) } }
    s.emit (.answer m (bytesOfNat 4 (s.ndetLo k).toNat) false)

/-! ### The commands -/

def execTick (s : State) : Host.Outcome State Fault Refusal := .next s.tickEvent
def execBlankingLineSample (s : State) : Host.Outcome State Fault Refusal := .next s.blankingSample
def execBudgetCheck (s : State) : Host.Outcome State Fault Refusal := .next s.budgetCheck
def execLeaveWindowAdvance (s : State) : Host.Outcome State Fault Refusal := .next s.leaveAdvance
def execNdetClear (m : Master) (s : State) : Host.Outcome State Fault Refusal := .next (s.ndetClear m)
def execNdetLoRead (m : Master) (k : Fin 6) (s : State) : Host.Outcome State Fault Refusal := .next (s.ndetLoRead m k)

end Sys2Proof.Machine
end

