-- ==== Sys2Proof/Machine/Errors.lean ====
section
/-!
DEFINITION. The error aggregator (R494–R504, R611–R613), the Milkhouse's log (R570, R571), device faults and device
recovery (R499, R509–R512, R523, R525).
-/

namespace Sys2Proof.Machine

/-! ### The Milkhouse log (R570, R571) -/

/-- A record put into the log; a full log loses its oldest record. -/
def State.logAdd (s : State) (r : ErrRec) (seq : Word) : State :=
  let z := s.milk
  let full := decide (256 ≤ z.log.length)
  { s with milk := { z with
      log := (if full then z.log.drop 1 else z.log) ++ [(z.logPos, BitVec.ofNat 256 (natOfBytes (r.bytes seq)))]
      logPos := z.logPos + 1
      logLost := if full then min 65535 (z.logLost + 1) else z.logLost } }

/-- An event of the Milkhouse's own (R571), with the next value of its own sequence. -/
def State.ownEvent (s : State) (code addr info : Nat) : State :=
  let r : ErrRec :=
    { code := code, level := 0, unit := 7, index := 0, frame := s.reg rFrame, ckrel := s.reg rCkrel, epoch := s.reg rEpoch
      addr := BitVec.ofNat 32 addr, info := BitVec.ofNat 32 info }
  let s' := s.logAdd r (BitVec.ofNat 32 s.milk.ownSeq)
  { s' with milk := { s'.milk with ownSeq := 0x80000000 + (s.milk.ownSeq + 1) % 0x80000000 } }

/-! ### The aggregator (R494, R497) -/

/-- A record reaching the aggregator: stored or counted, signalled, and passed to the log. One that meets a full queue is
lost at the end of the ck, unless a pop of this ck makes room (R613). -/
def State.postRec (s : State) (r : ErrRec) : State :=
  let seq := s.err.nextSeq
  let s := { s with err := { s.err with nextSeq := seq + 1 } }
  let s :=
    if s.err.recs.length < 64 then { s with err := { s.err with recs := s.err.recs ++ [(r, seq)] } }
    else { s with err := { s.err with lateRecs := s.err.lateRecs ++ [(r, seq)] } }
  let s := ((s.bell 16).event 1).logAdd r seq
  if r.level = 5 then s.latchAlert 1 else s

/-- The record of a tile-level fault waits until the aggregator has recovered the fault's streams (R505). -/
def State.recordWaits (s : State) (r : ErrRec) : Bool := decide (r.level = 3) && s.faultSeen.contains r.index

/-- ERR_RECORD_POST: the oldest message reaches the aggregator. None is posted during a device recovery (R499), or
while PD7 is off. -/
def State.errPost (s : State) : State :=
  match s.errs with
  | [] => s
  | r :: rest =>
    if s.recordWaits r then s
    else
      let s := { s with errs := rest }
      if !s.pdOn 7 || s.milk.recovery.isSome then s else s.postRec r

/-- REC_POP: the oldest record goes, and a record that met the full queue in this ck takes the place (R613). -/
def State.recPop (s : State) (m : Master) : State :=
  s.regGate m 0x30090008 (fun s =>
    { s with err := { s.err with
        recs := s.err.recs.drop 1 ++ s.err.lateRecs.take 1
        lateRecs := s.err.lateRecs.drop 1 } })

/-- CAND_POP, as REC_POP. -/
def State.candPop (s : State) (m : Master) : State :=
  s.regGate m 0x300900A4 (fun s =>
    { s with err := { s.err with
        cands := s.err.cands.drop 1 ++ s.err.lateCands.take 1
        lateCands := s.err.lateCands.drop 1 } })

/-- The end of a ck: the records and candidates for which no pop has made room are lost and counted (R494, R612). -/
def State.loseLate (s : State) : State :=
  let s := (s.satReg rErrLost s.err.lateRecs.length).satReg rCandLost s.err.lateCands.length
  { s with err := { s.err with lateRecs := [], lateCands := [] } }

/-! ### Stream substitution (R501, R504, R613) -/

/-- Half h of a mask of 64, as a mask. -/
def half64 (h : Nat) (v : Word) : BitVec 64 := (v.setWidth 64) <<< (32 * h)

/-- SSUB_SET. -/
def State.ssubSet (s : State) (m : Master) (h : Nat) (v : Word) : State :=
  s.regGate m (0x30090060 + 4 * h) (fun s =>
    { s.orReg (rSsub h) v with err := { s.err with ssubNow := s.err.ssubNow ||| half64 h v } })

/-- SSUB_CLR: a bit set in this ck stays set. -/
def State.ssubClr (s : State) (m : Master) (h : Nat) (v : Word) : State :=
  s.regGate m (0x30090068 + 4 * h) (fun s =>
    s.clrReg (rSsub h) (v &&& ~~~ ((s.err.ssubNow >>> (32 * h)).setWidth 32)))

/-- SSUB_PUBLISH: the mask goes to its Vat address as a narrow write, from the router of the debug and trace port
(DESIGN CHOICE, notes/assumptions/64.md). -/
def State.ssubPublish (s : State) : State :=
  let p := s.reg rSsubPub
  let a := p.toNat / 8 * 8
  if !s.pdOn 7 || !bit p 0 || !isVat a || !s.memThere a then s
  else s.narrowWrite 63 a (bytesOfNat 4 (s.reg (rSsub 0)).toNat ++ bytesOfNat 4 (s.reg (rSsub 1)).toNat) .ssub 3

/-! ### The Milkhouse's pins and the stage (R530, R562) -/

/-- TOP.BOOT_STAGE. -/
def State.stage (s : State) : Nat := fld (s.reg rBootStage) 0 4

/-- The main side is off: stage 8 or 0xA (R562). -/
def State.mainOff (s : State) : Bool := s.stage == 8 || s.stage == 10

/-- FAULT_N. -/
def State.setFault (s : State) (low : Bool) : State := { s with milk := { s.milk with faultLow := low } }

/-- EN_MAIN lowered: the main supplies fall. -/
def State.lowerMain (s : State) : State :=
  { s with milk := { s.milk with enMain := false, pgCore := false, pgMem := false } }

/-! ### The steps of a device recovery (R510–R512) -/

/-- The entries of a queue at device recovery: those not arrived are lost, those not yet ready are aborted. -/
def abortedEntries (l : List Entry) : List Entry :=
  (l.filter (fun e => e.arrived.isSome)).map (fun e =>
    if e.done.isSome then e else { e with done := some (if e.op = 3 || e.op = 4 then 0x0B else 0x09, true, 0) })

/-- Queue q aborted: its ready completions and its aborts are written as far as they can be, and the rest goes. -/
def State.abortQueue (s : State) (q : Nat) : State :=
  let s := s.modQ q (fun x => { x with held := abortedEntries x.held })
  let s := (List.range (s.q q).held.length).foldl (fun s _ => s.completionWrite q) s
  s.modQ q (fun x => { x with held := [] })

/-- The Ladles' work for the queues ends: no more host writes, no completion of its own. -/
def State.abandonCopies (s : State) : State :=
  { s with ladle := { s.ladle with
      current := []
      ladles := s.ladle.ladles.map (fun (l : Ladle) =>
        { l with
          runs := []
          copy := match l.copy with
            | some c => if c.queue < 132 then none else some { c with hostOut := none }
            | none => none }) } }

/-- Step 2: aborts, then the fence. -/
def State.abortEpoch (s : State) : State :=
  let s := s.dropReads.abandonCopies
  let s := (List.range 132).foldl State.abortQueue s
  { s.clearPending with host := { s.host with sent := [], sentWait := [] } }

/-- A device recovery's last step done. -/
def State.atStep (s : State) (code k : Nat) : State := { s with milk := { s.milk with recovery := some (code, k) } }

/-- Step 3: the epoch, with its message the first of the new one, which the fence lets through (R512); VIDEO_OK low, the
outputs idle, the generator off. -/
def State.outputsOff (s : State) (code : Nat) : State :=
  let s := (s.atStep code 1).nextEpoch
  let s := ((s.untrain 0).untrain 1).clrReg rOutNow 1
  let s := (s.planOff true).rasterOff
  { s with scan := { s.scan with videoOk := false } }

/-- HOST registers through a main reset that keeps PD2 (R511): those that R384 keeps, the MSI-X table, and the link. -/
def State.resetHostKept (s : State) : State :=
  let table := s.regs.filter (fun e => decide (0x30078000 ≤ e.1) && decide (e.1 < 0x30079000))
  let s := s.resetHost
  (table.foldl (fun s e => s.setReg e.1 e.2) s).mirrorLink

/-- The main domains off, in the reverse of the order in which R469 brings them on, at once (DESIGN CHOICE,
notes/assumptions/60.md). -/
def State.mainDomainsOff (s : State) (keepHost : Bool) : State :=
  s.mainOrder.reverse.foldl (fun s d => if s.pdOn d && !(keepHost && d == 2) then s.domainOff d false else s)
    (([4, 5] ++ (List.range 72).map (· + 8)).reverse.foldl (fun s d => if s.pdOn d then s.domainOff d false else s) s)

/-- Step 4: main reset. The Milkhouse then boots again, unless MAIN_POWER holds the main side off. Of the resets of R523
this one and the power-on reset end the span in which a row posts once (R119; DESIGN CHOICE, notes/assumptions/90.md). -/
def State.mainReset (s : State) (code : Nat) : State :=
  let off := code == 0x70 || code == 0x71 || s.milk.holdOff
  let s := s.mainDomainsOff (!off)
  let s := if off then s.setReg rReadyCfg 0 else s.resetHostKept
  let s := { s with
    errs := []
    accs := []
    round := 0
    mem := { s.mem with posted := [] }
    power := { s.power with switching := none, seq := [], sleep := false, relock := none, light := false }
    host := { s.host with queues := [], reads := [], sent := [], sentWait := [] }
    milk := { s.milk with settled := false, bootReads := true } }
  if s.milk.holdOff then s.lowerMain.setReg rBootStage 8
  else { s.setReg rBootStage 1 with milk := { s.milk with enMain := true } }

/-! ### Device faults (R499, R509, R510) -/

/-- A device-level trigger detected by the Milkhouse. One detected during a recovery is absorbed: only the loss of the
supplies changes how it goes on. With the main side off there is nothing to recover (DEDUCED,
notes/assumptions/65.md). -/
def State.deviceFault (s : State) (code unit index : Nat) : State :=
  let supply := code == 0x70 || code == 0x71
  let s := if supply then s.lowerMain else s
  match s.milk.recovery with
  | some (_, k) => if !supply then s else if 4 ≤ k then (s.mainReset code).atStep code k else s.atStep code k
  | none =>
    if s.mainOff then s
    else
      let s :=
        if s.pdOn 7 then
          let s := s.post code 5 unit index 0 0
          s.errs.foldl State.postRec { s with errs := [] }
        else { s with errs := [] }
      { s with milk := { s.milk with recovery := some (code, 0) } }

/-- THERMAL_TRIP: the comparator's temperature of the fused grade is reached (R489). -/
def State.thermalTrip (s : State) : State :=
  match s.power.lastMax with
  | some t =>
    if s.milk.aon && s.milk.enMain && decide ((if Config.gradeI then 115 else 105) ≤ t) then s.deviceFault 0x70 7 0 else s
  | none => s

/-- WDOG_KICK s, by its own steward alone (R611). -/
def State.wdogKick (s : State) (m : Master) (k : Fin 4) : State :=
  let a := 0x30090080 + 4 * k.val
  s.regGate m a (fun s =>
    if m = .steward k then { s with milk := { s.milk with kick := s.milk.kick.set k.val s.bells.mtime.toNat } }
    else s.regRefuse m a)

/-- WATCHDOG_EXPIRY: PERIOD milliseconds of the 25 MHz clock have passed without a kick. -/
def State.wdogExpiry (s : State) (k : Fin 4) : State :=
  let c := s.reg rWdogCfg
  let period := fld c 0 16
  if s.pdOn 7 && bit c (16 + k.val) && period ≠ 0 && decide (s.milk.kick[k] + period * 25000 ≤ s.bells.mtime.toNat) then
    s.deviceFault 0x74 5 k.val
  else s

/-- Main sequencing has failed (R530): the domains already on go off, EN_MAIN falls, and the stage reads 0xA. -/
def State.sequencingFails (s : State) (reached : Nat) : State :=
  let s := ((List.range 79).reverse.map (· + 1)).foldl (fun s d => if s.pdOn d then s.domainOff d false else s) s
  let s := { s with power := { s.power with switching := none, seq := [], sleep := false } }
  ((s.lowerMain.setReg rBootStage 10).ownEvent 0x83 0 reached).setFault true

/-- The domain that main sequencing has reached. -/
def State.seqReached (s : State) : Nat :=
  match s.power.switching, s.power.seq with
  | some (d, _), _ => d
  | none, (d, _) :: _ => d
  | none, [] => 0

/-- PG_LOSS: a filtered fall of PG_CORE or PG_MEM (R509, R530). -/
def State.pgLoss (s : State) (core mem : Bool) : State :=
  if !s.milk.enMain || !((core && s.milk.pgCore) || (mem && s.milk.pgMem)) then s
  else if s.stage = 2 then s.sequencingFails s.seqReached
  else s.deviceFault 0x71 7 0

/-- REGISTER_NETWORK_TIMEOUT, CORE_PLL_UNLOCK and FABRIC_UNCORRECTABLE (R509). -/
def State.networkTimeout (s : State) : State := if s.milk.aon && s.milk.rom then s.deviceFault 0x73 6 0 else s
def State.pllUnlock (s : State) : State :=
  if s.pdOn 7 && s.power.relock.isNone then s.deviceFault 0x76 8 0 else s
def State.fabricError (s : State) : State := if s.pdOn 7 then s.deviceFault 0x72 6 0 else s

/-- MREQ_DEVICE_RECOVERY (R576): the Milkhouse acts after it has written MRESP. -/
def State.mreqRecovery (s : State) (m : Master) : State :=
  s.mreqGate m 3 (fun s => if s.milk.recovery.isSome then s.mresp 3 else (s.mresp 0).deviceFault 0x75 7 0)

/-! ### Device recovery (R510) -/

/-- DEVICE_RECOVERY: the next step of R510. Step 5 waits for Skim, or for a boot that ends without it. -/
def State.recoveryStep (s : State) : State :=
  match s.milk.recovery with
  | none => s
  | some (code, 0) => (s.setFault true).atStep code 1
  | some (code, 1) => s.abortEpoch.atStep code 2
  | some (code, 2) => (s.outputsOff code).atStep code 3
  | some (code, 3) => (s.mainReset code).atStep code 4
  | some _ =>
    if s.skimOn || s.stage == 8 || s.stage == 9 || s.stage == 10 then
      ({ s with errs := [], milk := { s.milk with recovery := none } }).setFault (s.stage == 9 || s.stage == 10)
    else s

/-! ### The commands -/

def execErrRecordPost (s : State) : Host.Outcome State Fault Refusal := .next s.errPost
def execRecPop (m : Master) (s : State) : Host.Outcome State Fault Refusal := .next (s.recPop m)
def execSsubSet (m : Master) (h : Fin 2) (v : BitVec 32) (s : State) : Host.Outcome State Fault Refusal :=
  .next (s.ssubSet m h.val v)
def execSsubClr (m : Master) (h : Fin 2) (v : BitVec 32) (s : State) : Host.Outcome State Fault Refusal :=
  .next (s.ssubClr m h.val v)
def execSsubPublish (s : State) : Host.Outcome State Fault Refusal := .next s.ssubPublish
def execCandPop (m : Master) (s : State) : Host.Outcome State Fault Refusal := .next (s.candPop m)
def execWdogKick (m : Master) (k : Fin 4) (s : State) : Host.Outcome State Fault Refusal := .next (s.wdogKick m k)
def execWatchdogExpiry (k : Fin 4) (s : State) : Host.Outcome State Fault Refusal := .next (s.wdogExpiry k)
def execThermalTrip (s : State) : Host.Outcome State Fault Refusal := .next s.thermalTrip
def execPgLoss (core mem : Bool) (s : State) : Host.Outcome State Fault Refusal := .next (s.pgLoss core mem)
def execRegisterNetworkTimeout (s : State) : Host.Outcome State Fault Refusal := .next s.networkTimeout
def execCorePllUnlock (s : State) : Host.Outcome State Fault Refusal := .next s.pllUnlock
def execFabricUncorrectable (s : State) : Host.Outcome State Fault Refusal := .next s.fabricError
def execMreqDeviceRecovery (m : Master) (s : State) : Host.Outcome State Fault Refusal := .next (s.mreqRecovery m)
def execDeviceRecovery (s : State) : Host.Outcome State Fault Refusal := .next s.recoveryStep

end Sys2Proof.Machine
end

