-- ==== Sys2Proof/Machine/Boot.lean ====
section
/-!
DEFINITION. Power-on reset and the boot (R523, R526–R530, R533–R541, R625–R634): the settings records, the repair shadow,
the steward image, and the flash with its copy engine (R543, R544, R569, R572).
-/

namespace Sys2Proof.Machine

/-! ### The flash (R543, R569) -/

/-- A byte of the flash, and n bytes of it. -/
def State.flashByte (s : State) (a : Nat) : Byte := Sparse.get (fun _ => Config.flashFill) s.milk.flash a
def State.flashBytes (s : State) (a n : Nat) : List Byte := (List.range n).map (fun i => s.flashByte (a + i))

/-- n bytes of the flash as a number, least significant first. -/
def State.flashLe (s : State) (a n : Nat) : Nat := natOfBytes (s.flashBytes a n)

/-- Bytes of the flash set. -/
def State.flashSet (s : State) (a : Nat) (bs : List Byte) : State :=
  { s with milk := { s.milk with
    flash := (bs.zipIdx).foldl (fun m (p : Byte × Nat) => Sparse.set (fun _ => Config.flashFill) m (a + p.2) p.1) s.milk.flash } }

/-- Bytes programmed: the AND of old and new (R569). -/
def State.flashProgram (s : State) (a : Nat) (bs : List Byte) : State :=
  s.flashSet a ((bs.zipIdx).map (fun (p : Byte × Nat) => p.1 &&& s.flashByte (a + p.2)))

/-- n bytes erased. -/
def State.flashEraseN (s : State) (a n : Nat) : State :=
  { s with milk := { s.milk with flash := Sparse.drop s.milk.flash a (a + n) } }

/-! ### Power-on reset (R523, R527, R583, R625, R626) -/

/-- POWER_ON_RESET: every state returns to its reset value; the flash, the fuses and the pins stay. -/
def State.powerOnReset (s : State) (testEn : Bool) (addr : Nat) : State :=
  let r := State.reset
  let r := { r with
    pending := s.pending
    out := s.out
    free := s.free
    milk := { r.milk with
      testEn := testEn
      enMain := !testEn
      vddioSb := s.milk.vddioSb
      flash := s.milk.flash
      flashSize := s.milk.flashSize
      dbgFuse := s.milk.dbgFuse } }
  let r := r.setReg rSbStatus (BitVec.ofNat 32 (0x4C + (if s.milk.vddioSb then addr % 4 else 0)))
  if s.milk.dbgFuse then (r.setReg rPermaDisable 1).orReg rWoState 0x8000 else r

/-- ROM_START: at t0, with both power goods high, or 100 ms after the power-on reset with the main side off. -/
def State.romStart (s : State) (pg : Bool) : State :=
  if !s.milk.aon || s.milk.rom || s.milk.testEn then s
  else if pg then { s with milk := { s.milk with rom := true, pgCore := true, pgMem := true } }
  else
    let s := { s with milk := { s.milk with rom := true } }
    ((s.lowerMain.setReg rBootStage 10).ownEvent 0x83 0 0).setFault true

/-- POWER_GOOD_TIMEOUT: a power good has not risen within 20 ms of EN_MAIN (R530). -/
def State.pgTimeout (s : State) : State :=
  let waits := s.stage == 1 || s.stage == 2 || s.stage == 11
  if s.milk.aon && s.milk.rom && s.milk.enMain && waits && !s.pdOn 7 && s.power.seq.isEmpty && s.power.switching.isNone &&
      !(s.milk.pgCore && s.milk.pgMem) then s.sequencingFails 0
  else s

/-- VDD_AON_LOSS: the device is unpowered until the next power-on reset; it gives out nothing (R633). -/
def State.aonLoss (s : State) : State :=
  let r := State.reset
  { r with
    pending := s.pending
    out := s.out
    free := s.free
    milk := { r.milk with
      aon := false
      enMain := false
      vddioSb := s.milk.vddioSb
      flash := s.milk.flash
      flashSize := s.milk.flashSize
      dbgFuse := s.milk.dbgFuse } }

/-- VDDIO_SB_CHANGE: the sideband pads go out of service, or return (R634). -/
def State.vddioChange (s : State) (up : Bool) : State :=
  { s with milk := { s.milk with vddioSb := up, response := if up then s.milk.response else none } }

/-- AON_PLL_LOCK (R72). -/
def State.aonLock (s : State) : State := if s.milk.aon then { s with milk := { s.milk with aonPll := true } } else s

/-! ### The settings records (R533–R537, R573) -/

/-- A record as the walk meets it. -/
structure FlashRec where
  off : Nat
  type : Nat
  len : Nat
  ok : Bool
  deriving DecidableEq, Repr

/-- At most n records from offset o, and the first 8-byte boundary after the last one read (R535). -/
def State.walkRecs (s : State) : Nat → Nat → List FlashRec × Nat
  | 0, o => ([], o)
  | n + 1, o =>
    let len := s.flashLe (o + 4) 4
    if min s.milk.flashSize 65536 < o + 12 + len then ([], o)
    else
      let r : FlashRec :=
        { off := o, type := s.flashLe o 2, len := len
          ok := decide ((crc32c (s.flashBytes o (8 + len))).toNat = s.flashLe (o + 8 + len) 4) }
      let t := s.walkRecs n ((o + 8 + len + 4 + 7) / 8 * 8)
      (r :: t.1, t.2)

/-- The header of R534 is valid. -/
def State.headerValid (s : State) : Bool :=
  decide (s.flashLe 0 4 = 0x5453584B) && decide (s.flashLe 4 2 = 1) && decide (s.flashLe 6 2 ≤ 4095) &&
    decide (s.flashLe 8 4 = 0) && decide ((crc32c (s.flashBytes 0 12)).toNat = s.flashLe 12 4)

/-- Types of which one record applies, and all types (R536). -/
def recOne (ty : Nat) : Bool := [1, 2, 3, 4, 6, 7, 0x10, 0x11, 0x20].contains ty
def recKnown (ty : Nat) : Bool := recOne ty || ty == 5

/-- The value of a record has the length that its layout asks for (DEDUCED from R536, notes/assumptions/67.md). -/
def recLenOk (ty len : Nat) : Bool :=
  match ty with
  | 1 => len == 68 | 2 => len == 32 | 3 => len == 8 | 4 => len == 8 | 5 => len == 4 | 6 => len == 136
  | 0x10 => len == 256 | 0x11 => len == 256 | 0x20 => len == 256
  | 7 => decide (16 ≤ len) && (len - 16) % 64 == 0
  | _ => true

/-- PD_CTRL's three words of a BOARD record at flash offset v (R526, R537). -/
def State.boardPd (s : State) (v : Nat) : Vector Word 3 :=
  let tiles := s.flashLe (v + 8) 8
  let fl := s.flashLe (v + 18) 1
  #v[BitVec.ofNat 32 (fl / 4 % 4 * 16 + s.flashLe (v + 16) 1 * 256 + tiles % 65536 * 65536),
     BitVec.ofNat 32 (tiles / 65536), BitVec.ofNat 32 (tiles / 2 ^ 48)]

/-- Twelve key words from 48 bytes, the first byte the most significant. -/
def keyWords (bs : List Byte) : Vector Word 12 := Vector.ofFn (fun i => BitVec.ofNat 32 (natBE ((bs.drop (4 * i.val)).take 4)))

/-- A valid record that applies. -/
def State.applyRec (s : State) (r : FlashRec) : State :=
  let v := r.off + 8
  let z := s.milk.settings
  let put (z : Settings) : State := { s with milk := { s.milk with settings := z } }
  match r.type with
  | 1 =>
    let z := { z with pd := s.boardPd v, boardSeen := true, flags := s.flashLe (v + 18) 1
                      keyhash := some (keyWords (s.flashBytes (v + 20) 48)) }
    let s := { s with milk := { s.milk with settings := z } }
    let s := s.setReg rSubsys (BitVec.ofNat 32 (s.flashLe (v + 4) 4))
    if bit (s.reg rWoState) 12 then s
    else (s.setReg rBoardId (BitVec.ofNat 32 (s.flashLe v 4))).orReg rWoState 0x1000
  | 2 => (List.range 6).foldl (fun s i => s.setReg (rTshadow i) (BitVec.ofNat 32 (s.flashLe (v + 4 * i) 4))) s
  | 3 => put { z with smbus := s.flashLe v 1, alertMask := s.flashLe (v + 1) 1 }
  | 4 =>
    let c := s.flashLe v 1
    s.modReg rFlashGeom (fun w => setFld w 8 2 (if c ≤ 2 then c else 0))
  | 0x10 => put { z with bootA := some { head := r.off, raw := s.flashBytes v 256 } }
  | 0x11 => put { z with bootB := some { head := r.off, raw := s.flashBytes v 256 } }
  | 0x20 => put { z with plan := some { head := r.off, raw := s.flashBytes v 256 } }
  | _ => s

/-- The walk's effect: which types have applied, and how many records were applied and skipped. -/
structure WalkSum where
  seen : List Nat
  applied : Nat
  skipped : Nat
  deriving DecidableEq, Repr

/-- One record of the walk (R535, R536): a REPAIR record past the 256th does not apply. -/
def State.walkOne (s : State) (w : WalkSum) (r : FlashRec) : State × WalkSum :=
  let skip (s : State) : State × WalkSum := (s, { w with skipped := w.skipped + 1 })
  if !r.ok then skip (s.ownEvent 0x81 r.off r.type)
  else if !recKnown r.type || (r.type == 5 && decide (256 ≤ w.seen.count 5)) then skip s
  else if !recLenOk r.type r.len || (recOne r.type && w.seen.contains r.type) then skip (s.ownEvent 0x81 r.off r.type)
  else (s.applyRec r, { w with seen := r.type :: w.seen, applied := w.applied + 1 })

/-! ### The repair shadow (R115–R117) -/

/-- A shadow under construction: the spares used (memory, bank, spare), the mappings in force (memory, bank, row, spare),
and the counts of R117. -/
structure Shadow where
  used : List (Nat × Nat × Nat)
  rows : List (Nat × Nat × Nat × Nat)
  applied : Nat
  skipped : Nat
  deriving DecidableEq, Repr

/-- One repair entry entered: a row mapped before takes the new spare, and the earlier spare stays used (R117). Bits that
R115 has 0 are not looked at: the entry counts with the row and the spare that its fields hold (DESIGN CHOICE,
notes/assumptions/89.md). -/
def Shadow.add (z : Shadow) (e : Word) : Shadow :=
  let mem := fld e 24 7
  let bank := fld e 20 4
  let spare := fld e 0 6
  if !bit e 31 || decide (72 ≤ mem) then z
  else if z.used.contains (mem, bank, spare) then { z with skipped := z.skipped + 1 }
  else
    { z with
      used := (mem, bank, spare) :: z.used
      rows := (mem, bank, fld e 8 12, spare) :: z.rows.filter (fun u => !(u.1 == mem && u.2.1 == bank && u.2.2.1 == fld e 8 12))
      applied := z.applied + 1 }

/-- The fuse entries, at most 2048 (R115). -/
def fuseEntries : List Word := Config.repairFuses.take 2048

/-- The repair entries of valid records, in flash order. -/
def State.repairRecs (s : State) (l : List FlashRec) : List Word :=
  (l.filter (fun r => r.ok && r.type == 5 && r.len == 4)).map (fun r => BitVec.ofNat 32 (s.flashLe (r.off + 8) 4))

/-- The shadow of the fuses, and of the first 256 flash records after them (R116). -/
def fuseShadow : Shadow := fuseEntries.foldl Shadow.add { used := [], rows := [], applied := 0, skipped := 0 }
def State.buildShadow (s : State) (l : List FlashRec) : State :=
  let z := ((s.repairRecs l).take 256).foldl Shadow.add fuseShadow
  let s := s.setReg rRepairRec (BitVec.ofNat 32 (z.applied - fuseShadow.applied))
  { s with
    mem := { s.mem with repairs := z.rows }
    milk := { s.milk with repairApplied := z.applied, repairSkipped := z.skipped } }

/-! ### The settings read (R533–R538) -/

/-- TOP.KEYHASH written once per power-on reset: from the fuses, or from the BOARD record (R538). -/
def State.writeKey (s : State) : State :=
  if fld (s.reg rWoState) 0 12 ≠ 0 then s
  else
    match (match Config.fusedKey with | some k => some k | none => s.milk.settings.keyhash) with
    | none => s
    | some k => ((List.finRange 12).foldl (fun (s : State) (i : Fin 12) => s.setReg (rKeyhash i.val) k[i]) s).orReg rWoState 0xFFF

/-- What every settings read begins with: the registers that it writes at their values without a record. -/
def State.settingsBegin (s : State) : State :=
  let s := (List.range 6).foldl (fun s i => s.setReg (rTshadow i) (regReset (rTshadow i))) s
  { s with milk := { s.milk with settings := .reset } }

/-- The stage after the settings read; with the main side off it stays. -/
def State.settingsStage (s : State) (n : Nat) : State :=
  if s.mainOff || s.stage == 2 then s else s.setReg rBootStage (BitVec.ofNat 32 n)

/-- SETTINGS_READ. The SFDP tables, which the flash part holds beside its array, say whether it is usable, its capacity,
its widest mode, and its identification. -/
def State.settingsRead (s : State) (found : Bool) (log2 mode : Nat) (jedec : BitVec 24) : State :=
  if !s.milk.aon || !s.milk.rom || s.milk.settled then s
  else
    let usable := found && decide (24 ≤ log2) && decide (log2 ≤ 28)
    let s := s.settingsBegin.setReg rFlashId (jedec.setWidth 32)
    let s := s.setReg rFlashGeom (if usable then BitVec.ofNat 32 (log2 + 32 * mode + 128 * b2n (decide (24 < log2))) else 0)
    let s := { s with milk := { s.milk with flashSize := if usable then 2 ^ log2 else 0, settled := true } }
    if !usable || !s.headerValid then
      (((s.buildShadow []).setReg rFlashBoot 0).ownEvent 0x80 0 0).writeKey.settingsStage 11
    else
      let n := s.flashLe 6 2
      let (l, next) := s.walkRecs n 16
      let s := { s with milk := { s.milk with settings := { s.milk.settings with hdrOk := true, count := n, next := next } } }
      let (s, w) := l.foldl (fun (p : State × WalkSum) r => p.1.walkOne p.2 r) (s, { seen := [], applied := 0, skipped := 0 })
      let s := (s.buildShadow l).setReg rFlashBoot
        (BitVec.ofNat 32 (16 + 256 * min 255 w.applied + 65536 * min 255 w.skipped))
      s.writeKey.settingsStage 1

/-! ### The steward image (R539–R541) -/

/-- Fields of a boot record's value. -/
def BootRec.le (r : BootRec) (lo n : Nat) : Nat := natOfBytes ((r.raw.drop lo).take n)
def BootRec.bytes (r : BootRec) (lo n : Nat) : List Byte := (r.raw.drop lo).take n

/-- The image's place is allowed (R539). -/
def State.imagePlaced (s : State) (r : BootRec) : Bool :=
  let off := r.le 0 4
  let len := r.le 4 4
  let load := r.le 8 4
  let entry := r.le 12 4
  off % 64 == 0 && len % 64 == 0 && decide (64 ≤ len) && decide (len ≤ 0x100000) && decide (off + len ≤ s.milk.flashSize) &&
    load % 64 == 0 && decide (0x34000000 ≤ load) && decide (load + len ≤ 0x34200000) && decide (load ≤ entry) &&
    decide (entry < load + len)

/-- The 48 bytes of TOP.KEYHASH, once written. -/
def State.keyhash (s : State) : Option (List Byte) :=
  if fld (s.reg rWoState) 0 12 = 0xFFF then some ((List.range 12).flatMap (fun i => bytesBE 4 (s.reg (rKeyhash i)).toNat)) else none

/-- SHA-384 of the record's key is KEYHASH. -/
def State.keyMatches (s : State) (r : BootRec) : Bool := s.keyhash == some (sha384 (r.bytes 24 97))

/-- The HASH registers hold a digest. -/
def State.setHash (s : State) (d : List Byte) : State :=
  (List.range 12).foldl (fun s i => s.setReg (rHash i) (BitVec.ofNat 32 (natBE ((d.drop (4 * i)).take 4)))) s

/-- A slot tried: its image copied to steward SRAM and hashed, and its signature checked (R540). -/
def State.trySlot (s : State) (o : Option BootRec) : State × Bool :=
  match o with
  | none => (s, false)
  | some r =>
    if !s.imagePlaced r then (s, false)
    else
      let image := s.flashBytes (r.le 0 4) (r.le 4 4)
      let d := sha384 (r.bytes 0 128 ++ image)
      let s := (s.sramWrite none (r.le 8 4) image).setHash d
      (s, s.keyMatches r && ecdsaValid (r.bytes 24 97) d (r.bytes 128 96))

/-- A slot's record: 0 A, 1 B. -/
def State.bootRec (s : State) (b : Nat) : Option BootRec := if b = 0 then s.milk.settings.bootA else s.milk.settings.bootB

/-- S0–S3 released in machine mode at an address, with the slot recorded. -/
def State.startStewards (s : State) (b entry : Nat) : State :=
  let s := (s.modReg rFlashBoot (fun w => setFld w 0 2 (b + 1))).setReg rBootStage 4
  { s with
    stew := s.stew.map (fun (z : Steward) => { z with pc := BitVec.ofNat 64 entry, user := false, held := false })
    milk := { s.milk with bootSel := 0, bootReads := false } }

/-- A slot that has failed is noted and logged (R571). -/
def State.slotFailed (s : State) (b : Nat) : State :=
  (s.orReg rFlashBoot (1 <<< (2 + b))).ownEvent 0x82 (match s.bootRec b with | some r => r.head | none => 0) (b + 1)

/-- STEWARD_IMAGE_AUTHENTICATE. -/
def State.authenticate (s : State) : State :=
  if s.stage ≠ 3 || !s.milk.bootReads || !s.pdOn 1 then s
  else
    let first := match s.milk.bootSel with | 1 => 0 | 2 => 1 | _ => s.milk.settings.flags % 2
    let entry (b : Nat) : Nat := match s.bootRec b with | some r => r.le 12 4 | none => 0
    match s.trySlot (s.bootRec first) with
    | (s, true) => s.startStewards first (entry first)
    | (s, false) =>
      let s := s.slotFailed first
      match s.trySlot (s.bootRec (1 - first)) with
      | (s, true) => s.startStewards (1 - first) (entry (1 - first))
      | (s, false) =>
        let s := ((s.slotFailed (1 - first)).setReg rBootStage 9).setFault true
        { s with milk := { s.milk with bootSel := 0, bootReads := false } }

/-! ### Ownership and the copy engine (R543, R544) -/

/-- A steward copy or erase is running. -/
def State.copyBusy (s : State) : Bool := bit (s.reg rCpCtrl) 0
def State.eraseBusy (s : State) : Bool := bit (s.reg rErCtrl) 0

/-- The stewards own the flash. -/
def State.stewardsOwn (s : State) : Bool :=
  bit (s.reg rFlashReq) 0 && !s.milk.bootReads && !s.milk.flashOpen && (!s.milk.flashWait || s.copyBusy || s.eraseBusy)

/-- FLASH.OWNER: 0 none, 1 the Milkhouse or the sideband, 2 the stewards. -/
def State.flashOwner (s : State) : Nat :=
  if s.milk.bootReads || s.milk.flashOpen || s.milk.sbOp.isSome then 1 else if s.stewardsOwn then 2 else 0

/-- FLASH_REQ. -/
def State.flashReq (s : State) (m : Master) (v : Word) : State := s.regGate m rFlashReq (fun s => s.setReg rFlashReq (v &&& 1))

/-- CP_STATUS at the end of a copy: DONE, or ERR with a cause. -/
def State.copyStatus (s : State) (cause : Nat) : State :=
  let s := s.clrReg rCpCtrl 1
  if cause = 0 then s.orReg rCpStatus 1
  else (s.modReg rCpStatus (fun w => setFld w 2 2 cause)).orReg rCpStatus 2

/-- FLASH_COPY: CP_CTRL written with GO. Without ownership the copy ends at once with cause 3 (notes/assumptions/66.md). -/
def State.flashCopy (s : State) (m : Master) (v : Word) : State :=
  s.regGate m rCpCtrl (fun s =>
    if s.copyBusy then s
    else
      let own := s.stewardsOwn && !s.eraseBusy
      let s := s.setReg rCpCtrl ((v &&& 6) ||| 1)
      if own then s else s.copyStatus 3)

/-- Bytes of one 64-byte part of a copy reach the device; false where the access fails. -/
def State.copyPart (s : State) (dir : Bool) (src dst : Nat) : State × Bool × List Byte :=
  let there := (isSram dst || isPail dst || isVat dst) && s.memThere dst
  if !there then (s, false, [])
  else if dir then
    let (s, bs, bad) := s.readMem 0 dst 64
    if bad.any (fun b => b) then (s, false, []) else (s.flashProgram src bs, true, bs)
  else
    let bs := s.flashBytes src 64
    (if isSram dst then s.sramWrite none dst bs else s.writeNarrow dst bs, true, bs)

/-- n parts of a copy, until one fails. -/
def State.copyParts (dir : Bool) : Nat → Nat → Nat → State → List Byte → State × Bool × List Byte
  | 0, _, _, s, acc => (s, true, acc)
  | n + 1, src, dst, s, acc =>
    match s.copyPart dir src dst with
    | (s, true, bs) => State.copyParts dir n (src + 64) (dst + 64) s (acc ++ bs)
    | (s, false, _) => (s, false, acc)

/-- A copy's fields lie in range (R543). -/
def State.copyInRange (s : State) : Bool :=
  let len := fld (s.reg rCpLen) 0 25
  len % 64 == 0 && decide (len ≤ 0x1000000) && (s.reg rCpDst).toNat % 64 == 0 &&
    decide (fld (s.reg rCpSrc) 0 28 + len ≤ s.milk.flashSize)

/-- The copy moves what it can of n bytes, hashing them where that was asked for; the cause with which it ends, 0 for
none. -/
def State.copyMove (s : State) (n : Nat) : State × Nat :=
  if !s.copyInRange then (s, 1)
  else
    let c := s.reg rCpCtrl
    let (s, ok, bs) := State.copyParts (bit c 2) (n / 64) (fld (s.reg rCpSrc) 0 28) (s.reg rCpDst).toNat s []
    (if bit c 1 then s.setHash (sha384 bs) else s, if ok then 0 else 2)

/-- FLASH_COPY_COMPLETE: the copy ends; one that a sideband FLASH_OPEN stops has moved `units` units of 256 bytes. -/
def State.flashCopyDone (s : State) (units : Nat) : State :=
  if !s.copyBusy then s
  else
    let len := fld (s.reg rCpLen) 0 25
    let n := if s.milk.flashWait then min len (256 * units) else len
    let (s, cause) := s.copyMove n
    s.copyStatus (if cause = 0 && n < len then 3 else cause)

/-- FLASH_COPY_ABORT: CP_CTRL.ABORT written; the copy has moved `units` units. The spec gives no status for it: DONE, ERR
and the cause are free values (notes/assumptions/66.md). -/
def State.flashAbort (s : State) (m : Master) (units : Nat) : State :=
  s.regGate m rCpCtrl (fun s =>
    if !s.copyBusy then s
    else
      let s := (s.copyMove (min (fld (s.reg rCpLen) 0 25) (256 * units))).1
      let (w, s) := s.fresh
      (s.clrReg rCpCtrl 1).setReg rCpStatus (w &&& 0xF))

/-- The size of the sector that ER_CTRL names, and its address. -/
def State.eraseSize (s : State) : Nat := if bit (s.reg rErCtrl) 1 then 65536 else 4096
def State.eraseAt (s : State) : Nat := fld (s.reg rErAddr) 0 28 / s.eraseSize * s.eraseSize

/-- FLASH_ER_GO: a sector erase starts where the stewards own the flash and nothing else holds it
(notes/assumptions/66.md). -/
def State.eraseGo (s : State) (m : Master) (v : Word) : State :=
  s.regGate m rErCtrl (fun s =>
    if s.eraseBusy then s
    else if s.stewardsOwn && !s.copyBusy then s.setReg rErCtrl ((v &&& 2) ||| 1)
    else s.setReg rErCtrl (v &&& 2))

/-- FLASH_OP_COMPLETE: the erase of the stewards, or the erase or program of the sideband, is done (R569). -/
def State.flashOpDone (s : State) : State :=
  if s.eraseBusy then (if s.eraseAt < s.milk.flashSize then s.flashEraseN s.eraseAt s.eraseSize else s).clrReg rErCtrl 1
  else
    match s.milk.sbOp with
    | none => s
    | some (a, bs) =>
      let s := s.flashSet a bs
      { s with milk := { s.milk with sbOp := none } }

/-! ### Repair records (R572) -/

/-- The flash ranges that the boot and plan records name. -/
def State.imageRanges (s : State) : List (Nat × Nat) :=
  [s.milk.settings.bootA, s.milk.settings.bootB, s.milk.settings.plan].filterMap (fun o =>
    o.map (fun r => (r.le 0 4, r.le 0 4 + r.le 4 4)))

/-- The lowest spare that neither the fuses nor the flash records use in a candidate's bank. -/
def State.freeSpare (s : State) (e : Word) : Option Nat :=
  let all := fuseEntries ++ s.repairRecs (s.walkRecs s.milk.settings.count 16).1
  let used := (all.filter (fun u => bit u 31 && fld u 20 11 == fld e 20 11)).map (fun u => fld u 0 6)
  (List.range (if fld e 24 7 < 64 then 16 else 64)).find? (fun k => !used.contains k)

/-- The space of a record at offset o is erased and free. -/
def State.spaceFree (s : State) (o : Nat) : Bool :=
  decide (o + 16 ≤ min s.milk.flashSize 65536) && (s.flashBytes o 16).all (fun b => b == 0xFF) &&
    s.imageRanges.all (fun r => decide (o + 16 ≤ r.1) || decide (r.2 ≤ o))

/-- REPAIR_RECORD_APPEND: the oldest candidate becomes a record, once the flash is free. -/
def State.repairAppend (s : State) : State :=
  let z := s.milk.settings
  if !s.milk.aon || !s.milk.rom || z.smbus / 8 % 2 = 0 || !z.hdrOk || s.flashOwner ≠ 0 || s.milk.flashWait then s
  else
    match s.milk.repairCands with
    | [] => s
    | e :: rest =>
      let s := { s with milk := { s.milk with repairCands := rest } }
      match s.freeSpare e with
      | none => s
      | some k =>
        let entry := setFld e 0 6 k
        if !s.spaceFree z.next || 4095 ≤ z.count then s.ownEvent 0x86 0 entry.toNat
        else
          let body := bytesOfNat 2 5 ++ bytesOfNat 2 0 ++ bytesOfNat 4 4 ++ bytesOfNat 4 entry.toNat
          let s := s.flashProgram z.next (body ++ bytesOfNat 4 (crc32c body).toNat)
          let head := s.flashBytes 0 6 ++ bytesOfNat 2 (z.count + 1) ++ bytesOfNat 4 0
          let s := s.flashSet 0 (head ++ bytesOfNat 4 (crc32c head).toNat)
          let s := { s with milk := { s.milk with settings := { z with count := z.count + 1, next := z.next + 16 } } }
          s.ownEvent 0x85 z.next entry.toNat

/-! ### The commands -/

def execPowerOnReset (testEn : Bool) (addr : Fin 4) (s : State) : Host.Outcome State Fault Refusal :=
  .next (s.powerOnReset testEn addr.val)
def execRomStart (pg : Bool) (s : State) : Host.Outcome State Fault Refusal := .next (s.romStart pg)
def execPowerGoodTimeout (s : State) : Host.Outcome State Fault Refusal := .next s.pgTimeout
def execVddAonLoss (s : State) : Host.Outcome State Fault Refusal := .next s.aonLoss
def execVddioSbChange (up : Bool) (s : State) : Host.Outcome State Fault Refusal := .next (s.vddioChange up)
def execAonPllLock (s : State) : Host.Outcome State Fault Refusal := .next s.aonLock
def execSettingsRead (found : Bool) (log2 : Fin 32) (mode : Fin 3) (jedec : BitVec 24) (s : State) :
    Host.Outcome State Fault Refusal := .next (s.settingsRead found log2.val mode.val jedec)
def execStewardImageAuthenticate (s : State) : Host.Outcome State Fault Refusal := .next s.authenticate
def execFlashReq (m : Master) (v : BitVec 32) (s : State) : Host.Outcome State Fault Refusal := .next (s.flashReq m v)
def execFlashCopy (m : Master) (v : BitVec 32) (s : State) : Host.Outcome State Fault Refusal := .next (s.flashCopy m v)
def execFlashCopyAbort (m : Master) (units : Nat) (s : State) : Host.Outcome State Fault Refusal :=
  .next (s.flashAbort m units)
def execFlashCopyComplete (units : Nat) (s : State) : Host.Outcome State Fault Refusal := .next (s.flashCopyDone units)
def execFlashErGo (m : Master) (v : BitVec 32) (s : State) : Host.Outcome State Fault Refusal := .next (s.eraseGo m v)
def execFlashOpComplete (s : State) : Host.Outcome State Fault Refusal := .next s.flashOpDone
def execRepairRecordAppend (s : State) : Host.Outcome State Fault Refusal := .next s.repairAppend

end Sys2Proof.Machine
end

