-- ==== Sys2Proof/Machine/Sideband.lean ====
section
/-!
DEFINITION. The sideband port (R551–R577): framing, PEC, BUSY, the commands, the Milkhouse's log, the mailboxes,
SB_ALERT_N, and the challenge and response of debug authorisation (R580–R582).
-/

namespace Sys2Proof.Machine

/-! ### Framing (R553–R561) -/

/-- The port answers at its address. -/
def State.sbServes (s : State) : Bool := s.milk.aon && s.milk.rom && !s.milk.testEn && s.milk.vddioSb

/-- One bit of the PEC's CRC-8: x⁸ + x² + x + 1, most significant bit first (R553). -/
def crc8Step (c : Byte) : Byte := if c.msb then (c <<< 1) ^^^ 0x07 else c <<< 1

/-- The PEC of bytes. -/
def crc8 (l : List Byte) : Byte := l.foldl (fun c b => (List.range 8).foldl (fun c _ => crc8Step c) (c ^^^ b)) 0

/-- A small number as a byte. -/
def byteOf (n : Nat) : Byte := BitVec.ofNat 8 n

/-- The address byte of a write. A read's is one more. -/
def State.sbAddr (s : State) : Byte := byteOf (2 * fld (s.reg rSbStatus) 0 7)

/-- Flags of the SMBUS record (R573). -/
def State.pecRequired (s : State) : Bool := s.milk.settings.smbus.testBit 0
def State.i2cMode (s : State) : Bool := s.milk.settings.smbus.testBit 1
def State.flashReadOnly (s : State) : Bool := s.milk.settings.smbus.testBit 2

/-- The form's parts. -/
def sbPec : SbForm → Option Byte
  | .call p => p
  | .split p => p
  | .count _ p _ => p

def sbSplit : SbForm → Bool
  | .call _ => false
  | .split _ => true
  | .count b _ _ => b

/-- The request's bytes: the operands', or those of a count that the command does not allow. -/
def sbBytes (f : SbForm) (req : List Byte) : List Byte :=
  match f with
  | .count _ _ r => r
  | _ => req

/-- A form that a transaction can carry: at most 255 bytes, and `count` only for a count that is not allowed. -/
def sbFits (f : SbForm) (lens : Nat → Bool) (req : List Byte) : Bool :=
  decide ((sbBytes f req).length ≤ 255) && (match f with | .count _ _ r => !lens r.length | _ => true)

/-- The bytes on the bus up to the end of a request. -/
def State.sbSent (s : State) (code : Nat) (req : List Byte) : List Byte := [s.sbAddr, byteOf code, byteOf req.length] ++ req

/-- A response block on the bus after the bytes `sent`: its count, its bytes, and the PEC that a master may read (R560). -/
def State.sbAnswer (s : State) (sent resp : List Byte) : State :=
  let block := byteOf resp.length :: resp
  s.emit (.bytes (block ++ [crc8 (sent ++ [s.sbAddr ||| 1] ++ block)]))

/-- The settings of this boot have not been read: every command answers BUSY (R561). -/
def State.sbEarly (s : State) : Bool := s.stage == 0 || (s.stage == 10 && !s.milk.settled)

/-- Status codes (R557). -/
abbrev sbOk : Nat := 0
abbrev sbBadArg : Nat := 2
abbrev sbBusy : Nat := 3
abbrev sbDenied : Nat := 4
abbrev sbMainOff : Nat := 5

/-- What a command comes to: the state after it, its status, and its data. -/
structure SbDone where
  s : State
  status : Nat
  data : List Byte

/-- A status without data and without effect. -/
def State.sbSays (s : State) (status : Nat) : SbDone := { s := s, status := status, data := [] }

/-- The command, accepted, with its data. -/
def State.sbGives (s : State) (data : List Byte) : SbDone := { s := s, status := sbOk, data := data }

/-- A complete request handled: the checks common to all, then the command. -/
def State.sbAct (s : State) (f : SbForm) (lens : Nat → Bool) (req : List Byte) (act : State → SbDone) : SbDone :=
  if s.sbEarly then s.sbSays sbBusy
  else if s.pecRequired && (sbPec f).isNone then s.sbSays sbBadArg
  else
    match f with
    | .count _ _ _ => s.sbSays sbBadArg
    | _ => if lens req.length then act s else s.sbSays sbBadArg

/-- A request with a wrong PEC: discarded and counted (R560). -/
def State.sbPecError (s : State) : State :=
  let s := { s with milk := { s.milk with response := none } }
  s.modReg rSbStatus (fun w => setFld w 8 8 (min 255 (fld w 8 8 + 1)))

/-- The PEC byte of a request, where it has one, does not match. -/
def State.pecWrong (s : State) (f : SbForm) (code : Nat) (req : List Byte) : Bool :=
  match sbPec f with
  | some p => p != crc8 (s.sbSent code (sbBytes f req))
  | none => false

/-- A request of command `code` whose operands are the bytes `req`: it acts once, its response is held, and a process
call answers at once (R556, R558). -/
def State.sbRequest (s : State) (f : SbForm) (code : Nat) (lens : Nat → Bool) (req : List Byte) (act : State → SbDone) :
    State :=
  if !s.sbServes then s
  else if s.pecWrong f code req then s.sbPecError
  else
    let d := s.sbAct f lens req act
    let resp := byteOf d.status :: d.data
    let s' := { d.s with milk := { d.s.milk with response := some (code, resp) } }
    if sbSplit f then s'
    else s'.sbAnswer (s.sbSent code (sbBytes f req) ++ (match sbPec f with | some p => [p] | none => [])) resp

/-- A sideband command: a form that no transaction can carry is ill-formed (notes/assumptions/5.md). -/
def State.sb (s : State) (f : SbForm) (code : Nat) (lens : Nat → Bool) (req : List Byte) (act : State → SbDone) :
    Host.Outcome State Fault Refusal :=
  if sbFits f lens req then .next (s.sbRequest f code lens req act) else .fault .illFormed

/-- A fixed byte count. -/
def exactly (n : Nat) (k : Nat) : Bool := k == n

/-- A main-side command: BUSY through recovery and main sequencing, MAIN_OFF with the main side off (R562). -/
def State.sbMain (s : State) (act : State → SbDone) : SbDone :=
  if s.milk.recovery.isSome || s.stage == 2 then s.sbSays sbBusy
  else if s.mainOff then s.sbSays sbMainOff
  else act s

/-- BLOCK_READ_RESPONSE: a split Block Read of command `code` (R558). -/
def State.blockRead (s : State) (code : Byte) : State :=
  if !s.sbServes then s
  else
    let resp := match s.milk.response with
      | some (c, r) => if c = code.toNat then r else [1]
      | none => [1]
    s.sbAnswer [s.sbAddr, code] resp

/-- SMBUS_BUS_TIMEOUT: the interface resets; a response held is lost (notes/assumptions/61.md). -/
def State.smbusTimeout (s : State) : State :=
  if !s.sbServes || s.i2cMode then s
  else
    let s := { s with milk := { s.milk with response := none } }
    s.modReg rSbStatus (fun w => setFld w 16 8 (min 255 (fld w 16 8 + 1)))

/-! ### SB_ALERT_N (R574) -/

/-- The causes that hold: latched edges, and the levels. -/
def State.alertCauses (s : State) : BitVec 5 :=
  (s.milk.alerts &&& 7) ||| (if s.stage = 9 || s.stage = 10 then 8 else 0) ||| (if s.milk.faultLow then 16 else 0)

/-- The causes enabled: ALERT_MASK, and cause 3 at stage 9 in any case. -/
def State.alertOn (s : State) : BitVec 5 :=
  s.alertCauses &&& (BitVec.ofNat 5 s.milk.settings.alertMask ||| (if s.stage = 9 then 8 else 0))

/-- SB_ALERT_N is driven low. -/
def State.alertLow (s : State) : Bool := !s.i2cMode && (s.alertOn &&& ~~~ s.milk.alertSeen) != 0

/-- A cause that no longer holds may assert again. -/
def State.alertForget (s : State) : State :=
  { s with milk := { s.milk with alertSeen := s.milk.alertSeen &&& s.alertCauses } }

/-- ALERT_RESPONSE: the address is returned, and SB_ALERT_N is released until a cause is set anew. -/
def State.alertResponse (s : State) : State :=
  if !s.sbServes || !s.alertLow then s
  else
    let s := s.emit (.bytes [s.sbAddr])
    { s with milk := { s.milk with alertSeen := s.milk.alertSeen ||| s.alertOn } }

/-! ### Status and health (R563, R564) -/

/-- A value as n bytes, least significant first. -/
def leBytes (n v : Nat) : List Byte := bytesOfNat n v

/-- The thermal step, or 0xFF while PD7 is off. -/
def State.stepByte (s : State) : Byte := if s.pdOn 7 then byteOf s.thermStep else 0xFF

/-- TICK.FRAME as the sideband reports it. -/
def State.frameBytes (s : State) (valid : Bool) : List Byte := leBytes 4 (if valid then (s.reg rFrame).toNat else 0xFFFFFFFF)

/-- FLAGS of STATUS. -/
def State.statusFlags (s : State) : Nat :=
  b2n (!s.mainOff) + 2 * b2n s.planRuns + 4 * b2n s.skimOn + 8 * b2n s.scan.videoOk + 16 * b2n s.milk.faultLow +
    32 * b2n s.milk.sbOp.isSome + 64 * b2n s.milk.flashOpen + 128 * b2n (s.milk.scope != 0)

/-- STATUS: its edge causes are cleared. -/
def State.sbStatus (s : State) : SbDone :=
  let data := [byteOf s.stage, byteOf s.statusFlags, s.stepByte, s.alertCauses.setWidth 8] ++
    leBytes 4 (s.reg rEpoch).toNat ++ s.frameBytes (s.pdOn 3) ++ leBytes 2 s.milk.log.length ++ leBytes 2 s.milk.logLost
  (State.alertForget { s with milk := { s.milk with alerts := 0 } }).sbGives data

/-- TEMP. -/
def State.sbTemp (s : State) : SbDone :=
  let sensor (i : Nat) : Byte := if s.power.sensorOk.getLsbD i then (s.power.sensors >>> (8 * i)).setWidth 8 else 0x80
  let top : Int := match s.power.lastMax with | some t => t | none => 0
  s.sbGives ([BitVec.ofInt 8 top] ++ (List.range 8).map sensor ++ [if Config.gradeI then 115 else 105, s.stepByte])

/-- POWER: LEAVE reads 0 while PD7 is off (R606); PD_ON the Milkhouse knows itself. -/
def State.sbPower (s : State) : SbDone :=
  let on (v : Nat) : Nat := if s.pdOn 7 then v else 0
  s.sbGives (leBytes 2 (on s.cap) ++ leBytes 2 (on s.standing) ++ leBytes 2 (on s.plan.peak) ++ leBytes 2 (on s.dynUsable) ++
    leBytes 2 (on s.dynHeld) ++
    [byteOf (on s.thermStep), 0] ++ leBytes 4 (on s.clkNow) ++
    ((List.range 3).map (fun w => leBytes 4 (s.reg (rPdOn w)).toNat)).flatten)

/-- PULSE. -/
def State.sbPulse (s : State) : SbDone :=
  let us := (s.bells.mtime.toNat - s.milk.tickTime) / 25
  s.sbGives ([byteOf (fld (s.reg rHeartbeat) 0 1 + 2 * b2n s.tgOn), 0, 0, 0] ++ leBytes 4 (s.reg rEpoch).toNat ++
    s.frameBytes s.tgOn ++ leBytes 4 (if s.tgOn then (s.reg rLastPeriod).toNat else 0) ++ leBytes 4 (min 0xFFFFFFFF us))

/-! ### The log (R570) -/

/-- LOG_READ: the position to pass next is one past the last record returned (notes/assumptions/67.md). -/
def State.sbLogRead (s : State) (pos : Nat) : SbDone :=
  let recs := (s.milk.log.filter (fun e => decide (pos ≤ e.1))).take 7
  let next := match recs.getLast? with | some e => e.1 + 1 | none => s.milk.logPos
  s.sbGives ([byteOf recs.length, 0] ++ leBytes 4 next ++ (recs.map (fun e => leBytes 32 e.2.toNat)).flatten)

/-- LOG_CLEAR. -/
def State.sbLogClear (s : State) (pos : Nat) : SbDone :=
  State.sbGives { s with milk := { s.milk with log := s.milk.log.filter (fun e => decide (pos < e.1)) } } []

/-! ### Power and reset (R565–R567) -/

/-- RESET_REQ. -/
def State.sbReset (s : State) (v : Nat) : SbDone :=
  if v ≠ 0xA5 then s.sbSays sbBadArg
  else s.sbMain (fun s => ((s.ownEvent 0x87 0 0x20).deviceFault 0x75 7 0).sbGives [])

/-- MAIN_POWER 0: a device recovery whose main reset holds the main side off. One already past its main reset repeats
it. -/
def State.mainPowerOff (s : State) : State :=
  let s := s.ownEvent 0x87 0 0x21
  let s := { s with milk := { s.milk with holdOff := true } }
  match s.milk.recovery with
  | some (c, k) => if 4 ≤ k then (s.mainReset c).atStep c k else s
  | none => s.deviceFault 0x75 7 0

/-- MAIN_POWER 1 with the main side off: main sequencing starts. -/
def State.mainPowerOn (s : State) : State :=
  let s := s.ownEvent 0x87 0 0x21
  let s := { s with milk := { s.milk with
    holdOff := false
    enMain := true
    bootReads := true
    faultLow := s.milk.recovery.isSome } }
  s.setReg rBootStage 2

/-- MAIN_POWER. -/
def State.sbMainPower (s : State) (v : Nat) : SbDone :=
  match v with
  | 0 => (if s.mainOff then s else s.mainPowerOff).sbGives []
  | 1 => (if s.mainOff then s.mainPowerOn else s).sbGives []
  | _ => s.sbSays sbBadArg

/-- BOOT_SELECT: the selection held after it. -/
def State.sbBootSelect (s : State) (v : Nat) : SbDone :=
  if v ≤ 2 then State.sbGives { s with milk := { s.milk with bootSel := v } } [byteOf v]
  else if v = 0xFF then s.sbGives [byteOf s.milk.bootSel]
  else s.sbSays sbBadArg

/-! ### The flash (R544, R568, R569) -/

/-- FLASH.ID and FLASH.GEOM. -/
def State.flashParts (s : State) : List Byte := leBytes 4 (s.reg rFlashId).toNat ++ leBytes 4 (s.reg rFlashGeom).toNat

/-- FLASH_OPEN: while a steward copy or erase holds the flash, it waits and answers BUSY. -/
def State.sbFlashOpen (s : State) : SbDone :=
  if s.milk.sbOp.isSome then s.sbSays sbBusy
  else if s.milk.flashOpen then s.sbGives s.flashParts
  else if s.milk.bootReads && !s.mainOff then s.sbSays sbBusy
  else if s.copyBusy || s.eraseBusy then
    { s := { s with milk := { s.milk with flashWait := true } }, status := sbBusy, data := [] }
  else State.sbGives { s with milk := { s.milk with flashOpen := true, flashWait := false } } s.flashParts

/-- A flash command other than FLASH_OPEN, once its fields are in range: DENIED without ownership, BUSY while an erase
or program of the sideband runs. -/
def State.sbFlash (s : State) (act : State → SbDone) : SbDone :=
  if s.milk.sbOp.isSome then s.sbSays sbBusy else if !s.milk.flashOpen then s.sbSays sbDenied else act s

/-- FLASH_READ. -/
def State.sbFlashRead (s : State) (off len : Nat) : SbDone :=
  if len = 0 || decide (240 < len) || decide (s.milk.flashSize < off + len) then s.sbSays sbBadArg
  else s.sbFlash (fun s => s.sbGives (s.flashBytes off len))

/-- An erase or program of the sideband starts, towards the bytes it leaves. -/
def State.sbStart (s : State) (off : Nat) (bs : List Byte) : SbDone :=
  if s.flashReadOnly then s.sbSays sbDenied
  else State.sbGives { s with milk := { s.milk with sbOp := some (off, bs) } } []

/-- FLASH_WRITE: bytes program as the AND of old and new. -/
def State.sbFlashWrite (s : State) (off : Nat) (data : List Byte) : SbDone :=
  let n := data.length
  if decide (256 < off % 256 + n) || decide (s.milk.flashSize < off + n) then s.sbSays sbBadArg
  else s.sbFlash (fun s =>
    s.sbStart off (data.zipIdx.map (fun (p : Byte × Nat) => p.1 &&& s.flashByte (off + p.2))))

/-- FLASH_ERASE. -/
def State.sbFlashErase (s : State) (off size : Nat) : SbDone :=
  let n := if size = 0 then 4096 else 65536
  if 2 ≤ size || off % n ≠ 0 || decide (s.milk.flashSize < off + n) then s.sbSays sbBadArg
  else s.sbFlash (fun s => s.sbStart off (List.replicate n 0xFF))

/-- FLASH_CLOSE. -/
def State.sbFlashClose (s : State) : SbDone :=
  if s.milk.sbOp.isSome then s.sbSays sbBusy
  else State.sbGives { s with milk := { s.milk with flashOpen := false, flashWait := false } } []

/-- FLASH_OWNERSHIP_TIMEOUT: 30 s without a flash command; an erase or program completes first. -/
def State.flashLapse (s : State) : State :=
  if s.milk.sbOp.isSome || !(s.milk.flashOpen || s.milk.flashWait) then s
  else
    let t := { s with milk := { s.milk with flashOpen := false, flashWait := false } }
    if s.milk.flashOpen then t.ownEvent 0x84 0 0 else t

/-! ### Debug authorisation (R580–R583) -/

/-- The serial number, least significant byte first. -/
def serialBytes : List Byte := leBytes 8 Config.serial.toNat

/-- Debug is permanently disabled. -/
def State.dbgDisabled (s : State) : Bool := s.milk.dbgFuse

/-- The authorised scope and the failures, in PD0 and in DBG.AUTH. -/
def State.setAuth (s : State) (scope fail : Nat) : State :=
  let s := { s with milk := { s.milk with scope := scope, authFail := fail } }
  if s.pdOn 7 then s.setReg rAuth (BitVec.ofNat 32 (scope + 256 * fail)) else s

/-- n free words drawn. -/
def State.freshWords (s : State) : Nat → State × List Word
  | 0 => (s, [])
  | n + 1 =>
    let w := s.fresh
    let t := w.2.freshWords n
    (t.1, w.1 :: t.2)

/-- A fresh nonce, which replaces a live one: 32 free bytes. -/
def State.newNonce (s : State) : State × List Byte :=
  let r := s.freshWords 8
  let n := (r.2.map (fun w => leBytes 4 w.toNat)).flatten
  ({ r.1 with milk := { r.1.milk with nonce := some n } }, n)

/-- The debug key: PUBKEY of the first of BOOT_A and BOOT_B whose digest is TOP.KEYHASH. -/
def State.debugKey (s : State) : Option (List Byte) :=
  ([s.milk.settings.bootA, s.milk.settings.bootB].filterMap (fun o =>
    match o with
    | some r => if s.keyMatches r then some (r.bytes 24 97) else none
    | none => none)).head?

/-- The digest that a response signs. -/
def authDigest (nonce : List Byte) (scope : Byte) : List Byte :=
  sha384 ([0x4B, 0x58, 0x44, 0x42] ++ nonce ++ serialBytes ++ [scope])

/-- A response is good: a live nonce, no reserved scope bit, and the signature. -/
def State.authGood (s : State) (scope : Byte) (sig : List Byte) : Bool :=
  match s.milk.nonce, s.debugKey with
  | some n, some key => decide (scope.toNat < 32) && ecdsaValid key (authDigest n scope) sig
  | _, _ => false

/-- A response submitted: the nonce is used up; the state after it, and whether it is granted. -/
def State.authSubmit (s : State) (scope : Byte) (sig : List Byte) : State × Bool :=
  let good := s.authGood scope sig
  let s := { s with milk := { s.milk with nonce := none } }
  let fail := s.milk.authFail
  if !good then (s.setAuth s.milk.scope (min 15 (fail + 1)), false)
  else if 8 ≤ fail then (s, false)
  else (s.setAuth scope.toNat fail, true)

/-- DBG_CHALLENGE. -/
def State.sbChallenge (s : State) : SbDone :=
  if s.dbgDisabled then s.sbSays sbDenied
  else
    let r := s.newNonce
    r.1.sbGives (r.2 ++ serialBytes)

/-- DBG_RESPONSE. -/
def State.sbResponse (s : State) (scope : Byte) (sig : List Byte) : SbDone :=
  if s.dbgDisabled then s.sbSays sbDenied
  else
    match s.authSubmit scope sig with
    | (s, true) => s.sbGives []
    | (s, false) => s.sbSays sbDenied

/-- NONCE_EXPIRY: 60 s have passed since the challenge. -/
def State.nonceExpire (s : State) : State := { s with milk := { s.milk with nonce := none } }

/-! ### Mailboxes and doorbells (R575, R577) -/

/-- FULL of a mailbox. -/
def State.sb2hFull (s : State) : Bool := bit (s.reg rSb2hCtrl) 8
def State.h2sbFull (s : State) : Bool := bit (s.reg rH2sbCtrl) 8

/-- Byte j of a word replaced where `b` is given. -/
def putByte (w : Word) (j : Nat) (b : Option Byte) : Word := match b with | some b => setFld w (8 * j) 8 b.toNat | none => w

/-- A message written into SB2H_DATA; bytes past it stay (notes/assumptions/68.md). -/
def State.putMessage (s : State) (msg : List Byte) : State :=
  (List.range 16).foldl (fun s i =>
    s.modReg (rSb2hData i) (fun w => (List.range 4).foldl (fun w j => putByte w j msg[4 * i + j]?) w)) s

/-- MBOX_SEND. -/
def State.sbMboxSend (s : State) (msg : List Byte) : SbDone :=
  if s.mainOff then s.sbSays sbMainOff
  else if s.sb2hFull then s.sbSays sbBusy
  else (((s.putMessage msg).setReg rSb2hCtrl (BitVec.ofNat 32 (msg.length + 256))).event 16 |>.bell 160).sbGives []

/-- The bytes of H2SB_DATA. -/
def State.h2sbBytes (s : State) : List Byte := ((List.range 16).map (fun i => leBytes 4 (s.reg (rH2sbData i)).toNat)).flatten

/-- MBOX_RECV. -/
def State.sbMboxRecv (s : State) : SbDone :=
  if !s.h2sbFull then s.sbGives [0]
  else
    let msg := s.h2sbBytes.take (fld (s.reg rH2sbCtrl) 0 7)
    (s.clrReg rH2sbCtrl 0x100).sbGives (byteOf msg.length :: msg)

/-- A write to H2SB_DATA or H2SB_CTRL: discarded, counted and reported while FULL reads 1. -/
def State.h2sbGate (s : State) (m : Master) (a : Nat) (k : State → State) : State :=
  s.regGate m a (fun s => if s.h2sbFull then (s.satReg rH2sbDrop).regRefuse m a else k s)

/-- H2SB_SEND: a write of H2SB_CTRL with SEND. -/
def State.h2sbSend (s : State) (m : Master) (v : Word) : State :=
  s.h2sbGate m rH2sbCtrl (fun s => (s.setReg rH2sbCtrl ((v &&& 0x7F) ||| 0x100)).latchAlert 0)

/-- SB2H_ACK. -/
def State.sb2hAck (s : State) (m : Master) : State := s.regGate m rSb2hCtrl (fun s => s.clrReg rSb2hCtrl 0x100)

/-- DOORBELL. -/
def State.sbDoorbell (s : State) (d : Nat) (v : Word) : SbDone :=
  if 15 ≤ d then s.sbSays sbBadArg
  else if s.mainOff then s.sbSays sbMainOff
  else ((s.setReg (rSbmsg d) v).bell (496 + d)).sbGives []

/-! ### The commands -/

def execStatus (f : SbForm) (s : State) : Host.Outcome State Fault Refusal := s.sb f 0x01 (exactly 0) [] State.sbStatus
def execTemp (f : SbForm) (s : State) : Host.Outcome State Fault Refusal := s.sb f 0x02 (exactly 0) [] State.sbTemp
def execPower (f : SbForm) (s : State) : Host.Outcome State Fault Refusal :=
  s.sb f 0x03 (exactly 0) [] (fun s => s.sbMain State.sbPower)
def execPulse (f : SbForm) (s : State) : Host.Outcome State Fault Refusal := s.sb f 0x04 (exactly 0) [] State.sbPulse
def execLogRead (f : SbForm) (pos : BitVec 32) (s : State) : Host.Outcome State Fault Refusal :=
  s.sb f 0x10 (exactly 4) (leBytes 4 pos.toNat) (fun s => s.sbLogRead pos.toNat)
def execLogClear (f : SbForm) (pos : BitVec 32) (s : State) : Host.Outcome State Fault Refusal :=
  s.sb f 0x11 (exactly 4) (leBytes 4 pos.toNat) (fun s => s.sbLogClear pos.toNat)
def execResetReq (f : SbForm) (v : BitVec 8) (s : State) : Host.Outcome State Fault Refusal :=
  s.sb f 0x20 (exactly 1) [v] (fun s => s.sbReset v.toNat)
def execMainPower (f : SbForm) (v : BitVec 8) (s : State) : Host.Outcome State Fault Refusal :=
  s.sb f 0x21 (exactly 1) [v] (fun s => s.sbMainPower v.toNat)
def execBootSelect (f : SbForm) (v : BitVec 8) (s : State) : Host.Outcome State Fault Refusal :=
  s.sb f 0x22 (exactly 1) [v] (fun s => s.sbBootSelect v.toNat)
def execFlashOpen (f : SbForm) (s : State) : Host.Outcome State Fault Refusal := s.sb f 0x30 (exactly 0) [] State.sbFlashOpen
def execFlashRead (f : SbForm) (off : BitVec 32) (len : BitVec 8) (s : State) : Host.Outcome State Fault Refusal :=
  s.sb f 0x31 (exactly 5) (leBytes 4 off.toNat ++ [len]) (fun s => s.sbFlashRead off.toNat len.toNat)
def execFlashWrite (f : SbForm) (off : BitVec 32) (data : List (BitVec 8)) (s : State) : Host.Outcome State Fault Refusal :=
  s.sb f 0x32 (fun n => decide (5 ≤ n) && decide (n ≤ 132)) (leBytes 4 off.toNat ++ data) (fun s => s.sbFlashWrite off.toNat data)
def execFlashErase (f : SbForm) (off : BitVec 32) (size : BitVec 8) (s : State) : Host.Outcome State Fault Refusal :=
  s.sb f 0x33 (exactly 5) (leBytes 4 off.toNat ++ [size]) (fun s => s.sbFlashErase off.toNat size.toNat)
def execFlashClose (f : SbForm) (s : State) : Host.Outcome State Fault Refusal := s.sb f 0x34 (exactly 0) [] State.sbFlashClose
def execFlashOwnershipTimeout (s : State) : Host.Outcome State Fault Refusal := .next s.flashLapse
def execDbgChallenge (f : SbForm) (s : State) : Host.Outcome State Fault Refusal := s.sb f 0x40 (exactly 0) [] State.sbChallenge
def execDbgResponse (f : SbForm) (scope : BitVec 8) (sig : Vector (BitVec 8) 96) (s : State) :
    Host.Outcome State Fault Refusal :=
  s.sb f 0x41 (exactly 97) (scope :: sig.toList) (fun s => s.sbResponse scope sig.toList)
def execMboxSend (f : SbForm) (msg : List (BitVec 8)) (s : State) : Host.Outcome State Fault Refusal :=
  s.sb f 0x60 (fun n => decide (1 ≤ n) && decide (n ≤ 64)) msg (fun s => s.sbMboxSend msg)
def execMboxRecv (f : SbForm) (s : State) : Host.Outcome State Fault Refusal := s.sb f 0x61 (exactly 0) [] State.sbMboxRecv
def execDoorbell (f : SbForm) (d : BitVec 8) (v : BitVec 32) (s : State) : Host.Outcome State Fault Refusal :=
  s.sb f 0x62 (exactly 5) (d :: leBytes 4 v.toNat) (fun s => s.sbDoorbell d.toNat v)
def execBlockReadResponse (code : BitVec 8) (s : State) : Host.Outcome State Fault Refusal := .next (s.blockRead code)
def execAlertResponse (s : State) : Host.Outcome State Fault Refusal := .next s.alertResponse
def execSmbusBusTimeout (s : State) : Host.Outcome State Fault Refusal := .next s.smbusTimeout
def execH2sbSend (m : Master) (v : BitVec 32) (s : State) : Host.Outcome State Fault Refusal := .next (s.h2sbSend m v)
def execSb2hAck (m : Master) (s : State) : Host.Outcome State Fault Refusal := .next (s.sb2hAck m)
def execNonceExpiry (s : State) : Host.Outcome State Fault Refusal := .next s.nonceExpire

end Sys2Proof.Machine
end

