-- ==== Sys2Proof/Machine/RegRead.lean ====
section
/-!
DEFINITION. What a read of a register returns (R8, R9, R13, R606): the stored value, or the value that follows from
other state, and the reads that have an effect (R43, R455).
-/

namespace Sys2Proof.Machine

/-- A number as a register's value. -/
def w32 (n : Nat) : Word := BitVec.ofNat 32 n

/-! ### TILE t (R186, R346, R493, R604) -/

/-- The code of a thread's state (R175). -/
def tstateCode : TState → Nat
  | .off => 0 | .idle => 1 | .run => 2 | .stall => 3 | .halted => 4 | .faulted => 5

/-- TILE_STATUS. -/
def State.tileStatus (s : State) (t : TileId) : Word :=
  let x := s.tile t
  let busy := ((List.range 8).map (fun b => if x.bankBusy b s.fck then 2 ^ b else 0)).sum
  w32 (b2n x.frameRun + 2 * b2n (s.tileHalted t) + 4 * b2n x.running.isSome + 8 * b2n (x.queued.isSome || x.starting.isSome) +
    16 * b2n (s.lutReads t) + 256 * busy)

/-- THREAD_STATE j. -/
def State.threadState (s : State) (t : TileId) (j : ThreadId) : Word :=
  let z := s.thr t j
  let st := if s.isOff t j then 0 else tstateCode z.st
  w32 (st + 8 * b2n (s.isFrame t j) + 16 * (if st = 3 then z.stall % 16 else 0) + 256 * z.pc.toNat)

/-- THREAD_GATHER j. -/
def State.threadGather (s : State) (t : TileId) (j : ThreadId) : Word :=
  let z := s.thr t j
  w32 (z.gprog.toNat + 65536 * z.gfirst.toNat)

/-- PLAN_VAR. -/
def State.planVar (s : State) (t : TileId) : Word :=
  let held := 512 * b2n s.plan.arming.isSome
  match s.plan.run with
  | some p => w32 (p.variant % 8 + 256 * b2n (p.tmask.getLsbD t.val) + held + 1024)
  | none => w32 held

/-- LV_STAT. -/
def State.lvStat (s : State) (t : TileId) : Word :=
  let x := s.tile t
  let res := if s.planRuns then s.reservation t.val (s.leaveWindowAt s.sched) else 0
  let held := match x.grant with | some g => g.size | none => 0
  w32 (x.drawAt s.fck % 16 + 16 * (res % 16) + 256 * (held % 16) + 4096 * b2n x.request.isSome)

/-- A register of TILE t whose value follows from other state. -/
def State.tileCalc (s : State) (t : TileId) (o : Nat) : Option Word :=
  if o = 0x0004 then some (s.tileStatus t)
  else if o = 0x0008 then some (w32 (b2n (s.haltOn t) + 4 * b2n (s.haltPending t)))
  else if o = 0x000C then some (w32 ((s.tile t).starts.toNat + 256 * (s.tile t).stops.toNat))
  else if 0x0010 ≤ o && o < 0x0030 then some (s.threadState t (thid ((o - 0x10) / 4)))
  else if 0x0050 ≤ o && o < 0x0070 then some (s.threadGather t (thid ((o - 0x50) / 4)))
  else if o = 0x0104 then some (w32 (s.tile t).slots.length)
  else if o = 0x0108 then some (match s.plan.run with | some p => p.planId | none => 0)
  else if o = 0x010C then some (s.planVar t)
  else if 0x0B00 ≤ o && o < 0x0B80 then some (s.countBefore (2048 + 32 * t.val + (o - 0xB00) / 4))
  else if o = 0x0C04 then some (s.lvStat t)
  else if o = 0x0D0C then some (w32 (s.tile t).trace.length)
  else none

/-! ### The shared blocks -/

/-- FUSE_INFO and the serial number (R608). -/
def State.topCalc (s : State) (a : Nat) : Option Word :=
  if a = rFuseInfo then
    some (w32 (b2n Config.gradeI + 2 * b2n Config.fusedKey.isSome + 4 * b2n s.milk.dbgFuse))
  else if a = 0x30000020 then some (Config.serial.setWidth 32)
  else if a = 0x30000024 then some ((Config.serial >>> 32).setWidth 32)
  else none

/-- The counters of R42 as read live. -/
def State.tickCalc (s : State) (a : Nat) : Option Word :=
  if 0x30010040 ≤ a && a < 0x30010070 then
    let k : Fin 6 := Fin.ofNat 6 ((a - 0x30010040) / 8)
    some (if a % 8 = 0 then s.ndetLo k else s.ndetHi k)
  else none

/-- FSTAT (R407, R429). -/
def State.fstat (s : State) : Word :=
  let safe := s.tgOn && decide (tsVActive s.scan.ts ≤ s.rasterLine) && decide (s.rasterLine < s.leadLine)
  w32 (b2n safe + 2 * b2n s.scan.videoOk)

/-- LEVEL w, bit by bit (R462). -/
def State.levelWord (s : State) (w : Nat) : Word :=
  w32 ((List.range 32).map (fun b =>
    let n := 32 * w + b
    let v := if isWired n then s.bells.wired.getLsbD (n - 448) else isLevel n && s.level n
    if v then 2 ^ b else 0)).sum

/-- BELL (R462). -/
def State.bellCalc (s : State) (a : Nat) : Option Word :=
  let o := a - 0x30030000
  if 0x0800 ≤ o && o < 0x0840 then some ((s.bells.pend >>> (8 * (o - 0x800))).setWidth 32)
  else if 0x0840 ≤ o && o < 0x0880 then some (s.levelWord ((o - 0x840) / 4))
  else if 0x0900 ≤ o && o < 0x0980 then some (setFld (s.reg a) 16 1 (b2n (s.heldOff ((o - 0x900) / 4))))
  else if o = 0x0A20 then some (s.bells.mtime.setWidth 32)
  else if o = 0x0A24 then some ((s.bells.mtime >>> 32).setWidth 32)
  else if 0x1000 ≤ o && o < 0x1500 then
    let m : Fin 5 := Fin.ofNat 5 ((o - 0x1000) / 0x100)
    match o % 0x100 with
    | 0x00 => some (w32 (s.claimOf m))
    | 0x04 => some 0
    | 0x08 => some (w32 (s.running m + 16 * (s.stack m).length))
    | 0x0C => some (w32 (match s.stack m with | (n, _) :: _ => n | [] => 0))
    | _ => none
  else none

/-- REQ r (R492). -/
def State.reqWord (s : State) (r : Nat) : Word :=
  match s.leaveReq r, s.leaveGrant r with
  | some q, g => w32 (q.size % 16 + 16 * s.leaveEff r q + 256 + 512 * b2n g.isSome)
  | none, some g => w32 (g.size % 16 + 16 * s.leavePrio r + 512)
  | none, none => 0

/-- Sum of the reservations of the present leave window. -/
def State.resNow (s : State) : Word :=
  let w := s.leaveWindowAt s.sched
  if s.planRuns then w32 (((List.range 65).map (fun r => s.reservation r w)).sum % 1024 + 65536 * w) else 0

/-- LEAVE (R492). -/
def State.leaveCalc (s : State) (a : Nat) : Option Word :=
  if a = rLvStatus then some (setFld (setFld (s.reg a) 2 1 (b2n s.power.throt)) 3 1 (b2n s.power.light))
  else if a = rStanding then some (w32 (s.standing % 1024))
  else if a = rPeak then some (w32 (s.plan.peak % 1024))
  else if a = rResNow then some s.resNow
  else if a = rDyn then some (w32 (s.dynUsable % 1024 + 65536 * (s.dynHeld % 1024)))
  else if a = rPdOn 0 then some (setFld (s.reg a) 0 1 (b2n (s.pdOn 0)))
  else if a = rPdBusy then
    some (w32 (b2n (s.power.switching.isSome || !s.power.seq.isEmpty || s.pdNext.isSome)))
  else if 0x30040100 ≤ a && a < 0x30040240 then some (s.reqWord ((a - 0x30040100) / 4))
  else none

/-- SYNC: a count as it was before the updates of this ck (R283). -/
def State.syncCalc (s : State) (a : Nat) : Option Word :=
  if 0x30050000 ≤ a && a < 0x30054000 then some (s.countBefore ((a - 0x30050000) / 4 % 2048))
  else if a = rPace then some (s.countBefore (fld (s.reg rFrObj) 0 11))
  else none

/-- LSTAT L (R322). -/
def State.lstat (s : State) (l : Fin 16) : Word :=
  let z := s.lad l
  let q := match z.copy with | some c => c.queue | none => fld (s.reg (rLstat l.val)) 8 8
  w32 (b2n z.copy.isSome + 2 * b2n (z.runs.any (fun r => r.live)) + 256 * q)

/-- QSTATUS and QPOS of a queue (R388). -/
def State.queueCalc (s : State) (a : Nat) : Option Word :=
  let q := (a - 0x30071000) / 32
  let x := s.q q
  if 0x30071000 ≤ a && a < 0x30072080 then
    match (a - 0x30071000) % 32 with
    | 0x18 => some (w32 (b2n (!s.qEn q && x.held.isEmpty) + 2 * b2n (s.cqFull q) + 4 * b2n x.arm + 65536 * x.sqHead))
    | 0x1C => some (w32 (x.sqTail + 65536 * x.cqTail))
    | _ => none
  else none

/-- The oldest record as words (R610). -/
def State.recWord (s : State) (i : Nat) : Word :=
  match s.err.recs with
  | (r, seq) :: _ => wordAt (r.bytes seq) (4 * i)
  | [] => 0

/-- ERR (R610, R612). -/
def State.errCalc (s : State) (a : Nat) : Option Word :=
  if a = rRecCount then some (w32 s.err.recs.length)
  else if 0x30090020 ≤ a && a < 0x30090040 then some (s.recWord ((a - 0x30090020) / 4))
  else if a = 0x300900A0 then some (match s.err.cands with | c :: _ => c | [] => 0)
  else none

/-- DBG.STATUS: CAUSE is stored (R603). -/
def State.dbgStatus (s : State) : Word :=
  let halted := ((List.finRange 4).map (fun (k : Fin 4) => if (s.core k).halted then 2 ^ k.val else 0)).sum
  w32 (b2n s.dbg.stopped + 2 * b2n (s.dbg.stepLeft != 0) + 16 * halted + 256 * fld (s.reg rDbgStatus) 8 3)

/-- SSTAT k. -/
def State.sstat (s : State) (k : Fin 4) : Word :=
  let z := s.core k
  w32 (b2n z.halted + 2 * (z.cause % 8) + 16 * (z.bp % 4))

/-- DBG (R603). -/
def State.dbgCalc (s : State) (a : Nat) : Option Word :=
  if a = rDbgStatus then some s.dbgStatus
  else if a = rSchedCk then some (w32 s.sched)
  else if 0x300A0100 ≤ a && a < 0x300A0200 && a % 0x40 = 4 then some (s.sstat (Fin.ofNat 4 ((a - 0x300A0100) / 0x40)))
  else none

/-- FLASH (R543). -/
def State.flashCalc (s : State) (a : Nat) : Option Word :=
  if a = rFlashOwner then some (w32 s.flashOwner)
  else if a = rFlashReq then some (setFld (s.reg a) 1 1 (b2n (s.flashOwner == 2)))
  else none

/-- A register whose value follows from other state, as read without its effects. REPAIR_APPLIED and REPAIR_SKIPPED stand
in PD0 with the shadow, and fabric sleep keeps them (DESIGN CHOICE, notes/assumptions/90.md: R121 names the last shadow
build, R605 has VATC at its reset values). -/
def State.regCalc (s : State) (a : Nat) : Option Word :=
  if isTileReg a then s.tileCalc (tid ((a - 0x30100000) / 0x1000)) (a % 0x1000)
  else
    match blockOf a with
    | 0 => s.topCalc a
    | 1 => s.tickCalc a
    | 2 => if a = rFstat then some s.fstat else none
    | 3 => s.bellCalc a
    | 4 => s.leaveCalc a
    | 5 => s.syncCalc a
    | 6 => if 0x30060010 ≤ a && a < 0x30060050 then some (s.lstat (lid ((a - 0x30060010) / 4))) else none
    | 7 => s.queueCalc a
    | 8 =>
      if a = rRepairApplied then some (w32 s.milk.repairApplied)
      else if a = rRepairSkipped then some (w32 s.milk.repairSkipped) else none
    | 9 => s.errCalc a
    | 10 => s.dbgCalc a
    | 11 => s.flashCalc a
    | 12 =>
      if a = rWiredLvl then some (s.bells.wired &&& 0x3FFFF)
      else if a = rMClaim then some (w32 (if s.pdOn 7 then s.claimOf 4 else 511))
      else none
    | _ => none

/-- The value of the register at an address: 0 in a domain that is off, or at an unassigned offset (R13, R606). -/
def State.regVal (s : State) (a : Nat) : Word :=
  if !s.regOn a || (regRow a).isNone then 0 else (s.regCalc a).getD (s.reg a)

/-! ### Reads with an effect (R43, R455, R458) -/

/-- The pair of a 64-bit counter's register: NDET 0–5, MTIME 6. -/
def pairOf (a : Nat) : Option Nat :=
  if 0x30010040 ≤ a && a < 0x30010070 then some ((a - 0x30010040) / 8)
  else if a / 8 * 8 = 0x30030A20 then some 6 else none

/-- A read of one half of a 64-bit counter: _LO fills the master's shadow, _HI returns it once (R43). -/
def State.pairRead (s : State) (m : Master) (a k : Nat) : State × Word :=
  let key := 16 * masterCode m + k
  let put (v : Option Word) : State :=
    { s with tick := { s.tick with shadow := Sparse.set (fun _ => none) s.tick.shadow key v } }
  if a % 8 = 0 then (put (some (s.regVal (a + 4))), s.regVal a)
  else
    match Sparse.get (fun _ => none) s.tick.shadow key with
    | some v => (put none, v)
    | none => (s, s.regVal a)

/-- The Milkhouse reads only TOP, TICK, LEAVE, ERR, FLASH and MHC (R50). -/
def mayRead (m : Master) (a : Nat) : Bool := m ≠ .milkhouse || milkReads a

/-- The object that a count register shows. -/
def countObj (a : Nat) (frObj : Nat) : Option Nat :=
  if 0x30050000 ≤ a && a < 0x30054000 then some ((a - 0x30050000) / 4 % 2048)
  else if a = rPace then some frObj
  else if isTileReg a && 0xB00 ≤ a % 0x1000 && a % 0x1000 < 0xB80 then
    some (2048 + 32 * ((a - 0x30100000) / 0x1000) + (a % 0x1000 - 0xB00) / 4)
  else none

/-- The registers through which a master updates an object. -/
def updateRegs (o : Nat) : List Nat :=
  if o < 2048 then [rCount o, rAddReg o, rPace] else [rTile ((o - 2048) / 32) (oLsync ((o - 2048) % 32))]

/-- The master has written an update of the object in this ck: its read of the count takes that in (R49). -/
def State.updatedBy (s : State) (m : Master) (o : Nat) : Bool :=
  (updateRegs o).any (fun a => s.now.wrote.any (fun p => p.1 == a && p.2.2 == masterCode m))

/-- A read of a register by a master. -/
def State.regRead (s : State) (m : Master) (a : Nat) : State × Word :=
  if !mayRead m a then (s, 0)
  else if !s.regOn a then (s, 0)
  else if a = rMClaim then (if s.pdOn 7 then s.claimRead m 4 else (s, 511))
  else if 0x30031000 ≤ a && a < 0x30031500 && a % 0x100 = 0 then
    s.claimRead m (Fin.ofNat 5 ((a - 0x30031000) / 0x100))
  else
    match pairOf a with
    | some k => s.pairRead m a k
    | none =>
      match countObj a (fld (s.reg rFrObj) 0 11) with
      | some o => (s, if s.updatedBy m o then s.count o else s.regVal a)
      | none => (s, s.regVal a)

end Sys2Proof.Machine
end

