-- ==== Sys2Proof/Machine/Debug.lean ====
section
/-!
DEFINITION. Debug (spec file 18) and the TAP (R584, R585, R627–R629): the write-once log (R520–R522), stop, resume and
step, permanent disable, the halts of the stewards, the trace port, the state chain, and the JTAG instructions.
-/

namespace Sys2Proof.Machine

/-! ### Writes discarded as write-once or locked (R521, R522) -/

/-- The log captures a violation, and VALID is set. -/
def State.woCapture (s : State) (a : Nat) (v : Word) (code : Nat) : State :=
  ((s.setReg rWoAddr (w32 a)).setReg rWoData v).setReg rWoLog (w32 (code + 256))

/-- The log of a discarded write; nothing while ERR's domain is off. -/
def State.woLog (s : State) (m : Master) (a : Nat) (v : Word) : State :=
  if !s.pdOn 7 then s
  else
    let s := s.satReg rWoCount
    let s :=
      if bit (s.reg rWoLog) 8 then
        { s with now := { s.now with woLate := s.now.woLate <|> some (a, v, masterCode m) } }
      else (s.woCapture a v (masterCode m)).noteSet rWoLog 0x100
    (s.post 0x53 0 10 (a / 0x10000 % 0x100) (w32 a) (w32 (masterCode m))).bell 37

/-- The bit of WO_STATE of a WO1 register (R608). -/
def woBit (a : Nat) : Nat :=
  if a = rBoardId then 12 else if a = rSubsysId then 13 else if a = rBudgetCap then 14 else if a = rPermaDisable then 15
  else (a - rKeyhash 0) / 4 % 12

/-- A WO1 register has been written (R9, R522). -/
def State.woWritten (s : State) (a : Nat) : Bool := bit (s.reg rWoState) (woBit a)

/-- A write to a WO1 register: the first one is `k`'s, and every later one is discarded and logged. -/
def State.woWrite (s : State) (m : Master) (a : Nat) (v : Word) (k : State → State) : State :=
  if s.woWritten a then s.woLog m a v else k (s.orReg rWoState (w32 (2 ^ woBit a)))

/-! ### Scope, stop, resume and step (R579, R586, R591) -/

/-- A write to a DBG field whose scope may be missing: then it is discarded and reported. -/
def State.scopeGate (s : State) (m : Master) (a b : Nat) (k : State → State) : State :=
  s.regGate m a (fun s => if s.scope b then k s else s.regRefuse m a)

abbrev rDbgStop : Nat := 0x300A0004
abbrev rDbgResume : Nat := 0x300A0008
abbrev rDbgStep : Nat := 0x300A000C
abbrev rAuthCtrl : Nat := 0x300A0034

/-- DBG_STOP. -/
def State.dbgStop (s : State) (m : Master) : State := s.scopeGate m rDbgStop 0 (fun s => s.fireStop 1 6)

/-- DBG_STOP_N: a falling edge of the pin. -/
def State.dbgStopPin (s : State) : State :=
  if s.pdOn 7 && s.scope 0 && bit (s.reg rDbgCtrl) 0 && !s.dbgDisabled then s.fireStop 2 10 else s

/-- A restart in ck a + 6, for n ck or without end; discarded while the frame domain runs, or when one is under way. -/
def State.restartAt (s : State) (n : Nat) : State :=
  if !s.dbg.stopped || s.dbg.resumeAt.isSome then s
  else { s with dbg := { s.dbg with resumeAt := some (s.ck + 6, n) } }

/-- DBG_RESUME and DBG_STEP; a STEP of 0 names no length and does nothing. -/
def State.dbgResume (s : State) (m : Master) : State := s.scopeGate m rDbgResume 0 (fun s => s.restartAt 0)
def State.dbgStep (s : State) (m : Master) (n : Nat) : State :=
  s.scopeGate m rDbgStep 0 (fun s => if n = 0 then s else s.restartAt n)

/-- STEP_END: the last ck of a step is under way, and the frame domain is frozen from the next on. -/
def State.stepEnd (s : State) : State :=
  if s.dbg.stopped || s.dbg.stepLeft ≠ 1 then s
  else { s with dbg := { s.dbg with stepLeft := 0, stopAt := some (s.ck + 1, 0) } }

/-! ### Authorisation given up (R582, R583) -/

/-- AUTH_REVOKE. -/
def State.authRevoke (s : State) (m : Master) : State := s.regGate m rAuthCtrl (fun s => s.setAuth 0 s.milk.authFail)

/-- PERMA_DISABLE: a first write of 1 programs the fuse and clears the scope. -/
def State.permaDisable (s : State) (m : Master) (v : Word) : State :=
  s.regGate m rPermaDisable (fun s =>
    s.woWrite m rPermaDisable v (fun s =>
      if bit v 0 then
        let s := { s with milk := { s.milk with dbgFuse := true } }
        (s.setReg rPermaDisable 1).setAuth 0 s.milk.authFail
      else s.setReg rPermaDisable 0))

/-! ### Steward halts (R596, R597) -/

/-- A write of SCTRL k, with DRAIN as written. -/
def State.sctrlGate (s : State) (m : Master) (k : Fin 4) (drain : Bool) (f : Steward → Steward) : State :=
  s.scopeGate m (rSctrl k.val) 3 (fun s =>
    let s := s.setReg (rSctrl k.val) (if drain then 8 else 0)
    if s.pdOn 1 then s.modCore k f else s)

/-- HALT, RESUME and STEP. -/
def haltCore (z : Steward) : Steward := if z.halted || z.haltReq then z else { z with haltReq := true, cause := 1 }
def resumeCore (z : Steward) : Steward := if z.halted then { z with halted := false, haltReq := false, stepLeft := false } else z
def stepCore (z : Steward) : Steward :=
  if z.halted then { z with halted := false, haltReq := true, stepLeft := true, cause := 3 } else z

/-- A write of core k is still on its way to memory. -/
def State.writesOut (s : State) (k : Fin 4) : Bool :=
  let mine (q : NarrowReq) : Bool := q.who == .write (masterCode (.steward k))
  s.mesh.flits.any (fun f => match f.body with | .narrow _ q => mine q | _ => false) ||
    s.mem.ports.any (fun p => p.2.any mine)

/-- Core k's loads, stores and register writes have completed, and its drained copy too. -/
def State.drained (s : State) (k : Fin 4) : Bool :=
  s.accs.all (fun c => c.m ≠ .steward k) && s.cacheWork.reqs.all (fun r => r.core ≠ k) &&
    s.mesh.flits.all (fun f => match f.body with
      | .cacheAsk r => r.core ≠ k
      | .cacheData r _ _ => r.core ≠ k
      | _ => true) &&
    (match s.cacheWork.fill with | some f => f.req.core ≠ k | none => true) && !s.writesOut k &&
    (!bit (s.reg (rSctrl k.val)) 3 || (List.finRange 16).all (fun l => match (s.lad l).copy with
      | some c => c.queue ≠ 132 + k.val
      | none => true))

/-- STEWARD_HALTED. -/
def State.coreHalted (s : State) (k : Fin 4) : State :=
  let z := s.core k
  if z.haltReq && !z.stepLeft && !z.halted && z.kx.isNone && s.drained k then
    s.modCore k (fun z => { z with halted := true, haltReq := false })
  else s

/-! ### The trace port (R601, R602) -/

/-- TRACE_ENABLE: a write of TR_CTRL; EN going to 1 sets TR_HEAD and TR_TAIL to 0. -/
def State.traceEnable (s : State) (m : Master) (v : Word) : State :=
  s.scopeGate m rTrCtrl 2 (fun s =>
    let was := bit (s.reg rTrCtrl) 0
    let s := s.setReg rTrCtrl (v &&& 1)
    if bit v 0 && !was then
      let s := (s.setReg rTrHead 0).setReg rTrTail 0
      { s with dbg := { s.dbg with written := 0 } }
    else s)

/-- Records in the ring: 2^TR_SIZE, a size outside 8–20 taken as the nearest (DESIGN CHOICE, notes/assumptions/69.md). -/
def State.ringSize (s : State) : Nat := 2 ^ max 8 (min 20 (fld (s.reg rTrSize) 0 5))

/-- The ring is full. -/
def State.ringFull (s : State) : Bool :=
  decide (((s.reg rTrHead).toNat + 1) % s.ringSize = (s.reg rTrTail).toNat % s.ringSize)

/-- TR_NOTIFY after the records written: 1 added to its object, as a register-kind update of the debug port. -/
def State.traceNotify (s : State) : State :=
  let c := s.reg rTrNotify
  if bit c 16 && s.dbg.written % 2 ^ fld c 12 4 == 0 then
    let o := regOp .debug (fld c 0 11) false 1
    s.sendAsync (.traceNotify o) .data .remote 63 (syncRouter o.obj) 5 0 3
  else s

/-- TRACE_RING_WRITE: the oldest record of the port goes to slot TR_HEAD. -/
def State.ringWrite (s : State) : State :=
  match s.dbg.port with
  | [] => s
  | r :: rest =>
    if !bit (s.reg rTrCtrl) 0 || s.ringFull || !s.pdOn 7 then s
    else
      let a := (s.reg rTrBase).toNat + 16 * (s.reg rTrHead).toNat
      let s := { s with dbg := { s.dbg with port := rest, written := s.dbg.written + 1 } }
      let s := if isVat a && s.memThere a then s.narrowWrite 63 a (bytesOfNat 16 r.toNat) .trace 3 else s
      (s.modReg rTrHead (fun w => w32 ((w.toNat + 1) % s.ringSize))).traceNotify

/-- A tile's oldest records, up to 4, sent to the port (R601). -/
def State.traceSend (s : State) (t : TileId) : State :=
  let x := s.tile t
  let waits := s.mesh.flits.any (fun f => match f.body, f.pos with
    | .traceRec k _, .source _ => k == t.val
    | _, _ => false)
  if x.trace.isEmpty || waits || !s.frameActs then s
  else
    (s.modTile t (fun x => { x with trace := x.trace.drop 4 })).sendAsync (.traceRec t.val (x.trace.take 4)) .data .remote
      t.val 63 3

/-- Records that have arrived at the port: it holds 4096; while it is disabled it takes none (notes/assumptions/69.md). -/
def State.traceTake (s : State) : State :=
  let here (f : Flit) : Bool := s.arrived f && (match f.body with | .traceRec _ _ => true | _ => false)
  let recs := ((s.mesh.flits.filter here).map (fun f => match f.body with | .traceRec _ l => l | _ => [])).flatten
  let s := { s with mesh := { s.mesh with flits := s.mesh.flits.filter (fun f => !here f) } }
  if recs.isEmpty || !bit (s.reg rTrCtrl) 0 then s
  else
    let room := 4096 - s.dbg.port.length
    let s := { s with dbg := { s.dbg with port := s.dbg.port ++ recs.take room } }
    s.satReg rTrLost (recs.length - room)

/-! ### The state chain (R593–R595) -/

/-- A word of the chain: not valid, a value, or a valid word whose layout the spec does not give. -/
inductive ChainWord where
  | off
  | val (w : Word)
  | unstated

/-- A word of a list, where it has one. -/
def chainOf (l : List Word) (i : Nat) : ChainWord := match l[i]? with | some w => .val w | none => .off

/-- Word i of a value kept as a number. -/
def wordOf (v i : Nat) : Word := w32 (v / 2 ^ (32 * i))

/-- The header. -/
def State.chainHead (s : State) (w : Nat) : ChainWord :=
  let tiles (h : Nat) : Word := w32 (((List.range 32).map (fun i => if s.pdOn (16 + 32 * h + i) then 2 ^ i else 0)).sum)
  let slices : Word := w32 (((List.range 8).map (fun i => if s.pdOn (8 + i) then 2 ^ i else 0)).sum)
  chainOf [s.regVal 0x30000000, s.regVal rEpoch, s.regVal rStopFrame, s.regVal rSchedCk, s.regVal rDbgStatus,
    s.regVal rTicksHeld, tiles 0, tiles 1, slices, 0x00500000] w

/-- The TICK registers, and LEAVE's after them. -/
def State.chainTick (s : State) (w : Nat) : ChainWord :=
  if w < 29 then (if s.pdOn 3 then .val (s.regVal (0x30010000 + 4 * w)) else .off)
  else if w < 29 + 46 then (if s.pdOn 7 then .val (s.regVal (0x30040000 + 4 * (w - 29))) else .off)
  else .off

/-- A watch slot: the placing of object and EQ in its first word is not stated (notes/assumptions/70.md). -/
def State.chainWatch (s : State) (slot i : Nat) : ChainWord :=
  match Sparse.get (fun _ => none) s.sync.watches slot with
  | none => .val 0
  | some x =>
    match i with
    | 0 => .unstated
    | 1 => .val x.target
    | 2 => .val (w32 x.p)
    | _ => .val (w32 x.s)

/-- A steward's words: 64-bit registers take two words, the low one first. -/
def State.chainCore (s : State) (k : Fin 4) (w : Nat) : ChainWord :=
  let z := s.core k
  let wide (d : Dword) : List Word := [wordOf d.toNat 0, wordOf d.toNat 1]
  chainOf ((([z.pc] ++ (z.x.toList.drop 1) ++ [z.mstatus, z.mepc, z.mcause, z.mtval]).map wide).flatten ++
    [z.kxprog, z.kxacc, z.mkxcfg]) w

/-- A thread's words. -/
def State.chainThread (s : State) (t : TileId) (j : ThreadId) (w : Nat) : ChainWord :=
  let z := s.thr t j
  if w < 0x20 then
    let wt := match z.wait with | some r => [w32 r.obj, w32 r.p, w32 r.s] | none => [0, 0, 0]
    chainOf ([s.threadState t j, s.treg t.val (oEntry j.val), s.threadGather t j, z.draw, z.p.setWidth 32] ++ wt) w
  else if w < 0x40 then .val (z.s.toArray.getD (w - 0x20) 0)
  else if w < 0x840 then .val (((z.v.toArray.getD ((w - 0x40) / 64) 0) >>> (32 * ((w - 0x40) % 64))).setWidth 32)
  else if w < 0x940 then .val (((z.poison.toArray.getD ((w - 0x840) / 8) 0) >>> (32 * ((w - 0x840) % 8))).setWidth 32)
  else .off

/-- A tile's segment; the layouts of the router's words and of the tensor unit's are not stated. -/
def State.chainTile (s : State) (t : TileId) (w : Nat) : ChainWord :=
  let x := s.tile t
  if w < 0x100 then
    let late := (List.range 16).flatMap (fun i => match x.late[i]? with | some (a, b) => [w32 a, w32 b] | none => [0, 0])
    chainOf ([s.tileStatus t, s.treg t.val oLedgerSlack] ++ late ++ (List.range 16).map (fun k => s.treg t.val (oCcBal k)) ++
      (List.range 32).map (fun k => s.count (2048 + 32 * t.val + k)) ++ [s.lvStat t]) w
  else if w < 0x300 then
    let i := w - 0x100
    .val (wordOf (Sparse.get (fun _ => (0 : Quad)) x.handles (64 * (i / 256) + i % 256 / 4)).toNat (i % 4))
  else if w < 0x600 then (if s.pdOn 7 then .unstated else .off)
  else if w < 0x700 then .unstated
  else if w < 0x800 then .off
  else if w < 0xC00 then .val (Sparse.get (fun _ => 0) x.lut (w - 0x800))
  else if w < 0x1000 then .off
  else if w < 0x5000 then .val (Sparse.get (fun _ => 0) x.acc (w - 0x1000))
  else if w < 0x5010 then .val (wordOf (x.flags.toArray.getD ((w - 0x5000) / 2) 0).toNat (w % 2))
  else if 0x6000 ≤ w && w < 0xE000 then s.chainThread t (thid ((w - 0x6000) / 0x1000)) ((w - 0x6000) % 0x1000)
  else .off

/-- Word w of the chain: those of frozen units while the frame domain is stopped, a steward's while it is halted, and
the header. -/
def State.chainAt (s : State) (w : Nat) : ChainWord :=
  let frozen (d : Nat) (k : ChainWord) : ChainWord := if s.dbg.stopped && s.pdOn d then k else .off
  if w < 0x100 then s.chainHead w
  else if w < 0x200 then (if s.dbg.stopped then s.chainTick (w - 0x100) else .off)
  else if w < 0x1000 then .off
  else if w < 0x1800 then frozen 7 (.val (s.count (w - 0x1000)))
  else if w < 0x2800 then frozen 7 (s.chainWatch ((w - 0x1800) / 4) (w % 4))
  else if w < 0x4000 then .off
  else if w < 0x6000 then frozen (8 + (w - 0x4000) / 0x400) .unstated
  else if w < 0xA000 then frozen 6 .unstated
  else if w < 0xB000 then frozen 3 .unstated
  else if w < 0xC000 then
    let k : Fin 4 := Fin.ofNat 4 ((w - 0xB000) / 0x400)
    if s.pdOn 1 && (s.core k).halted then s.chainCore k (w % 0x400) else .off
  else if 0x100000 ≤ w && w < 0x500000 then
    let t := (w - 0x100000) / 0x10000
    frozen (16 + t) (s.chainTile (tid t) (w % 0x10000))
  else .off

/-- A word read: its value and whether it is valid; an unstated one is a free value. -/
def State.chainRead (s : State) (w : Nat) : State × Word × Bool :=
  match s.chainAt w with
  | .off => (s, 0, false)
  | .val v => (s, v, true)
  | .unstated =>
    let r := s.fresh
    (r.2, r.1, true)

/-- n words from w on. -/
def State.chainWords (s : State) (w : Nat) : Nat → State × List (Word × Bool)
  | 0 => (s, [])
  | n + 1 =>
    let r := s.chainRead w
    let t := r.1.chainWords (w + 1) n
    (t.1, r.2 :: t.2)

/-- STATE_SCAN. -/
def State.sbStateScan (s : State) (first words : Nat) : SbDone :=
  if words = 0 || 60 < words then s.sbSays sbBadArg
  else if s.dbgDisabled || !s.milk.scope.testBit 1 then s.sbSays sbDenied
  else s.sbMain (fun s =>
    let r := s.chainWords first words
    r.1.sbGives ((r.2.map (fun (p : Word × Bool) => leBytes 4 p.1.toNat)).flatten))

/-! ### The TAP (R584, R585, R627–R629) -/

/-- The instruction register set. -/
def State.setIr (s : State) (code : Nat) : State := { s with milk := { s.milk with ir := code } }

/-- The TAP has power. -/
def State.tap (s : State) (k : State → State) : State := if s.milk.aon then k s else s

/-- TAP_RESET: the IDCODE instruction becomes current (PRESUMED from IEEE 1149.1, notes/assumptions/71.md). -/
def State.tapReset (s : State) : State := s.tap (fun s => s.setIr 0x02)

/-- The input cells of the boundary-scan register (R627): of a signal with three cells, the first. -/
def inputCell (c : Nat) : Bool :=
  decide (c < 4) || (decide (10 ≤ c) && decide (c < 58) && (c - 10) % 3 == 0) || c == 58 ||
    (decide (59 ≤ c) && decide (c < 71) && (c - 59) % 3 == 0) || (decide (75 ≤ c) && decide (c < 78)) || c == 79 || c == 80 ||
    c == 83 || c == 86

/-- Capture-DR: input cells take their pads, the EN_MAIN cell what that pad drives; what an output or enable cell
captures is not stated, and is free. -/
def State.captureCells (s : State) (pads : BitVec 89) : State × BitVec 89 :=
  let r := s.freshWords 3
  let free : BitVec 89 := BitVec.ofNat 89 (natOfBytes ((r.2.map (fun w => leBytes 4 w.toNat)).flatten))
  (r.1, BitVec.ofNat 89 (((List.range 89).map (fun c =>
    let b := if c = 78 then s.milk.enMain else if inputCell c then pads.getLsbD c else free.getLsbD c
    if b then 2 ^ c else 0)).sum))

/-- A scan of the boundary-scan register: the captured cells leave, and `cells` are loaded. -/
def State.boundary (s : State) (code : Nat) (pads cells : BitVec 89) : State :=
  s.tap (fun s =>
    let r := s.captureCells pads
    let s := (r.1.setIr code).emit (.bytes (leBytes 12 r.2.toNat))
    { s with milk := { s.milk with bsr := cells } })

/-- IDCODE. -/
def State.idcode (s : State) : State := s.tap (fun s => (s.setIr 0x02).emit (.bytes (leBytes 4 0x17318957)))

/-- BYPASS: 32 bits through one. -/
def State.bypass (s : State) (bits : BitVec 32) : State :=
  s.tap (fun s => (s.setIr 0xFF).emit (.bytes (leBytes 4 (bits <<< 1).toNat)))

/-- AUTH's Capture-DR (R585). -/
def State.authCapture (s : State) : State :=
  let head := match s.milk.nonce with | some n => n ++ serialBytes | none => List.replicate 40 0
  s.emit (.bytes (head ++ List.replicate 63 0 ++ [byteOf s.milk.jtagResult]))

/-- A scan of AUTH; under permanent disable the instruction acts as BYPASS, and without the Milkhouse nothing follows
the capture. -/
def State.authScan (s : State) (act : State → State) : State :=
  s.tap (fun s =>
    if s.dbgDisabled then s.setIr 0xFF
    else
      let s := (s.setIr 0x10).authCapture
      if s.milk.rom then act s else s)

/-- JTAG_AUTH_CHALLENGE. -/
def State.jtagChallenge (s : State) : State := s.authScan (fun s => s.newNonce.1)

/-- The result of a submission kept. -/
def State.jtagResult (s : State) (ok : Bool) : State :=
  { s with milk := { s.milk with jtagResult := if ok then 0 else sbDenied } }

/-- JTAG_AUTH_SUBMIT of bytes 0–102: a nonzero byte among 97–102 makes it DENIED. -/
def State.jtagSubmit (s : State) (b : List Byte) : State :=
  s.authScan (fun s =>
    if (b.drop 97).all (fun x => x == 0) then
      let r := s.authSubmit (b.getD 0 0) ((b.drop 1).take 96)
      r.1.jtagResult r.2
    else
      let s := { s with milk := { s.milk with nonce := none } }
      (s.setAuth s.milk.scope (min 15 (s.milk.authFail + 1))).jtagResult false)

/-- JTAG_STATE: words of the chain with VALID, each as five bytes; without the scope it acts as BYPASS. -/
def State.jtagState (s : State) (first words : Nat) : State :=
  s.tap (fun s =>
    if s.dbgDisabled || !s.milk.scope.testBit 1 then s.setIr 0xFF
    else
      let r := (s.setIr 0x11).chainWords first words
      let s := r.1.emit (.bytes ((r.2.map (fun (p : Word × Bool) => leBytes 4 p.1.toNat ++ [byteOf (b2n p.2)])).flatten))
      { s with milk := { s.milk with stateAddr := (first + words) % 2 ^ 32 } })

/-! ### The commands -/

def execStateScan (f : SbForm) (first : BitVec 32) (words : BitVec 8) (s : State) : Host.Outcome State Fault Refusal :=
  s.sb f 0x50 (exactly 5) (leBytes 4 first.toNat ++ [words]) (fun s => s.sbStateScan first.toNat words.toNat)
def execDbgStop (m : Master) (s : State) : Host.Outcome State Fault Refusal := .next (s.dbgStop m)
def execDbgStopN (s : State) : Host.Outcome State Fault Refusal := .next s.dbgStopPin
def execDbgResume (m : Master) (s : State) : Host.Outcome State Fault Refusal := .next (s.dbgResume m)
def execDbgStep (m : Master) (n : BitVec 16) (s : State) : Host.Outcome State Fault Refusal := .next (s.dbgStep m n.toNat)
def execStepEnd (s : State) : Host.Outcome State Fault Refusal := .next s.stepEnd
def execAuthRevoke (m : Master) (s : State) : Host.Outcome State Fault Refusal := .next (s.authRevoke m)
def execPermaDisable (m : Master) (v : BitVec 32) (s : State) : Host.Outcome State Fault Refusal := .next (s.permaDisable m v)
def execStewardHalt (m : Master) (k : Fin 4) (drain : Bool) (s : State) : Host.Outcome State Fault Refusal :=
  .next (s.sctrlGate m k drain haltCore)
def execStewardHalted (k : Fin 4) (s : State) : Host.Outcome State Fault Refusal := .next (s.coreHalted k)
def execStewardResume (m : Master) (k : Fin 4) (drain : Bool) (s : State) : Host.Outcome State Fault Refusal :=
  .next (s.sctrlGate m k drain resumeCore)
def execStewardStep (m : Master) (k : Fin 4) (drain : Bool) (s : State) : Host.Outcome State Fault Refusal :=
  .next (s.sctrlGate m k drain stepCore)
def execTraceEnable (m : Master) (v : BitVec 32) (s : State) : Host.Outcome State Fault Refusal := .next (s.traceEnable m v)
def execTraceRingWrite (s : State) : Host.Outcome State Fault Refusal := .next s.ringWrite
def execTapReset (s : State) : Host.Outcome State Fault Refusal := .next s.tapReset
def execExtest (pads cells : BitVec 89) (s : State) : Host.Outcome State Fault Refusal := .next (s.boundary 0x00 pads cells)
def execSamplePreload (pads cells : BitVec 89) (s : State) : Host.Outcome State Fault Refusal :=
  .next (s.boundary 0x01 pads cells)
def execIdcode (s : State) : Host.Outcome State Fault Refusal := .next s.idcode
def execBypass (bits : BitVec 32) (s : State) : Host.Outcome State Fault Refusal := .next (s.bypass bits)
def execJtagAuthChallenge (s : State) : Host.Outcome State Fault Refusal := .next s.jtagChallenge
def execJtagAuthSubmit (bytes : Vector (BitVec 8) 103) (s : State) : Host.Outcome State Fault Refusal :=
  .next (s.jtagSubmit bytes.toList)
def execJtagState (first : BitVec 32) (words : BitVec 8) (s : State) : Host.Outcome State Fault Refusal :=
  .next (s.jtagState first.toNat words.toNat)

end Sys2Proof.Machine
end

