-- ==== Sys2Proof/Machine/RegisterAccess.lean ====
section
/-!
DEFINITION. Writes of registers by masters (R8–R14, R605–R614) with what each block does with them, and the accesses
whose address decides their effect: REGISTER_WRITE, STEWARD_MEMORY_ACCESS and DBGACC.
-/

namespace Sys2Proof.Machine

/-! ### Plain writes by access type (R9, R12) -/

/-- A write by the access types of the bits: RW bits take the value, W1C bits are cleared by 1 unless hardware has set
them in this ck (R10), and a bit that only the Milkhouse writes is RO for others. -/
def State.plainWrite (s : State) (m : Master) (a : Nat) (v : Word) : State :=
  match regRow a with
  | none => s
  | some r =>
    let w : Word := w32 (if m = .milkhouse then r.rw ||| r.mh else r.rw)
    s.modReg a (fun x => ((x &&& ~~~ w) ||| (v &&& w)) &&& ~~~ (v &&& w32 r.w1c &&& ~~~ s.hwSetBits a))

/-- A write of LK bits: while LOCK reads 1 it is discarded and logged (R520, R614). -/
def State.lockWrite (s : State) (m : Master) (a lock : Nat) (v : Word) : State :=
  if bit (s.reg lock) 0 then s.woLog m a v
  else
    match regRow a with
    | some r => s.modReg a (fun x => (x &&& ~~~ w32 r.lk) ||| (v &&& w32 r.lk))
    | none => s

/-- A LOCK bit: writing 1 sets it, and a write of 0 to a set one is discarded and logged (R520). -/
def State.lockBit (s : State) (m : Master) (a : Nat) (v : Word) : State :=
  if bit v 0 then s.setReg a 1 else if bit (s.reg a) 0 then s.woLog m a v else s

/-- A write that is refused as a register access fault unless `ok`. -/
def State.unless (s : State) (m : Master) (a : Nat) (bad : Bool) (k : State → State) : State :=
  if bad then s.regRefuse m a else k s

/-- While a plan runs, masters other than the plan loader do not write here. -/
def State.planBars (s : State) (m : Master) : Bool := s.planRuns && m ≠ .swap

/-- The stored value with a field of 0 replaced by 1. -/
def State.zeroIsOne (s : State) (a lo n : Nat) : State :=
  s.modReg a (fun w => if fld w lo n = 0 then setFld w lo n 1 else w)

/-! ### The blocks -/

/-- TOP (R608). -/
def State.topWrite (s : State) (m : Master) (a : Nat) (v : Word) : State :=
  if a = rBoardId then s.woWrite m a v (fun s => s.setReg a v)
  else if rKeyhash 0 ≤ a && a ≤ rKeyhash 11 then
    if m = .milkhouse then s.woWrite m a v (fun s => s.setReg a v) else s
  else if a = rGpioDir || a = rGpioOd then s.lockWrite m a rTopLock v
  else if a = rTopLock then s.lockBit m a v
  else s.plainWrite m a v

/-- TICK (R44, R45): NDET_CTRL's write of 1 clears the counters; BUDGET, FR_OBJ and FR_TARGET are the plan's. -/
def State.tickWrite (s : State) (m : Master) (a : Nat) (v : Word) : State :=
  if a = rNdetCtrl then (if bit v 0 then s.ndetClear m else s)
  else if m = .swap && (a = rBudget || a = rFrTarget) then s.setReg a v
  else if m = .swap && a = rFrObj then s.setReg a (v &&& 0x7FF)
  else s.plainWrite m a v

/-- DP_CTRL o: TRAIN keeps reading 1 while training. -/
def State.dpCtrlWrite (s : State) (m : Master) (o : Nat) (v : Word) : State :=
  let a := rDpCtrl o
  let s := s.setReg a ((v &&& 0x7E) ||| (s.reg a &&& 1))
  if bit v 0 then s.dpTrain m o else s

/-- SCAN (R392–R431). -/
def State.scanWrite (s : State) (m : Master) (a : Nat) (v : Word) : State :=
  if a = rTsCommit then (if bit v 0 then s.tsCommit m else s)
  else if a = rOutMode then s.outModeWrite m v
  else if a = rTeCfg then s.setReg a (setFld (v &&& 7) 0 2 (if fld v 0 2 = 3 then 0 else fld v 0 2))
  else if a = rCreamWm then s.setReg a (creamWm v)
  else if a = rLeadMax then s.setReg a (leadMaxOf v)
  else if a = rDpCtrl 0 then s.dpCtrlWrite m 0 v
  else if a = rDpCtrl 1 then s.dpCtrlWrite m 1 v
  else if a = rAuxCmd 0 then s.auxCmd m 0 v
  else if a = rAuxCmd 1 then s.auxCmd m 1 v
  else
    match layerOf a with
    | some k => s.unless m a (s.planBars m && bit (s.reg rPlanLayers) k) (fun s => s.plainWrite m a v)
    | none => s.plainWrite m a v

/-- BELL (R452–R462). -/
def State.bellWrite (s : State) (m : Master) (a : Nat) (v : Word) : State :=
  if a = rBellCtrl then s.gdisWrite m (bit v 0)
  else if rMsip 0 ≤ a && a ≤ rMsip 3 then s.msipWrite m ((a - rMsip 0) / 4) (bit v 0)
  else if rMtimecmp 0 ≤ a && a < rMtimecmp 4 then
    (s.plainWrite m a v).timerMatch (Fin.ofNat 4 ((a - rMtimecmp 0) / 8))
  else if rClaim 0 ≤ a && a < rClaim 5 then
    if a % 0x100 = 4 then s.bellEoi m (Fin.ofNat 5 ((a - rClaim 0) / 0x100)) (fld v 0 9) else s
  else if rSrc 448 ≤ a && a < rSrc 480 then (s.plainWrite m a v).zeroIsOne a 12 10
  else s.plainWrite m a v

/-- LEAVE (R474, R484, R488, R492). -/
def State.leaveWrite (s : State) (m : Master) (a : Nat) (v : Word) : State :=
  if a = rBudgetCap then s.woWrite m a v (fun s => s.setReg a (w32 (max 200 (min 650 (fld v 0 10)))))
  else if a = rLvAgeStep then (s.plainWrite m a v).zeroIsOne a 0 16
  else if a = rThrotCfg then s.setReg a (w32 (min 16 (fld v 0 5)))
  else if a = rThermCtrl then
    let s := s.plainWrite m a (v &&& 2)
    if bit v 0 then s.thermalRelease m else s
  else if a = rThermClk || a = rIdleClk then
    s.unless m a (!clockLegal (fld v 0 21)) (fun s => s.plainWrite m a v)
  else if rPdCtrl 0 ≤ a && a ≤ rPdCtrl 2 then s.pdCtrlWrite m ((a - rPdCtrl 0) / 4) v
  else s.plainWrite m a v

/-- SYNC (R286–R289). -/
def State.syncWrite (s : State) (m : Master) (a : Nat) (v : Word) : State :=
  if a < rAddReg 0 then s.syncCountWrite m ((a - rCount 0) / 4) v
  else if a < rTickval 0 then s.syncAddWrite m ((a - rAddReg 0) / 4) v
  else if a < rPace then s.unless m a (s.planBars m) (fun s => s.plainWrite m a v)
  else if a = rPace then s.paceWrite m v
  else if rWatchCfg 0 ≤ a && a < rWatchCfg 32 then
    match a % 16 with
    | 0 => s.watchCfgWrite m ((a - rWatchCfg 0) / 16) false v
    | 4 => s.watchCfgWrite m ((a - rWatchCfg 0) / 16) true v
    | _ => s.plainWrite m a v
  else s.plainWrite m a v

/-- LADLE (R322). -/
def State.ladleWrite (s : State) (m : Master) (a : Nat) (v : Word) : State :=
  if a = rLAgeStep then (s.plainWrite m a v).zeroIsOne a 0 16
  else if (rSmask 0 0 ≤ a && a < rSmask 64 0) || (rDmap 0 0 ≤ a && a < rDmap 64 0) then
    s.unless m a (s.planBars m) (fun s => s.plainWrite m a v)
  else if rSringTail 0 ≤ a && a ≤ rSringTail 3 && a % 16 = 8 then s.sringTail m ((a - rSringTail 0) / 16) v
  else if a = rLSubst 0xE then s.plainWrite m a (substE v)
  else s.plainWrite m a v

/-- A log₂ ring size of 1–12; other values store 1. -/
def qsizeOf (n : Nat) : Nat := if 1 ≤ n && n ≤ 12 then n else 1

/-- The registers of a queue. Bases and sizes are refused while EN reads 1 (R389). -/
def State.queueWrite (s : State) (m : Master) (a : Nat) (v : Word) : State :=
  let q := (a - rQueue 0 0) / 32
  match (a - rQueue 0 0) % 32 with
  | 0x14 => s.qctrlWrite m q v
  | 0x10 => s.unless m a (s.qEn q) (fun s => s.setReg a (w32 (qsizeOf (fld v 0 4) + 16 * qsizeOf (fld v 4 4))))
  | o => s.unless m a (decide (o < 0x10) && s.qEn q) (fun s => s.plainWrite m a v)

/-- a is a register of the MSI-X table or PBA. -/
def isMsix (a : Nat) : Bool := (rMsix 0 0 ≤ a && a < rMsix 72 0) || (rPba 0 ≤ a && a < rPba 4)

/-- HOST (R355, R378, R388, R389). -/
def State.hostRegWrite (s : State) (m : Master) (a : Nat) (v : Word) : State :=
  if isMsix a then
    if m = .host then (s.plainWrite m a v).msixFlush else s.regRefuse m a
  else if a = rWinBase then s.setReg a (if 0x20000000 < (v &&& 0xFFF00000).toNat then 0x20000000 else v &&& 0xFFF00000)
  else if a = rSubsysId then s.woWrite m a v (fun s => s.setReg a v)
  else if a = rSmsg then s.smsg m v
  else if a = rSentTail then (s.plainWrite m a v).sendAll
  else if a = rSdone then s.sdone m v
  else if rQueue 0 0 ≤ a && a < rQueue 132 0 then s.queueWrite m a v
  else s.plainWrite m a v

/-- VATC (R105, R108, R118, R121). -/
def State.vatcWrite (s : State) (m : Master) (a : Nat) (v : Word) : State :=
  if a = rCacheCfg then s.cacheSizeWrite m (fld v 0 2)
  else if a = rCacheCtrl then
    let s := if bit v 0 then s.cacheClean m else s
    if bit v 1 then s.cacheInval m else s
  else if a = rRepairCtrl then (s.plainWrite m a v).zeroIsOne a 8 8
  else s.plainWrite m a v

/-- The watchdog periods of the watched stewards restart (R611). -/
def State.wdogRestart (s : State) : State :=
  { s with milk := { s.milk with kick := Vector.ofFn (fun (k : Fin 4) =>
      if bit (s.reg rWdogCfg) (16 + k.val) then s.bells.mtime.toNat else s.milk.kick[k]) } }

/-- WRITE_ONCE_LOG: VALID is W1C, and where a violation of this ck found it set, a clear leaves the log with that
violation (R613). -/
def State.woLogWrite (s : State) (m : Master) (v : Word) : State :=
  let t := s.plainWrite m rWoLog v
  match s.now.woLate with
  | some (a, w, code) =>
    if bit (s.reg rWoLog) 8 && !bit (t.reg rWoLog) 8 then (t.woCapture a w code).noteSet rWoLog 0x100 else t
  | none => t

/-- ERR (R497, R501, R610–R614). -/
def State.errWrite (s : State) (m : Master) (a : Nat) (v : Word) : State :=
  if a = 0x30090008 then (if bit v 0 then s.recPop m else s)
  else if a = 0x300900A4 then (if bit v 0 then s.candPop m else s)
  else if a = 0x30090060 || a = 0x30090064 then s.ssubSet m ((a - 0x30090060) / 4) v
  else if a = 0x30090068 || a = 0x3009006C then s.ssubClr m ((a - 0x30090068) / 4) v
  else if rTrec 0 ≤ a && a ≤ rSsub 1 then s.regRefuse m a
  else if a = rLimits then s.lockWrite m a rErrLock v
  else if a = rWdogCfg then
    if bit (s.reg rErrLock) 0 then s.lockWrite m a rErrLock v else (s.lockWrite m a rErrLock v).wdogRestart
  else if 0x30090080 ≤ a && a < 0x30090090 then s.wdogKick m (Fin.ofNat 4 ((a - 0x30090080) / 4))
  else if a = rErrLock then s.lockBit m a v
  else if a = rWoLog then s.woLogWrite m v
  else s.plainWrite m a v

/-- SCTRL k: HALT, RESUME and STEP in this order where several are written (DESIGN CHOICE, notes/assumptions/72.md). -/
def State.sctrlWrite (s : State) (m : Master) (k : Fin 4) (v : Word) : State :=
  s.sctrlGate m k (bit v 3) (fun z =>
    let z := if bit v 0 then haltCore z else z
    let z := if bit v 1 then resumeCore z else z
    if bit v 2 then stepCore z else z)

/-- A write that a scope of DBG.AUTH must admit. -/
def State.scoped (s : State) (m : Master) (a b : Nat) (v : Word) : State := s.scopeGate m a b (fun s => s.plainWrite m a v)

/-- DBG (R591, R596, R602, R603). -/
def State.dbgWrite (s : State) (m : Master) (a : Nat) (v : Word) : State :=
  if a = rDbgCtrl then s.scoped m a 0 v
  else if a = rDbgStop then (if bit v 0 then s.dbgStop m else s.scopeGate m a 0 (fun s => s))
  else if a = rDbgResume then (if bit v 0 then s.dbgResume m else s.scopeGate m a 0 (fun s => s))
  else if a = rDbgStep then s.dbgStep m (fld v 0 16)
  else if a = rAuthCtrl then (if bit v 0 then s.authRevoke m else s)
  else if a = rPermaDisable then s.permaDisable m v
  else if rSctrl 0 ≤ a && a < rSctrl 4 then
    if a % 0x40 = 0 then s.sctrlWrite m (Fin.ofNat 4 ((a - rSctrl 0) / 0x40)) v
    else if a % 0x40 < 0x10 then s else s.scoped m a 3 v
  else if a = rTrCtrl then s.traceEnable m v
  else if a = rTrBase || a = rTrSize then
    s.scopeGate m a 2 (fun s => s.unless m a (bit (s.reg rTrCtrl) 0) (fun s => s.plainWrite m a v))
  else if a = rTrTail || a = rTrNotify then s.scoped m a 2 v
  else s.plainWrite m a v

/-- FLASH (R543, R544). An ABORT written here stops the copy before its next unit. -/
def State.flashWrite (s : State) (m : Master) (a : Nat) (v : Word) : State :=
  if a = rFlashReq then s.flashReq m v
  else if a = rCpCtrl then
    (if bit v 3 then s.flashAbort m 0 else if bit v 0 then s.flashCopy m v
      else if s.copyBusy then s else s.setReg a (v &&& 6))
  else if a = rErCtrl then
    (if bit v 0 then s.eraseGo m v else if s.eraseBusy then s else s.setReg a (v &&& 2))
  else s.plainWrite m a v

/-- MREQ: a write with GO is a request; one without stores its code (R576). -/
def State.mreqWrite (s : State) (m : Master) (v : Word) : State :=
  if !bit v 8 then (if bit (s.reg rMreq) 8 then s else s.setReg rMreq (v &&& 0xFF))
  else
    match fld v 0 8 with
    | 1 => s.fabricSleep m
    | 2 => s.fabricWake m
    | 3 => s.mreqRecovery m
    | n => s.mreqGate m n (fun s => s.mresp 1)

/-- MHC (R455–R458, R575–R578). -/
def State.mhcWrite (s : State) (m : Master) (a : Nat) (v : Word) : State :=
  if a = rMreq then s.mreqWrite m v
  else if a = rMEoi then (if s.pdOn 7 then s.bellEoi m 4 (fld v 0 9) else s)
  else if a = rSb2hCtrl then (if bit v 9 then s.sb2hAck m else s)
  else if rH2sbData 0 ≤ a && a ≤ rH2sbData 15 then s.h2sbGate m a (fun s => s.plainWrite m a v)
  else if a = rH2sbCtrl then
    if bit v 8 then s.h2sbSend m v else s.h2sbGate m a (fun s => s.modReg a (fun w => setFld w 0 7 (fld v 0 7)))
  else s.plainWrite m a v

/-- TILE_CFG (R154): while the tile runs frame threads only the plan loader writes it, for the tick; otherwise any master
does, for the next ck (State.cfgNext). -/
def State.tileCfgWrite (s : State) (m : Master) (t : TileId) (v : Word) : State :=
  let a := rTile t.val oTileCfg
  s.unless m a ((s.tile t).frameRun && m ≠ .swap) (fun s => s.plainWrite m a v)

/-- HALT_CTRL (R178–R180). -/
def State.haltWrite (s : State) (m : Master) (t : TileId) (v : Word) : State :=
  if bit v 0 then (if bit v 1 then s.tileForcedHalt m t else s.tileHalt m t) else s.haltRelease m t

/-- THREAD_CTRL: START and STOP bits; where both are written, the thread stops. -/
def State.threadCtrlWrite (s : State) (m : Master) (t : TileId) (v : Word) : State :=
  allThreads.foldl (fun s th =>
    if bit v (8 + th.val) then s.threadStop m t th
    else if bit v th.val then s.threadStart m t th else s) s

/-- Offsets that only the plan loader writes while the tile runs frame threads (R99, R101, R144, R290). -/
def loaderTileReg (o : Nat) : Bool :=
  (oCcCfg 0 ≤ o && o ≤ oCcCfg 15) || (oCwCfg 0 ≤ o && o ≤ oCcPre 15) || (oSubst 0 ≤ o && o ≤ oSrSeed) ||
    o == oLsyncFrame || o == oLsyncTickzero

/-- TILE t. -/
def State.tileWrite (s : State) (m : Master) (t : TileId) (a : Nat) (v : Word) : State :=
  let o := a % 0x1000
  if o = oTileCfg then s.tileCfgWrite m t v
  else if o = oHaltCtrl then s.haltWrite m t v
  else if o = oThreadCtrl then s.threadCtrlWrite m t v
  else if o = 0x0084 then (if bit v 0 then s.faultClear m t else s)
  else if o = oIbufCtrl then (if bit v 0 then s.ibufStart m t else s)
  else if oLsync 0 ≤ o && o ≤ oLsync 31 then s.lsyncWrite m t ((o - oLsync 0) / 4) v
  else if loaderTileReg o then
    s.unless m a ((s.tile t).frameRun && m ≠ .swap) (fun s => s.plainWrite m a (if o = oSubst 0xE then substE v else v))
  else if o = oTrCfg || o = oTrObj then s.scoped m a 2 v
  else s.plainWrite m a v

/-! ### A write of a register -/

/-- What the write of a register does in a block that takes it; nothing at an unassigned offset (R13). -/
def State.regEffect (s : State) (m : Master) (a : Nat) (v : Word) : State :=
  if (regRow a).isNone then s.unnote (masterCode m) a
  else if isTileReg a then s.tileWrite m (tid ((a - 0x30100000) / 0x1000)) a v
  else
    match blockOf a with
    | 0 => s.topWrite m a v
    | 1 => s.tickWrite m a v
    | 2 => s.scanWrite m a v
    | 3 => s.bellWrite m a v
    | 4 => s.leaveWrite m a v
    | 5 => s.syncWrite m a v
    | 6 => s.ladleWrite m a v
    | 7 => s.hostRegWrite m a v
    | 8 => s.vatcWrite m a v
    | 9 => s.errWrite m a v
    | 10 => s.dbgWrite m a v
    | 11 => s.flashWrite m a v
    | _ => s.mhcWrite m a v

/-- A 32-bit aligned write of a register. -/
def State.regWrite (s : State) (m : Master) (a : Nat) (v : Word) : State := s.regGate m a (fun s => s.regEffect m a v)

/-- A register write of n bytes at a: one of another width or alignment is discarded and reported (R8); the MSI-X table
also takes aligned writes of two DW from the host (R354). The width and the alignment are looked at before the offset, so
that such a write at an unassigned offset is a register access fault (DESIGN CHOICE, notes/assumptions/87.md: R8 reports
it, R13 says no fault). -/
def State.regStore (s : State) (m : Master) (a n : Nat) (v : Dword) : State :=
  if m = .host && isMsix a && n = 8 && a % 8 = 0 then
    (s.regWrite m a (v.setWidth 32)).regWrite m (a + 4) ((v >>> 32).setWidth 32)
  else if n ≠ 4 || a % 4 ≠ 0 then s.regGate m a (fun s => s.regRefuse m a)
  else s.regWrite m a (v.setWidth 32)

/-- A register write of n bytes at a: the host's goes through BAR0, which the host must have enabled. An address in an
unassigned range is handled as R69 says; at a memory address lies no register. -/
def State.registerWrite (s : State) (m : Master) (a n : Nat) (v : Dword) : State :=
  if m = .host && !s.barOpen then s.unsupported true
  else if isRegAddr a then s.regStore m a n v
  else if isPail a || isVat a || isSram a || !s.reaches m then s
  else (s.noAddress m a).refuseWrite m a

/-- What a read of n bytes at a returns: the containing word, masked to the bytes asked for (R8). -/
def State.regLoad (s : State) (m : Master) (a n : Nat) : State × List Byte :=
  let r := s.regRead m (a / 4 * 4)
  (r.1, (List.range n).map (fun i => if a % 4 + i < 4 then byteOf (r.2.toNat / 2 ^ (8 * (a % 4 + i))) else 0))

/-- A host read of more than one DW at a (R354): the MSI-X table and PBA give an aligned pair of DW; any other gives zeros
and is reported as a register access fault, where the block has power (R606). -/
def State.wideLoad (s : State) (a n : Nat) : State × List Byte :=
  if isMsix a && n = 8 && a % 8 = 0 then
    let r := s.regLoad .host a 4
    let q := r.1.regLoad .host (a + 4) 4
    (q.1, r.2 ++ q.2)
  else (if s.regOn a then s.regFault .host a else s, List.replicate n 0)

/-- A register read of n bytes at a by a master, answered (R8, R13, R69, R354). An address in an unassigned range is handled
as R69 says. -/
def State.registerRead (s : State) (m : Master) (a n : Nat) : State :=
  if m = .host && !s.barOpen then s.unsupported false
  else if !s.reaches m || isPail a || isVat a || isSram a then s
  else if isRegAddr a then
    let r := if m = .host && 4 < a % 4 + n then s.wideLoad a n else s.regLoad m a n
    r.1.answerRead m 0 false a r.2 false
  else (s.noAddress m a).answerRead m 0 false a (List.replicate n 0) (m ≠ .host)

/-- REGISTER_WRITE: a write, or a read. -/
def State.registerAccess (s : State) (m : Master) (a n : Nat) (w : Option Dword) : State :=
  match w with
  | some v => s.registerWrite m a n v
  | none => s.registerRead m a n

/-! ### STEWARD_MEMORY_ACCESS (R69, R89, R432–R435) -/

/-- What an atomic operation stores, from the value read and the operand, both of n bytes. -/
def amoValue (op : AmoOp) (n : Nat) (old v : Nat) : Nat :=
  let sg (x : Nat) : Int := intOfBits (8 * n) true x
  match op with
  | .swap => v
  | .add => (old + v) % 2 ^ (8 * n)
  | .xor => old ^^^ v
  | .and => old &&& v
  | .or => old ||| v
  | .min => if sg old ≤ sg v then old else v
  | .max => if sg old ≤ sg v then v else old
  | .minu => min old v
  | .maxu => max old v

/-- An access is an instruction fetch, a read only, or may write. -/
def stewFetch (k : StewKind) : Bool := match k with | .fetch => true | _ => false
def stewReads (k : StewKind) : Bool := match k with | .load _ => true | .lr => true | _ => false
def stewAtomic (k : StewKind) : Bool := match k with | .lr => true | .sc => true | .amo _ => true | _ => false

/-- Exception causes of an access: misaligned, and access fault. -/
def stewMisaligned (k : StewKind) : Nat := if stewFetch k then 0 else if stewReads k then 4 else 6
def stewFault (k : StewKind) : Nat := if stewFetch k then 1 else if stewReads k then 5 else 7

/-- Memory protection admits the access; an atomic operation needs both permissions. -/
def Steward.admits (z : Steward) (k : StewKind) (a n : Nat) : Bool :=
  match k with
  | .fetch => z.pmpOk z.user .exec a n
  | .load _ => z.pmpOk z.user .read a n
  | .lr => z.pmpOk z.user .read a n
  | .store => z.pmpOk z.user .write a n
  | .sc => z.pmpOk z.user .write a n
  | .amo _ => z.pmpOk z.user .read a n && z.pmpOk z.user .write a n

/-- The breakpoint that the access matches. -/
def State.stewBp (s : State) (k : Fin 4) (kind : StewKind) (a : Nat) : Option Nat :=
  if stewFetch kind then s.bpHit k.val .exec a
  else if stewReads kind then s.bpHit k.val .read a
  else
    match kind with
    | .amo _ => (s.bpHit k.val .read a).or (s.bpHit k.val .write a)
    | _ => s.bpHit k.val .write a

/-- A load's value into x[rd], and out to the core. -/
def State.stewLoad (s : State) (k : Fin 4) (rd : Nat) (sgn : Bool) (a : Nat) (bs : List Byte) : State :=
  s.answerRead (.steward k) rd sgn a bs false

/-- The access in steward SRAM, made at once. -/
def State.sramAccess (s : State) (k : Fin 4) (kind : StewKind) (a n rd : Nat) (v : Dword) : State :=
  let bs := bytesOfNat n v.toNat
  let r := s.readMem 0 a n
  let bad := r.2.2.any id
  match kind with
  | .fetch => if bad then r.1.coreTrap k 1 a else r.1.emit (.answer (.steward k) r.2.1 false)
  | .load sgn => if bad then r.1.coreTrap k 5 a else r.1.stewLoad k rd sgn a r.2.1
  | .lr =>
    if bad then r.1.coreTrap k 5 a
    else (r.1.stewLoad k rd true a r.2.1).modCore k (fun z => { z with lr := some (a / 64) })
  | .store => (s.sramWrite (some k) a bs).modCore k Steward.retired
  | .sc =>
    let ok := (s.core k).lr == some (a / 64)
    let s := if ok then s.sramWrite (some k) a bs else s
    s.modCore k (fun z => { (z.wx rd (if ok then 0 else 1)).retired with lr := none })
  | .amo op =>
    if bad then r.1.coreTrap k 7 a
    else
      let new := amoValue op n (natOfBytes r.2.1) (natOfBytes bs)
      (r.1.sramWrite (some k) a (bytesOfNat n new)).stewLoad k rd true a r.2.1

/-- The access in Pail or Vat: through the slice 7 cache, or by narrow accesses. -/
def State.vatAccess (s : State) (k : Fin 4) (kind : StewKind) (a n rd : Nat) (v : Dword) : State :=
  let bs := bytesOfNat n v.toNat
  match kind with
  | .store =>
    let s := s.modCore k Steward.retired
    if s.cached a then s.cacheAsk { core := k, addr := a, len := n, wr := some bs, rd := 0, sgn := false, kx := false }
    else s.masterWrite (.steward k) a bs
  | .load sgn =>
    if s.cached a then s.cacheAsk { core := k, addr := a, len := n, wr := none, rd := rd, sgn := sgn, kx := false }
    else s.masterRead (.steward k) a n rd sgn
  | .fetch =>
    if s.cached a then
      s.cacheAsk { core := k, addr := a, len := n, wr := none, rd := 0, sgn := false, kx := false, fetch := true }
    else s.masterRead (.steward k) a n 0 false true
  | _ => s.coreTrap k 7 a

/-- The access at a register block: 32-bit accesses by promise E's order; no atomics. -/
def State.regAccess (s : State) (k : Fin 4) (kind : StewKind) (a n rd : Nat) (v : Dword) : State :=
  match kind with
  | .store => (s.regStore (.steward k) a n v).modCore k Steward.retired
  | .load sgn => let r := s.regLoad (.steward k) a n; r.1.stewLoad k rd sgn a r.2
  | .fetch => let r := s.regLoad (.steward k) a n; r.1.emit (.answer (.steward k) r.2 false)
  | _ => s.coreTrap k 7 a

/-- STEWARD_MEMORY_ACCESS: a load, store, fetch, LR, SC or atomic of n bytes at a by core k. A fetch moves the pc to its
address (notes/assumptions/40.md). -/
def State.stewAccess (s : State) (k : Fin 4) (kind : StewKind) (a n rd : Nat) (v : Dword) : State :=
  if !s.coreRuns k then s
  else
    let s := if stewFetch kind then s.modCore k (fun z => { z with pc := BitVec.ofNat 64 a }) else s.modCore k Steward.stepped
    match s.stewBp k kind a with
    | some i => s.bpTaken k i
    | none =>
      let z := s.core k
      let align := if stewFetch kind then 2 else n
      if !z.admits kind a n then s.coreTrap k (stewFault kind) a
      else if isRegAddr a then s.regAccess k kind a n rd v
      else if a % align ≠ 0 then s.coreTrap k (stewMisaligned kind) a
      else if !s.memThere a || !s.memThere (a + n - 1) then s.coreTrap k (stewFault kind) a
      else if isSram a then s.sramAccess k kind a n rd v
      else s.vatAccess k kind a n rd v

/-! ### DBGACC (R584, R69) -/

/-- The read of a debug access of 4 bytes. At a register it returns the whole word that holds the address (DESIGN CHOICE,
notes/assumptions/86.md: R8 speaks of reads of another width only, and R584 gives DBGACC no alignment rule). -/
def State.debugRead (s : State) (a : Nat) : State :=
  if isRegAddr a then
    let r := s.regRead .debug (a / 4 * 4)
    (r.1.debugDone r.2 false).emit (.answer .debug (leBytes 4 r.2.toNat) false)
  else if isSram a && s.memThere a then
    let r := s.readMem 0 a 4
    r.1.answerRead .debug 0 false a r.2.1 (r.2.2.any id)
  else s.masterRead .debug a 4 0 false

/-- The write of a debug access of 4 bytes. -/
def State.debugWrite (s : State) (a : Nat) (v : Word) : State :=
  let bs := leBytes 4 v.toNat
  if isRegAddr a then (s.regStore .debug a 4 (v.setWidth 64)).debugDone 0 false
  else if isSram a && s.memThere a then (s.sramWrite none a bs).debugDone 0 false
  else s.masterWrite .debug a bs

/-- DBGACC: one 32-bit access as the debug port; without scope MEMORY it acts as BYPASS. -/
def State.dbgAcc (s : State) (a : Nat) (v : Word) (wr : Bool) : State :=
  s.tap (fun s =>
    if s.dbgDisabled || !s.milk.scope.testBit 4 then s.setIr 0xFF
    else
      let s := s.setIr 0x12
      if wr then s.debugWrite a v else s.debugRead a)

/-! ### The commands -/

def execRegisterWrite (m : Master) (addr : BitVec 32) (size : Nat) (data : Option (BitVec 64)) (s : State) :
    Host.Outcome State Fault Refusal :=
  .next (s.registerAccess m addr.toNat size data)
def execStewardMemoryAccess (k : Fin 4) (kind : StewKind) (addr : BitVec 64) (size : Fin 4) (rd : Fin 32) (data : BitVec 64)
    (s : State) : Host.Outcome State Fault Refusal :=
  .next (s.stewAccess k kind addr.toNat (2 ^ size.val) rd.val data)
def execDbgacc (addr data : BitVec 32) (wr : Bool) (s : State) : Host.Outcome State Fault Refusal :=
  .next (s.dbgAcc addr.toNat data wr)

end Sys2Proof.Machine
end

