-- ==== Sys2Proof/Machine/Dispatch.lean ====
section
/-!
DEFINITION. The dispatch: one arm for each command, one direct call of its meaning.
-/

namespace Sys2Proof.Machine

/-- The effect of a command on everything but the queue. -/
def exec (i : Instr) (s : State) : Host.Outcome State Fault Refusal :=
  match i with
  | .tick => Sys2Proof.Machine.execTick s
  | .blankingLineSample => Sys2Proof.Machine.execBlankingLineSample s
  | .budgetCheck => Sys2Proof.Machine.execBudgetCheck s
  | .leaveWindowAdvance => Sys2Proof.Machine.execLeaveWindowAdvance s
  | .ndetClear m => Sys2Proof.Machine.execNdetClear m s
  | .ndetLoRead m k => Sys2Proof.Machine.execNdetLoRead m k s
  | .registerWrite m addr size data => Sys2Proof.Machine.execRegisterWrite m addr size data s
  | .bundleIssue t th => Sys2Proof.Machine.execBundleIssue t th s
  | .nop t th slot w => Sys2Proof.Machine.execNop t th slot w s
  | .mm t th w => Sys2Proof.Machine.execMm t th w s
  | .conv t th w => Sys2Proof.Machine.execConv t th w s
  | .dw t th w => Sys2Proof.Machine.execDw t th w s
  | .macroOpStart t => Sys2Proof.Machine.execMacroOpStart t s
  | .macroOpEnd t => Sys2Proof.Machine.execMacroOpEnd t s
  | .accRd t th w => Sys2Proof.Machine.execAccRd t th w s
  | .accWr t th w => Sys2Proof.Machine.execAccWr t th w s
  | .accClr t th w => Sys2Proof.Machine.execAccClr t th w s
  | .vadd t th w => Sys2Proof.Machine.execVadd t th w s
  | .vsub t th w => Sys2Proof.Machine.execVsub t th w s
  | .vmul t th w => Sys2Proof.Machine.execVmul t th w s
  | .vmulh t th w => Sys2Proof.Machine.execVmulh t th w s
  | .vfma t th w => Sys2Proof.Machine.execVfma t th w s
  | .vmin t th w => Sys2Proof.Machine.execVmin t th w s
  | .vmax t th w => Sys2Proof.Machine.execVmax t th w s
  | .vand t th w => Sys2Proof.Machine.execVand t th w s
  | .vor t th w => Sys2Proof.Machine.execVor t th w s
  | .vxor t th w => Sys2Proof.Machine.execVxor t th w s
  | .vshl t th w => Sys2Proof.Machine.execVshl t th w s
  | .vshr t th w => Sys2Proof.Machine.execVshr t th w s
  | .vcmp t th w => Sys2Proof.Machine.execVcmp t th w s
  | .vsel t th w => Sys2Proof.Machine.execVsel t th w s
  | .vbcast t th w => Sys2Proof.Machine.execVbcast t th w s
  | .vabs t th w => Sys2Proof.Machine.execVabs t th w s
  | .vneg t th w => Sys2Proof.Machine.execVneg t th w s
  | .vrsum t th w => Sys2Proof.Machine.execVrsum t th w s
  | .vrmax t th w => Sys2Proof.Machine.execVrmax t th w s
  | .vrmin t th w => Sys2Proof.Machine.execVrmin t th w s
  | .vrargmax t th w => Sys2Proof.Machine.execVrargmax t th w s
  | .vlut t th w => Sys2Proof.Machine.execVlut t th w s
  | .lutLoad t th w => Sys2Proof.Machine.execLutLoad t th w s
  | .lutLoadComplete t => Sys2Proof.Machine.execLutLoadComplete t s
  | .vqnt t th w => Sys2Proof.Machine.execVqnt t th w s
  | .vcvt t th sub w => Sys2Proof.Machine.execVcvt t th sub w s
  | .ld t th w => Sys2Proof.Machine.execLd t th w s
  | .st t th w => Sys2Proof.Machine.execSt t th w s
  | .sld t th w => Sys2Proof.Machine.execSld t th w s
  | .rwr t th w => Sys2Proof.Machine.execRwr t th w s
  | .gather t th w => Sys2Proof.Machine.execGather t th w s
  | .ldb t th w => Sys2Proof.Machine.execLdb t th w s
  | .stb t th w => Sys2Proof.Machine.execStb t th w s
  | .smov t th w => Sys2Proof.Machine.execSmov t th w s
  | .smovx t th w => Sys2Proof.Machine.execSmovx t th w s
  | .moveStep t lane => Sys2Proof.Machine.execMoveStep t lane s
  | .moveEnd t lane => Sys2Proof.Machine.execMoveEnd t lane s
  | .endMark t th w => Sys2Proof.Machine.execEndMark t th w s
  | .br t th w => Sys2Proof.Machine.execBr t th w s
  | .loopOp t th w => Sys2Proof.Machine.execLoopOp t th w s
  | .rdc t th w => Sys2Proof.Machine.execRdc t th w s
  | .hold t th w => Sys2Proof.Machine.execHold t th w s
  | .sig t th w => Sys2Proof.Machine.execSig t th w s
  | .wait t th w => Sys2Proof.Machine.execWait t th w s
  | .waitComplete t th => Sys2Proof.Machine.execWaitComplete t th s
  | .slip t th => Sys2Proof.Machine.execSlip t th s
  | .arm t th w => Sys2Proof.Machine.execArm t th w s
  | .lchk t th w => Sys2Proof.Machine.execLchk t th w s
  | .creditGrant t th w => Sys2Proof.Machine.execCreditGrant t th w s
  | .hswap t th w => Sys2Proof.Machine.execHswap t th w s
  | .sadd t th w => Sys2Proof.Machine.execSadd t th w s
  | .ssub t th w => Sys2Proof.Machine.execSsub t th w s
  | .sand t th w => Sys2Proof.Machine.execSand t th w s
  | .sor t th w => Sys2Proof.Machine.execSor t th w s
  | .sxor t th w => Sys2Proof.Machine.execSxor t th w s
  | .sshl t th w => Sys2Proof.Machine.execSshl t th w s
  | .sshr t th w => Sys2Proof.Machine.execSshr t th w s
  | .smul t th w => Sys2Proof.Machine.execSmul t th w s
  | .sli t th w => Sys2Proof.Machine.execSli t th w s
  | .slui t th w => Sys2Proof.Machine.execSlui t th w s
  | .scmp t th w => Sys2Proof.Machine.execScmp t th w s
  | .plog t th w => Sys2Proof.Machine.execPlog t th w s
  | .meshAsyncForward r out lane => Sys2Proof.Machine.execMeshAsyncForward r out lane s
  | .vatReadRequest n => Sys2Proof.Machine.execVatReadRequest n s
  | .vatReadData => Sys2Proof.Machine.execVatReadData s
  | .vatWriteFlit n => Sys2Proof.Machine.execVatWriteFlit n s
  | .narrowAccessPerform p => Sys2Proof.Machine.execNarrowAccessPerform p s
  | .asyncPailAccess t th => Sys2Proof.Machine.execAsyncPailAccess t th s
  | .cacheAccess k => Sys2Proof.Machine.execCacheAccess k s
  | .remoteWriteArrival t => Sys2Proof.Machine.execRemoteWriteArrival t s
  | .creditGrantArrival t => Sys2Proof.Machine.execCreditGrantArrival t s
  | .syncUpdateArrival => Sys2Proof.Machine.execSyncUpdateArrival s
  | .syncAck t th => Sys2Proof.Machine.execSyncAck t th s
  | .watchWordArrival => Sys2Proof.Machine.execWatchWordArrival s
  | .releaseInject half t th => Sys2Proof.Machine.execReleaseInject half t th s
  | .watchLapse half t th => Sys2Proof.Machine.execWatchLapse half t th s
  | .releaseArrival t => Sys2Proof.Machine.execReleaseArrival t s
  | .pace m v => Sys2Proof.Machine.execPace m v s
  | .syncCountWrite m n v => Sys2Proof.Machine.execSyncCountWrite m n v s
  | .syncAddWrite m n v => Sys2Proof.Machine.execSyncAddWrite m n v s
  | .lsyncWrite m t k v => Sys2Proof.Machine.execLsyncWrite m t k v s
  | .watchCfgWrite m w target v => Sys2Proof.Machine.execWatchCfgWrite m w target v s
  | .eccInjectArm m mem double => Sys2Proof.Machine.execEccInjectArm m mem double s
  | .cacheSizeWrite m size => Sys2Proof.Machine.execCacheSizeWrite m size s
  | .cacheDrainComplete => Sys2Proof.Machine.execCacheDrainComplete s
  | .cacheClean m => Sys2Proof.Machine.execCacheClean m s
  | .cacheInval m => Sys2Proof.Machine.execCacheInval m s
  | .cacheCtrlComplete => Sys2Proof.Machine.execCacheCtrlComplete s
  | .threadStart m t th => Sys2Proof.Machine.execThreadStart m t th s
  | .threadStop m t th => Sys2Proof.Machine.execThreadStop m t th s
  | .tileHalt m t => Sys2Proof.Machine.execTileHalt m t s
  | .tileForcedHalt m t => Sys2Proof.Machine.execTileForcedHalt m t s
  | .tileHaltRelease m t => Sys2Proof.Machine.execTileHaltRelease m t s
  | .tileHaltComplete t => Sys2Proof.Machine.execTileHaltComplete t s
  | .faultClr m t => Sys2Proof.Machine.execFaultClr m t s
  | .ibufLoad m t => Sys2Proof.Machine.execIbufLoad m t s
  | .ibufLoadComplete t => Sys2Proof.Machine.execIbufLoadComplete t s
  | .tileRecovery t => Sys2Proof.Machine.execTileRecovery t s
  | .tileRecoveryComplete t => Sys2Proof.Machine.execTileRecoveryComplete t s
  | .bandIssue l b => Sys2Proof.Machine.execBandIssue l b s
  | .hostReadIssue l copy => Sys2Proof.Machine.execHostReadIssue l copy s
  | .hostReadCompletion tag ok data => Sys2Proof.Machine.execHostReadCompletion tag ok data s
  | .hostReadTimeout tag => Sys2Proof.Machine.execHostReadTimeout tag s
  | .landingWriteSlot l => Sys2Proof.Machine.execLandingWriteSlot l s
  | .bandCommit l => Sys2Proof.Machine.execBandCommit l s
  | .writeoutReadSlot l => Sys2Proof.Machine.execWriteoutReadSlot l s
  | .hostWriteIssue l copy => Sys2Proof.Machine.execHostWriteIssue l copy s
  | .degradeNote => Sys2Proof.Machine.execDegradeNote s
  | .lateNote => Sys2Proof.Machine.execLateNote s
  | .fenceWord t => Sys2Proof.Machine.execFenceWord t s
  | .fenceAck => Sys2Proof.Machine.execFenceAck s
  | .completionPost q => Sys2Proof.Machine.execCompletionPost q s
  | .copyGrant l => Sys2Proof.Machine.execCopyGrant l s
  | .copyComplete l => Sys2Proof.Machine.execCopyComplete l s
  | .sringTail m k v => Sys2Proof.Machine.execSringTail m k v s
  | .leaveGrant => Sys2Proof.Machine.execLeaveGrant s
  | .kxPlango k rd rs1 rs2 => Sys2Proof.Machine.execKxPlango k rd rs1 rs2 s
  | .swapEngineStart => Sys2Proof.Machine.execSwapEngineStart s
  | .swapEngineComplete => Sys2Proof.Machine.execSwapEngineComplete s
  | .relockComplete => Sys2Proof.Machine.execRelockComplete s
  | .configurationRequest wr dw be v => Sys2Proof.Machine.execConfigurationRequest wr dw be v s
  | .bar2Access off n wr => Sys2Proof.Machine.execBar2Access off n wr s
  | .sqTailDoorbell q dw v => Sys2Proof.Machine.execSqTailDoorbell q dw v s
  | .cqHeadDoorbell q dw v => Sys2Proof.Machine.execCqHeadDoorbell q dw v s
  | .hostMessageDoorbell r dw v => Sys2Proof.Machine.execHostMessageDoorbell r dw v s
  | .entryFetch q raws => Sys2Proof.Machine.execEntryFetch q raws s
  | .entryNop q => Sys2Proof.Machine.execEntryNop q s
  | .picture q => Sys2Proof.Machine.execPicture q s
  | .copy q => Sys2Proof.Machine.execCopy q s
  | .planLoadAndArm fw data => Sys2Proof.Machine.execPlanLoadAndArm fw data s
  | .planArm fw => Sys2Proof.Machine.execPlanArm fw s
  | .planStop => Sys2Proof.Machine.execPlanStop s
  | .identify page => Sys2Proof.Machine.execIdentify page s
  | .faultLog => Sys2Proof.Machine.execFaultLog s
  | .timingSet data => Sys2Proof.Machine.execTimingSet data s
  | .skimLayout data => Sys2Proof.Machine.execSkimLayout data s
  | .completionWrite q => Sys2Proof.Machine.execCompletionWrite q s
  | .sdone m v => Sys2Proof.Machine.execSdone m v s
  | .hostSmsg m v => Sys2Proof.Machine.execHostSmsg m v s
  | .queueEnable m q v => Sys2Proof.Machine.execQueueEnable m q v s
  | .queueDisable m q v => Sys2Proof.Machine.execQueueDisable m q v s
  | .flr => Sys2Proof.Machine.execFlr s
  | .flrComplete => Sys2Proof.Machine.execFlrComplete s
  | .perst => Sys2Proof.Machine.execPerst s
  | .linkStateChange up width rate => Sys2Proof.Machine.execLinkStateChange up width rate s
  | .busMasterEnable on => Sys2Proof.Machine.execBusMasterEnable on s
  | .powerStateChange d3 => Sys2Proof.Machine.execPowerStateChange d3 s
  | .tsCommit m => Sys2Proof.Machine.execTsCommit m s
  | .outMode m v => Sys2Proof.Machine.execOutMode m v s
  | .teEdge => Sys2Proof.Machine.execTeEdge s
  | .lineFetch o layer => Sys2Proof.Machine.execLineFetch o layer s
  | .scanLine => Sys2Proof.Machine.execScanLine s
  | .dpTrain m o => Sys2Proof.Machine.execDpTrain m o s
  | .dpTrainComplete o ok rate lanes tps4 async => Sys2Proof.Machine.execDpTrainComplete o ok rate lanes tps4 async s
  | .auxCmd m o v => Sys2Proof.Machine.execAuxCmd m o v s
  | .auxDone o outcome data => Sys2Proof.Machine.execAuxDone o outcome data s
  | .hpdEvent o kind => Sys2Proof.Machine.execHpdEvent o kind s
  | .kxCopy k rd rs1 rs2 => Sys2Proof.Machine.execKxCopy k rd rs1 rs2 s
  | .kxFill k rd rs1 rs2 => Sys2Proof.Machine.execKxFill k rd rs1 rs2 s
  | .kxCrc32c k rd rs1 rs2 => Sys2Proof.Machine.execKxCrc32c k rd rs1 rs2 s
  | .kxHset k rd rs1 rs2 => Sys2Proof.Machine.execKxHset k rd rs1 rs2 s
  | .kxHswap k rd rs1 => Sys2Proof.Machine.execKxHswap k rd rs1 s
  | .stewardMemoryAccess k kind addr size rd data => Sys2Proof.Machine.execStewardMemoryAccess k kind addr size rd data s
  | .stewardInterrupt k => Sys2Proof.Machine.execStewardInterrupt k s
  | .bellSourceRequest n => Sys2Proof.Machine.execBellSourceRequest n s
  | .wiredInputChange wire high => Sys2Proof.Machine.execWiredInputChange wire high s
  | .bellClaim m t => Sys2Proof.Machine.execBellClaim m t s
  | .bellEoi m t v => Sys2Proof.Machine.execBellEoi m t v s
  | .holdoffExpiry g => Sys2Proof.Machine.execHoldoffExpiry g s
  | .gdisWrite m v => Sys2Proof.Machine.execGdisWrite m v s
  | .msipWrite m k v => Sys2Proof.Machine.execMsipWrite m k v s
  | .mtimecmpMatch k => Sys2Proof.Machine.execMtimecmpMatch k s
  | .pdCtrlWrite m w v => Sys2Proof.Machine.execPdCtrlWrite m w v s
  | .pdSwitch => Sys2Proof.Machine.execPdSwitch s
  | .pdSwitchComplete => Sys2Proof.Machine.execPdSwitchComplete s
  | .mainSequencing => Sys2Proof.Machine.execMainSequencing s
  | .fabricSleep m => Sys2Proof.Machine.execFabricSleep m s
  | .fabricWake m => Sys2Proof.Machine.execFabricWake m s
  | .mreqDeviceRecovery m => Sys2Proof.Machine.execMreqDeviceRecovery m s
  | .thermalSample valid temps => Sys2Proof.Machine.execThermalSample valid temps s
  | .thermalRelease m => Sys2Proof.Machine.execThermalRelease m s
  | .thermalTrip => Sys2Proof.Machine.execThermalTrip s
  | .pwrThrotChange low => Sys2Proof.Machine.execPwrThrotChange low s
  | .errRecordPost => Sys2Proof.Machine.execErrRecordPost s
  | .recPop m => Sys2Proof.Machine.execRecPop m s
  | .ssubSet m h v => Sys2Proof.Machine.execSsubSet m h v s
  | .ssubClr m h v => Sys2Proof.Machine.execSsubClr m h v s
  | .ssubPublish => Sys2Proof.Machine.execSsubPublish s
  | .candPop m => Sys2Proof.Machine.execCandPop m s
  | .wdogKick m k => Sys2Proof.Machine.execWdogKick m k s
  | .watchdogExpiry k => Sys2Proof.Machine.execWatchdogExpiry k s
  | .pgLoss core mem => Sys2Proof.Machine.execPgLoss core mem s
  | .registerNetworkTimeout => Sys2Proof.Machine.execRegisterNetworkTimeout s
  | .corePllUnlock => Sys2Proof.Machine.execCorePllUnlock s
  | .fabricUncorrectable => Sys2Proof.Machine.execFabricUncorrectable s
  | .deviceRecovery => Sys2Proof.Machine.execDeviceRecovery s
  | .powerOnReset testEn addr => Sys2Proof.Machine.execPowerOnReset testEn addr s
  | .romStart pg => Sys2Proof.Machine.execRomStart pg s
  | .settingsRead found log2 mode jedec => Sys2Proof.Machine.execSettingsRead found log2 mode jedec s
  | .stewardImageAuthenticate => Sys2Proof.Machine.execStewardImageAuthenticate s
  | .flashReq m v => Sys2Proof.Machine.execFlashReq m v s
  | .flashCopy m v => Sys2Proof.Machine.execFlashCopy m v s
  | .flashCopyAbort m units => Sys2Proof.Machine.execFlashCopyAbort m units s
  | .flashCopyComplete units => Sys2Proof.Machine.execFlashCopyComplete units s
  | .flashErGo m v => Sys2Proof.Machine.execFlashErGo m v s
  | .flashOpComplete => Sys2Proof.Machine.execFlashOpComplete s
  | .status f => Sys2Proof.Machine.execStatus f s
  | .temp f => Sys2Proof.Machine.execTemp f s
  | .power f => Sys2Proof.Machine.execPower f s
  | .pulse f => Sys2Proof.Machine.execPulse f s
  | .logRead f pos => Sys2Proof.Machine.execLogRead f pos s
  | .logClear f pos => Sys2Proof.Machine.execLogClear f pos s
  | .resetReq f v => Sys2Proof.Machine.execResetReq f v s
  | .mainPower f v => Sys2Proof.Machine.execMainPower f v s
  | .bootSelect f v => Sys2Proof.Machine.execBootSelect f v s
  | .flashOpen f => Sys2Proof.Machine.execFlashOpen f s
  | .flashRead f off len => Sys2Proof.Machine.execFlashRead f off len s
  | .flashWrite f off data => Sys2Proof.Machine.execFlashWrite f off data s
  | .flashErase f off size => Sys2Proof.Machine.execFlashErase f off size s
  | .flashClose f => Sys2Proof.Machine.execFlashClose f s
  | .flashOwnershipTimeout => Sys2Proof.Machine.execFlashOwnershipTimeout s
  | .dbgChallenge f => Sys2Proof.Machine.execDbgChallenge f s
  | .dbgResponse f scope sig => Sys2Proof.Machine.execDbgResponse f scope sig s
  | .stateScan f first words => Sys2Proof.Machine.execStateScan f first words s
  | .mboxSend f msg => Sys2Proof.Machine.execMboxSend f msg s
  | .mboxRecv f => Sys2Proof.Machine.execMboxRecv f s
  | .doorbell f d v => Sys2Proof.Machine.execDoorbell f d v s
  | .blockReadResponse code => Sys2Proof.Machine.execBlockReadResponse code s
  | .alertResponse => Sys2Proof.Machine.execAlertResponse s
  | .smbusBusTimeout => Sys2Proof.Machine.execSmbusBusTimeout s
  | .h2sbSend m v => Sys2Proof.Machine.execH2sbSend m v s
  | .sb2hAck m => Sys2Proof.Machine.execSb2hAck m s
  | .repairRecordAppend => Sys2Proof.Machine.execRepairRecordAppend s
  | .dbgStop m => Sys2Proof.Machine.execDbgStop m s
  | .dbgStopN => Sys2Proof.Machine.execDbgStopN s
  | .dbgResume m => Sys2Proof.Machine.execDbgResume m s
  | .dbgStep m n => Sys2Proof.Machine.execDbgStep m n s
  | .stepEnd => Sys2Proof.Machine.execStepEnd s
  | .authRevoke m => Sys2Proof.Machine.execAuthRevoke m s
  | .permaDisable m v => Sys2Proof.Machine.execPermaDisable m v s
  | .stewardHalt m k drain => Sys2Proof.Machine.execStewardHalt m k drain s
  | .stewardHalted k => Sys2Proof.Machine.execStewardHalted k s
  | .stewardResume m k drain => Sys2Proof.Machine.execStewardResume m k drain s
  | .stewardStep m k drain => Sys2Proof.Machine.execStewardStep m k drain s
  | .traceEnable m v => Sys2Proof.Machine.execTraceEnable m v s
  | .traceRingWrite => Sys2Proof.Machine.execTraceRingWrite s
  | .tapReset => Sys2Proof.Machine.execTapReset s
  | .extest pads cells => Sys2Proof.Machine.execExtest pads cells s
  | .samplePreload pads cells => Sys2Proof.Machine.execSamplePreload pads cells s
  | .idcode => Sys2Proof.Machine.execIdcode s
  | .bypass bits => Sys2Proof.Machine.execBypass bits s
  | .jtagAuthChallenge => Sys2Proof.Machine.execJtagAuthChallenge s
  | .jtagAuthSubmit bytes => Sys2Proof.Machine.execJtagAuthSubmit bytes s
  | .jtagState first words => Sys2Proof.Machine.execJtagState first words s
  | .dbgacc addr data wr => Sys2Proof.Machine.execDbgacc addr data wr s
  | .unsupportedRequest kind posted => Sys2Proof.Machine.execUnsupportedRequest kind posted s
  | .powerGoodTimeout => Sys2Proof.Machine.execPowerGoodTimeout s
  | .vddAonLoss => Sys2Proof.Machine.execVddAonLoss s
  | .vddioSbChange up => Sys2Proof.Machine.execVddioSbChange up s
  | .aonPllLock => Sys2Proof.Machine.execAonPllLock s
  | .nonceExpiry => Sys2Proof.Machine.execNonceExpiry s

end Sys2Proof.Machine
end

