-- ==== Sys2Proof/Machine/Idle.lean ====
section
/-!
DEFINITION. What a core ck does of itself, whatever is commanded: the end of one ck and the start of the next. The step
of the block with an empty queue is one such ck (DESIGN CHOICE, notes/assumptions/4.md).
-/

namespace Sys2Proof.Machine

/-! ### The end of a ck -/

/-- A substituted entry's latch (R502): set in every ck in which the stream's bit reads 1 while its picture is in
service. -/
def State.latchSubst (s : State) : State :=
  let mark (e : Entry) : Entry := { e with subst := s.substituted e }
  let held (l : List Entry) : List Entry := l.map (fun e => if e.op = 1 && e.taken then mark e else e)
  { s with host := { s.host with
      queues := s.host.queues.map (fun (p : Nat × Queue) => (p.1, { p.2 with held := held p.2.held })) } }

/-- Each request that still waits for leave counts this ck (R42, R481). -/
def State.countLeaveWaits (s : State) : State :=
  let n := ((List.range 80).filter (fun r => (s.leaveReq r).isSome)).length
  if n = 0 then s else s.countNdet 2 n

/-- Grants whose operation has ended are free in the next ck (R480). -/
def State.releaseGrants (s : State) : State :=
  let keep (g : Option LeaveHold) : Option LeaveHold := g.filter (fun g => !g.ended)
  let s := s.mapTiles (fun _ x => { x with grant := keep x.grant })
  { s with ladle := { s.ladle with
      ladles := s.ladle.ladles.map (fun (l : Ladle) => { l with copy := l.copy.map (fun c => { c with grant := keep c.grant }) }) } }

/-- The head of a narrow port whose bank a claim held in this ck has waited (R42, R84). -/
def State.markWaits (s : State) : State :=
  { s with mem := { s.mem with
      ports := s.mem.ports.map (fun (p : Nat × List NarrowReq) =>
        match p.2 with
        | q :: rest => if s.bankClaimed p.1 (bankOf q.addr) then (p.1, { q with waited := true } :: rest) else p
        | [] => p) } }

/-- The pending bits set in this ck are observed from the next (R451). -/
def State.bellPend (s : State) : State :=
  { s with bells := { s.bells with
      pend := s.bells.pend ||| s.bells.fresh
      fresh := 0 } }

/-- TILE_CFG as written in this ck is in force from the next one in a tile that runs no frame threads (R154). -/
def State.cfgNext (s : State) : State :=
  allTiles.foldl (fun s t =>
    let a := rTile t.val oTileCfg
    if s.now.wrote.any (fun p => p.1 == a && p.2.2 != masterCode .swap) && !(s.tile t).frameRun &&
        decide ((s.tile t).cfgNow ≠ s.reg a) then
      s.modTile t (fun x => x.setCfg (s.reg a))
    else s) s

/-- What holds only within one ck: the updates of the synchronisation objects, the banks and ports used, the links and
buffer places used, credit that has arrived, the bits that SSUB_SET has set, and the notes of the ck. -/
def State.endUses (s : State) : State :=
  let s := s.mapTiles (fun _ x => { x with creditNow := [] })
  { s with
    now := .reset
    sync := { s.sync with
      ck := []
      skip := [] }
    mem := { s.mem with
      banksUsed := []
      portsUsed := []
      widesUsed := [] }
    mesh := { s.mesh with
      used := []
      freed := []
      sent := [] }
    err := { s.err with ssubNow := 0 } }

/-- A step counts the ck that has acted; its last one freezes the frame domain from the next ck on (R591). -/
def State.stepCount (s : State) : State :=
  if s.dbg.stopped || s.dbg.stepLeft = 0 then s
  else if s.dbg.stepLeft = 1 then s.stepEnd
  else { s with dbg := { s.dbg with stepLeft := s.dbg.stepLeft - 1 } }

/-- The frame domain is frozen, or restarts, from the next ck on (R586, R591): STOP_FRAME and CAUSE record the stop. -/
def State.stopNext (s : State) : State :=
  let n := s.ck + 1
  let s := match s.dbg.stopAt with
    | some (c, cause) =>
      if c ≤ n && !s.dbg.stopped then
        let s := s.setReg rStopFrame (s.reg rFrame)
        let s := if cause = 0 then s else s.modReg rDbgStatus (fun w => setFld w 8 3 cause)
        { s with dbg := { s.dbg with
            stopped := true
            stopAt := none
            stepLeft := 0 } }
      else s
    | none => s
  match s.dbg.resumeAt with
  | some (c, k) =>
    if c ≤ n then
      { s with dbg := { s.dbg with
          stopped := false
          resumeAt := none
          stepLeft := k } }
    else s
  | none => s

/-- The end of this ck. -/
def State.endCk (s : State) : State :=
  let s := if s.now.sample then s.blankDecide else s
  let s := if s.now.te && s.pdOn 3 then s.orReg rTeLine 0x10000 else s
  let s := s.cfgNext.evalWatches.evalWatchers.latchSubst.countLeaveWaits.releaseGrants
  let s := ((List.range 64).foldl State.countHold s).noteEligible
  let s := (if s.frameActs then allTiles.foldl State.moveWaits s.markWaits else s).tellLevels.bellPend.nextLines
  let s := if s.scan.videoOk && !s.videoHolds then { s with scan := { s.scan with videoOk := false } } else s
  s.endUses.loseLate.alertForget.stepCount.stopNext

/-! ### The counters of time -/

/-- The rate of ck in kHz: CLK_NOW, or the bypass clock of 500 MHz during a relock (R473). -/
def State.ckRate (s : State) : Nat := if s.power.relock.isSome then 500000 else max 1 s.clkNow

/-- MTIME: 25 MHz against the core clock in force (R461, notes/assumptions/41.md). -/
def State.aonTime (s : State) : State :=
  let p := s.bells.aonPart + 25000
  let k := s.ckRate
  { s with bells := { s.bells with
      mtime := s.bells.mtime + BitVec.ofNat 64 (p / k)
      aonPart := p % k } }

/-- mcycle of the stewards: the steward clock of 1 GHz against the core clock in force (R71, R432). -/
def State.coreCycles (s : State) : State :=
  let k := s.ckRate
  { s with stew := s.stew.map (fun (z : Steward) =>
      { z with
        mcycle := z.mcycle + BitVec.ofNat 64 ((z.cyclePart + 1000000) / k)
        cyclePart := (z.cyclePart + 1000000) % k }) }

/-- The next ck: CKREL counts with it (R20, R45), and the frame domain's ck and the round position where it acts. -/
def State.nextCk (s : State) : State :=
  let s := if s.pdOn 3 then s.satReg rCkrel else s
  let s := { s with ck := s.ck + 1 }.aonTime.holdoffLate
  let s := if s.pdOn 1 then (List.finRange 4).foldl State.timerMatch s.coreCycles else s
  if s.dbg.stopped then s else { s with fck := s.fck + 1, round := (s.round + 1) % 16 }

/-! ### The start of a ck -/

/-- The aggregator receives the tile-level faults of the ck before (R499, R505): recovery and exclusion, and the
substitution of every stream that the tile serves. -/
def State.faultArrives (s : State) (t : Nat) : State :=
  let h := t / 32
  let b : Word := w32 (2 ^ (t % 32))
  let s := (s.orReg (rTrec h) b).orReg (rTout h) b
  let streams := (List.range 64).filter (fun n => bit (s.reg (rSmask n h)) (t % 32))
  let s := streams.foldl (fun s n =>
    { s.orReg (rSsub (n / 32)) (w32 (2 ^ (n % 32))) with err := { s.err with
        ssubNow := s.err.ssubNow ||| BitVec.ofNat 64 (2 ^ n) } }) s
  s.frameEnds (tid t)

/-- All of them. -/
def State.faultsArrive (s : State) : State :=
  { (s.faultSeen.foldl State.faultArrives s) with faultSeen := [] }

/-- The leave of an asynchronous macro-op that has become eligible, or else of a large asynchronous move at the head of
its lane, is asked for (R165, R212, R247, R480). -/
def State.askLeave (s : State) (t : TileId) : State :=
  let x := s.tile t
  if x.request.isSome || x.grant.isSome || x.stopped then s
  else
    let ask (n : Nat) (move : Bool) : State :=
      s.modTile t (fun x => { x with request := some { size := n, stamp := s.ck, move := move } })
    let macroAsks := match x.running, x.queued with
      | none, some m =>
        if !m.frame && x.starting.isNone && decide (m.issueCk < s.fck) && !s.framePending t && s.endsInTime (m.endFrom (s.fck + 1)) then
          some m.leave
        else none
      | _, _ => none
    match macroAsks with
    | some n => ask n false
    | none =>
      match x.moveHead false with
      | some m => if !m.started && decide (m.issueCk < s.fck) && s.moveLarge t m then ask 2 true else s
      | none => s

/-- The wide-port jobs of a tile in this ck: reads, writes, and those that are over (R226, R239–R241, R252). -/
def State.jobsNow (s : State) (t : TileId) : State :=
  let n := (s.tile t).jobs.length
  let s := (List.range n).foldl (fun s i => (s.jobRead t i).jobWrite t i) s
  let done := (s.tile t).jobs.filter (fun j => j.ended s.fck)
  let s := done.foldl (fun s j => s.jobFinish t j) s
  s.modTile t (fun x => { x with jobs := x.jobs.filter (fun j => !j.ended s.fck) })

/-- A tile at the start of a ck in which the frame domain acts. -/
def State.tileNow (s : State) (t : TileId) : State :=
  if !s.pdOn (16 + t.val) then s
  else
    let s := ((s.threadsNow t).evalWaits t).macroRead t |>.jobsNow t
    let s := (s.moveDueNow t true).moveDueNow t false
    (s.askLeave t).traceSend t

/-- What waits for the next ck while the timing generator is off: a COMMIT, and a mode (R392, R398). -/
def State.scanPending (s : State) : State :=
  if s.tgOn || !s.pdOn 3 then s else s.decideTs.decideMode

/-- PWR_THROT_N low holds step 1 at least (R490). -/
def State.throtHolds (s : State) : State :=
  if s.power.throt && s.pdOn 7 && s.thermStep = 0 then s.setStep 1 else s

/-- The start of this ck. -/
def State.beginCk (s : State) : State :=
  let s := s.faultsArrive.scanPending.throtHolds
  let s := if s.frameActs then allTiles.foldl State.tileNow s.injectAll else s
  ((List.finRange 16).foldl State.copyLeft s).traceTake

/-- One core ck passes; nothing does while VDD_AON is absent (R465, R633). -/
def State.passCk (s : State) : State := if s.milk.aon then s.endCk.nextCk.beginCk else s

end Sys2Proof.Machine
end

