-- ==== Sys2Proof/WellFormed.lean ====
section
/-!
DEFINITION. Well-formed commands: those that the block can be given. Every term of Syntax is one, but for sideband
requests that no transaction can carry (R556, R559; notes/assumptions/5.md).
-/

namespace Sys2Proof

/-- A command that takes exactly n operand bytes. -/
def fixed (n k : Nat) : Bool := k == n

/-- A sideband request in form f, of a command whose operand bytes number n and may number as `lens` says: it has at
most 255 bytes, and the form `count` stands only for a count that the command does not allow. -/
def sbForm (f : SbForm) (lens : Nat → Bool) (n : Nat) : Bool :=
  match f with
  | .call _ => decide (n ≤ 255)
  | .split _ => decide (n ≤ 255)
  | .count _ _ r => decide (r.length ≤ 255) && !lens r.length

/-- The block can be given this command. -/
def Instr.wellFormed (i : Instr) : Bool :=
  match i with
  | .tick => true
  | .blankingLineSample => true
  | .budgetCheck => true
  | .leaveWindowAdvance => true
  | .ndetClear _ => true
  | .ndetLoRead _ _ => true
  | .registerWrite _ _ _ _ => true
  | .bundleIssue _ _ => true
  | .nop _ _ _ _ => true
  | .mm _ _ _ => true
  | .conv _ _ _ => true
  | .dw _ _ _ => true
  | .macroOpStart _ => true
  | .macroOpEnd _ => true
  | .accRd _ _ _ => true
  | .accWr _ _ _ => true
  | .accClr _ _ _ => true
  | .vadd _ _ _ => true
  | .vsub _ _ _ => true
  | .vmul _ _ _ => true
  | .vmulh _ _ _ => true
  | .vfma _ _ _ => true
  | .vmin _ _ _ => true
  | .vmax _ _ _ => true
  | .vand _ _ _ => true
  | .vor _ _ _ => true
  | .vxor _ _ _ => true
  | .vshl _ _ _ => true
  | .vshr _ _ _ => true
  | .vcmp _ _ _ => true
  | .vsel _ _ _ => true
  | .vbcast _ _ _ => true
  | .vabs _ _ _ => true
  | .vneg _ _ _ => true
  | .vrsum _ _ _ => true
  | .vrmax _ _ _ => true
  | .vrmin _ _ _ => true
  | .vrargmax _ _ _ => true
  | .vlut _ _ _ => true
  | .lutLoad _ _ _ => true
  | .lutLoadComplete _ => true
  | .vqnt _ _ _ => true
  | .vcvt _ _ _ _ => true
  | .ld _ _ _ => true
  | .st _ _ _ => true
  | .sld _ _ _ => true
  | .rwr _ _ _ => true
  | .gather _ _ _ => true
  | .ldb _ _ _ => true
  | .stb _ _ _ => true
  | .smov _ _ _ => true
  | .smovx _ _ _ => true
  | .moveStep _ _ => true
  | .moveEnd _ _ => true
  | .endMark _ _ _ => true
  | .br _ _ _ => true
  | .loopOp _ _ _ => true
  | .rdc _ _ _ => true
  | .hold _ _ _ => true
  | .sig _ _ _ => true
  | .wait _ _ _ => true
  | .waitComplete _ _ => true
  | .slip _ _ => true
  | .arm _ _ _ => true
  | .lchk _ _ _ => true
  | .creditGrant _ _ _ => true
  | .hswap _ _ _ => true
  | .sadd _ _ _ => true
  | .ssub _ _ _ => true
  | .sand _ _ _ => true
  | .sor _ _ _ => true
  | .sxor _ _ _ => true
  | .sshl _ _ _ => true
  | .sshr _ _ _ => true
  | .smul _ _ _ => true
  | .sli _ _ _ => true
  | .slui _ _ _ => true
  | .scmp _ _ _ => true
  | .plog _ _ _ => true
  | .meshAsyncForward _ _ _ => true
  | .vatReadRequest _ => true
  | .vatReadData => true
  | .vatWriteFlit _ => true
  | .narrowAccessPerform _ => true
  | .asyncPailAccess _ _ => true
  | .cacheAccess _ => true
  | .remoteWriteArrival _ => true
  | .creditGrantArrival _ => true
  | .syncUpdateArrival => true
  | .syncAck _ _ => true
  | .watchWordArrival => true
  | .releaseInject _ _ _ => true
  | .watchLapse _ _ _ => true
  | .releaseArrival _ => true
  | .pace _ _ => true
  | .syncCountWrite _ _ _ => true
  | .syncAddWrite _ _ _ => true
  | .lsyncWrite _ _ _ _ => true
  | .watchCfgWrite _ _ _ _ => true
  | .eccInjectArm _ _ _ => true
  | .cacheSizeWrite _ _ => true
  | .cacheDrainComplete => true
  | .cacheClean _ => true
  | .cacheInval _ => true
  | .cacheCtrlComplete => true
  | .threadStart _ _ _ => true
  | .threadStop _ _ _ => true
  | .tileHalt _ _ => true
  | .tileForcedHalt _ _ => true
  | .tileHaltRelease _ _ => true
  | .tileHaltComplete _ => true
  | .faultClr _ _ => true
  | .ibufLoad _ _ => true
  | .ibufLoadComplete _ => true
  | .tileRecovery _ => true
  | .tileRecoveryComplete _ => true
  | .bandIssue _ _ => true
  | .hostReadIssue _ _ => true
  | .hostReadCompletion _ _ _ => true
  | .hostReadTimeout _ => true
  | .landingWriteSlot _ => true
  | .bandCommit _ => true
  | .writeoutReadSlot _ => true
  | .hostWriteIssue _ _ => true
  | .degradeNote => true
  | .lateNote => true
  | .fenceWord _ => true
  | .fenceAck => true
  | .completionPost _ => true
  | .copyGrant _ => true
  | .copyComplete _ => true
  | .sringTail _ _ _ => true
  | .leaveGrant => true
  | .kxPlango _ _ _ _ => true
  | .swapEngineStart => true
  | .swapEngineComplete => true
  | .relockComplete => true
  | .configurationRequest _ _ _ _ => true
  | .bar2Access _ _ _ => true
  | .sqTailDoorbell _ _ _ => true
  | .cqHeadDoorbell _ _ _ => true
  | .hostMessageDoorbell _ _ _ => true
  | .entryFetch _ _ => true
  | .entryNop _ => true
  | .picture _ => true
  | .copy _ => true
  | .planLoadAndArm _ _ => true
  | .planArm _ => true
  | .planStop => true
  | .identify _ => true
  | .faultLog => true
  | .timingSet _ => true
  | .skimLayout _ => true
  | .completionWrite _ => true
  | .sdone _ _ => true
  | .hostSmsg _ _ => true
  | .queueEnable _ _ _ => true
  | .queueDisable _ _ _ => true
  | .flr => true
  | .flrComplete => true
  | .perst => true
  | .linkStateChange _ _ _ => true
  | .busMasterEnable _ => true
  | .powerStateChange _ => true
  | .tsCommit _ => true
  | .outMode _ _ => true
  | .teEdge => true
  | .lineFetch _ _ => true
  | .scanLine => true
  | .dpTrain _ _ => true
  | .dpTrainComplete _ _ _ _ _ _ => true
  | .auxCmd _ _ _ => true
  | .auxDone _ _ _ => true
  | .hpdEvent _ _ => true
  | .kxCopy _ _ _ _ => true
  | .kxFill _ _ _ _ => true
  | .kxCrc32c _ _ _ _ => true
  | .kxHset _ _ _ _ => true
  | .kxHswap _ _ _ => true
  | .stewardMemoryAccess _ _ _ _ _ _ => true
  | .stewardInterrupt _ => true
  | .bellSourceRequest _ => true
  | .wiredInputChange _ _ => true
  | .bellClaim _ _ => true
  | .bellEoi _ _ _ => true
  | .holdoffExpiry _ => true
  | .gdisWrite _ _ => true
  | .msipWrite _ _ _ => true
  | .mtimecmpMatch _ => true
  | .pdCtrlWrite _ _ _ => true
  | .pdSwitch => true
  | .pdSwitchComplete => true
  | .mainSequencing => true
  | .fabricSleep _ => true
  | .fabricWake _ => true
  | .mreqDeviceRecovery _ => true
  | .thermalSample _ _ => true
  | .thermalRelease _ => true
  | .thermalTrip => true
  | .pwrThrotChange _ => true
  | .errRecordPost => true
  | .recPop _ => true
  | .ssubSet _ _ _ => true
  | .ssubClr _ _ _ => true
  | .ssubPublish => true
  | .candPop _ => true
  | .wdogKick _ _ => true
  | .watchdogExpiry _ => true
  | .pgLoss _ _ => true
  | .registerNetworkTimeout => true
  | .corePllUnlock => true
  | .fabricUncorrectable => true
  | .deviceRecovery => true
  | .powerOnReset _ _ => true
  | .romStart _ => true
  | .settingsRead _ _ _ _ => true
  | .stewardImageAuthenticate => true
  | .flashReq _ _ => true
  | .flashCopy _ _ => true
  | .flashCopyAbort _ _ => true
  | .flashCopyComplete _ => true
  | .flashErGo _ _ => true
  | .flashOpComplete => true
  | .status f => sbForm f (fixed 0) 0
  | .temp f => sbForm f (fixed 0) 0
  | .power f => sbForm f (fixed 0) 0
  | .pulse f => sbForm f (fixed 0) 0
  | .logRead f _ => sbForm f (fixed 4) 4
  | .logClear f _ => sbForm f (fixed 4) 4
  | .resetReq f _ => sbForm f (fixed 1) 1
  | .mainPower f _ => sbForm f (fixed 1) 1
  | .bootSelect f _ => sbForm f (fixed 1) 1
  | .flashOpen f => sbForm f (fixed 0) 0
  | .flashRead f _ _ => sbForm f (fixed 5) 5
  | .flashWrite f _ data => sbForm f (fun n => decide (5 ≤ n) && decide (n ≤ 132)) (4 + data.length)
  | .flashErase f _ _ => sbForm f (fixed 5) 5
  | .flashClose f => sbForm f (fixed 0) 0
  | .flashOwnershipTimeout => true
  | .dbgChallenge f => sbForm f (fixed 0) 0
  | .dbgResponse f _ _ => sbForm f (fixed 97) 97
  | .stateScan f _ _ => sbForm f (fixed 5) 5
  | .mboxSend f msg => sbForm f (fun n => decide (1 ≤ n) && decide (n ≤ 64)) msg.length
  | .mboxRecv f => sbForm f (fixed 0) 0
  | .doorbell f _ _ => sbForm f (fixed 5) 5
  | .blockReadResponse _ => true
  | .alertResponse => true
  | .smbusBusTimeout => true
  | .h2sbSend _ _ => true
  | .sb2hAck _ => true
  | .repairRecordAppend => true
  | .dbgStop _ => true
  | .dbgStopN => true
  | .dbgResume _ => true
  | .dbgStep _ _ => true
  | .stepEnd => true
  | .authRevoke _ => true
  | .permaDisable _ _ => true
  | .stewardHalt _ _ _ => true
  | .stewardHalted _ => true
  | .stewardResume _ _ _ => true
  | .stewardStep _ _ _ => true
  | .traceEnable _ _ => true
  | .traceRingWrite => true
  | .tapReset => true
  | .extest _ _ => true
  | .samplePreload _ _ => true
  | .idcode => true
  | .bypass _ => true
  | .jtagAuthChallenge => true
  | .jtagAuthSubmit _ => true
  | .jtagState _ _ => true
  | .dbgacc _ _ _ => true
  | .unsupportedRequest _ _ => true
  | .powerGoodTimeout => true
  | .vddAonLoss => true
  | .vddioSbChange _ => true
  | .aonPllLock => true
  | .nonceExpiry => true

end Sys2Proof
end

