-- ==== Sys2Proof/Safety.lean ====
section
/-!
DEFINITION. What a safe state of the block is, in the terms the claims use: the canonical forms of its maps, debug that
stays disabled once its fuse is blown, and a queue of commands that the block can take.
-/

namespace Sys2Proof.Machine

/-- The byte memory, the register map and the flash are in their canonical form: addresses strictly rising, and no
entry equal to what an unlisted address holds. -/
def State.canonical (s : State) : Bool :=
  s.mem.wf && Sparse.wf regReset s.regs && Sparse.wf (fun _ => Config.flashFill) s.milk.flash

/-- A device whose debug fuse is blown grants no scope (R583). -/
def State.debugLocked (s : State) : Bool := !s.milk.dbgFuse || s.milk.scope == 0

/-- Every command that waits is one the block can take. -/
def State.queueOk (s : State) : Bool := s.pending.all (fun c => c.wellFormed)

/-- The invariant of the block. -/
def State.safe (s : State) : Bool := s.canonical && s.debugLocked && s.queueOk

/-! ### What a statement leaves unchanged -/

/-- s' differs from s in thread th of tile t at most. -/
def State.onlyThread (s s' : State) (t : TileId) (th : ThreadId) : Prop :=
  s' = s.modThr t th (fun _ => s'.thr t th)

/-- s' differs from s in tile t at most. -/
def State.onlyTile (s s' : State) (t : TileId) : Prop := s' = s.setTile t (s'.tile t)

/-- s' differs from s in the registers at most, and in what the ck notes of their writes. -/
def State.onlyRegs (s s' : State) : Prop := s' = { s with regs := s'.regs, now := s'.now }

/-- Every register but those at the addresses of l reads as before. -/
def State.regsBut (s s' : State) (l : List Nat) : Prop := ∀ a, a ∉ l → s'.reg a = s.reg a

/-- s' differs from s in the registers at most, and there in the one at address a at most. -/
def State.onlyReg (s s' : State) (a : Nat) : Prop := s.onlyRegs s' ∧ ∀ b, b ≠ a → s'.reg b = s.reg b

/-- The vector registers and the poison of two threads agree. -/
def Thread.sameV (y z : Thread) : Prop := z.v = y.v ∧ z.poison = y.poison

/-- The registers of two threads agree but for s[i]. -/
def Thread.sameButS (y z : Thread) (i : Nat) : Prop :=
  z.p = y.p ∧ y.sameV z ∧ z.gfirst = y.gfirst ∧ z.gprog = y.gprog ∧ z.draw = y.draw ∧
    ∀ j, j % 32 ≠ i % 32 → z.rs j = y.rs j

/-- The registers of two threads agree but for p[i]. -/
def Thread.sameButP (y z : Thread) (i : Nat) : Prop :=
  z.s = y.s ∧ y.sameV z ∧ z.gfirst = y.gfirst ∧ z.gprog = y.gprog ∧ z.draw = y.draw ∧
    ∀ j, j % 8 ≠ i % 8 → z.rp j = y.rp j

/-- The registers of two threads agree but for v[i] and the draw counter. -/
def Thread.sameButV (y z : Thread) (i : Nat) : Prop :=
  z.s = y.s ∧ z.p = y.p ∧ z.gfirst = y.gfirst ∧ z.gprog = y.gprog ∧
    ∀ j, j % 32 ≠ i % 32 → z.rv j = y.rv j ∧ z.rpo j = y.rpo j

/-- All registers of two threads agree. -/
def Thread.sameRegs (y z : Thread) : Prop :=
  z.s = y.s ∧ z.p = y.p ∧ y.sameV z ∧ z.gfirst = y.gfirst ∧ z.gprog = y.gprog ∧ z.draw = y.draw

/-- A slot word's predicate selects it on in thread th of tile t. -/
def State.on (s : State) (t : TileId) (th : ThreadId) (w : SlotWord) : Bool := guardOn (s.thr t th) w

/-- The tiles differ in thread th of tile t at most. -/
def State.tilesBut (s s' : State) (t : TileId) (th : ThreadId) : Prop :=
  s'.tiles = (s.modThr t th (fun _ => s'.thr t th)).tiles

/-- Every byte of memory reads as before. -/
def State.sameBytes (s s' : State) : Prop := ∀ b, s'.mem.byte b = s.mem.byte b

/-- Every byte of memory outside the n bytes from a reads as before. -/
def State.bytesBut (s s' : State) (a n : Nat) : Prop := ∀ b, (b < a ∨ a + n ≤ b) → s'.mem.byte b = s.mem.byte b

/-! ### Lanes of a vector register -/

/-- Lane k of v[i] of a thread, of w bits, with its poison (R140). -/
def Thread.vlane (y : Thread) (w i k : Nat) : Nat × Bool := (lane w (y.rv i) k, lanePoison w (y.rpo i) k)

/-- Lane k of the second operand of a V word: of v[VB], or s[VB] in every lane where S is 1 (R216). -/
def Thread.vbLane (y : Thread) (w : SlotWord) (k : Nat) : Nat × Bool :=
  let bits := typeBits (sf w 4 3)
  if sb w 3 then ((y.rs (sf w 7 5)).toNat % 2 ^ bits, false) else y.vlane bits (sf w 7 5) k

/-- s' is s after an element-wise V word: lane k of v[VD] is `g` of k and of the lanes k of v[VD], v[VA] and the second
operand, or the format's substitution value with poison where `g` reads a poisoned lane (`usesD`, `usesB` say whether
it reads v[VD] and the second operand); nothing else changes but, under RND = SR, the draw counter. -/
def State.lanewise (s s' : State) (t : TileId) (th : ThreadId) (w : SlotWord) (usesD usesB : Bool)
    (g : Nat → Nat → Nat → Nat → Nat) : Prop :=
  let y := s.thr t th
  let z := s'.thr t th
  let bits := typeBits (sf w 4 3)
  s.onlyThread s' t th ∧ y.sameButV z (sf w 17 5) ∧ (sf w 0 2 ≠ 2 → z.draw = y.draw) ∧
  ∀ k, k < 2048 / bits →
    z.vlane bits (sf w 17 5) k =
      (if (y.vlane bits (sf w 12 5) k).2 || (usesB && (y.vbLane w k).2) || (usesD && (y.vlane bits (sf w 17 5) k).2) then
        ((s.subst t.val (typeFmt (sf w 4 3))).toNat % 2 ^ bits, true)
      else
        (g k (y.vlane bits (sf w 17 5) k).1 (y.vlane bits (sf w 12 5) k).1 (y.vbLane w k).1 % 2 ^ bits, false))

/-- A byte that a read of tile t through handle e brings from address a of its Pail: the byte there, with the bits above
a VS10 or VS12 sample 0 (R125), or in an uncorrectable word the format's substitution pattern, with poison (R236). -/
def State.readByte (s : State) (t : TileId) (e : Quad) (a : Nat) : Nat × Bool :=
  if s.badByte a then ((patternByte (s.subst t.val (hFmt e)) e a).toNat, true)
  else ((sampleByte e a (s.mem.byte a)).toNat, false)

/-! ### When a command acts -/

/-- A register write of master m reaches the register at address a: the path carries it (R68, R581), the Milkhouse may
write there (R50), the host is not held back (R532), and the domain is on (R606). -/
def State.writes (s : State) (m : Master) (a : Nat) : Bool :=
  s.reaches m && (decide (m ≠ .milkhouse) || milkWrites a) && !(decide (m = .host) && s.earlyWrite a) && s.regOn a

/-- Command c, at a register of master m at address a, is refused: the write is discarded and reported by a register
access fault (R8), and nothing else changes. -/
def State.refuses (s : State) (c : Instr) (m : Master) (a : Nat) : Prop :=
  ∃ s', exec c s = .next s' ∧ s' = { s.regFault m a with now := s'.now }

/-- The block of the register at address a gives a write by master m more, or other, effects than the access types of its
bits (R9): an action, a stored value of its own, a lock, or a scope that the write needs. -/
def ownRule (m : Master) (a : Nat) : Bool :=
  if isTileReg a then
    let o := a % 0x1000
    [oHaltCtrl, oThreadCtrl, 0x84, oIbufCtrl, oSubst 0xE, oTrCfg, oTrObj].contains o ||
      (decide (oLsync 0 ≤ o) && decide (o ≤ oLsync 31))
  else
    [rBoardId, rGpioDir, rGpioOd, rTopLock, rNdetCtrl, rTsCommit, rOutMode, rTeCfg, rCreamWm, rLeadMax, rDpCtrl 0, rDpCtrl 1,
      rAuxCmd 0, rAuxCmd 1, rBellCtrl, rBudgetCap, rLvAgeStep, rThrotCfg, rThermCtrl, rThermClk, rIdleClk, rPace, rLAgeStep,
      rLSubst 0xE, rWinBase, rSubsysId, rSmsg, rSentTail, rSdone, rCacheCfg, rCacheCtrl, rRepairCtrl, 0x30090008, 0x300900A4,
      rLimits, rWdogCfg, rErrLock, rWoLog, rDbgCtrl, rDbgStop, rDbgResume, rDbgStep, rAuthCtrl, rPermaDisable, rTrCtrl, rTrBase,
      rTrSize, rTrTail, rTrNotify, rFlashReq, rCpCtrl, rErCtrl, rMreq, rMEoi, rSb2hCtrl, rH2sbCtrl].contains a ||
    [(rKeyhash 0, rKeyhash 12), (rMsip 0, rMsip 4), (rMtimecmp 0, rMtimecmp 4), (rClaim 0, rClaim 5), (rSrc 448, rSrc 480),
      (rPdCtrl 0, rPdCtrl 3), (rCount 0, rTickval 0), (rTrec 0, 0x30090070), (0x30090080, 0x30090090), (rSctrl 0, rSctrl 4),
      (rH2sbData 0, rH2sbData 16)].any (fun r => decide (r.1 ≤ a) && decide (a < r.2)) ||
    (decide (rWatchCfg 0 ≤ a) && decide (a < rWatchCfg 32) && (a % 16 == 0 || a % 16 == 4)) ||
    (decide (rSringTail 0 ≤ a) && decide (a ≤ rSringTail 3) && a % 16 == 8) || isMsix a ||
    (decide (rQueue 0 0 ≤ a) && decide (a < rQueue 132 0) && ((a - rQueue 0 0) % 32 == 0x10 || (a - rQueue 0 0) % 32 == 0x14)) ||
    (decide (m = .swap) && [rBudget, rFrTarget, rFrObj].contains a)

/-- Its block refuses a write of the register at address a by master m for now: while the tile runs frame threads or a plan
runs, for what the plan loader sets (R99, R101, R144, R154, R287, R290, R322, R431), and while the queue is enabled (R389). -/
def State.barred (s : State) (m : Master) (a : Nat) : Bool :=
  if isTileReg a then
    (a % 0x1000 == oTileCfg || loaderTileReg (a % 0x1000)) && (s.tile (tid ((a - 0x30100000) / 0x1000))).frameRun &&
      decide (m ≠ .swap)
  else
    match blockOf a with
    | 2 => (layerOf a).any (fun k => s.planBars m && bit (s.reg rPlanLayers) k)
    | 5 => decide (rTickval 0 ≤ a) && decide (a < rPace) && s.planBars m
    | 6 => ((decide (rSmask 0 0 ≤ a) && decide (a < rSmask 64 0)) || (decide (rDmap 0 0 ≤ a) && decide (a < rDmap 64 0))) &&
        s.planBars m
    | 7 => decide (rQueue 0 0 ≤ a) && decide (a < rQueue 132 0) && decide ((a - rQueue 0 0) % 32 < 0x10) &&
        s.qEn ((a - rQueue 0 0) / 32)
    | _ => false

/-- The value that a write of v leaves in the register at address a, by the access types of its bits (R9, R10, R608): RW
bits take v's, and W1C bits where v has 1 are cleared unless hardware has set them in this ck. -/
def State.written (s : State) (m : Master) (a : Nat) (v : Word) : Word :=
  match regRow a with
  | some r =>
    let w : Word := w32 (if m = .milkhouse then r.rw ||| r.mh else r.rw)
    ((s.reg a &&& ~~~ w) ||| (v &&& w)) &&& ~~~ (v &&& w32 r.w1c &&& ~~~ s.hwSetBits a)
  | none => s.reg a

/-- Update o of a synchronisation object is performed: the object's place is powered (R273), and of a marked object while
a plan runs its source is one that may update it (R282). -/
def State.admitsUpdate (s : State) (o : SyncOp) : Bool :=
  s.objThere o.obj && !(s.planRuns && s.frameMarked o.obj && !s.mayUpdate o)

/-- The count that update o leaves with the updates of this ck that came before (R275): the value of the last ARM in the
order of their sources, else what the tick set, else the count before the ck; and every addition. -/
def State.countWith (s : State) (o : SyncOp) (own : Bool) : Word :=
  let r := s.syncCkOf o.obj
  let prevails : Bool := o.arm && (match r.arm with | some (k, _) => decide (k ≤ armRank o own) | none => true)
  (if prevails then o.value else match r.arm with | some (_, v) => v | none => r.tick.getD r.base) + r.adds +
    (if o.arm then 0 else o.value)

/-- The completion signal of a macro-op (kind 1) or move (kind 2) of tile t: 1 added to local object `obj` (R210, R244). -/
def doneSignal (t : TileId) (obj : Nat) (frame : Bool) (thread kind : Nat) : SyncOp where
  obj := 2048 + 32 * t.val + obj
  arm := false
  value := 1
  src := .completion
  frame := frame
  unit := t.val
  thread := thread
  kind := kind
  ack := false

/-- Synchronisation object o is powered, and no update has reached it in this ck. -/
def State.untouched (s : State) (o : Nat) : Bool :=
  s.objThere o && (Sparse.get (fun _ => none) s.sync.ck o).isNone

/-- The trace unit of tile t is off (R598). -/
def State.untraced (s : State) (t : TileId) : Bool := !bit (s.treg t.val oTrCfg) 0

/-- f stands first in the mesh and has reached its destination. -/
def State.first (s : State) (f : Flit) : Bool := s.mesh.flits.head? == some f && s.arrived f

/-- Since s, source n has been sent to the Bell: over its wire, or as a message through the mesh (R450, R451). -/
def State.rings (s s' : State) (n : Nat) : Prop :=
  (∃ l, s'.bellMsgs = s.bellMsgs ++ l ∧ n ∈ l) ∨
    ∃ l f, s'.mesh.flits = s.mesh.flits ++ l ∧ f ∈ l ∧ f.body = .bellMsg n true

/-- The host reads that s' has issued since s for `who` on queue q: they cover n bytes from a in requests of at most
Max_Read_Request_Size (R348), and each is sent out with its tag. -/
def State.readsIssued (s s' : State) (who : ReadFor) (q a n : Nat) : Prop :=
  ∃ rs : List HostRead, s'.host.reads = s.host.reads ++ rs ∧ rs.map (fun r => (r.addr, r.len)) = s.readPieces a n ∧
    (∀ r ∈ rs, r.who = who ∧ r.queue = q) ∧ s'.out = s.out ++ rs.map (fun r => .hostRead r.tag r.addr r.len)

/-- The host writes that s' has sent since s carry the bytes bs to address a, in one write where the link's limits and
the 4 KiB boundary admit it (R348). -/
def State.writesSent (s s' : State) (a : Nat) (bs : List Byte) : Prop :=
  ∃ l, s'.out = s.out ++ l ∧ l.flatMap (fun o => match o with | .hostWrite _ b => b | _ => []) = bs ∧
    (0 < bs.length → bs.length ≤ s.writeRoom a → l = [.hostWrite a bs])

/-! ### The sideband (R556–R561) -/

/-- A request of command `code` with operand bytes `req`, in form f, is one that the port takes up: it serves, the
settings have been read, the PEC is right, and there where it is required. -/
def State.sbTakes (s : State) (f : SbForm) (code : Nat) (req : List Byte) : Bool :=
  s.sbServes && !s.sbEarly && !s.pecWrong f code req && !(s.pecRequired && (sbPec f).isNone) &&
    (match f with | .count _ _ _ => false | _ => true)

/-- The response that s' holds is `status` and `data`; a process call has also given it out, with its count and its
PEC. -/
def State.sbHolds (s' : State) (f : SbForm) (code status : Nat) (data : List Byte) : Prop :=
  s'.milk.response = some (code, byteOf status :: data) ∧
    (sbSplit f = false → ∃ pec, s'.out.getLast? =
      some (.bytes (byteOf (data.length + 1) :: byteOf status :: (data ++ [pec]))))

end Sys2Proof.Machine
end

