-- ==== Sys2Proof/Certificates/Slice0/Obligations.lean ====
section
/-!
DEFINITION. The statements for the provers.
-/

open Sys2Proof Sys2Proof.Machine

/-- For every command c, every queue r and every state s, a step of s with c in front of r is the effect of c on s with
the queue r. With an empty queue a step lets one core ck pass (the model's choice, notes/assumptions/4.md).
(02_organisation.md, notes/assumptions/4.md) -/
def Obligations.StepRunsFront : Prop :=
  (∀ (c : Instr) (r : List Instr) (s : State),
    step { s with pending := c :: r } = exec c { s with pending := r }) ∧
  ∀ s : State, s.pending = [] → step s = .next s.passCk

/-- From every state in which every waiting command is well formed, a step answers a next state, and in it every waiting
command is well formed. No command faults or is refused, and no command puts a command into the queue.
(02_organisation.md, notes/assumptions/5.md) -/
def Obligations.QueueAlwaysRuns : Prop :=
  ∀ s : State, s.queueOk = true → ∃ t, step s = .next t ∧ t.queueOk = true ∧ t.pending = s.pending.tail

/-- From every state whose byte memory, register map and flash are in canonical form (addresses strictly rising, no
entry equal to what an unlisted address holds), whatever command is in front, the next state has them in canonical
form. (03_pail_and_vat.md, 16_startup_and_boundary.md, notes/assumptions/1.md) -/
def Obligations.CanonicalFormKept : Prop :=
  ∀ s t : State, s.canonical = true → step s = .next t → t.canonical = true

/-- From every state in which a blown debug fuse leaves no authorised scope, every step gives such a state, and the fuse
once blown stays blown, through every reset and power loss. (R583) -/
def Obligations.DebugStaysDisabled : Prop :=
  ∀ s t : State, s.debugLocked = true → step s = .next t →
    t.debugLocked = true ∧ (s.milk.dbgFuse = true → t.milk.dbgFuse = true ∧ t.milk.scope = 0)

/-- The state right after the release of the AON power-on reset has its memory, registers and flash in canonical form,
grants no debug scope, and has no waiting command. What memory holds there is the model's choice
(notes/assumptions/1.md). (R527, notes/assumptions/1.md) -/
def Obligations.ResetIsSafe : Prop :=
  State.reset.safe = true ∧ State.reset.pending = [] ∧ State.reset.milk.scope = 0

/-- Whatever command c does from whatever state: a well-formed command answers a next state; where a command answers one,
that state's queue is the queue before; where it answers a fault, c is not well formed and the fault says so; it never
answers a refusal. (02_organisation.md, notes/assumptions/4.md) -/
def Obligations.CommandsLeaveQueue : Prop :=
  ∀ (c : Instr) (s : State),
    (c.wellFormed = true → ∃ t, exec c s = .next t) ∧
    (∀ t, exec c s = .next t → t.pending = s.pending) ∧
    (∀ f, exec c s = .fault f → f = .illFormed ∧ c.wellFormed = false) ∧
    ∀ r, exec c s ≠ .refused r

/-- Whenever the predicate selects the slot on and the reserved bits are 0, the command completes. s[SD] (unless SD is
0, which discards the write) holds the result: of R265 modulo 2^32, with shifts by the low 5 bits and SSHR
arithmetic; the sign-extended immediate of SLI; the upper half that SLUI replaces; for RDC the schedule line, the ck
relative to the tick (saturating) or SR_WINDOW, by SEL. Every other scalar register, the predicates, the vectors,
and everything outside the thread are unchanged. (R164, R265, R268, 07_tile_flow_ops.md) -/
def Obligations.ScalarOps : Prop :=
  (∀ (s : State) (t : TileId) (th : ThreadId) (w : SlotWord), s.on t th w = true → (sb w 11 = true ∨ sf w 0 6 = 0) →
    ∀ p ∈ ([(.sadd t th w, fun a b => a + b), (.ssub t th w, fun a b => a - b), (.sand t th w, fun a b => a &&& b),
        (.sor t th w, fun a b => a ||| b), (.sxor t th w, fun a b => a ^^^ b),
        (.sshl t th w, fun a b => a <<< (b.toNat % 32)), (.sshr t th w, fun a b => a.sshiftRight (b.toNat % 32)),
        (.smul t th w, fun a b => a * b)] : List (Instr × (Word → Word → Word))),
      ∃ s', exec p.1 s = .next s' ∧ s.onlyThread s' t th ∧ (s.thr t th).sameButS (s'.thr t th) (sf w 17 5) ∧
        (sf w 17 5 ≠ 0 → (s'.thr t th).rs (sf w 17 5) =
          p.2 ((s.thr t th).rs (sf w 12 5))
            (if sb w 11 then sext 11 (sf w 0 11) else (s.thr t th).rs (sf w 6 5)))) ∧
  ∀ (s : State) (t : TileId) (th : ThreadId) (w : SlotWord), s.on t th w = true →
    (∃ s', exec (.sli t th w) s = .next s' ∧ s.onlyThread s' t th ∧ (s.thr t th).sameButS (s'.thr t th) (sf w 17 5) ∧
      (sf w 17 5 ≠ 0 → (s'.thr t th).rs (sf w 17 5) = sext 17 (sf w 0 17))) ∧
    (sb w 16 = false →
      ∃ s', exec (.slui t th w) s = .next s' ∧ s.onlyThread s' t th ∧ (s.thr t th).sameButS (s'.thr t th) (sf w 17 5) ∧
        (sf w 17 5 ≠ 0 → (s'.thr t th).rs (sf w 17 5) =
          ((s.thr t th).rs (sf w 17 5) &&& 0xFFFF) ||| BitVec.ofNat 32 (sf w 0 16 * 65536))) ∧
    (sf w 0 15 = 0 → sf w 15 2 ≠ 3 →
      ∃ s', exec (.rdc t th w) s = .next s' ∧ s.onlyThread s' t th ∧ (s.thr t th).sameButS (s'.thr t th) (sf w 17 5) ∧
        (sf w 17 5 ≠ 0 → (s'.thr t th).rs (sf w 17 5) =
          if sf w 15 2 = 0 then BitVec.ofNat 32 (schedLine (s.reg rLineCk) s.sched)
          else if sf w 15 2 = 1 then BitVec.ofNat 32 (min s.sched 0xFFFFFFFF)
          else s.reg (rTile t.val oSrWindow)))

/-- Whenever the predicate selects the slot on and the fields are legal, SCMP writes to p[PD] whether the relation REL
holds between s[SA] and the second operand, and PLOG writes the function F of p[PA] and p[PB]. A write to p0 is
discarded. Nothing else changes. (R266, R164, 07_tile_flow_ops.md) -/
def Obligations.Predicates : Prop :=
  ∀ (s : State) (t : TileId) (th : ThreadId) (w : SlotWord), s.on t th w = true →
    (∀ b : Bool, (sb w 13 = true ∨ sf w 3 5 = 0) →
      (let x := (s.thr t th).rs (sf w 14 5)
       let z := if sb w 13 then sext 10 (sf w 3 10) else (s.thr t th).rs (sf w 8 5)
       (sf w 0 3 = 0 ∧ b = decide (x = z)) ∨ (sf w 0 3 = 1 ∧ b = decide (x ≠ z)) ∨
       (sf w 0 3 = 2 ∧ b = decide (x.toInt < z.toInt)) ∨ (sf w 0 3 = 3 ∧ b = decide (x.toInt ≥ z.toInt)) ∨
       (sf w 0 3 = 4 ∧ b = decide (x.toNat < z.toNat)) ∨ (sf w 0 3 = 5 ∧ b = decide (x.toNat ≥ z.toNat))) →
      ∃ s', exec (.scmp t th w) s = .next s' ∧ s.onlyThread s' t th ∧ (s.thr t th).sameButP (s'.thr t th) (sf w 19 3) ∧
        (sf w 19 3 ≠ 0 → (s'.thr t th).rp (sf w 19 3) = b)) ∧
    (sf w 0 11 = 0 →
      ∃ s', exec (.plog t th w) s = .next s' ∧ s.onlyThread s' t th ∧ (s.thr t th).sameButP (s'.thr t th) (sf w 19 3) ∧
        (sf w 19 3 ≠ 0 → (s'.thr t th).rp (sf w 19 3) =
          (let a := (s.thr t th).rp (sf w 16 3)
           let b := (s.thr t th).rp (sf w 13 3)
           if sf w 11 2 = 0 then a && b else if sf w 11 2 = 1 then a || b else if sf w 11 2 = 2 then xor a b else a && !b)))

/-- Whenever the predicate selects the slot on and the reserved bits are 0: BR moves the thread's PC to TGT; LOOP writes
s[SR] − 1 and moves the PC to TGT unless that is 0; HOLD stalls the thread with reason 10 until the schedule reaches
s[A]; END leaves the thread IDLE; HSWAP in a frame thread flips the bank bit of the tile's handle table. (R267,
R269, R270, R271, R96, 07_tile_flow_ops.md) -/
def Obligations.BranchesAndCounters : Prop :=
  ∀ (s : State) (t : TileId) (th : ThreadId) (w : SlotWord), s.on t th w = true →
    (sf w 0 10 = 0 →
      ∃ s', exec (.br t th w) s = .next s' ∧ s.onlyThread s' t th ∧ (s.thr t th).sameRegs (s'.thr t th) ∧
        (s'.thr t th).pc.toNat = sf w 10 12) ∧
    (sf w 0 5 = 0 → sf w 5 5 ≠ 0 →
      ∃ s', exec (.loopOp t th w) s = .next s' ∧ s.onlyThread s' t th ∧ (s.thr t th).sameButS (s'.thr t th) (sf w 5 5) ∧
        (s'.thr t th).rs (sf w 5 5) = (s.thr t th).rs (sf w 5 5) - 1 ∧
        ((s.thr t th).rs (sf w 5 5) ≠ 1 → (s'.thr t th).pc.toNat = sf w 10 12) ∧
        ((s.thr t th).rs (sf w 5 5) = 1 → (s.thr t th).next = none → (s'.thr t th).pc = (s.thr t th).pc)) ∧
    (sf w 0 16 = 0 →
      ∃ s', exec (.hold t th w) s = .next s' ∧ s.onlyThread s' t th ∧ (s.thr t th).sameRegs (s'.thr t th) ∧
        ((if sb w 16 then schedLine (s.reg rLineCk) s.sched else s.sched) < ((s.thr t th).rs (sf w 17 5)).toNat →
          (s'.thr t th).st = .stall ∧ (s'.thr t th).stall = 10) ∧
        (((s.thr t th).rs (sf w 17 5)).toNat ≤ (if sb w 16 then schedLine (s.reg rLineCk) s.sched else s.sched) →
          (s'.thr t th).stall ≠ 10)) ∧
    (sf w 0 22 = 0 →
      ∃ s', exec (.endMark t th w) s = .next s' ∧ (s'.thr t th).st = .idle ∧ (s'.thr t th).ended = true) ∧
    (sf w 0 22 = 0 → s.isFrame t th = true → (s.thr t th).next = none →
      ∃ s', exec (.hswap t th w) s = .next s' ∧ s.onlyReg s' (rTile t.val oHbank) ∧
        s'.reg (rTile t.val oHbank) = s.reg (rTile t.val oHbank) ^^^ 1)

/-- When master m's write reaches the register: COUNT and LSYNC write the count and ADD raises it, as R275 orders the
updates of one ck, where the object takes the update, and else count a discarded update and report a register access
fault; LSYNC also reports one while the tile runs frame threads (but from the plan loader). PACE raises the
frame-ready object while PACED reads 1 and is discarded while it reads 0. WATCH_CFG or WATCH_TARGET takes its value
and clears HIT. No other register changes, nor any memory. (R275, R282, R286, R288, R289, R290, 08_sync_objects.md) -/
def Obligations.SyncRegisterWrites : Prop :=
  ∀ (s : State) (m : Master) (v : BitVec 32),
    (∀ (n : Fin 2048) (arm : Bool), s.writes m (if arm then rCount n.val else rAddReg n.val) = true →
      let c : Instr := if arm then .syncCountWrite m n v else .syncAddWrite m n v
      let o := regOp m n.val arm v
      (s.admitsUpdate o = true →
        ∃ s', exec c s = .next s' ∧ s'.reg (rCount n.val) = s.countWith o false ∧ s.regsBut s' [rCount n.val] ∧
          (s.untouched n.val = true → s'.reg (rCount n.val) = if arm then v else s.reg (rCount n.val) + v) ∧
          s'.mem = s.mem ∧ s'.tiles = s.tiles ∧ s'.errs = s.errs) ∧
      (s.admitsUpdate o = false →
        ∃ s' e, exec c s = .next s' ∧ s'.reg rDrop = satAdd (s.reg rDrop) 1 ∧ s.regsBut s' [rDrop, rDropInfo] ∧
          s'.errs = s.errs ++ [e] ∧ e.code = 0x50 ∧ s'.mem = s.mem ∧ s'.tiles = s.tiles)) ∧
    (∀ (t : TileId) (k : Fin 32), s.writes m (rTile t.val (oLsync k.val)) = true →
      let a := rTile t.val (oLsync k.val)
      let o := regOp m (2048 + 32 * t.val + k.val) true v
      (s.admitsUpdate o = true → (s.tile t).frameRun = false ∨ m = .swap →
        ∃ s', exec (.lsyncWrite m t k v) s = .next s' ∧ s'.reg a = s.countWith o false ∧ s.regsBut s' [a] ∧
          (s.untouched (2048 + 32 * t.val + k.val) = true → s'.reg a = v) ∧ s'.mem = s.mem ∧ s'.errs = s.errs) ∧
      (s.admitsUpdate o = true → (s.tile t).frameRun = true → m ≠ .swap →
        ∃ s' e, exec (.lsyncWrite m t k v) s = .next s' ∧ s'.regs = s.regs ∧ s'.errs = s.errs ++ [e] ∧ e.code = 0x50 ∧
          s'.mem = s.mem ∧ s'.tiles = s.tiles) ∧
      (s.admitsUpdate o = false →
        ∃ s' e, exec (.lsyncWrite m t k v) s = .next s' ∧
          s'.reg (rTile t.val oLsyncDrop) = satAdd (s.reg (rTile t.val oLsyncDrop)) 1 ∧
          s.regsBut s' [rTile t.val oLsyncDrop, rTile t.val oLsyncDropInfo] ∧
          s'.errs = s.errs ++ [e] ∧ e.code = 0x50 ∧ s'.mem = s.mem ∧ s'.tiles = s.tiles)) ∧
    (s.writes m rPace = true →
      let a := rCount (fld (s.reg rFrObj) 0 11)
      (bit (s.reg rTickStatus) 3 = true →
        ∃ s', exec (.pace m v) s = .next s' ∧ s.regsBut s' [a] ∧ s'.mem = s.mem ∧ s'.tiles = s.tiles ∧ s'.errs = s.errs ∧
          s'.reg a = s.countWith
            { obj := fld (s.reg rFrObj) 0 11
              arm := false
              value := v
              src := .pace
              frame := false
              unit := masterCode m
              thread := 0
              kind := 6
              ack := false } false ∧
          (s.untouched (fld (s.reg rFrObj) 0 11) = true → s'.reg a = s.reg a + v)) ∧
      (bit (s.reg rTickStatus) 3 = false →
        ∃ s' e, exec (.pace m v) s = .next s' ∧ s'.reg rDrop = satAdd (s.reg rDrop) 1 ∧ s.regsBut s' [rDrop, rDropInfo] ∧
          s'.errs = s.errs ++ [e] ∧ e.code = 0x50 ∧ s'.mem = s.mem ∧ s'.tiles = s.tiles)) ∧
    (∀ w : Fin 32, s.writes m (rWatchTarget w.val) = true →
      ∃ s', exec (.watchCfgWrite m w true v) s = .next s' ∧ s'.reg (rWatchTarget w.val) = v ∧
        s'.reg (rWatchStatus w.val) = 0 ∧ s.regsBut s' [rWatchTarget w.val, rWatchStatus w.val] ∧ s'.mem = s.mem ∧
        s'.tiles = s.tiles) ∧
    ∀ w : Fin 32, s.writes m (rWatchCfg w.val) = true →
      ∃ s', exec (.watchCfgWrite m w false v) s = .next s' ∧ s'.reg (rWatchCfg w.val) = v &&& 0x307FF ∧
        s'.reg (rWatchStatus w.val) = 0 ∧ s.regsBut s' [rWatchCfg w.val, rWatchStatus w.val] ∧ s'.mem = s.mem ∧
        s'.tiles = s.tiles

/-- In a thread whose predicate selects the slot on, with legal fields: SIG raises and ARM sets the count of an object
of the thread's own tile, as R275 orders the updates of one ck, where the object takes the update. For another object
one message leaves: in a frame thread in its reserved cycle, in an asynchronous one while none of its operations is
unacknowledged. WAIT stalls the thread with the WAIT it names; for a global object one watch word leaves. CREDIT.GRANT
through an enabled window sends one request word with s[A][23:0] bytes to the window's tile, through a disabled one
nothing. LCHK, with a handle that passes the checks: when the object's count of the ck before has reached s[N] nothing
but the trace changes; else the rows named are a late range and with bit 30 of s[N+1] one late note leaves. No byte of
memory changes. (R255, R256, R258, R259, R260, R261, R264, R275, R277, 07_tile_flow_ops.md) -/
def Obligations.SyncThreadOps : Prop :=
  ∀ (s : State) (t : TileId) (th : ThreadId) (w : SlotWord), s.on t th w = true →
    let frame := s.isFrame t th
    let y := s.thr t th
    let lost := rTile t.val oTrLost
    let obj := sf w 10 12
    (∀ arm : Bool, (arm = true → sf w 0 5 = 0) → (arm = false → sb w 9 = true → sf w 0 4 = 0) →
      (frame = false → y.unacked = 0) →
      let c : Instr := if arm then .arm t th w else .sig t th w
      let v := if arm then y.rs (sf w 5 5) else if sb w 9 then y.rs (sf w 4 5) else BitVec.ofNat 32 (sf w 0 9)
      let o : SyncOp := {
        obj := obj
        arm := arm
        value := v
        src := .thread
        frame := frame
        unit := t.val
        thread := th.val
        kind := 0
        ack := !frame && !ownObj t.val obj }
      (ownObj t.val obj = true → s.admitsUpdate o = true →
        ∃ s', exec c s = .next s' ∧ s'.reg (objReg obj) = s.countWith o true ∧ s.regsBut s' [objReg obj, lost] ∧
          (s.untouched obj = true → s'.reg (objReg obj) = if arm then v else s.reg (objReg obj) + v) ∧
          s'.mem = s.mem ∧ s'.mesh = s.mesh) ∧
      (ownObj t.val obj = false → (arm = true → obj < 2048) → (frame = true → s.dataReserved t th.val .remote false = true) →
        ∃ s' f, exec c s = .next s' ∧ s'.mesh.flits = s.mesh.flits ++ [f] ∧ f.body = .sync o ∧ f.frame = frame ∧
          f.lane = .data ∧ f.dst = (if obj < 2048 then syncRouter obj else (obj - 2048) / 32) ∧ s.regsBut s' [lost] ∧
          s'.mem = s.mem ∧ (s'.thr t th).unacked = (if frame then y.unacked else y.unacked + 1))) ∧
    (sf w 0 4 = 0 → sf w 4 5 % 4 = 0 → sf w 4 5 ≠ 0 → obj < 2048 ∨ ownObj t.val obj = true → y.wait = none →
      (frame = true → obj < 2048 → s.sendReserved t th.val 1 = true) →
      ∃ s' r, exec (.wait t th w) s = .next s' ∧ (s'.thr t th).wait = some r ∧ r.obj = obj ∧ r.eq = sb w 9 ∧
        r.target = y.rs (sf w 4 5) ∧ r.frame = frame ∧ (s'.thr t th).st = .stall ∧ (s'.thr t th).stall = 6 ∧
        (frame = true → r.p = (y.rs (sf w 4 5 + 1)).toNat ∧ r.s = (y.rs (sf w 4 5 + 2)).toNat % 256) ∧
        y.sameRegs (s'.thr t th) ∧ s.regsBut s' [lost] ∧ s'.mem = s.mem ∧
        (2048 ≤ obj → s'.mesh = s.mesh ∧ (r.c.isSome ↔ waitHolds (sb w 9) (y.rs (sf w 4 5)) (s.countBefore obj) = true)) ∧
        (obj < 2048 → r.c = none ∧ ∃ f x, s'.mesh.flits = s.mesh.flits ++ [f] ∧ f.body = .watch x ∧ f.lane = .request ∧
          f.dst = syncRouter obj ∧ x.obj = obj ∧ x.eq = r.eq ∧ x.target = r.target ∧ x.tile = t.val ∧ x.thread = th.val ∧
          x.tag = r.tag ∧ x.frame = frame)) ∧
    (sf w 0 13 = 0 →
      let cfg := s.treg t.val (oCwCfg (sf w 18 4))
      (bit cfg 16 = true → (frame = true → posClass s.round = .remote ∧ s.sendReserved t th.val 1 = true) →
        ∃ s' f, exec (.creditGrant t th w) s = .next s' ∧ s'.mesh.flits = s.mesh.flits ++ [f] ∧
          f.body = .grant (fld cfg 0 6) (fld cfg 6 4) ((y.rs (sf w 13 5)).toNat % 2 ^ 24) ∧ f.lane = .request ∧
          f.src = t.val ∧ f.frame = frame ∧ s'.regs = s.regs ∧ s'.mem = s.mem ∧ y.sameRegs (s'.thr t th)) ∧
      (bit cfg 16 = false →
        ∃ s', exec (.creditGrant t th w) s = .next s' ∧ s.onlyThread s' t th ∧ y.sameRegs (s'.thr t th))) ∧
    (let e := s.handle t (sf w 11 6)
     let q := (y.rs (sf w 6 5 + 1)).toNat
     let row (j : Nat) : Nat := hStart e + j * hStride0 e
     let count := (s.countBefore (2048 + 32 * t.val + sf w 17 5)).toNat
     frame = true → sf w 0 6 = 0 → sf w 6 5 % 2 = 0 →
      s.handleFault (some t.val) e false false (fun _ => true) (hStart e) 0 = none →
      ∃ s', exec (.lchk t th w) s = .next s' ∧ s'.mem = s.mem ∧ s.regsBut s' [lost] ∧ y.sameRegs (s'.thr t th) ∧
        ((y.rs (sf w 6 5)).toNat ≤ count → (s'.tile t).late = (s.tile t).late ∧ s'.mesh = s.mesh) ∧
        (count < (y.rs (sf w 6 5)).toNat →
          (0 < q / 2 ^ 16 % 256 → 0 < hStride0 e → (s'.tile t).late =
            ((s.tile t).addLate (row (q % 65536)) (row (q % 65536 + q / 2 ^ 16 % 256) - 1)).late) ∧
          (q / 2 ^ 30 % 2 = 0 → s'.mesh = s.mesh) ∧
          (q / 2 ^ 30 % 2 = 1 → ∃ f, s'.mesh.flits = s.mesh.flits ++ [f] ∧
            f.body = .lateNote (q / 2 ^ 24 % 64) (bit (s.reg rFrame) 0))))

/-- When the flit that stands first in the mesh has reached its destination: a SIG or ARM that its object takes raises
or sets the object's count, as R275 orders the updates of one ck, and an asynchronous thread's is acknowledged; an
acknowledgement lowers the thread's count of unacknowledged operations; a watch word fills its watch slot, unless it
is a frame thread's past its last ck; a release with the WAIT's tag gives the WAIT its ck; a credit grant that fits
raises its counter's balance. Memory does not change. (R103, R264, R275, R277, R278, R281, 08_sync_objects.md) -/
def Obligations.SyncArrivals : Prop :=
  ∀ (s : State) (f : Flit), s.first f = true →
    (∀ o : SyncOp, f.body = .sync o → s.admitsUpdate o = true →
      ∃ s', exec .syncUpdateArrival s = .next s' ∧ s'.reg (objReg o.obj) = s.countWith o false ∧
        (s.untouched o.obj = true →
          s'.reg (objReg o.obj) = if o.arm then o.value else s.reg (objReg o.obj) + o.value) ∧
        s.regsBut s' [objReg o.obj] ∧ s'.mem = s.mem ∧
        (o.ack = true → ∃ g, s'.mesh.flits = s.mesh.flits.filter (fun x => x.age ≠ f.age) ++ [g] ∧ g.dst = o.unit ∧
          g.body = .syncAck o.unit o.thread) ∧
        (o.ack = false → s'.mesh.flits = s.mesh.flits.filter (fun x => x.age ≠ f.age))) ∧
    (∀ (t : TileId) (th : ThreadId), f.body = .syncAck t.val th.val →
      ∃ s', exec (.syncAck t th) s = .next s' ∧ (s'.thr t th).unacked = (s.thr t th).unacked - 1 ∧
        s'.regs = s.regs ∧ s'.mem = s.mem) ∧
    (∀ w : Watch, f.body = .watch w → s.pdOn 7 = true →
      ∃ s', exec .watchWordArrival s = .next s' ∧
        s'.watchAt (watchKey w.obj w.tile w.thread) =
          (if w.frame && decide (w.p + w.s < s.sched + hopsSync w.tile w.obj) then none
            else some { w with held := none }) ∧
        s'.regs = s.regs ∧ s'.mem = s.mem ∧ s'.tiles = s.tiles) ∧
    (∀ (t : TileId) (th : ThreadId) (who : Nat) (w : WaitRec), f.body = .release t.val th.val w.tag who →
      (s.thr t th).wait = some w → w.obj < 2048 → w.c = none →
      ∃ s', exec (.releaseArrival t) s = .next s' ∧ s'.regs = s.regs ∧ s'.mem = s.mem ∧
        (s'.thr t th).wait = some { w with
          c := some (if w.frame then s.sched else s.fck)
          who := who }) ∧
    ∀ (t : TileId) (k n : Nat), f.body = .grant t.val k n → s.pdOn (16 + t.val) = true →
      fld (s.reg (rTile t.val (oCcBal k))) 0 24 + n ≤ 0xFFFFFF →
      ∃ s', exec (.creditGrantArrival t) s = .next s' ∧
        s'.reg (rTile t.val (oCcBal k)) = BitVec.ofNat 32 (fld (s.reg (rTile t.val (oCcBal k))) 0 24 + n) ∧
        s.regsBut s' [rTile t.val (oCcBal k)] ∧ s'.mem = s.mem

/-- While the frame domain acts: an asynchronous WAIT whose condition was met in ck c lets its thread run again in the
ck max(i, c), a frame WAIT in max(i, P, c) where that is no later than P + S, with the largest lateness kept. A frame
WAIT not satisfied by P + S slips in max(i, P + S + 1): every thread of the tile reads FAULTED, or, where another
tile's recovery absorbs the slip, the thread runs again. An asynchronous watch that has held since an earlier ck, and a
frame watch within its injection times, leave one release in the mesh and free their slot; a frame watch that can make
no release by P + S − h_B is discarded. (R37, R38, R262, R278, R506, 01_frame_tick.md, 08_sync_objects.md) -/
def Obligations.WaitsComplete : Prop :=
  ∀ (s : State) (t : TileId) (th : ThreadId), s.frameActs = true →
    (∀ (w : WaitRec) (c : Nat), (s.thr t th).wait = some w → w.c = some c →
      (w.frame = false → s.fck = max w.i c →
        ∃ s', exec (.waitComplete t th) s = .next s' ∧ (s'.thr t th).wait = none ∧ (s'.thr t th).st = .run ∧
          s.regsBut s' [rTile t.val oTrLost] ∧ s'.mem = s.mem) ∧
      (w.frame = true → s.sched = max (max w.i w.p) c → s.sched ≤ w.p + w.s →
        ∃ s', exec (.waitComplete t th) s = .next s' ∧ (s'.thr t th).wait = none ∧ (s'.thr t th).st = .run ∧
          (let a := rTile t.val oLedgerSlack
           s'.reg a = if (s.reg a).toNat < s.sched - w.p then BitVec.ofNat 32 (s.sched - w.p) else s.reg a) ∧
          s.regsBut s' [rTile t.val oTrLost, rTile t.val oLedgerSlack] ∧ s'.mem = s.mem)) ∧
    (∀ w : WaitRec, (s.thr t th).wait = some w → w.frame = true → s.sched = max w.i (w.p + w.s + 1) →
      (∀ c, w.c = some c → w.p + w.s < max (max w.i w.p) c) →
      ∃ s', exec (.slip t th) s = .next s' ∧ s'.mem = s.mem ∧
        (s.absorbs t = false → (∀ j, (s'.thr t j).st = .faulted) ∧ bit (s'.reg rTickStatus) 11 = true) ∧
        (s.absorbs t = true → (s'.thr t th).wait = none ∧ (s'.thr t th).st = .run ∧
          s'.reg (rTile t.val oFaultCount) = satAdd (s.reg (rTile t.val oFaultCount)) 1)) ∧
    (∀ (half : Fin 2) (w : Watch) (c : Nat), s.watchAt (512 * half.val + 8 * t.val + th.val) = some w → w.held = some c →
      (w.frame = false → c + 1 ≤ s.ck) →
      (w.frame = true → c + 1 ≤ s.sched ∧ w.p ≤ s.sched + hopsSync w.tile w.obj ∧
        s.sched + hopsSync w.tile w.obj ≤ w.p + w.s) →
      ∃ s' f, exec (.releaseInject half t th) s = .next s' ∧
        s'.watchAt (512 * half.val + 8 * t.val + th.val) = none ∧ s'.mesh.flits = s.mesh.flits ++ [f] ∧
        f.body = .release t.val th.val w.tag w.who ∧ f.frame = w.frame ∧ s'.regs = s.regs ∧ s'.mem = s.mem ∧
        s'.tiles = s.tiles) ∧
    ∀ (half : Fin 2) (w : Watch), s.watchAt (512 * half.val + 8 * t.val + th.val) = some w → w.frame = true →
      w.p + w.s ≤ s.sched + hopsSync w.tile w.obj →
      (w.p + w.s = s.sched + hopsSync w.tile w.obj → ∀ c, w.held = some c → s.sched ≤ c) →
      ∃ s', exec (.watchLapse half t th) s = .next s' ∧
        s'.watchAt (512 * half.val + 8 * t.val + th.val) = none ∧ s'.regs = s.regs ∧ s'.mem = s.mem ∧
        s'.tiles = s.tiles ∧ s'.mesh = s.mesh

/-- When master m's write reaches the register: START of an idle or faulted asynchronous thread and STOP of an
asynchronous thread are pending until the thread's next position, where START puts it at its ENTRY, running unless the
tile is halted, and STOP leaves it IDLE. A halt stops every running or stalled thread, but frame threads while the tile
runs them; with FORCE in such a tile it leaves every thread FAULTED. Its release lets asynchronous threads resume;
FAULT_CLR clears FAULT_INFO.VALID and changes nothing else. Memory does not change. (R175, R176, R177, R178, R179,
R180, R186, 05_tile_model.md) -/
def Obligations.ThreadControl : Prop :=
  ∀ (s : State) (t : TileId) (th : ThreadId),
    (∀ m : Master, s.writes m (rTile t.val oThreadCtrl) = true → s.isFrame t th = false → s.isOff t th = false →
      ((s.thr t th).st = .idle ∨ (s.thr t th).st = .faulted →
        ∃ s', exec (.threadStart m t th) s = .next s' ∧ s'.tiles = (s.setTile t (s'.tile t)).tiles ∧
          s'.tile t = { s.tile t with starts := (s.tile t).starts ||| BitVec.ofNat 8 (2 ^ th.val) } ∧
          s'.regs = s.regs ∧ s'.mem = s.mem) ∧
      ∃ s', exec (.threadStop m t th) s = .next s' ∧ s'.tiles = (s.setTile t (s'.tile t)).tiles ∧
        s'.tile t = { s.tile t with stops := (s.tile t).stops ||| BitVec.ofNat 8 (2 ^ th.val) } ∧
        s'.regs = s.regs ∧ s'.mem = s.mem) ∧
    (s.isFrame t th = false → s.isOff t th = false →
      let r := s.threadNow t th
      ((s.tile t).stops.getLsbD th.val = true → (r.thr t th).st = .idle ∧ (s.thr t th).sameRegs (r.thr t th)) ∧
      ((s.tile t).stops.getLsbD th.val = false → (s.tile t).starts.getLsbD th.val = true →
        (s.thr t th).st = .idle ∨ (s.thr t th).st = .faulted →
        (r.thr t th).pc = (s.treg t.val (oEntry th.val)).setWidth 12 ∧ (s.thr t th).sameRegs (r.thr t th) ∧
          (r.thr t th).st = (if bit (s.treg t.val oHaltCtrl) 0 then .halted else .run)) ∧
      (r.tile t).starts.getLsbD th.val = false ∧ (r.tile t).stops.getLsbD th.val = false) ∧
    (∀ m : Master, s.writes m (rTile t.val oHaltCtrl) = true →
      (∃ s', exec (.tileHalt m t) s = .next s' ∧ s'.reg (rTile t.val oHaltCtrl) = 1 ∧ s'.mem = s.mem ∧
        ((s.tile t).frameRun = false ∨ s.isFrame t th = false → (s.thr t th).st = .run ∨ (s.thr t th).st = .stall →
          (s'.thr t th).st = .halted ∧ (s'.thr t th).wait = none) ∧
        ((s.tile t).frameRun = true → s.isFrame t th = true → s'.thr t th = s.thr t th)) ∧
      (∃ s', exec (.tileForcedHalt m t) s = .next s' ∧ s'.reg (rTile t.val oHaltCtrl) = 1 ∧ s'.mem = s.mem ∧
        ((s.tile t).frameRun = true → (s'.thr t th).st = .faulted) ∧
        ((s.tile t).frameRun = false → (s.thr t th).st = .run ∨ (s.thr t th).st = .stall → (s'.thr t th).st = .halted)) ∧
      ∃ s', exec (.tileHaltRelease m t) s = .next s' ∧ s'.reg (rTile t.val oHaltCtrl) = 0 ∧ s'.mem = s.mem ∧
        ((s.thr t th).st = .halted → s.isFrame t th = false → (s'.thr t th).st = (s.thr t th).resume) ∧
        ((s.thr t th).st = .halted → s.isFrame t th = true → (s'.thr t th).st = .idle)) ∧
    ∀ m : Master, s.writes m (rTile t.val 0x84) = true →
      ∃ s', exec (.faultClr m t) s = .next s' ∧ s.onlyReg s' (rTile t.val oFaultInfo) ∧
        s'.reg (rTile t.val oFaultInfo) = s.reg (rTile t.val oFaultInfo) &&& ~~~ 0x10

/-- HALTED reads 1 once the halt's conditions hold. A load write that reaches a halted tile sets LOAD and asks for 4,096
bundles; LOAD reads 0 once all have come. A stopped tile that recovers goes off once it has drained, or 256 ck after its
fault, with its registers, tile state and PD_ON bit; a recovering tile that is off comes on, its TREC bit clears and its Pail reads as lost.
(R174, R178, R505, 05_tile_model.md, 15_faults_and_ordering.md) -/
def Obligations.TileImageAndRecovery : Prop :=
  ∀ (s : State) (m : Master) (t : TileId),
    (s.pdOn (16 + t.val) = true → s.haltDone t = true →
      ∃ s', exec (.tileHaltComplete t) s = .next s' ∧ s.onlyReg s' (rTile t.val oTileStatus) ∧
        s'.reg (rTile t.val oTileStatus) = s.reg (rTile t.val oTileStatus) ||| 2) ∧
    (s.writes m (rTile t.val oIbufCtrl) = true → s.tileHalted t = true → bit (s.reg (rTile t.val oIbufCtrl)) 0 = false →
      ∃ s', exec (.ibufLoad m t) s = .next s' ∧ s'.reg (rTile t.val oIbufCtrl) = 1 ∧ (s'.tile t).ibufLoad = 4096 ∧
        (∀ a, a ≠ rTile t.val oIbufCtrl → s'.reg a = s.reg a) ∧ s'.mem = s.mem) ∧
    (bit (s.reg (rTile t.val oIbufCtrl)) 0 = true → (s.tile t).ibufLoad = 0 →
      ∃ s', exec (.ibufLoadComplete t) s = .next s' ∧ s.onlyReg s' (rTile t.val oIbufCtrl) ∧
        s'.reg (rTile t.val oIbufCtrl) = 0) ∧
    (s.recovering t.val = true → s.pdOn (16 + t.val) = true → (s.tile t).stopped = true →
      bit (s.reg rDbgCtrl) 1 = false ∨ s.dbg.stopped = false →
      (s.accessOut t.val = false ∧ s.flitsOut t.val = false ∧ (s.tile t).engineBusy = false) ∨ (s.tile t).stopCk + 256 ≤ s.ck →
      ∃ s', exec (.tileRecovery t) s = .next s' ∧ s'.pdOn (16 + t.val) = false ∧ s'.tile t = Tile.reset ∧
        s'.mem.cells = s.mem.cells ∧ ∀ u, u ≠ t → s'.tile u = s.tile u) ∧
    (s.recovering t.val = true → s.pdOn (16 + t.val) = false →
      ∃ s', exec (.tileRecoveryComplete t) s = .next s' ∧ s'.pdOn (16 + t.val) = true ∧ s'.recovering t.val = false ∧
        s'.tiles = s.tiles ∧
        (∀ a, t.val * 0x400000 ≤ a → a < (t.val + 1) * 0x400000 → s'.mem.byte a = Config.lostByte s.mem.lost.length a) ∧
        ∀ a, (a < t.val * 0x400000 ∨ (t.val + 1) * 0x400000 ≤ a) → s'.mem.byte a = s.mem.byte a)

/-- For an integer TYPE with RND = 0 and a predicate that selects on, VADD, VSUB, VMUL and VFMA leave in each lane of
v[VD] the exact result, kept to its low bits where SAT = 0 and clamped to the type's range where SAT = 1; VABS and
VNEG (VB = 0, SB = 0) the same; VSHL the shifted lane by the low bits of the count. With SAT = 0, VMULH leaves the
upper half of the exact product, VMIN and VMAX the smaller and the larger lane, and VSHR the lane shifted right and
rounded under RND. A lane that reads a poisoned lane holds the substitution value with poison. Nothing outside v[VD]
and, under SR, the draw counter changes. (R217, R218, R221, R222, R224, 06_tile_compute_ops.md) -/
def Obligations.VectorIntegers : Prop :=
  ∀ (s : State) (t : TileId) (th : ThreadId) (w : SlotWord), s.on t th w = true → sf w 4 3 < 5 →
    let bits := typeBits (sf w 4 3)
    let int (x : Nat) : Int := intOfBits bits (typeSigned (sf w 4 3)) x
    let lo : Int := if typeSigned (sf w 4 3) then -(2 ^ (bits - 1)) else 0
    let hi : Int := if typeSigned (sf w 4 3) then 2 ^ (bits - 1) - 1 else 2 ^ bits - 1
    let put (i : Int) : Nat := ((if sb w 2 then max lo (min hi i) else i) % (2 ^ bits : Int)).toNat
    (sf w 0 2 = 0 →
      (∀ p ∈ ([(.vadd t th w, false, fun _ a b => int a + int b), (.vsub t th w, false, fun _ a b => int a - int b),
          (.vmul t th w, false, fun _ a b => int a * int b), (.vfma t th w, true, fun d a b => int d + int a * int b),
          (.vshl t th w, false, fun _ a b => int a * 2 ^ (b % bits))] :
          List (Instr × Bool × (Nat → Nat → Nat → Int))),
        ∃ s', exec p.1 s = .next s' ∧ s.lanewise s' t th w p.2.1 true (fun _ d a b => put (p.2.2 d a b))) ∧
      (sf w 7 5 = 0 → sb w 3 = false →
        (∃ s', exec (.vabs t th w) s = .next s' ∧
          s.lanewise s' t th w false false (fun _ _ a _ => put (if int a < 0 then -(int a) else int a))) ∧
        ∃ s', exec (.vneg t th w) s = .next s' ∧ s.lanewise s' t th w false false (fun _ _ a _ => put (-(int a)))) ∧
      (sb w 2 = false →
        (∃ s', exec (.vmulh t th w) s = .next s' ∧
          s.lanewise s' t th w false true (fun _ _ a b => (int a * int b / 2 ^ bits % (2 ^ bits : Int)).toNat)) ∧
        (∃ s', exec (.vmin t th w) s = .next s' ∧
          s.lanewise s' t th w false true (fun _ _ a b => if int b < int a then b else a)) ∧
        ∃ s', exec (.vmax t th w) s = .next s' ∧
          s.lanewise s' t th w false true (fun _ _ a b => if int b < int a then a else b))) ∧
    (sb w 2 = false → sf w 0 2 ≠ 3 →
      ∃ s', exec (.vshr t th w) s = .next s' ∧
        s.lanewise s' t th w false true (fun k _ a b =>
          let d : Dy := ⟨int a, -((b % bits : Nat) : Int)⟩
          let m : Rnd := if sf w 0 2 = 0 then .rne else if sf w 0 2 = 1 then .rtz else .sr
          let u : Int := roundUnits m (srDraw (s.srKeyOf t) (s.thr t th).draw k) d 0
          ((if int a < 0 then -u else u) % (2 ^ bits : Int)).toNat))

/-- For a floating TYPE with RND other than 3 and a predicate that selects on, VADD, VSUB, VMUL and VFMA leave in each
lane of v[VD] the canonical NaN where the exact result is NaN and else the exact result encoded once under RND and
SAT, with the draw of its lane. With RND = 0, VABS clears and VNEG flips the sign bit alone, and VMIN and VMAX give
the canonical NaN where either lane is NaN and else the smaller and the larger, −0 below +0; under SAT an infinite
result of these is the largest finite number of its sign. VLUT (VB = 0, SB = 0), while no table is being loaded, gives
the table's line at the scaled lane. A lane that reads a poisoned lane holds the substitution value with
poison; nothing else changes but the draw counter under SR. (R139, R219, R222, R224, R227, 06_tile_compute_ops.md) -/
def Obligations.VectorFloats : Prop :=
  ∀ (s : State) (t : TileId) (th : ThreadId) (w : SlotWord) (ff : FloatFmt) (m : Rnd), s.on t th w = true →
    5 ≤ sf w 4 3 → floatFmt (typeFmt (sf w 4 3)) = some ff → Rnd.ofField (sf w 0 2) = some m →
    let bits := typeBits (sf w 4 3)
    let num (x : Nat) : Machine.Num := decodeElem (typeFmt (sf w 4 3)) x
    let put (k : Nat) (x : Machine.Num) : Nat :=
      if x.isNaN then canonNaN ff false else encodeFloat ff m (sb w 2) (srDraw (s.srKeyOf t) (s.thr t th).draw k) x
    let fin (x : Nat) : Nat := if sb w 2 && (num x).isInf then maxBits ff (num x).isNeg else x
    (∀ p ∈ ([(.vadd t th w, false, fun _ a b => (num a).add (num b)), (.vsub t th w, false, fun _ a b => (num a).add (num b).negate),
        (.vmul t th w, false, fun _ a b => (num a).mul (num b)),
        (.vfma t th w, true, fun d a b => (num d).add ((num a).mul (num b)))] :
        List (Instr × Bool × (Nat → Nat → Nat → Machine.Num))),
      ∃ s', exec p.1 s = .next s' ∧ s.lanewise s' t th w p.2.1 true (fun k d a b => put k (p.2.2 d a b))) ∧
    (sf w 0 2 = 0 →
      (∃ s', exec (.vmin t th w) s = .next s' ∧
        s.lanewise s' t th w false true (fun _ _ a b => if (num a).isNaN || (num b).isNaN then canonNaN ff false
          else fin (if laneLess (sf w 4 3) b a then b else a))) ∧
      (∃ s', exec (.vmax t th w) s = .next s' ∧
        s.lanewise s' t th w false true (fun _ _ a b => if (num a).isNaN || (num b).isNaN then canonNaN ff false
          else fin (if laneLess (sf w 4 3) b a then a else b))) ∧
      (sf w 7 5 = 0 → sb w 3 = false →
        (∃ s', exec (.vabs t th w) s = .next s' ∧
          s.lanewise s' t th w false false (fun _ _ a _ => fin (a % 2 ^ (bits - 1)))) ∧
        ∃ s', exec (.vneg t th w) s = .next s' ∧
          s.lanewise s' t th w false false (fun _ _ a _ => fin ((a + 2 ^ (bits - 1)) % 2 ^ bits)))) ∧
    (sf w 7 5 = 0 → sb w 3 = false → (s.tile t).lutLoading = false →
      ∃ s', exec (.vlut t th w) s = .next s' ∧ s.lanewise s' t th w false false (fun k _ a _ =>
        let b32 (x : Machine.Num) : Machine.Num := decodeElem 0x0B (encodeElem 0x0B .rne false 0 x)
        let q := b32 ((b32 ((num a).add (decodeElem 0x0B (s.tile t).lutBase.toNat).negate)).mul
          (decodeElem 0x0B (s.tile t).lutScale.toNat))
        if (num a).isNaN || q.isNaN then canonNaN ff false
        else if q.cmp (.fin false 0 0) < 0 then put k (lutPoint (s.tile t) 0 (.fin false 0 0))
        else if 0 ≤ q.cmp (.ofDy ⟨1024, 0⟩) then put k (lutPoint (s.tile t) 1023 (.fin false 1 0))
        else put k (lutPoint (s.tile t) (q.toDy.scaledFloor 0).1 (q.add (.ofDy ⟨-((q.toDy.scaledFloor 0).1 : Int), 0⟩)))))

/-- Whenever the predicate selects the word on and its fields are legal: VAND, VOR and VXOR leave the bitwise result in
each lane; VCMP all ones where the relation holds and 0 elsewhere, a NaN lane making only NE true; VSEL the va lane
where the vd lane is not 0 and the vb lane elsewhere, poisoned by the mask or the selected lane alone; VBCAST the
low bits of s[VA], without poison. Nothing else changes. (R217, R220, R224, 06_tile_compute_ops.md) -/
def Obligations.VectorBitsAndSelection : Prop :=
  ∀ (s : State) (t : TileId) (th : ThreadId) (w : SlotWord), s.on t th w = true →
    let bits := typeBits (sf w 4 3)
    (sb w 2 = false → sf w 0 2 = 0 →
      (∀ p ∈ ([(.vand t th w, fun a b => a &&& b), (.vor t th w, fun a b => a ||| b), (.vxor t th w, fun a b => a ^^^ b)] :
          List (Instr × (Nat → Nat → Nat))),
        ∃ s', exec p.1 s = .next s' ∧ s.lanewise s' t th w false true (fun _ _ a b => p.2 a b)) ∧
      (∃ s', exec (.vsel t th w) s = .next s' ∧ s.onlyThread s' t th ∧ (s.thr t th).sameButV (s'.thr t th) (sf w 17 5) ∧
        (s'.thr t th).draw = (s.thr t th).draw ∧
        ∀ k, k < 2048 / bits →
          let d := (s.thr t th).vlane bits (sf w 17 5) k
          let x := if d.1 ≠ 0 then (s.thr t th).vlane bits (sf w 12 5) k else (s.thr t th).vbLane w k
          (s'.thr t th).vlane bits (sf w 17 5) k =
            if d.2 || x.2 then ((s.subst t.val (typeFmt (sf w 4 3))).toNat % 2 ^ bits, true) else x) ∧
      (sf w 7 5 = 0 → sb w 3 = false →
        ∃ s', exec (.vbcast t th w) s = .next s' ∧ s.onlyThread s' t th ∧ (s.thr t th).sameButV (s'.thr t th) (sf w 17 5) ∧
          (s'.thr t th).draw = (s.thr t th).draw ∧
          ∀ k, k < 2048 / bits →
            (s'.thr t th).vlane bits (sf w 17 5) k = (((s.thr t th).rs (sf w 12 5)).toNat % 2 ^ bits, false))) ∧
    (sf w 0 3 < 6 →
      ∃ s', exec (.vcmp t th w) s = .next s' ∧ (s'.thr t th).draw = (s.thr t th).draw ∧
        s.lanewise s' t th w false true (fun _ _ a b =>
          let c := laneCmp (sf w 4 3) a b
          let h : Bool := match sf w 0 3 with
            | 0 => c == some 0
            | 1 => c != some 0
            | 2 => c == some (-1)
            | 3 => c == some (-1) || c == some 0
            | 4 => c == some 1
            | _ => c == some 1 || c == some 0
          if h then 2 ^ bits - 1 else 0))

/-- Whenever the predicate selects the word on, with VB = 0 and bit 0 = 0, each reduction writes its result over the
lanes of v[VA] to s[VD] and to p[PD] whether any lane was poisoned; s0 and p0 discard. With every lane poisoned
VRSUM, VRMAX and VRMIN write 0 and VRARGMAX 0xFFFF_FFFF. For an integer TYPE without poisoned lanes, VRSUM writes
the sum modulo 2^32, VRMAX and VRMIN a lane that no lane exceeds or falls below, and VRARGMAX the lowest index of a
largest lane. No vector register changes, and nothing else. (R223, 06_tile_compute_ops.md) -/
def Obligations.VectorReductions : Prop :=
  ∀ (s : State) (t : TileId) (th : ThreadId) (w : SlotWord), s.on t th w = true → sf w 7 5 = 0 → sb w 0 = false →
    let y := s.thr t th
    let bits := typeBits (sf w 4 3)
    let n := 2048 / bits
    let live (k : Nat) : Bool := !(y.vlane bits (sf w 12 5) k).2
    let int (k : Nat) : Int := intOfBits bits (typeSigned (sf w 4 3)) (y.vlane bits (sf w 12 5) k).1
    (∀ p ∈ ([(.vrsum t th w, 0), (.vrmax t th w, 0), (.vrmin t th w, 0), (.vrargmax t th w, 0xFFFFFFFF)] : List (Instr × Word)),
      ∃ s', exec p.1 s = .next s' ∧ s.onlyThread s' t th ∧ y.sameV (s'.thr t th) ∧ (s'.thr t th).draw = y.draw ∧
        (∀ j, j % 32 ≠ sf w 17 5 → (s'.thr t th).rs j = y.rs j) ∧ (∀ j, j % 8 ≠ sf w 1 3 → (s'.thr t th).rp j = y.rp j) ∧
        (sf w 1 3 ≠ 0 → (s'.thr t th).rp (sf w 1 3) = (List.range n).any (fun k => !live k)) ∧
        (sf w 17 5 ≠ 0 → (∀ k, k < n → live k = false) → (s'.thr t th).rs (sf w 17 5) = p.2)) ∧
    (sf w 17 5 ≠ 0 → sf w 4 3 < 5 → (∀ k, k < n → live k = true) →
      (∃ s', exec (.vrsum t th w) s = .next s' ∧
        (s'.thr t th).rs (sf w 17 5) = BitVec.ofInt 32 ((List.range n).foldl (fun a k => a + int k) 0)) ∧
      (∃ s', exec (.vrmax t th w) s = .next s' ∧
        ∃ k, k < n ∧ (s'.thr t th).rs (sf w 17 5) = BitVec.ofInt 32 (int k) ∧ ∀ j, j < n → int j ≤ int k) ∧
      (∃ s', exec (.vrmin t th w) s = .next s' ∧
        ∃ k, k < n ∧ (s'.thr t th).rs (sf w 17 5) = BitVec.ofInt 32 (int k) ∧ ∀ j, j < n → int k ≤ int j) ∧
      ∃ s', exec (.vrargmax t th w) s = .next s' ∧
        ∃ k, k < n ∧ (s'.thr t th).rs (sf w 17 5) = BitVec.ofNat 32 k ∧ (∀ j, j < n → int j ≤ int k) ∧
          ∀ j, j < k → int j < int k)

/-- Whenever the predicate selects the word on and its fields are legal, VCVT encodes the elements of v[VA] that PART
selects into the elements of v[VD] that PART names, under RND and SAT with the draw of each destination element, and
VQNT encodes x × m × 2^(−31 − SHIFT) + z with SAT = 1 for the 64 INT32 lanes of v[VA]; a poisoned source gives the
destination's substitution value. The other elements of v[VD] keep their values. Nothing else changes but the draw
counter under SR. (R139, R141, R222, R228, R229, R230, 06_tile_compute_ops.md) -/
def Obligations.VectorConversions : Prop :=
  ∀ (s : State) (t : TileId) (th : ThreadId) (w : SlotWord) (m : Rnd), s.on t th w = true →
    Rnd.ofField (sf w 0 2) = some m → cvtFmt (sf w 2 5) = true →
    let y := s.thr t th
    let dst := sf w 2 5
    let nd := 2048 / fmtBits dst
    let draw (k : Nat) : Word := srDraw (s.srKeyOf t) y.draw k
    let sub := (s.subst t.val dst).toNat % 2 ^ fmtBits dst
    (∀ op : Fin 8, cvtFmt (sf w 7 5) = true →
      let ns := 2048 / fmtBits (sf w 7 5)
      let part := op.val / 2
      (if nd ≤ ns then part < ns / nd ∧ ns / nd < 8 else part < nd / ns ∧ nd / ns < 8) →
      let from0 := if nd ≤ ns then part * nd else 0
      let to0 := if nd ≤ ns then 0 else part * ns
      ∃ s', exec (.vcvt t th op w) s = .next s' ∧ s.onlyThread s' t th ∧ y.sameButV (s'.thr t th) (sf w 17 5) ∧
        (∀ k, k < min ns nd →
          let x := y.vlane (fmtBits (sf w 7 5)) (sf w 12 5) (from0 + k)
          lane (fmtBits dst) ((s'.thr t th).rv (sf w 17 5)) (to0 + k) =
              (if x.2 then sub
                else encodeElem dst m (decide (op.val % 2 = 1)) (draw (to0 + k)) (decodeElem (sf w 7 5) x.1)
                  % 2 ^ fmtBits dst) ∧
            (8 ≤ fmtBits dst → lanePoison (fmtBits dst) ((s'.thr t th).rpo (sf w 17 5)) (to0 + k) = x.2)) ∧
        ∀ j, j < nd → (j < to0 ∨ to0 + min ns nd ≤ j) →
          lane (fmtBits dst) ((s'.thr t th).rv (sf w 17 5)) j = lane (fmtBits dst) (y.rv (sf w 17 5)) j ∧
            (8 ≤ fmtBits dst → lanePoison (fmtBits dst) ((s'.thr t th).rpo (sf w 17 5)) j =
              lanePoison (fmtBits dst) (y.rpo (sf w 17 5)) j)) ∧
    (let q := (y.rs (sf w 7 5 + 1)).toNat
     let to0 := q / 2 ^ 8 % 8 * 64
     sf w 7 5 % 2 = 0 → q / 2 ^ 6 % 4 = 0 → q / 2 ^ 11 % 32 = 0 → q / 2 ^ 8 % 8 < nd / 64 →
      ∃ s', exec (.vqnt t th w) s = .next s' ∧ s.onlyThread s' t th ∧ y.sameButV (s'.thr t th) (sf w 17 5) ∧
        (∀ k, k < 64 →
          let x := y.vlane 32 (sf w 12 5) k
          lane (fmtBits dst) ((s'.thr t th).rv (sf w 17 5)) (to0 + k) =
              (if x.2 then sub
                else encodeElem dst m true (draw (to0 + k))
                  (.ofDy ((⟨intOfBits 32 true x.1 * (y.rs (sf w 7 5)).toInt, -(31 + ((q % 64 : Nat) : Int))⟩ : Dy).add
                    (.ofInt (intOfBits 16 true (q / 2 ^ 16))))) % 2 ^ fmtBits dst) ∧
            (8 ≤ fmtBits dst → lanePoison (fmtBits dst) ((s'.thr t th).rpo (sf w 17 5)) (to0 + k) = x.2)) ∧
        ∀ j, j < nd → (j < to0 ∨ to0 + 64 ≤ j) →
          lane (fmtBits dst) ((s'.thr t th).rv (sf w 17 5)) j = lane (fmtBits dst) (y.rv (sf w 17 5)) j)

/-- Whenever the predicate selects the word on, the fields and the quad hold no reserved value, both handles pass their
checks, the unit or its queue has a place and no bank that it names is held, MM, CONV or DW issues a macro-op of its
kind with M, N, S, the bank, the accumulate bit and the rows that the word and the quad give: to the idle unit in a
frame thread, else to the queue. Nothing else changes. (R165, R166, R192, R193, R194, R195, 06_tile_compute_ops.md) -/
def Obligations.MacroOpIssue : Prop :=
  ∀ (s : State) (t : TileId) (th : ThreadId) (w : SlotWord), s.on t th w = true →
    let idle := s.isFrame t th && (s.tile t).running.isNone && (s.tile t).starting.isNone
    idle = true ∨ (s.tile t).queued = none →
    ∀ p ∈ ([(.mm t th w, .mm), (.conv t th w, .conv), (.dw t th w, .dw)] : List (Instr × MacroKind)),
      let m := macroOf p.2 s t th (s.thr t th) w
      macroLegal m (s.thr t th) w = true → m.banks.any (s.tile t).bankHeld = false →
      s.macroHandle t m.ha (sf w 16 6) (pairOk p.2 (hFmt m.ha) (hFmt m.hb)) m.actAll m.lastA = none →
      s.macroHandle t m.hb (sf w 10 6) (pairOk p.2 (hFmt m.ha) (hFmt m.hb)) m.weightAll (0, m.jb) = none →
      let q (k : Nat) : Nat := ((s.thr t th).rs (sf w 0 5 + k)).toNat
      ∃ s' r, exec p.1 s = .next s' ∧ s.onlyTile s' t ∧
        s'.tile t = (if idle then { s.tile t with starting := some r } else { s.tile t with queued := some r }) ∧
        r.kind = p.2 ∧ r.thread = th.val ∧ r.frame = s.isFrame t th ∧ r.acc = sf w 7 3 ∧ r.accumulate = sb w 5 ∧
        r.issueCk = s.fck ∧ r.ha = s.handle t (sf w 16 6) ∧ r.hb = s.handle t (sf w 10 6) ∧
        r.m = q 0 % 512 + 1 ∧ r.n = q 0 / 2 ^ 9 % 32 + 1 ∧ r.s = q 0 / 2 ^ 14 % 4096 + 1 ∧
        r.obj = q 0 / 2 ^ 26 % 32 ∧ r.cen = decide (q 0 / 2 ^ 31 % 2 = 1) ∧ r.ja = q 1 % 65536 ∧ r.got = []

/-- While the frame domain acts and the unit is free, the macro-op that comes next, issued in an earlier ck, starts when
its conditions hold (in a frame thread a claimed first read and leave within the reservation; in an asynchronous one a
grant of an earlier ck and time to end): it runs from this ck to F + (steps − 1) L + compute + 1 later, and without
ACCUMULATE the flags of its rows are clear. At its end every element of its M × N results holds the start value with
each step's sum added in order, every other element is as before, the unit is free, and no byte of memory changes;
with CEN its object counts one more. (R165, R200, R201, R205, R206, R207, R208, R209, R210, R212,
06_tile_compute_ops.md) -/
def Obligations.MacroOpRuns : Prop :=
  ∀ (s : State) (t : TileId) (m : MacroOp), s.frameActs = true →
    ((s.tile t).running = none → (s.tile t).starting.or (s.tile t).queued = some m → m.issueCk < s.fck →
      (m.frame = true → s.overdraw t m.leave s.fck (m.endFrom s.fck) = none ∧
        s.readClaim t m.thread (bankOf (padBlock (m.weightAt 0) m.weightBytes 0)) = true) →
      (m.frame = false → (s.tile t).starting = none ∧
        (∃ g, (s.tile t).grant = some g ∧ g.move = false ∧ g.ended = false ∧ g.ck < s.ck) ∧
        s.framePending t = false ∧ s.endsInTime (m.endFrom s.fck) = true) →
      ∃ s' r, exec (.macroOpStart t) s = .next s' ∧ (s'.tile t).running = some r ∧ (s'.tile t).starting = none ∧
        (s'.tile t).queued = (if (s.tile t).starting.isSome then (s.tile t).queued else none) ∧
        r.kind = m.kind ∧ r.acc = m.acc ∧ r.m = m.m ∧ r.n = m.n ∧ r.a = s.fck ∧
        r.e = s.fck + m.fetch + (m.steps - 1) * m.stepLen + m.compute + 1 ∧
        (s'.tile t).acc = (s.tile t).acc ∧ s.sameBytes s' ∧
        (m.accumulate = false → ∀ row, row < m.m → (s'.tile t).flagAt (m.acc + row / 64) (row % 64) = false)) ∧
    ((s.tile t).running = some m → m.e ≤ s.fck → m.n ≤ 32 →
      ∃ s', exec (.macroOpEnd t) s = .next s' ∧ (s'.tile t).running = none ∧ s.sameBytes s' ∧
        (∀ row c, row < m.m → c < m.n →
          (s'.tile t).accAt (m.acc + row / 64) (32 * (row % 64) + c) =
            (List.range m.steps).foldl
              (fun a k => accStep (pairFp (hFmt m.ha) (hFmt m.hb)) a
                (stepSum m.kind
                  ((List.range (match m.kind with | .dw => m.kw | _ => 1)).map (m.unitA (s.subst t.val (hFmt m.ha)) k row))
                  ((List.range (match m.kind with | .dw => m.kw | _ => m.n)).map (m.unitB (s.subst t.val (hFmt m.hb)) k)) c))
              (if m.accumulate then (s.tile t).accAt (m.acc + row / 64) (32 * (row % 64) + c) else 0)) ∧
        (∀ b i, (∀ row c, row < m.m → c < m.n → 2048 * b + i ≠ 2048 * (m.acc + row / 64) + (32 * (row % 64) + c)) →
          (s'.tile t).accAt b i = (s.tile t).accAt b i) ∧
        (m.cen = false → s'.regs = s.regs) ∧
        (m.cen = true → s.admitsUpdate (doneSignal t m.obj m.frame m.thread 1) = true →
          let a := objReg (2048 + 32 * t.val + m.obj)
          s'.reg a = s.countWith (doneSignal t m.obj m.frame m.thread 1) true ∧ s.regsBut s' [a] ∧
          (s.untouched (2048 + 32 * t.val + m.obj) = true → s'.reg a = s.reg a + 1)))

/-- Whenever the predicate selects the word on, the reserved bits are 0 and the bank is free: ACC.RD leaves row pair RP
of the bank in v[VD], each half poisoned by its row's flag; ACC.WR writes the pair from v[VS], substituting poisoned
lanes, and sets the two flags; ACC.CLR clears the named banks and their flags and no other. LUT.LOAD with an even
pair and a handle that passes, while no table is being loaded, starts 33 reads from the next ck; in a ck after the
last read, the completion makes the words read the table, with base and scale. (R166, R213, R214, R215, R225, R226, 06_tile_compute_ops.md) -/
def Obligations.AccumulatorsAndTable : Prop :=
  ∀ (s : State) (t : TileId) (th : ThreadId) (w : SlotWord), s.on t th w = true →
    (sf w 0 9 = 0 → (s.tile t).bankBusy (sf w 14 3) s.fck = false →
      ∃ s', exec (.accRd t th w) s = .next s' ∧ s.onlyThread s' t th ∧ (s.thr t th).sameButV (s'.thr t th) (sf w 17 5) ∧
        ∀ k, k < 64 → (s'.thr t th).vlane 32 (sf w 17 5) k =
          (((s.tile t).accAt (sf w 14 3) (64 * sf w 9 5 + k)).toNat, (s.tile t).flagAt (sf w 14 3) (2 * sf w 9 5 + k / 32))) ∧
    (sf w 0 8 = 0 → (s.tile t).bankBusy (sf w 14 3) s.fck = false →
      ∃ s', exec (.accWr t th w) s = .next s' ∧ s.onlyTile s' t ∧ (s'.tile t).th = (s.tile t).th ∧
        (∀ k, k < 64 → (s'.tile t).accAt (sf w 14 3) (64 * sf w 9 5 + k) =
          (let x := (s.thr t th).vlane 32 (sf w 17 5) k
           if x.2 then s.subst t.val (if sb w 8 then 0x0B else 0x06) else BitVec.ofNat 32 x.1)) ∧
        (∀ r, r < 2 → (s'.tile t).flagAt (sf w 14 3) (2 * sf w 9 5 + r) =
          (List.range 32).any (fun k => ((s.thr t th).vlane 32 (sf w 17 5) (32 * r + k)).2)) ∧
        ∀ b i, (2048 * b + i < 2048 * sf w 14 3 + 64 * sf w 9 5 ∨ 2048 * sf w 14 3 + 64 * sf w 9 5 + 64 ≤ 2048 * b + i) →
          (s'.tile t).accAt b i = (s.tile t).accAt b i) ∧
    (sf w 0 14 = 0 → (∀ b, b < 8 → sb w (14 + b) = true → (s.tile t).bankBusy b s.fck = false) →
      ∃ s', exec (.accClr t th w) s = .next s' ∧ s.onlyTile s' t ∧ (s'.tile t).th = (s.tile t).th ∧
        ∀ b i, b < 8 → i < 2048 →
          (s'.tile t).accAt b i = (if sb w (14 + b) then 0 else (s.tile t).accAt b i) ∧
          (s'.tile t).flagAt b (i % 64) = (!sb w (14 + b) && (s.tile t).flagAt b (i % 64))) ∧
    (let e := s.handle t (sf w 16 6)
     let a := hStart e + sf w 0 11 * hStride0 e
     sf w 11 5 % 2 = 0 → (s.tile t).lutLoading = false → inOwnPail t.val e = true →
      s.handleFault (some t.val) e true false (fun _ => true) a 4096 0 (sf w 0 11) = none →
      (s.isFrame t th = true → s.overdraw t 1 (s.fck + 1) (s.fck + 33) = none) →
      ∃ s' j, exec (.lutLoad t th w) s = .next s' ∧ (s'.tile t).lutLoading = true ∧ (s'.tile t).lut = (s.tile t).lut ∧
        (s'.tile t).jobs = (s.tile t).jobs ++ [j] ∧ s'.mem = s.mem ∧ s'.regs = s.regs ∧
        j.kind = .lut e ((s.thr t th).rs (sf w 11 5)) ((s.thr t th).rs (sf w 11 5 + 1)) a ∧ j.reads.length = 33 ∧
        ∀ i, i < 33 → j.reads[i]? = some (s.fck + 1 + i, 0, padBlock a 4096 i, 128)) ∧
    ∀ (j : PortJob) (e : Quad) (base scale : Word) (first : Nat), j ∈ (s.tile t).jobs → j.kind = .lut e base scale first →
      (∀ x ∈ (s.tile t).jobs, (∃ e b c n, x.kind = .lut e b c n) → x = j) → j.reads = [] → j.e < s.fck →
      ∃ s', exec (.lutLoadComplete t) s = .next s' ∧ s.onlyTile s' t ∧ (s'.tile t).lutLoading = false ∧
        (s'.tile t).jobs = (s.tile t).jobs.filter (fun x => x ≠ j) ∧ (s'.tile t).lutBase = base ∧ (s'.tile t).lutScale = scale ∧
        ∀ k, k < 1024 → (∀ i, i < 4 → (blkByte j.got 0 (first + 4 * k + i)).2 = false) →
          (s'.tile t).lutEntry k =
            BitVec.ofNat 32 (natOfBytes ((List.range 4).map (fun i => (blkByte j.got 0 (first + 4 * k + i)).1)))

/-- Whenever the predicate selects the word on, the reserved bits are 0 and the handle passes its checks, a load from
the Pail that is claimed and lies in one block (frame thread), or behind no other access finds its cycle open
(asynchronous thread), leaves in half HF of v[VD] (LD) or in s[SD] (SLD) the bytes of the address, an uncorrectable
word's as the substitution pattern; an asynchronous one that does not, waits, an LD across two blocks as two accesses
of which the second waits; an LD of a frame thread that is not claimed, or lies across two blocks, is a bank violation:
every thread of the tile reads FAULTED and the half holds the substitution pattern with poison. A load from the Vat
sends its request and waits for the answer. No byte of memory and no other register of the thread changes. (R76, R82, R84, R85, R125, R168, R234, R235, R236, 07_tile_flow_ops.md) -/
def Obligations.Loads : Prop :=
  ∀ (s : State) (t : TileId) (th : ThreadId) (w : SlotWord), s.on t th w = true →
    let e := s.handle t (sf w 11 6)
    let off := ((s.thr t th).rs (sf w 6 5)).toNat
    let y := s.thr t th
    let now (a : Nat) : Prop := isPail a = true ∧
      if s.isFrame t th then s.readClaim t th.val (bankOf a) = true else s.openAt t 1 (bankOf a) = true ∧ y.pailQ = []
    let waits (a : Nat) : Prop := isPail a = true ∧ s.isFrame t th = false ∧
      (s.openAt t 1 (bankOf a) = false ∨ y.pailQ ≠ [])
    let queued (s' : State) (l : List (Nat × Nat)) : Prop :=
      s.onlyThread s' t th ∧ y.sameRegs (s'.thr t th) ∧
      ∃ qs, (s'.thr t th).pailQ = y.pailQ ++ qs ∧ qs.map (fun q => (q.addr, q.len)) = l ∧ ∀ q ∈ qs, q.wr = none
    (let a := hStart e + off / 128 * 128
     let vd := sf w 17 5
     sf w 0 5 = 0 → s.handleFault (some t.val) e true false ldFmt a 128 = none →
      (now a → a % 128 = 0 → ∃ s', exec (.ld t th w) s = .next s' ∧ s.tilesBut s' t th ∧ s.sameBytes s' ∧
        y.sameButV (s'.thr t th) vd ∧
        ∀ k, k < 256 → (s'.thr t th).vlane 8 vd k =
          if 128 * b2n (sb w 5) ≤ k ∧ k < 128 * b2n (sb w 5) + 128 then s.readByte t e (a + (k - 128 * b2n (sb w 5)))
          else y.vlane 8 vd k) ∧
      (waits a → ∃ s', exec (.ld t th w) s = .next s' ∧ queued s' (if a % 128 = 0 then [(a, 128)]
        else [(a, 128 - a % 128), ((a / 128 + 1) * 128, a % 128)])) ∧
      (now a → a % 128 ≠ 0 → s.isFrame t th = false → ∃ s' q, exec (.ld t th w) s = .next s' ∧ s.tilesBut s' t th ∧
        s.sameBytes s' ∧ y.sameButV (s'.thr t th) vd ∧ (s'.thr t th).pailQ = [q] ∧ q.addr = (a / 128 + 1) * 128 ∧
        q.len = a % 128 ∧ q.wr = none ∧
        ∀ k, k < 256 → (s'.thr t th).vlane 8 vd k =
          if 128 * b2n (sb w 5) ≤ k ∧ k < 128 * b2n (sb w 5) + (128 - a % 128) then
            s.readByte t e (a + (k - 128 * b2n (sb w 5)))
          else y.vlane 8 vd k) ∧
      (isPail a = true → s.isFrame t th = true → s.readClaim t th.val (bankOf a) = false ∨ a % 128 ≠ 0 →
        ∃ s', exec (.ld t th w) s = .next s' ∧ (∀ j, (s'.thr t j).st = .faulted) ∧ s.sameBytes s' ∧
          ∀ k, k < 256 → (s'.thr t th).vlane 8 vd k =
            if 128 * b2n (sb w 5) ≤ k ∧ k < 128 * b2n (sb w 5) + 128 then
              ((patternByte (s.subst t.val (hFmt e)) e (a + (k - 128 * b2n (sb w 5)))).toNat, true)
            else y.vlane 8 vd k) ∧
      (isPail a = false → s.isFrame t th = true → s.sendReserved t th.val 1 = true →
        ∃ s' f who, exec (.ld t th w) s = .next s' ∧ s.tilesBut s' t th ∧ y.sameRegs (s'.thr t th) ∧
          s'.mem = s.mem ∧ s'.mesh.flits = s.mesh.flits ++ [f] ∧ f.body = .vatRead (memOf a - 64) a 128 who t.val true ∧
          f.pos = .delivered (s.fck + hopsSlice t.val (memOf a - 64))) ∧
      (isPail a = false → s.isFrame t th = false →
        ∃ s', exec (.ld t th w) s = .next s' ∧ s.tilesBut s' t th ∧ y.sameRegs (s'.thr t th) ∧ s'.mem = s.mem ∧
          s'.mesh.flits.length = s.mesh.flits.length + 8 ∧
          ∀ i, i < 8 → ∃ f q, s'.mesh.flits[s.mesh.flits.length + i]? = some f ∧ f.body = .narrow (memOf a) q ∧
            q.addr = a + 16 * i ∧ q.len = 16 ∧ q.wr = none)) ∧
    (let a := hStart e + off / 4 * 4
     let sd := sf w 17 5
     sf w 0 6 = 0 → s.handleFault (some t.val) e true false ldFmt a 4 = none →
      (now a → ∃ s', exec (.sld t th w) s = .next s' ∧ s.tilesBut s' t th ∧ s.sameBytes s' ∧
        y.sameButS (s'.thr t th) sd ∧
        (sd ≠ 0 → (s'.thr t th).rs sd = BitVec.ofNat 32 ((s.readByte t e a).1 + 2 ^ 8 * (s.readByte t e (a + 1)).1 +
          2 ^ 16 * (s.readByte t e (a + 2)).1 + 2 ^ 24 * (s.readByte t e (a + 3)).1))) ∧
      (waits a → ∃ s', exec (.sld t th w) s = .next s' ∧ queued s' [(a, 4)]) ∧
      (isPail a = false → s.isFrame t th = true → s.sendReserved t th.val 1 = true →
        ∃ s' f who, exec (.sld t th w) s = .next s' ∧ s.tilesBut s' t th ∧ y.sameRegs (s'.thr t th) ∧
          s'.mem = s.mem ∧ s'.mesh.flits = s.mesh.flits ++ [f] ∧ f.body = .vatRead (memOf a - 64) a 4 who t.val true) ∧
      (isPail a = false → s.isFrame t th = false →
        ∃ s' f q, exec (.sld t th w) s = .next s' ∧ s.tilesBut s' t th ∧ y.sameRegs (s'.thr t th) ∧
          s'.mem = s.mem ∧ s'.mesh.flits = s.mesh.flits ++ [f] ∧ f.body = .narrow (memOf a) q ∧ q.addr = a ∧ q.len = 4 ∧
          q.wr = none))

/-- Whenever the predicate selects the word on, the reserved bits are 0 and the handle passes, ST to the Pail in a
claimed cycle (frame), or behind no other access in an open one (asynchronous), stores quarter Q of v[VS] at the
address, each element with a poisoned byte replaced by the substitution value and the bits above a VS10 or VS12 sample
0, and changes no other byte; an asynchronous one that may not go yet waits; to the Vat it sends them. RWR whose credit
suffices (and, in a frame thread, whose cycles are reserved) lowers the counter's balance by its length and sends
the bytes to the counter's tile and window; no byte of memory changes. No register of the thread changes. (R82, R84,
R85, R100, R101, R125, R142, R234, R237, R253, 07_tile_flow_ops.md) -/
def Obligations.Stores : Prop :=
  ∀ (s : State) (t : TileId) (th : ThreadId) (w : SlotWord), s.on t th w = true →
    (let e := s.handle t (sf w 11 6)
     let a := hStart e + ((s.thr t th).rs (sf w 6 5)).toNat / 64 * 64
     let l := vbytes ((s.thr t th).rv (sf w 17 5)) ((s.thr t th).rpo (sf w 17 5)) (64 * sf w 4 2) 64
     let bs := (substStore (s.subst t.val (hFmt e)) e a l).1
     sf w 0 4 = 0 → s.handleFault (some t.val) e false true stFmt a 64 = none →
      (isPail a = true →
        (if s.isFrame t th then s.writeClaim t th.val (bankOf a) = true
          else s.openAt t 2 (bankOf a) = true ∧ (s.thr t th).pailQ = []) →
        ∃ s', exec (.st t th w) s = .next s' ∧ (∀ j, (s.thr t j).sameRegs (s'.thr t j)) ∧ s.bytesBut s' a 64 ∧
          (∀ i, i < 64 → s'.mem.byte (a + i) = bs.getD i 0) ∧
          ((∀ i, i < 64 → ((s.thr t th).rpo (sf w 17 5)).getLsbD (64 * sf w 4 2 + i) = false) →
            ∀ i, i < 64 → s'.mem.byte (a + i) =
              sampleByte e (a + i) (BitVec.ofNat 8 (lane 8 ((s.thr t th).rv (sf w 17 5)) (64 * sf w 4 2 + i))))) ∧
      (isPail a = true → s.isFrame t th = false → s.openAt t 2 (bankOf a) = false ∨ (s.thr t th).pailQ ≠ [] →
        ∃ s' q, exec (.st t th w) s = .next s' ∧ (∀ j, (s.thr t j).sameRegs (s'.thr t j)) ∧ s.sameBytes s' ∧
          (s'.thr t th).pailQ = (s.thr t th).pailQ ++ [q] ∧ q.addr = a ∧ q.wr = some bs) ∧
      (isPail a = false → s.isFrame t th = true → s.dataReserved t th.val .write true = true →
        ∃ s' f who, exec (.st t th w) s = .next s' ∧ (∀ j, (s.thr t j).sameRegs (s'.thr t j)) ∧ s'.mem = s.mem ∧
          s'.mesh.flits.getLast? = some f ∧ f.body = .vatWrite (memOf a - 64) a bs who 0 ∧
          f.pos = .delivered (s.fck + hopsSlice t.val (memOf a - 64))) ∧
      (isPail a = false → s.isFrame t th = false →
        ∃ s', exec (.st t th w) s = .next s' ∧ (∀ j, (s.thr t j).sameRegs (s'.thr t j)) ∧ s'.mem = s.mem ∧
          ∀ i, i < 4 → ∃ f ∈ s'.mesh.flits, ∃ q, f.body = .narrow (memOf a) q ∧ q.addr = a + 16 * i ∧ q.len = 16 ∧
            q.wr = some ((bs.drop (16 * i)).take 16))) ∧
    (let cc := sf w 13 4
     let n := 8 * (sf w 3 3 + 1)
     let cfg := s.treg t.val (oCcCfg cc)
     let bal := fld (s.treg t.val (oCcBal cc)) 0 24
     sf w 0 3 = 0 → 64 * sf w 6 2 + n ≤ 256 → n ≤ bal - Sparse.get (fun _ => 0) (s.tile t).creditNow cc →
      (s.isFrame t th = true → s.dataReserved t th.val .remote true = true) →
      ∃ s' f marks, exec (.rwr t th w) s = .next s' ∧ s.onlyReg { s' with mesh := s.mesh } (rTile t.val (oCcBal cc)) ∧
        s'.reg (rTile t.val (oCcBal cc)) = BitVec.ofNat 32 (bal - n) ∧ s'.mesh.flits = s.mesh.flits ++ [f] ∧
        f.dst = fld cfg 0 6 ∧ marks.length = n / 8 ∧
        f.body = .remoteWrite t.val (fld cfg 0 6) (fld cfg 6 4) cc (((s.thr t th).rs (sf w 8 5)).toNat / 8 * 8)
          ((List.range n).map (fun i => BitVec.ofNat 8 (lane 8 ((s.thr t th).rv (sf w 17 5)) (64 * sf w 6 2 + i))))
          marks (s.isFrame t th))

/-- Whenever the predicate selects the word on, the reserved bits are 0 and the handle's format is one GATHER takes, a
gather begins at element GPROG (0 for 0xFFFF) and leaves the lanes below as they were. With POL = 0 it completes with
GPROG 0xFFFF and GFIRST the first faulting lane, or 0xFFFF where none faults; a faulting lane holds the substitution
value with poison; in an asynchronous thread every other lane is asked for, in a frame thread lane k is read in the
ck 1 + k later. With POL = 1 in an asynchronous thread, without a fault GPROG is 0xFFFF and GFIRST as it was; the
first faulting lane stops the thread with GFIRST and GPROG naming it. No byte of memory changes. (R182, R248, R249,
R250, R251, R252, 07_tile_flow_ops.md) -/
def Obligations.Gathers : Prop :=
  ∀ (s : State) (t : TileId) (th : ThreadId) (w : SlotWord), s.on t th w = true → sf w 4 2 = 0 → sf w 0 3 = 0 →
    let y := s.thr t th
    let vd := sf w 17 5
    let e := s.handle t (sf w 11 6)
    let n := elemBytes (hFmt e)
    let g := if y.gprog = 0xFFFF then 0 else y.gprog.toNat
    let el (k : Nat) : Option Nat :=
      s.gatherElem t e (s.isFrame t th) (y.rv (sf w 6 5)) (y.rpo (sf w 6 5)) k
    let asked (s' : State) : Prop := ∀ k a, g ≤ k → k < 16 → el k = some a →
      (isPail a = true → ∃ q ∈ (s'.thr t th).pailQ, q.addr = a ∧ q.len = n ∧ q.wr = none ∧
        q.who = .gather t.val th.val vd k e) ∧
      (isPail a = false → ∃ f ∈ s'.mesh.flits, ∃ q, f.body = .narrow (memOf a) q ∧ q.wr = none ∧
        q.who = .gather t.val th.val vd k e)
    let others (s' : State) : Prop := s.sameBytes s' ∧ (s'.thr t th).s = y.s ∧ (s'.thr t th).p = y.p ∧
      (∀ j, j % 32 ≠ vd → (s'.thr t th).rv j = y.rv j) ∧
      ∀ i, i < g * n → (s'.thr t th).vlane 8 vd i = y.vlane 8 vd i
    fmtReserved (hFmt e) = false → stFmt (hFmt e) = true →
    (sb w 3 = false →
      ∃ s', exec (.gather t th w) s = .next s' ∧ others s' ∧ (s'.thr t th).gprog = 0xFFFF ∧
        ((∀ k, g ≤ k → k < 16 → (el k).isSome = true) → (s'.thr t th).gfirst = 0xFFFF) ∧
        (∀ k, g ≤ k → k < 16 → el k = none →
          ((∀ j, g ≤ j → j < k → (el j).isSome = true) → (s'.thr t th).gfirst = BitVec.ofNat 16 k) ∧
          ∀ i, i < n → (s'.thr t th).vlane 8 vd (k * n + i) =
            ((s.subst t.val (hFmt e)).toNat / 2 ^ (8 * i) % 256, true)) ∧
        (s.isFrame t th = false → asked s') ∧
        (s.isFrame t th = true → ∀ k a, g ≤ k → k < 16 → el k = some a →
          ∃ j ∈ (s'.tile t).jobs, (s.fck + 1 + k, k, a, n) ∈ j.reads)) ∧
    (sb w 3 = true → s.isFrame t th = false →
      ((∀ k, g ≤ k → k < 16 → (el k).isSome = true) →
        ∃ s', exec (.gather t th w) s = .next s' ∧ others s' ∧ (s'.thr t th).gprog = 0xFFFF ∧
          (s'.thr t th).gfirst = y.gfirst ∧ asked s') ∧
      ∀ k, g ≤ k → k < 16 → el k = none → (∀ j, g ≤ j → j < k → (el j).isSome = true) →
        ∃ s', exec (.gather t th w) s = .next s' ∧ others s' ∧ (s'.thr t th).st = .faulted ∧
          (s'.thr t th).gfirst = BitVec.ofNat 16 k ∧ (s'.thr t th).gprog = BitVec.ofNat 16 k)

/-- Whenever the predicate selects the word on, the fields are legal and the handle passes: LDB adds a
job that reads the group's blocks from the next ck on, one a ck; STB packs the bank's 2,048 elements under RND and
SAT and adds a job that writes 64 bytes a ck from the ck after next. Neither changes a byte of memory in its own ck,
nor a scalar, predicate or vector register. (R238, R239, R240, R241, 07_tile_flow_ops.md) -/
def Obligations.BlockGroups : Prop :=
  ∀ (s : State) (t : TileId) (th : ThreadId) (w : SlotWord), s.on t th w = true →
    let e := s.handle t (sf w 16 6)
    let a := hStart e + ((s.thr t th).rs (sf w 8 5)).toNat / 64 * 64
    let g := groupBytes (hFmt e)
    (blockLegal false w = true → s.blockFault t e true false a = none →
      ∃ s' j, exec (.ldb t th w) s = .next s' ∧ s.onlyTile s' t ∧ (s'.tile t).jobs = (s.tile t).jobs ++ [j] ∧
        (s'.tile t).acc = (s.tile t).acc ∧ (s'.thr t th).s = (s.thr t th).s ∧ (s'.thr t th).p = (s.thr t th).p ∧
        (s.thr t th).sameV (s'.thr t th) ∧ j.kind = .ldb e (sf w 13 3) a (sf w 5 2) (sb w 7) (s.thr t th).draw (sf w 16 6) ∧
        j.e = s.fck + (g + 127) / 128 + 2 ∧ j.writes = [] ∧ j.reads.length = (g + 127) / 128 + 1 ∧
        ∀ i, i < (g + 127) / 128 + 1 → j.reads[i]? = some (s.fck + 1 + i, 0, padBlock a g i, 128)) ∧
    (blockLegal true w = true → s.blockFault t e false true a = none →
      ∃ s' j, exec (.stb t th w) s = .next s' ∧ (s'.tile t).jobs = (s.tile t).jobs ++ [j] ∧
        (s'.tile t).acc = (s.tile t).acc ∧ (s'.thr t th).s = (s.thr t th).s ∧ (s'.thr t th).p = (s.thr t th).p ∧
        (s.thr t th).sameV (s'.thr t th) ∧ s'.mem = s.mem ∧ j.reads = [] ∧ j.writes.length = g / 64 ∧
        ∀ i, i < g / 64 → j.writes[i]? = some (s.fck + 2 + i, a + 64 * i,
          ((s.packGroup t e (sf w 13 3) (sf w 5 2) (sb w 7) (sb w 4) (s.thr t th).draw).1.drop (64 * i)).take 64))

/-- Whenever the predicate selects the word on, the quad is legal, the three handles pass, and the list and one region lie
in the Pail, SMOV or SMOVX adds to its lane the move that the word and the quad describe, unless the thread has one.
While the frame domain acts, a step that is due takes the next 128 bytes of the list, or the next part: of the Pail,
due to be written in the next ck; of the Vat, asked for; of a bad index, the substitution pattern. The frame lane steps
in assigned and claimed ck with its leave, the asynchronous lane in open cycles. A move whose parts are all written
leaves its lane; with CEN its object counts one more; a bad index stops the thread under POL = 1 and stands in GFIRST.
(R242, R243, R244, R245, R246, R247, 07_tile_flow_ops.md) -/
def Obligations.StreamMoves : Prop :=
  ∀ (s : State) (t : TileId) (th : ThreadId) (w : SlotWord),
    (s.on t th w = true → sf w 5 5 % 4 = 0 → sf w 5 5 ≠ 0 → sf w 0 4 = 0 →
      ∀ p ∈ ([(.smov t th w, false), (.smovx t th w, true)] : List (Instr × Bool)),
        let q (k : Nat) : Nat := ((s.thr t th).rs (sf w 5 5 + k)).toNat
        let hs := s.handle t (sf w 16 6)
        let hd := s.handle t (sf w 10 6)
        let hl := s.handle t (q 0 % 64)
        let u := if p.2 then elemBytes (hFmt hl) else 16
        (p.2 = false → sb w 4 = false ∧ q 2 = 0) → (p.2 = true → sb w 4 = true → s.isFrame t th = false) →
        q 0 / 64 % 64 = 0 → q 0 / 2 ^ 24 = 0 → q 1 / 65536 = 0 →
        s.handleFault (some t.val) hs true false (fun _ => true) (hStart hs) 0 = none →
        s.handleFault (some t.val) hd false true (fun _ => true) (hStart hd) 0 = none →
        s.handleFault (some t.val) hl true false (fun f => if p.2 then f == 0x06 || f == 0x05 else true)
          (hStart hl + q 1 % 65536 * u) ((q 0 / 2 ^ 12 % 64 + 1) * u) = none →
        inOwnPail t.val hl = true → (inOwnPail t.val hs = true ∨ inOwnPail t.val hd = true) →
        ((s.tile t).moveOf th.val ≠ none → exec p.1 s = .next s) ∧
        ((s.tile t).moveOf th.val = none →
          ∃ s' m, exec p.1 s = .next s' ∧ s.onlyTile s' t ∧ (s'.tile t).th = (s.tile t).th ∧
            (if s.isFrame t th then (s'.tile t).moveF = (s.tile t).moveF ++ [m]
              else (s'.tile t).moveA = (s.tile t).moveA ++ [m]) ∧
            m.indexed = p.2 ∧ m.thread = th.val ∧ m.hs = hs ∧ m.hd = hd ∧ m.hl = hl ∧ m.first = q 1 % 65536 ∧
            m.total = q 0 / 2 ^ 12 % 64 + 1 ∧ m.dstOff = q 2 / 64 * 64 ∧ m.obj = q 0 / 2 ^ 18 % 32 ∧
            m.cen = decide (q 0 / 2 ^ 23 % 2 = 1) ∧ m.started = false ∧ m.parts = [])) ∧
    ∀ (lane : MoveLane) (m : Move), s.frameActs = true → (s.tile t).moveHead (lane == .frame) = some m →
      m.frame = (lane == .frame) →
      (m.issueCk < s.fck → m.ready ≤ s.fck →
        (m.frame = true → s.moveAssigned t = true ∧
          (m.started = false → s.moveLarge t m = true → s.overdraw t 2 s.fck (s.moveEndCk t m) = none)) →
        (m.frame = false → s.moveGranted t m = true) →
        let free (a : Nat) : Prop :=
          if m.frame then s.readClaim t m.thread (bankOf a) = true else s.openAt t 1 (bankOf a) = true
        let head (s' : State) (m' : Move) : Prop :=
          exec (.moveStep t lane) s = .next s' ∧ (s'.tile t).th = (s.tile t).th ∧ s.sameBytes s' ∧
          (s'.tile t).moveHead (lane == .frame) = some m' ∧ m'.started = true
        (let a := m.list.1 + m.raw.length
         let n := min 128 (m.list.2 - m.raw.length)
         let raw := m.raw.map (fun b => (b.1.toNat, b.2)) ++ (List.range n).map (fun i => s.readByte t m.hl (a + i))
         m.listed = false → free a → (∀ i, i < n → isVat (a + i) = false) →
          (m.raw.length + n < m.list.2 → ∃ s' m', head s' m' ∧ m'.listed = false ∧
            m'.raw.map (fun b => (b.1.toNat, b.2)) = raw) ∧
          (m.list.2 ≤ m.raw.length + n → ∀ bs : List (Byte × Bool), bs.map (fun b => (b.1.toNat, b.2)) = raw →
            (s.movePlan t m bs).stop = none → ∃ s' m', head s' m' ∧ m'.listed = true ∧ m'.raw = bs ∧
              m'.parts = (s.movePlan t m bs).parts ∧ m'.fault = (s.movePlan t m bs).fault)) ∧
        (∀ (d : Nat) (rest : List MovePart), m.listed = true → m.parts = ⟨none, d⟩ :: rest →
          ∃ s' m', head s' m' ∧ m'.parts = rest ∧ m'.due = m.due ++ [(s.fck + 1, d,
            (List.range 64).map (fun i => patternByte (s.subst t.val (hFmt m.hd)) m.hd (d + i)))]) ∧
        (∀ (a d : Nat) (rest : List MovePart), m.listed = true → m.parts = ⟨some a, d⟩ :: rest →
          (isPail a = true → free a →
            ∃ s' m' bs, head s' m' ∧ m'.parts = rest ∧ m'.due = m.due ++ [(s.fck + 1, d, bs)] ∧ bs.length = 64 ∧
              ((∀ i, i < 64 → s.badByte (a + i) = false ∧ isVat (a + i) = false) → (∀ b, s.moveNear t m a d b ≠ some true) →
                bs = (List.range 64).map (fun i =>
                  sampleByte m.hd (d + i) (sampleByte m.hs (a + i) (s.mem.byte (a + i)))))) ∧
          (isVat a = true → m.frame = true → s.sendReserved t 8 1 = true →
            ∃ s' m' f, head s' m' ∧ m'.parts = rest ∧ m'.inFlight = m.inFlight + 1 ∧ s'.mesh.flits = s.mesh.flits ++ [f] ∧
              f.body = .vatRead (memOf a - 64) a 64 (.moveRead t.val 0 a d) t.val true) ∧
          (isVat a = true → m.frame = false →
            ∃ s' m', head s' m' ∧ m'.parts = rest ∧ m'.inFlight = m.inFlight + (pieces a 64).length ∧
              s'.mesh.flits.length = s.mesh.flits.length + (pieces a 64).length))) ∧
      (m.listed = true → m.parts = [] → m.due = [] → m.inFlight = 0 →
        ∃ s', exec (.moveEnd t lane) s = .next s' ∧ s'.mem = s.mem ∧
          (if lane == .frame then (s'.tile t).moveF.length + 1 = (s.tile t).moveF.length
            else (s'.tile t).moveA.length + 1 = (s.tile t).moveA.length) ∧
          (m.fault = none → (s'.tile t).th = (s.tile t).th) ∧
          (∀ k, m.fault = some k → (s'.thr t (thid m.thread)).gfirst = BitVec.ofNat 16 k ∧
            (m.pol = true → (s'.thr t (thid m.thread)).gprog = BitVec.ofNat 16 k ∧
              (s'.thr t (thid m.thread)).st = .faulted) ∧
            (m.pol = false → (s'.thr t (thid m.thread)).gprog = (s.thr t (thid m.thread)).gprog ∧
              (s'.thr t (thid m.thread)).st = (s.thr t (thid m.thread)).st)) ∧
          (m.fault = none ∨ m.pol = false → m.cen = false → s'.regs = s.regs) ∧
          (m.fault = none ∨ m.pol = false → m.cen = true →
            s.admitsUpdate (doneSignal t m.obj m.frame m.thread 2) = true →
            let a := objReg (2048 + 32 * t.val + m.obj)
            s'.reg a = s.countWith (doneSignal t m.obj m.frame m.thread 2) true ∧ s.regsBut s' [a] ∧
            (s.untouched (2048 + 32 * t.val + m.obj) = true → s'.reg a = s.reg a + 1)))

/-- In a ck in which the thread may issue, with a bundle at its PC that can be read and no fall past the last bundle: a
condition of R170 stalls the thread with its code and changes nothing else; with none, no bundle-level conflict and no
fault, the effects of the slots run on the thread's registers as they stood, C last, and the thread then reads RUN or
IDLE with its PC moved on, a corrected bundle being counted. A WAIT runs alone first, and the other slots of its bundle
once it is met. A bundle of four NOPs only moves the PC. A NOP slot on its own changes nothing, whatever its bits.
(R152, R158, R161, R163, R170, R171, R173, R653, 05_tile_model.md) -/
def Obligations.BundlesIssue : Prop :=
  ∀ (s : State) (t : TileId) (th : ThreadId),
    (∀ (k : SlotKind) (w : SlotWord), exec (.nop t th k w) s = .next s) ∧
    (let y := s.thr t th
     let err := Sparse.get (fun _ => 0) (s.tile t).ibufErr y.pc.toNat
     let bs := slotsOf ((s.tile t).bundleAt y.pc.toNat)
     let wait := bs.any (fun b => b.k == 0 && b.op == 0x09 && guardOn y b.w)
     let run (l : List BSlot) := s.runSlots t th y (l.filter (fun b => b.k ≠ 0) ++ l.filter (fun b => b.k = 0))
     s.mayIssue t th = true → y.fellOff = false → err < 2 →
      (∀ c, s.holdCode t th y bs = some c →
        exec (.bundleIssue t th) s = .next (s.modThr t th (fun z => { z with st := .stall, stall := c }))) ∧
      (s.holdCode t th y bs = none → illegalSlot bs (s.isFrame t th) = none →
        (wait = false ∨ y.waitDone = true →
          let r := run (if wait then bs.filter (fun b => b.k ≠ 0) else bs)
          r.2 = [] →
          exec (.bundleIssue t th) s =
            .next ((if err = 1 then r.1.satReg (rTile t.val oIbufCe) else r.1).modThr t th (fun z => z.advance r.1.fck))) ∧
        (wait = true → y.waitDone = false →
          let r := run (bs.filter (fun b => b.k = 0))
          r.2 = [] →
          exec (.bundleIssue t th) s = .next (r.1.modThr t th (fun z =>
            { z with wait := z.wait.map (fun w => { w with bundled := true }) })))) ∧
      (err = 0 → (s.tile t).bundleAt y.pc.toNat = 0 → s.holdCode t th y bs = none → y.next = none → y.ended = false →
        y.pc.toNat < 4095 →
        ∃ s', exec (.bundleIssue t th) s = .next s' ∧ s.onlyThread s' t th ∧ y.sameRegs (s'.thr t th) ∧
          (s'.thr t th).st = .run ∧ (s'.thr t th).pc = y.pc + 1))

/-- One cycle of a router's output in one lane keeps the number of flits in the mesh, every byte of memory and every
tile. The flit that goes before every other one that may leave by that output (the older first; one that enters from
the tile counts from this ck), uses the lane, and finds the way on open, crosses one link: it is delivered at its
destination (into the tile in this ck, over an edge link in the next) and stands in the next router's buffer
otherwise. (R52, R53, R58, R61, R62, R63, R64, 02_organisation.md) -/
def Obligations.MeshForwards : Prop :=
  ∀ (s : State) (r : TileId) (out : Fin 6) (l : MeshLane),
    (∃ s', exec (.meshAsyncForward r out l) s = .next s' ∧ s'.mesh.flits.length = s.mesh.flits.length ∧ s'.mem = s.mem ∧
      s'.tiles = s.tiles) ∧
    ∀ f ∈ s.mesh.flits, (∀ g ∈ s.mesh.flits, g.age = f.age → g = f) → s.pdOn 7 = true →
      s.mayLeave r.val out.val f = true → f.uses l = true → s.wayOpen r.val out.val f = true →
      let now (g : Flit) : Flit := match g.pos with | .source _ => { g with born := s.ck } | _ => g
      (∀ g ∈ s.mesh.flits, g ≠ f → s.mayLeave r.val out.val g = true → (now f).before r.val (now g) = true) →
      ∃ s', exec (.meshAsyncForward r out l) s = .next s' ∧
        s'.reg (rTile r.val oMeshFlits) = s.reg (rTile r.val oMeshFlits) + 1 ∧
        ∃ f' ∈ s'.mesh.flits, f'.age = f.age ∧ f'.body = f.body ∧ f'.moved = s.ck ∧
          f'.pos = (if r.val = f.dst ∧ out.val = f.port then .delivered (if out.val = 0 then s.ck else s.ck + 1)
            else .buffer (neighbour r.val out.val).1 (neighbour r.val out.val).2)

/-- When the flit that stands first in the mesh has reached slice n, whose domain is on, with a claim for its bank,
direction and owner: a read within one block changes no byte and gives one data flit for each 64 bytes, leaving the
slice 9 ck later and on; a write stores its bytes and changes no other byte. When read data for a tile's LD stand
first, they reach the bytes of v[VD] they are for, those of uncorrectable words and of late ranges as the substitution
pattern with poison, and nothing else of that register. (R65, R76, R79, R82, R125, R235, R236, 03_pail_and_vat.md) -/
def Obligations.SlicePorts : Prop :=
  ∀ (s : State) (n : Fin 8) (f : Flit), s.first f = true →
    (∀ (a len back : Nat) (who : Purpose) (w : Bool), f.body = .vatRead n.val a len who back w → s.pdOn (8 + n.val) = true →
      s.sliceClaim n.val (bankOf a) 0 who.owner = true → oneBlock a len 256 = true →
      ∃ s' l, exec (.vatReadRequest n) s = .next s' ∧ s.sameBytes s' ∧ s'.tiles = s.tiles ∧
        s'.mesh.flits = s.mesh.flits.filter (fun g => g.age ≠ f.age) ++ l ∧ l.length = (len + 63) / 64 ∧
        ∀ i, i < (len + 63) / 64 → ∃ g bad, l[i]? = some g ∧ g.pos = .source (s.fck + 9 + i) ∧
          g.body = .vatData (a + 64 * i) (((s.mem.bytes a len).drop (64 * i)).take 64) bad who) ∧
    (∀ (a owner : Nat) (bs : List Byte) (who : Purpose), f.body = .vatWrite n.val a bs who owner →
      s.pdOn (8 + n.val) = true → s.sliceClaim n.val (bankOf a) 1 owner = true →
      ∃ s', exec (.vatWriteFlit n) s = .next s' ∧ s'.regs = s.regs ∧ s.bytesBut s' a bs.length ∧
        ∀ i, i < bs.length → s'.mem.byte (a + i) = bs.getD i 0) ∧
    ∀ (t : TileId) (th : ThreadId) (vd hf a first : Nat) (bs : List Byte) (bad : List Bool) (e : Quad),
      f.body = .vatData a bs bad (.ld t.val th.val vd hf e first) → bad.length = bs.length → s.pdOn (16 + t.val) = true →
      ∃ s', exec .vatReadData s = .next s' ∧ s.sameBytes s' ∧ s.tilesBut s' t th ∧ (s.thr t th).sameButV (s'.thr t th) vd ∧
        ∀ k, k < 256 → (s'.thr t th).vlane 8 vd k =
          if 128 * hf + (a - first) ≤ k ∧ k < 128 * hf + (a - first) + bs.length then
            let i := k - (128 * hf + (a - first))
            if bad.getD i false || (isVat (a + i) && (s.tile t).lateAt (a + i)) then
              ((patternByte (s.subst t.val (hFmt e)) e (a + i)).toNat, true)
            else ((sampleByte e (a + i) (bs.getD i 0)).toNat, false)
          else (s.thr t th).vlane 8 vd k

/-- The request in front at a narrow port whose bank is free and no thread takes is performed: a write to memory that is
there stores its bytes and nothing else, a read changes no byte and sends its data back. A remote write that stands
first, passes the receiver's checks and finds its claim or open cycle stores its bytes at the window's handle, those
of a marked element as its substitution value; one that fails a check stores nothing. The oldest Pail access of an
asynchronous thread leaves the thread's queue in an open cycle; a write stores its bytes. Arming an injection sets the
memory's register. (R83, R84, R85, R87, R92, R100, R101, R102, R113, R125, R237, 03_pail_and_vat.md) -/
def Obligations.PailPorts : Prop :=
  ∀ s : State,
    (∀ (p : Fin 72) (q : NarrowReq) (rest : List NarrowReq), (s.portFill p.val).portQ p.val = q :: rest →
      s.mem.portsUsed.contains p.val = false → s.bankFree p.val (bankOf q.addr) = true →
      s.threadTakes p.val (bankOf q.addr) = false →
      (∀ bs, q.wr = some bs →
        ∃ s', exec (.narrowAccessPerform p) s = .next s' ∧ s'.portQ p.val = rest ∧
          (s.memThere q.addr = false → s.sameBytes s') ∧
          (s.memThere q.addr = true → s.bytesBut s' q.addr bs.length ∧
            ∀ i, i < bs.length → s'.mem.byte (q.addr + i) = bs.getD i 0)) ∧
      (q.wr = none →
        ∃ s' g bad, exec (.narrowAccessPerform p) s = .next s' ∧ s.sameBytes s' ∧ s'.portQ p.val = rest ∧
          s'.mesh.flits.getLast? = some g ∧ g.dst = q.home ∧
          g.body = .narrowData q.addr (if s.memThere q.addr then s.mem.bytes q.addr q.len else List.replicate q.len 0)
            bad q.who)) ∧
    (∀ (t : TileId) (f : Flit) (src window counter off : Nat) (data : List Byte) (marks : List Bool) (frame : Bool),
      s.first f = true → f.body = .remoteWrite src t.val window counter off data marks frame → s.pdOn (16 + t.val) = true →
      let e := s.handle t (fld (s.treg t.val (oCwCfg window)) 10 6)
      (s.remoteAddr t src window counter off data.length = none →
        ∃ s', exec (.remoteWriteArrival t) s = .next s' ∧ s.sameBytes s') ∧
      ∀ a, s.remoteAddr t src window counter off data.length = some a →
        (if frame then s.writeClaim t 8 (bankOf a) = true else s.openAt t 2 (bankOf a) = true) →
        ∃ s', exec (.remoteWriteArrival t) s = .next s' ∧ (s'.tile t).th = (s.tile t).th ∧ s.bytesBut s' a data.length ∧
          (∀ i, i < data.length → s'.mem.byte (a + i) = (substStore (s.subst t.val (hFmt e)) e a
            (data.zipIdx.map (fun p => (p.1, marks.getD (p.2 / 8) false)))).1.getD i 0) ∧
          (marks.all (fun b => !b) = true →
            ∀ i, i < data.length → s'.mem.byte (a + i) = sampleByte e (a + i) (data.getD i 0))) ∧
    (∀ (t : TileId) (th : ThreadId) (q : NarrowReq) (rest : List NarrowReq), (s.thr t th).pailQ = q :: rest →
      q.since ≤ s.fck →
      let left (s' : State) : Prop :=
        (s'.thr t th).pailQ.map (fun x => { x with since := 0 }) = rest.map (fun x => { x with since := 0 })
      (∀ bs, q.wr = some bs → s.openAt t 2 (bankOf q.addr) = true →
        ∃ s', exec (.asyncPailAccess t th) s = .next s' ∧ left s' ∧ s.bytesBut s' q.addr bs.length ∧
          (s.thr t th).sameRegs (s'.thr t th) ∧ ∀ i, i < bs.length → s'.mem.byte (q.addr + i) = bs.getD i 0) ∧
      (q.wr = none → s.openAt t 1 (bankOf q.addr) = true →
        ∃ s', exec (.asyncPailAccess t th) s = .next s' ∧ left s' ∧ s.sameBytes s')) ∧
    ∀ (m : Master) (mem : Fin 72) (double : Bool), s.writes m (injectReg mem.val) = true →
      ∃ s', exec (.eccInjectArm m mem double) s = .next s' ∧ s.onlyReg s' (injectReg mem.val) ∧
        s'.reg (injectReg mem.val) = if double then 3 else 1

/-- Of an access in the cached range that is next, a read hit is answered from the line through the mesh, a write hit
changes its line and makes it dirty, and a miss begins a fill of its line; no byte of memory changes. A size whose
banks no plan claims begins a drain that empties the cache, or replaces the size that a drain in progress will apply;
a claimed size is refused with REFUSED and keeps the lines. With no write-back left the new size applies, and no byte below or above the banks that change hands is lost. CLEAN
leaves every line and none dirty; INVAL leaves no line; both read 0 once no write-back is left. (R105, R106, R107,
R108, R109, R121, 03_pail_and_vat.md) -/
def Obligations.SliceCache : Prop :=
  ∀ (s : State) (m : Master),
    (∀ (k : Fin 4) (r : CacheReq), bit (s.reg rCacheStatus) 2 = false → s.cacheWork.fill = none → s.pdOn 7 = true →
      s.cacheTake.cacheWork.reqs.find? (fun r => r.core == k) = some r → s.cached r.addr = true →
      let o (l : CacheLine) := r.addr - l.addr
      let takes (s' : State) : Prop := exec (.cacheAccess k) s = .next s' ∧ s.sameBytes s' ∧
        s'.cacheWork.reqs = s.cacheTake.cacheWork.reqs.erase r
      (∀ l, s.cacheLine r.addr = some l →
        (r.wr = none → ∃ s' f, takes s' ∧ s'.mesh.flits = s.cacheTake.mesh.flits ++ [f] ∧
          f.body = .cacheData r ((l.data.drop (o l)).take r.len) false ∧
          s'.mem.cache.map (fun x => (x.addr, x.data, x.dirty)) = s.mem.cache.map (fun x => (x.addr, x.data, x.dirty)) ∧
          s'.reg rCacheHits = s.reg rCacheHits + 1) ∧
        (∀ bs, r.wr = some bs → ∃ s', takes s' ∧ s'.reg rCacheHits = s.reg rCacheHits + 1 ∧
          ∃ x ∈ s'.mem.cache, x.addr = l.addr ∧ x.dirty = true ∧
            x.data = l.data.take (o l) ++ bs ++ l.data.drop (o l + bs.length))) ∧
      (s.cacheLine r.addr = none →
        ∃ s' g, takes s' ∧ s'.reg rCacheMisses = s.reg rCacheMisses + 1 ∧ s'.cacheWork.fill = some g ∧ g.req = r ∧
          g.addr = r.addr / 128 * 128 ∧ g.got = [])) ∧
    (∀ size : Fin 4, s.writes m rCacheCfg = true →
      (s.sizeClaimed size.val = true →
        ∃ s', exec (.cacheSizeWrite m size) s = .next s' ∧ s.onlyReg s' rCacheStatus ∧
          bit (s'.reg rCacheStatus) 3 = true) ∧
      (s.sizeClaimed size.val = false → bit (s.reg rCacheStatus) 2 = true →
        ∃ s', exec (.cacheSizeWrite m size) s = .next s' ∧ s'.mem = { s.mem with cacheNext := some size.val } ∧
          s.regsBut s' [rCacheCfg] ∧ s'.reg rCacheCfg = BitVec.ofNat 32 size.val) ∧
      (s.sizeClaimed size.val = false → bit (s.reg rCacheStatus) 2 = false →
        ∃ s', exec (.cacheSizeWrite m size) s = .next s' ∧ s'.mem.cache = [] ∧ s'.mem.cacheNext = some size.val ∧
          s.sameBytes s' ∧ s'.reg rCacheCfg = BitVec.ofNat 32 size.val ∧ bit (s'.reg rCacheStatus) 2 = true)) ∧
    (∀ size : Fin 4, s.mem.cacheNext = some size.val → s.cacheWork.wb = 0 → s.cacheWork.fill = none →
      ∃ s', exec .cacheDrainComplete s = .next s' ∧ s'.cacheSize = size.val ∧ bit (s'.reg rCacheStatus) 2 = false ∧
        s'.mem.cacheNext = none ∧
        ∀ a, (a < min (cacheStoreLo s.cacheSize) (cacheStoreLo size.val) ∨
            max (cacheStoreLo s.cacheSize) (cacheStoreLo size.val) ≤ a) → s'.mem.byte a = s.mem.byte a) ∧
    (s.writes m rCacheCtrl = true →
      (∃ s', exec (.cacheClean m) s = .next s' ∧ s.sameBytes s' ∧
        s'.mem.cache.map (·.addr) = s.mem.cache.map (·.addr) ∧ s'.mem.cache.map (·.data) = s.mem.cache.map (·.data) ∧
        ∀ l ∈ s'.mem.cache, l.dirty = false) ∧
      ∃ s', exec (.cacheInval m) s = .next s' ∧ s.sameBytes s' ∧ s'.mem.cache = [] ∧ s'.mesh = s.mesh) ∧
    (s.cacheWork.wb = 0 →
      ∃ s', exec .cacheCtrlComplete s = .next s' ∧ s.onlyReg s' rCacheCtrl ∧
        s'.reg rCacheCtrl = s.reg rCacheCtrl &&& ~~~ 3)

/-- A landing band that is due begins a run. The host read of the first run that may issue one goes out, in requests with
free tags, or waits its turn for them; its completion leaves the parts held and frees the tag, one in error counts,
data after a late decision are discarded and counted; a timeout sets the AER bit and frees the tag, unless it is
disabled. A part held since an earlier ck that passes its handle's checks is sent to its slice in its reserved slot. In
the commit ck a band whose parts are all written signals its tile's object in its reserved cycle, and one that is not
sends no signal and lets its buffer go. No step here changes a byte of memory. (R92, R293, R296, R299, R300, R301,
R302, R348, R349, R352, R381, 09_ladles.md) -/
def Obligations.LandingBands : Prop :=
  ∀ (s : State) (l : Fin 16),
    (∀ (b : Nat) (d : Band), (s.lad l).bands[b]? = some d → d.kind = 0 → s.bandNow l d = true → s.sched = d.issue →
      (s.lad l).runs.any (fun r => r.band == d && r.decided.isNone) = false →
      ∃ s' r, exec (.bandIssue l b) s = .next s' ∧ s.sameBytes s' ∧ (s'.lad l).runs = (s.lad l).runs ++ [r] ∧ r.band = d ∧
        r.decided = none) ∧
    (∀ (r : BandRun) (q f n a : Nat) (rest : List (Nat × Nat)), s.pdOn 6 = true →
      (s.lad l).runs.findSome? (fun r => (s.nextBandRead l r).map (fun p => (r, p))) = some (r, q, f, n, a, rest) →
      (s.tagsFor a (64 * n) = true → s.tagTurn (l.val, false) = true →
        ∃ s', exec (.hostReadIssue l false) s = .next s' ∧ s'.mem = s.mem ∧
          s.readsIssued s' (.band l.val r.id f n) q a (64 * n) ∧
          (s'.lad l).runs = (s.lad l).runs.map (fun y => if y.id = r.id then { r with reqs := rest } else y)) ∧
      (s.tagsFor a (64 * n) = false ∨ s.tagTurn (l.val, false) = false →
        ∃ s', exec (.hostReadIssue l false) s = .next s' ∧ s' = { s with host := s'.host } ∧
          s'.host.reads = s.host.reads ∧ (l.val, false) ∈ s'.host.tagWait)) ∧
    (∀ (tag : Fin 768) (r : HostRead) (run first n : Nat) (data : List Byte),
      s.host.reads.find? (fun r => r.tag == tag.val) = some r → r.who = .band l.val run first n →
      let ended (s' : State) : Prop := s.sameBytes s' ∧ s'.host.reads = s.host.reads.filter (fun r => r.tag ≠ tag.val)
      (∃ s', exec (.hostReadCompletion tag false data) s = .next s' ∧ ended s' ∧
        s'.reg rHostErr = satAdd (s.reg rHostErr) 1) ∧
      ∀ x : BandRun, (s.lad l).runs.find? (fun y => y.id == run) = some x → data.length = r.len →
        (x.decided = some false → ∃ s', exec (.hostReadCompletion tag true data) s = .next s' ∧ ended s' ∧
          s'.reg rDiscard = satAdd (s.reg rDiscard) (r.len / 64)) ∧
        ∀ (q k a0 : Nat) (e : Entry), x.decided ≠ some false → x.entry = some (q, k) → s.entry q k = some e →
          partHost x.band e first = some a0 →
          ∃ s' y, exec (.hostReadCompletion tag true data) s = .next s' ∧ ended s' ∧
            (s'.lad l).runs.find? (fun y => y.id == run) = some y ∧
            s'.entry q k = some { e with moved := e.moved + r.len } ∧
            ∀ i, i < r.len / 64 → first + (r.addr - a0) / 64 + i < x.parts.length →
              y.parts[first + (r.addr - a0) / 64 + i]? = some (.held s.ck ((data.drop (64 * i)).take 64))) ∧
    (∀ tag : Fin 768, s.host.reads.any (fun r => r.tag == tag.val) = true →
      (bit (s.cfg 0x98) 4 = false → ∃ s', exec (.hostReadTimeout tag) s = .next s' ∧ s.sameBytes s' ∧
        bit (s'.cfg 0x104) 14 = true ∧ s'.host.reads = s.host.reads.filter (fun r => r.tag ≠ tag.val)) ∧
      (bit (s.cfg 0x98) 4 = true → exec (.hostReadTimeout tag) s = .next s)) ∧
    (∀ (r : BandRun) (k c a : Nat) (d : List Byte), s.frameActs = true → s.pdOn 6 = true →
      (s.lad l).runs.find? (fun r => r.band.kind = 0 && r.decided.isNone && (s.slotPart r.band).isSome) = some r →
      s.slotPart r.band = some k → r.parts[k]? = some (.held c d) → c < s.ck →
      partDevice r.band (s.bandHandles r) k = some a → s.partFault r.band (s.bandHandles r) k false = false →
      let body : Payload := .vatWrite (memOf a - 64) a d (.ladleWrite l.val) 1
      s.ladleReserved l.val (servingRouter 0 (memOf a - 64)) 5 .write body .data = true →
      ∃ s' f, exec (.landingWriteSlot l) s = .next s' ∧ s'.mem = s.mem ∧ s'.mesh.flits.getLast? = some f ∧ f.body = body ∧
        f.pos = .delivered (s.fck + ladleHops l.val (memOf a - 64)) ∧
        ∀ y ∈ (s'.lad l).runs, y.id = r.id → y.parts = r.parts.set k .written) ∧
    ∀ (r : BandRun) (c : Commit), s.frameActs = true → s.pdOn 6 = true →
      (s.lad l).runs.filter (fun x => x.band.commits.any (fun c => c.ck == s.sched)) = [r] →
      r.band.commits.filter (fun c => c.ck == s.sched) = [c] →
      let o : SyncOp :=
        { obj := 2048 + 32 * c.tile + c.obj, arm := false, value := BitVec.ofNat 32 c.value, src := .ladle, frame := true
          unit := l.val, thread := 0, kind := 3, ack := false }
      let stands (s' : State) : Prop := s'.mem = s.mem ∧ s'.regs = s.regs ∧
        (r.band.lastCommit ≤ s.sched →
          (∀ h ∈ s.host.reads, ∀ first n, h.who ≠ .band l.val r.id first n) → ∀ y ∈ (s'.lad l).runs, y.id ≠ r.id) ∧
        ∀ y ∈ (s'.lad l).runs, y.id = r.id → y.live = false
      (r.decided = some true ∨ (r.decided = none ∧ r.entry.isSome = true ∧ r.refused = false ∧
          r.parts.all (fun p => p == .written) = true) →
        s.ladleReserved l.val c.tile 0 .remote (.sync o) .data = true →
        ∃ s' f, exec (.bandCommit l) s = .next s' ∧ stands s' ∧ f ∈ s'.mesh.flits ∧ f.body = .sync o ∧ f.dst = c.tile ∧
          f.pos = .delivered (s.fck + ladleHopsTile l.val c.tile)) ∧
      (r.decided = some false ∨ (r.decided = none ∧ r.parts.all (fun p => p == .written) = false) →
        ∃ s', exec (.bandCommit l) s = .next s' ∧ stands s' ∧
          ∀ f ∈ s'.mesh.flits, f ∈ s.mesh.flits ∨ ∃ t k, f.body = .fence t k)

/-- A write-out slot whose part passes its handle's checks, in its reserved cycle, sends the part's Vat read; a refused or
faulting part is skipped and counted. The next part in order of a picture that is not substituted goes to the host when
INFLIGHT and the link admit it; a substituted picture's is dropped. A degrade or late note marks every picture in
service of its stream and frame, or counts as unmapped. A tile that has no note waiting answers a fence word, whose
acknowledgement takes the tile off its entry's list. A picture whose conditions hold is completed: OK with the bytes
moved, or WRITEOUT_INCOMPLETE with the parts skipped. (R92, R304, R305, R306, R307, R308, R319, R348, R371, R502,
09_ladles.md) -/
def Obligations.WriteOutAndPictures : Prop :=
  ∀ s : State,
    (∀ (l : Fin 16) (s1 : State) (r : BandRun) (k a : Nat), s.writeoutRun l = (s1, some r) → s.slotPart r.band = some k →
      partDevice r.band (s1.bandHandles r) k = some a →
      let body : Payload := .vatRead (memOf a - 64) a 64 (.ladleRead l.val r.id k) (ladleRouter l.val) true
      (r.refused = false → s1.partFault r.band (s1.bandHandles r) k true = false →
        s1.ladleReserved l.val (servingRouter 0 (memOf a - 64)) 5 .any body .request = true →
        ∃ s' f, exec (.writeoutReadSlot l) s = .next s' ∧ s'.mem = s.mem ∧ s'.mesh.flits.getLast? = some f ∧ f.body = body) ∧
      (r.refused = true ∨ s1.partFault r.band (s1.bandHandles r) k true = true →
        ∃ s', exec (.writeoutReadSlot l) s = .next s' ∧ s'.mem = s.mem ∧
          s'.reg rWoSkip = satAdd (s.reg rWoSkip) 1)) ∧
    (∀ (l : Fin 16) (r : BandRun) (k q n : Nat) (d : List Byte) (e : Entry), s.pdOn 6 = true →
      (s.lad l).runs.find? (fun r => r.band.kind ≠ 0 && r.nextOut.isSome) = some r → r.nextOut = some (k, d) →
      r.entry = some (q, n) → s.entry q n = some e →
      (s.substituted e = true →
        ∃ s', exec (.hostWriteIssue l false) s = .next s' ∧ s'.mem = s.mem ∧ s'.out = s.out) ∧
      (s.substituted e = false → s.mayRequest = true → s.withinLimit l q = true →
        ∃ s', exec (.hostWriteIssue l false) s = .next s' ∧ s'.mem = s.mem ∧
          s.writesSent s' ((partHost r.band e k).getD 0) d)) ∧
    (∀ (f : Flit) (t h : Nat) (odd : Bool), s.first f = true → f.body = .degradeNote t h odd → s.pdOn 6 = true →
      let m := fld (s.reg (rDmap t (h / 4))) (8 * (h % 4)) 8
      let frame := if bit (s.reg rFrame) 0 = odd then s.reg rFrame else s.reg rFrame - 1
      (m < 128 → ∃ s', exec .degradeNote s = .next s' ∧ s'.reg rNoteUnmapped = satAdd (s.reg rNoteUnmapped) 1 ∧
        s'.host = s.host ∧ s'.mem = s.mem) ∧
      (128 ≤ m → ∃ s', exec .degradeNote s = .next s' ∧ s'.regs = s.regs ∧ s'.mem = s.mem ∧
        ∀ q ∈ [2 + m % 64, 66 + m % 64, 130], ∀ e ∈ (s.q q).held, e.op = 1 → e.taken = true → e.stream = m % 64 →
          e.frame = frame → { e with degraded := true } ∈ (s'.q q).held)) ∧
    (∀ (f : Flit) (st : Nat) (odd : Bool), s.first f = true → f.body = .lateNote st odd → s.pdOn 6 = true → st < 64 →
      let frame := if bit (s.reg rFrame) 0 = odd then s.reg rFrame else s.reg rFrame - 1
      ∃ s', exec .lateNote s = .next s' ∧ s'.regs = s.regs ∧ s'.mem = s.mem ∧
        ∀ q ∈ [2 + st, 66 + st, 130], ∀ e ∈ (s.q q).held, e.op = 1 → e.taken = true → e.stream = st → e.frame = frame →
          { e with degraded := true, late := true } ∈ (s'.q q).held) ∧
    (∀ (t : TileId) (f : Flit) (k : Nat), s.first f = true → f.body = .fence t.val k →
      (s.noteWaits t.val = true → exec (.fenceWord t) s = .next s) ∧
      (s.noteWaits t.val = false →
        ∃ s' g, exec (.fenceWord t) s = .next s' ∧ s'.mem = s.mem ∧ s'.regs = s.regs ∧
          s'.mesh.flits = s.mesh.flits.filter (fun g => g.age ≠ f.age) ++ [g] ∧ g.body = .fenceAck t.val k)) ∧
    (∀ (f : Flit) (t k q : Nat) (e : Entry) (ts : List Nat), s.first f = true → f.body = .fenceAck t k → q < 132 →
      s.entry q k = some e → e.fence = some ts →
      ∃ s', exec .fenceAck s = .next s' ∧ s'.regs = s.regs ∧ s'.mem = s.mem ∧
        s'.entry q k = some { e with fence := some (ts.filter (fun u => u ≠ t)) }) ∧
    ∀ (q : Fin 132) (e : Entry), s.entry q.val e.serial = some e →
      (s.q q.val).held.find? (fun e => e.ended && e.done.isNone && e.fence == some []) = some e →
      ∃ s', exec (.completionPost q) s = .next s' ∧ s'.regs = s.regs ∧ s'.mem = s.mem ∧
        s'.entry q.val e.serial = some { e with
          done := some (if e.skipped = 0 then (0, false, e.moved % 2 ^ 32) else (6, true, e.skipped % 2 ^ 32)) }

/-- A free copy engine takes the waiting descriptor that goes first, of a queue or of a steward's ring, and begins to read
its header from the host or the device; one that it cannot reach ends at once and is counted. Its host reads and writes
go out when the link, INFLIGHT and the tags admit them. A descriptor that has ended leaves the engine free: a queue's
entry takes its status; a ring's, once it is the ring's oldest, its slot's status word, HEAD moves on, and the ring's
Bell source is raised. A write of SRING_TAIL that reaches the register sets its low byte. Nothing else in memory
changes. (R311, R312, R317, R320, R322, R348, R371, R381, R450, 09_ladles.md) -/
def Obligations.CopyEngines : Prop :=
  ∀ s : State,
    (∀ (l : Fin 16) (q : Nat), s.pdOn 6 = true → s.early = false → (s.lad l).copy = none → s.copyNext l.val = some q →
      let begins (serial desc : Nat) (host : Bool) : Prop :=
        ∃ s' c, exec (.copyGrant l) s = .next s' ∧ s'.mem = s.mem ∧ (s'.lad l).copy = some c ∧ c.queue = q ∧
          c.serial = serial ∧ c.descHost = host ∧
          (desc % 64 = 0 → (host = false → s.copyThere desc 16 = true) →
            c.stage = .header ∧ c.read = some (host, desc, 16)) ∧
          (desc % 64 ≠ 0 ∨ (host = false ∧ s.copyThere desc 16 = false) →
            c.stage = .ended 3 0 ∧ s'.reg rDescFaults = satAdd (s.reg rDescFaults) 1) ∧
          ∀ x ∈ (s'.q q).held, q < 132 → x.serial = serial → x.taken = true
      (∀ e : Entry, q < 132 → s.headCopy q = some e → begins e.serial (e.fld 64 64) (decide (e.fld 128 1 = 1))) ∧
      ∀ k : Fin 4, q = 132 + k.val →
        let place := s.ringPlace k.val (s.inService q)
        begins place (natOfBytes (s.mem.bytes ((s.reg (rSringBase k.val)).toNat + 16 * place) 4)) false) ∧
    (∀ (l : Fin 16) (c : CopyRun) (a n : Nat), s.pdOn 6 = true → (s.lad l).copy = some c → c.wantsHost = some (a, n) →
      s.mayRequest = true → s.withinLimit l c.queue = true → s.host.reads.any (fun r => r.who == .copy l.val) = false →
      (s.tagsFor a n = true → s.tagTurn (l.val, true) = true →
        ∃ s', exec (.hostReadIssue l true) s = .next s' ∧ s'.mem = s.mem ∧ s.readsIssued s' (.copy l.val) c.queue a n) ∧
      (s.tagsFor a n = false ∨ s.tagTurn (l.val, true) = false →
        ∃ s', exec (.hostReadIssue l true) s = .next s' ∧ s' = { s with host := s'.host } ∧
          s'.host.reads = s.host.reads ∧ (l.val, true) ∈ s'.host.tagWait)) ∧
    (∀ (l : Fin 16) (c : CopyRun) (a : Nat) (bs : List Byte), s.pdOn 6 = true → (s.lad l).copy = some c →
      c.hostOut = some (a, bs) → s.mayRequest = true →
      ∃ s', exec (.hostWriteIssue l true) s = .next s' ∧ s'.mem = s.mem ∧ s.writesSent s' a bs) ∧
    (∀ (l : Fin 16) (c : CopyRun) (st blk : Nat), (s.lad l).copy = some c → c.stage = .ended st blk →
      (c.queue < 132 →
        ∃ s', exec (.copyComplete l) s = .next s' ∧ (s'.lad l).copy = none ∧ s'.mem = s.mem ∧ s'.regs = s.regs ∧
          ∀ x ∈ (s'.q c.queue).held, x.serial = c.serial → x.done = some (st, false,
            if st = 3 then blk + 2 ^ 16 * 0x30 else if st = 4 then c.faultIdx.getD 0 else c.moved % 2 ^ 32)) ∧
      (∀ k : Fin 4, c.queue = 132 + k.val →
        let base := (s.reg (rSringBase k.val)).toNat
        let h := fld (s.reg (rSringHead k.val)) 0 8
        (c.serial ≠ h → exec (.copyComplete l) s = .next s) ∧
        (c.serial = h →
          ∃ s', exec (.copyComplete l) s = .next s' ∧ (s'.lad l).copy = none ∧
            s'.reg (rSringHead k.val) = BitVec.ofNat 32 ((h + 1) % (fld (s.reg (rSringCfg k.val)) 0 8 + 1)) ∧
            s.regsBut s' [rSringHead k.val] ∧ s.rings s' (40 + k.val) ∧ s.bytesBut s' (base + 16 * h + 4) 4 ∧
            (isSram (base + 16 * h + 4) = true → s'.mem.bytes (base + 16 * h + 4) 4 = bytesOfNat 4
              (st + 2 ^ 8 * (if st = 3 ∨ st = 5 then blk else 0) + 2 ^ 16 * c.faultIdx.getD 0xFFFF))))) ∧
    ∀ (m : Master) (k : Fin 4) (v : BitVec 32), s.writes m (rSringTail k.val) = true →
      ∃ s', exec (.sringTail m k v) s = .next s' ∧ s.onlyReg s' (rSringTail k.val) ∧ s'.reg (rSringTail k.val) = v &&& 0xFF

/-- For every slot class and every value of the bits below OP: the NOP command changes nothing; in a bundle the slot
names no register, joins no condition that holds the bundle, makes no bundle illegal and raises no fault, and the
slots run as they would without it, whatever its predicate reads. (R653) -/
def Obligations.NopDoesNothing : Prop :=
  ∀ (s : State) (t : TileId) (th : ThreadId),
    (∀ (k : SlotKind) (w : SlotWord), exec (.nop t th k w) s = .next s) ∧
    ∀ (y : Thread) (l r : List BSlot) (b : BSlot) (frame : Bool), b.op = 0 →
      b.regs frame = ⟨[], []⟩ ∧ s.holdCode t th y (l ++ b :: r) = s.holdCode t th y (l ++ r) ∧
      illegalSlot (l ++ b :: r) frame = illegalSlot (l ++ r) frame ∧
      s.runSlots t th y (l ++ b :: r) = s.runSlots t th y (l ++ r)

/-- A TICK that ends a last blanking line (a normal start) or a forced one, with the timing generator running on, leaves
TICK.FRAME one higher, TICK.CKREL 0 and TICK.STATUS.TICK 1, and toggles TOP.HEARTBEAT and the HEARTBEAT pin. (R20) -/
def Obligations.TickActions : Prop :=
  ∀ s : State, s.tgOn = true → s.tgStops = false → s.tick.blank = .last ∨ s.tick.blank = .forced →
    ∃ s', exec .tick s = .next s' ∧ s'.reg rFrame = s.reg rFrame + 1 ∧ s'.reg rCkrel = 0 ∧ bit (s'.reg rTickStatus) 8 = true ∧
      s'.reg rHeartbeat = s.reg rHeartbeat ^^^ 1 ∧ s'.tick.heartbeatPin = !s.tick.heartbeatPin

/-- The start of blanking line b, in its sampling ck (the one in which CKREL is (V_ACTIVE + b) * LINE_CK / 65536
rounded up, when the frame began with a tick and no relock followed), sets TICK.LINE. The sample, taken at the end of that ck after its updates,
makes b the last line, a forced start or one more line, by the frame-ready count of this and earlier samples, VB_MIN and
VB_MAX (without a plan by VB_MIN alone). Outside the budget ck BUDGET_CHECK changes nothing; in it a tile with a frame
thread that still runs is stopped with all its threads FAULTED and STATUS.OVERRUN is set. LEAVE_WINDOW_ADVANCE puts in
force the window that holds the schedule ck. NDET_CLEAR sets CLEAR only, and a read of a _LO register answers it and
fills that master's shadow only. (R22, R23, R25, R30, R43, R49, R285, R476, R497) -/
def Obligations.BlankingAndBudget : Prop :=
  ∀ s : State,
    (∀ b, s.tgOn = true → s.now.sample = false → s.samplesNow b = true →
      (s.tick.blank = .active ∧ tsVActive s.scan.ts ≤ s.tick.activeLine ∧ b = 0) ∨
        (s.tick.blank = .blanking ∧ b = s.tick.blankLine + 1) →
      ∃ s', exec .blankingLineSample s = .next s' ∧ s'.mem = s.mem ∧ s'.tiles = s.tiles ∧
        s'.reg rLine = BitVec.ofNat 32 (tsVActive s.scan.ts + b) ∧ s'.tick.blank = .blanking ∧ s'.tick.blankLine = b ∧
        s'.tick.ready = (s.tick.ready && decide (b ≠ 0)) ∧ s'.now.sample = true) ∧
    (s.tick.ticked = true → s.tick.relocked = false →
      ∀ b, s.samplesNow b = true ↔ (s.reg rCkrel).toNat = ((tsVActive s.scan.ts + b) * (s.reg rLineCk).toNat + 65535) / 65536) ∧
    (let b := s.tick.blankLine
      let r := s.tick.ready || s.frameReady
      (s.blankDecide.tiles = s.tiles ∧ s.blankDecide.mem = s.mem) ∧
      (s.planRuns = false → s.blankDecide.tick.blank = if tsVbMin s.scan.ts ≤ b + 1 then .last else .blanking) ∧
      (s.planRuns = true → s.teGate = false → s.blankDecide.tick.ready = r ∧
        s.blankDecide.tick.blank = if r = true ∧ tsVbMin s.scan.ts ≤ b + 1 then .last
          else if tsVbMax s.scan.ts ≤ b + 1 then .forced else .blanking)) ∧
    (s.budgetCk = false → exec .budgetCheck s = .next s) ∧
    (∀ (t : TileId) (th : ThreadId), s.budgetCk = true → (s.tile t).frameRun = true → (s.tile t).stopped = false →
      s.isFrame t th = true → (s.thr t th).st = .run ∨ (s.thr t th).st = .stall →
      ∃ s', exec .budgetCheck s = .next s' ∧ bit (s'.reg rTickStatus) 10 = true ∧ (s'.tile t).stopped = true ∧
        ∀ th', (s'.thr t th').st = .faulted) ∧
    (∀ (p : PlanRun) (n w : Nat), s.frameActs = true → s.plan.run = some p → p.budget = 16 * n → 0 < n → w < 16 →
      w * n ≤ s.sched → (w = 15 ∨ s.sched < (w + 1) * n) →
      ∃ s', exec .leaveWindowAdvance s = .next s' ∧ s' = { s with plan := { s.plan with leaveWin := w } }) ∧
    (∀ m : Master, s.writes m rNdetCtrl = true →
      ∃ s', exec (.ndetClear m) s = .next s' ∧ s.onlyReg s' rNdetCtrl ∧ s'.reg rNdetCtrl = 1) ∧
    ∀ (m : Master) (k : Fin 6), s.regOn (rNdet k.val) = true →
      ∃ s', exec (.ndetLoRead m k) s = .next s' ∧
        s' = { s with
          tick := { s.tick with shadow := s'.tick.shadow }
          out := s.out ++ [.answer m (leBytes 4 (s.tick.ndet[k].toNat % 2 ^ 32)) false] } ∧
        Sparse.get (fun _ => none) s'.tick.shadow (16 * masterCode m + k.val) = some ((s.tick.ndet[k] >>> 32).setWidth 32)

/-- For every master and every aligned address of a register block that holds no register, or whose domain (or, for the
per-slice VATC registers, whose slice) is off: a read returns 0 and changes nothing, and a write that arrives there
changes no register and is reported nowhere. (R13, R606) -/
def Obligations.UnassignedAndOff : Prop :=
  ∀ (s : State) (m : Master) (a : Nat) (v : Dword), isRegAddr a = true → a % 4 = 0 → regRow a = none ∨ s.regOn a = false →
    s.regRead m a = (s, 0) ∧
    ((m = .milkhouse → milkWrites a = true) → (m = .host → s.barOpen = true ∧ s.earlyWrite a = false) →
      ∃ s', exec (.registerWrite m (BitVec.ofNat 32 a) 4 (some v)) s = .next s' ∧ s' = { s with now := s'.now })

/-- A 32-bit write of a register whose block does not bar it now and gives it no rule of its own changes that register by
the access types of its bits and no other register; one that the block bars, and one of another width or alignment, is
discarded and posts a register access fault. Two DW of the MSI-X table are two writes. BOARD_ID takes its first write only.
The registers that store a value of their own (THROT_CFG, WIN_BASE, CREAM_WM, LEAD_MAX, TE_CFG) store it. A write of a
register that has a command is that command. The Milkhouse writes nothing outside its blocks, and the host's write with its
BAR closed or while the stewards do not run changes no register it names. A read answers the bytes asked for of the word,
and a host read of more than one DW outside the MSI-X table zeros, with a fault. (R8, R9, R10, R50, R143, R287, R322, R352,
R354, R389, R431, R532) -/
def Obligations.RegisterWrites : Prop :=
  ∀ (s : State) (m : Master) (a : Nat), isRegAddr a = true → (m = .host → s.barOpen = true) →
    (∀ (v : Word) (r : RegRow), s.writes m a = true → regRow a = some r → a % 4 = 0 → ownRule m a = false →
      s.barred m a = false →
      ∃ s', exec (.registerWrite m (BitVec.ofNat 32 a) 4 (some (v.setWidth 64))) s = .next s' ∧ s.onlyReg s' a ∧
        s'.reg a = s.written m a v) ∧
    (∀ (v : Word) (r : RegRow), s.writes m a = true → regRow a = some r → a % 4 = 0 → ownRule m a = false →
      s.barred m a = true → s.refuses (.registerWrite m (BitVec.ofNat 32 a) 4 (some (v.setWidth 64))) m a) ∧
    (∀ (n : Nat) (x : Dword), s.writes m a = true → n ≠ 4 ∨ a % 4 ≠ 0 → ¬ (m = .host ∧ isMsix a = true ∧ n = 8 ∧ a % 8 = 0) →
      s.refuses (.registerWrite m (BitVec.ofNat 32 a) n (some x)) m a) ∧
    (∀ x : Dword, m = .host → isMsix a = true → a % 8 = 0 →
      ∃ s₁ s', exec (.registerWrite m (BitVec.ofNat 32 a) 4 (some (x &&& 0xFFFFFFFF))) s = .next s₁ ∧
        exec (.registerWrite m (BitVec.ofNat 32 (a + 4)) 4 (some (x >>> 32))) s₁ = .next s' ∧
        exec (.registerWrite m (BitVec.ofNat 32 a) 8 (some x)) s = .next s') ∧
    (a = rBoardId → s.writes m a = true → ∀ v : Word,
      ∃ s', exec (.registerWrite m (BitVec.ofNat 32 a) 4 (some (v.setWidth 64))) s = .next s' ∧ s'.mem = s.mem ∧
        (s.woWritten a = false → s.onlyRegs s' ∧ s'.reg a = v ∧ s'.woWritten a = true ∧ s.regsBut s' [rBoardId, rWoState]) ∧
        (s.woWritten a = true → s'.reg a = s.reg a)) ∧
    (∀ v w : Word, s.writes m a = true → (a, w) ∈
        [(rThrotCfg, BitVec.ofNat 32 (min 16 (fld v 0 5))), (rLeadMax, BitVec.ofNat 32 (max 1 (min 64 (fld v 0 7)))),
          (rWinBase, if 0x20000000 < (v &&& 0xFFF00000).toNat then 0x20000000 else v &&& 0xFFF00000),
          (rCreamWm, if 1 ≤ fld v 8 6 ∧ fld v 8 6 < fld v 0 6 then v &&& 0x3F3F else 0x0410),
          (rTeCfg, if fld v 0 2 = 3 then v &&& 4 else v &&& 7)] →
      ∃ s', exec (.registerWrite m (BitVec.ofNat 32 a) 4 (some (v.setWidth 64))) s = .next s' ∧ s.onlyReg s' a ∧
        s'.reg a = w) ∧
    (∀ v : Word,
      let w := exec (.registerWrite m (BitVec.ofNat 32 a) 4 (some (v.setWidth 64))) s
      (∀ o : Fin 2048, a = rCount o.val → w = exec (.syncCountWrite m o v) s) ∧
      (∀ o : Fin 2048, a = rAddReg o.val → w = exec (.syncAddWrite m o v) s) ∧
      (a = rPace → w = exec (.pace m v) s) ∧ (a = rSdone → w = exec (.sdone m v) s) ∧
      (∀ (t : TileId) (k : Fin 32), a = rTile t.val (oLsync k.val) → w = exec (.lsyncWrite m t k v) s) ∧
      ∀ k : Fin 3, a = rPdCtrl k.val → w = exec (.pdCtrlWrite m k v) s) ∧
    (m = .milkhouse → milkReads a = false → ∀ (n : Nat) (x : Dword),
      exec (.registerWrite m (BitVec.ofNat 32 a) n (some x)) s = .next s) ∧
    (m = .milkhouse → milkReads a = true → milkWrites a = false → ∀ v : Word,
      exec (.registerWrite m (BitVec.ofNat 32 a) 4 (some (v.setWidth 64))) s = .next (s.regFault m a)) ∧
    (s.barOpen = false → ∀ (n : Nat) (x : Dword),
      ∃ s', exec (.registerWrite .host (BitVec.ofNat 32 a) n (some x)) s = .next s' ∧ s' = { s with host := s'.host, regs := s'.regs } ∧
        ∀ b, isRegAddr b = true → s'.reg b = s.reg b) ∧
    (m = .host → s.earlyWrite a = true → ∀ v : Word,
      exec (.registerWrite m (BitVec.ofNat 32 a) 4 (some (v.setWidth 64))) s = .next (s.satReg rEarlyDrop)) ∧
    (∀ n : Nat, s.reaches m = true → a % 4 + n ≤ 4 →
      let r := s.regRead m (a / 4 * 4)
      let bs := ((leBytes 4 r.2.toNat).drop (a % 4)).take n
      ∃ s', exec (.registerWrite m (BitVec.ofNat 32 a) n none) s = .next s' ∧
        (m = .milkhouse ∨ m = .swap → s' = r.1.emit (.answer m bs false)) ∧
        (m = .host → s' = r.1.emit (.answer m bs false))) ∧
    (∀ n : Nat, m = .host → s.regOn a = true → 4 < a % 4 + n → ¬ (isMsix a = true ∧ n = 8 ∧ a % 8 = 0) →
      ∃ s' l, exec (.registerWrite m (BitVec.ofNat 32 a) n none) s = .next s' ∧
        s' = { s.regFault m a with out := s.out ++ l } ∧
        l.flatMap (fun o => match o with | .answer _ bs _ => bs | _ => []) = List.replicate n 0)

/-- The governor grants the request first in its order that fits, a tile's or a copy engine's, and none after one that does
not fit. KX.PLANGO arms a variant whose checks pass and answers its status in x[rd], arms the stop index, or with a failed
check answers 3 with the row and arms nothing; what was armed is replaced. With no plan running, or in a budget ck that
ends the band cycle, the engine starts on what is armed. Its completion loads the target, or where a load fails keeps what
was loaded before and ends with no target and a record. A relock sets CLK_NOW and computes MINPER and LINE_CK from it.
(R27, R336, R338, R339, R340, R343, R447, R448, R473, R480, R481, 14_power_and_leave.md) -/
def Obligations.PlanArming : Prop :=
  ∀ s : State,
    (∀ (r : Nat) (q : LeaveReq) (l : List (Nat × LeaveReq)), s.leaveOrder = (r, q) :: l → s.leaveFits q.size = false →
      exec .leaveGrant s = .next s) ∧
    (∀ (t : TileId) (q : LeaveReq), s.pdOn 7 = true → s.leaveOrder = [(t.val, q)] → s.leaveFits q.size = true →
      ∃ s', exec .leaveGrant s = .next s' ∧ s.onlyTile s' t ∧
        s'.tile t = { s.tile t with request := none, grant := some ⟨q.size, s.ck, q.move, false⟩ }) ∧
    (∀ (k : Fin 16) (c : CopyRun) (q : LeaveReq), s.pdOn 7 = true → s.leaveOrder = [(64 + k.val, q)] →
      (s.lad k).copy = some c → s.leaveFits q.size = true →
      ∃ s', exec .leaveGrant s = .next s' ∧ s' = { s with ladle := s'.ladle } ∧
        (s'.lad k).copy = some { c with request := none, grant := some ⟨q.size, s.ck, q.move, false⟩ }) ∧
    (∀ (k : Fin 4) (rd rs1 rs2 : Fin 32), s.coreRuns k = true → (s.core k).user = false → s.pdOn 7 = true →
      let a := (s.core k).x[rs1].toNat
      let v := (s.core k).x[rs2].toNat
      a < 2 ^ 32 →
      (v = 15 ∨ (v < 15 ∧ s.hwRow a v = none ∧ s.armBarred a v = false) →
        ∃ s' r, exec (.kxPlango k rd rs1 rs2) s = .next s' ∧ s.sameBytes s' ∧ s'.tiles = s.tiles ∧
          s'.plan = { s.plan with arming := some r, armEntry := none } ∧ r.index = v ∧ (v < 15 → r.addr = a) ∧
          (s'.core k).x = ((s.core k).wx rd.val (BitVec.ofNat 64 s.armStatus)).x ∧ (s'.core k).pc = (s.core k).pc + 4) ∧
      (∀ row, v < 15 →
        (s.hwRow a v = some row ∧ (row ≤ 3 ∨ s.armBarred a v = false)) ∨
          (row = 3 ∧ s.armBarred a v = true ∧ ∀ r, s.hwRow a v = some r → 3 < r) →
        ∃ s', exec (.kxPlango k rd rs1 rs2) s = .next s' ∧ s' = { s with stew := s'.stew } ∧
          (s'.core k).x = ((s.core k).wx rd.val (BitVec.ofNat 64 (3 + 256 * row))).x ∧ (s'.core k).pc = (s.core k).pc + 4)) ∧
    (∀ r : Arming, s.pdOn 7 = true → s.plan.engine = .idle → s.plan.arming = some r →
      s.planRuns = false ∨ (s.budgetCk = true ∧ s.variantFault = false ∧ s.cycleEnds = true) →
      (r.index = 15 → ∃ s', exec .swapEngineStart s = .next s' ∧ s.sameBytes s' ∧ s'.plan =
        { s.plan with arming := none, armEntry := none, engine := .loading none false, swapEntry := s.plan.armEntry }) ∧
      (r.index < 15 → s.hwRow r.addr r.index = none → s.mem.cacheNext = none →
        s.cacheSize = (s.planAt r.addr r.index).cache → ∃ s' b, exec .swapEngineStart s = .next s' ∧ s.sameBytes s' ∧
          s'.plan = { s.plan with
            arming := none
            armEntry := none
            engine := .loading (some (s.planAt r.addr r.index)) b
            swapEntry := s.plan.armEntry } ∧ (s.planRuns = false → b = false))) ∧
    (∀ b : Bool, s.plan.engine = .loading none b → s.mem.cacheNext = none →
      ∃ s', exec .swapEngineComplete s = .next s' ∧ s'.mem = s.mem ∧ s'.plan = { s.plan with engine := .done none true } ∧
        s'.power.relock = if s.clkNow = s.idleClock then s.power.relock else some s.idleClock) ∧
    (∀ (p q : PlanRun) (b : Bool) (r : State), s.plan.engine = .loading (some p) b → s.mem.cacheNext = none →
      s.loadPlan p = (r, some q) → ∃ s', exec .swapEngineComplete s = .next s' ∧ s'.mem = r.mem ∧ s'.regs = r.regs ∧
        s'.tiles = r.tiles ∧ s'.plan.engine = .done (some q) b ∧
        s'.power.relock = if r.clkNow = q.clock then r.power.relock else some q.clock) ∧
    (∀ (p : PlanRun) (b : Bool) (r : State), s.plan.engine = .loading (some p) b → s.mem.cacheNext = none →
      s.loadPlan p = (r, none) →
      ∃ s' e, exec .swapEngineComplete s = .next s' ∧ s'.mem = r.mem ∧ s'.regs = r.regs ∧ s'.tiles = r.tiles ∧
        s'.plan.engine = .done none false ∧ s'.plan.swapEntry = none ∧ s'.errs = r.errs ++ [e] ∧ e.code = 0x61) ∧
    ∀ c : Nat, s.power.relock = some c → c < 2 ^ 32 →
      ∃ s', exec .relockComplete s = .next s' ∧ s.sameBytes s' ∧ s'.tiles = s.tiles ∧ s'.power.relock = none ∧ s'.clkNow = c ∧
        s'.reg rMinper = BitVec.ofNat 32 ((tsVActive s.scan.ts + tsVbMin s.scan.ts) * tsHTotal s.scan.ts * (c * 1000) /
          tsPclk s.scan.ts) ∧
        s'.reg rLineCk = BitVec.ofNat 32 ((2 * tsHTotal s.scan.ts * (c * 1000) * 65536 + tsPclk s.scan.ts) /
          (2 * tsPclk s.scan.ts))

/-- For a running core in machine mode and a powered table: with no frame threads (vh table: no plan) running the table
switches and x[rd] is 0; otherwise the switch is marked pending and x[rd] is 1, or 2 where one was pending, which
stays the one that is pending. A reserved table value takes the illegal-instruction exception: cause 2, mepc at the
instruction, machine mode at the trap vector, no register or table changed. (R447) -/
def Obligations.HandleTableSwap : Prop :=
  ∀ (s : State) (k : Fin 4) (rd rs1 : Fin 32), s.coreRuns k = true → (s.core k).user = false →
    let v := (s.core k).x[rs1].toNat
    (∀ a held, (v < 64 ∧ s.pdOn (16 + v) = true ∧ a = rTile v oHbank ∧ held = (s.tile (tid v)).frameRun) ∨
        (v = 0xFF ∧ s.pdOn 7 = true ∧ a = rVhBank ∧ held = s.planRuns) →
      ∃ s', exec (.kxHswap k rd rs1) s = .next s' ∧ s' = { s with regs := s'.regs, stew := s'.stew, now := s'.now } ∧
        (∀ b, b ≠ a → s'.reg b = s.reg b) ∧ (s'.core k).pc = (s.core k).pc + 4 ∧
        (held = false → s'.reg a = s.reg a ^^^ 1 ∧ (s'.core k).x = ((s.core k).wx rd.val 0).x) ∧
        (held = true → bit (s.reg a) 1 = false → bit (s'.reg a) 0 = bit (s.reg a) 0 ∧ bit (s'.reg a) 1 = true ∧
          (s'.core k).x = ((s.core k).wx rd.val 1).x) ∧
        (held = true → bit (s.reg a) 1 = true → s'.reg a = s.reg a ∧ (s'.core k).x = ((s.core k).wx rd.val 2).x)) ∧
    (64 ≤ v → v < 0xFF →
      ∃ s', exec (.kxHswap k rd rs1) s = .next s' ∧ s' = { s with stew := s'.stew } ∧ (s'.core k).x = (s.core k).x ∧
        (s'.core k).mcause = 2 ∧ (s'.core k).mepc = (s.core k).pc ∧ (s'.core k).user = false ∧
        (s'.core k).pc = (s.core k).mtvec &&& ~~~ 3)

/-- A configuration request gets retry status before READY_CFG and during a reset; afterwards a read returns the register,
and a write changes the writable bits of the bytes it enables and answers. A BAR2 read is zeros, and a write lost, while the
stewards do not run; else a read begins an access, a write of whole words goes out as narrow writes, and any other as a read
to be merged. A doorbell moves its queue, or is invalid and logged; a completion doorbell may signal at once. A host message
is latched and rings its source. Another write to BAR4 is logged and a read gives zeros. A request that no BAR takes is
reported in AER. (R89, R350, R352, R355, R357, R360, R361, R374, R376, R532, 11_host_link.md) -/
def Obligations.HostAccesses : Prop :=
  ∀ s : State,
    (∀ (dw : Fin 1024) (be : BitVec 4) (v : Word), s.linkUp = true → s.host.perst = false →
      (bit (s.reg rReadyCfg) 0 = false ∨ s.host.flr = true → ∀ wr, exec (.configurationRequest wr dw be v) s = .next (s.emit .retry)) ∧
      (bit (s.reg rReadyCfg) 0 = true → s.host.flr = false →
        (∃ x, exec (.configurationRequest false dw be v) s = .next (s.emit (.completion (some x))) ∧
          (dw.val ≠ 11 → dw.val ≠ 32 → dw.val ≠ 85 → dw.val ≠ 86 → x = (s.cfg (4 * dw.val)).setWidth 64) ∧
          (dw.val = 11 → x = (s.reg rSubsysId).setWidth 64)) ∧
        (let o := 4 * dw.val
          let new := ((s.cfg o &&& ~~~ cfgMask o) ||| (v &&& cfgMask o)) &&& ~~~ (v &&& cfgW1c o)
          (o = 0x44 → fld v 0 2 = 0 ∨ fld v 0 2 = 3) → (o = 0x78 → bit v 15 = false) →
          ∃ s', exec (.configurationRequest true dw be v) s = .next s' ∧
            s' = { s with host := s'.host, regs := s'.regs, out := s'.out } ∧
            (∀ i : Fin 4, fld (s'.cfg o) (8 * i.val) 8 = fld (if be.getLsbD i.val then new else s.cfg o) (8 * i.val) 8) ∧
            (∀ j : Fin 1024, j ≠ dw → s'.cfg (4 * j.val) = s.cfg (4 * j.val)) ∧
            s'.out.getLast? = some (.completion (some 0))))) ∧
    (∀ (off : BitVec 28) (n : Nat) (bs : List Byte), s.barOpen = true →
      let a := (s.reg rWinBase).toNat + off.toNat
      (s.early = true →
        (∃ s' l, exec (.bar2Access off n none) s = .next s' ∧ s' = { s with out := s.out ++ l } ∧
          l.flatMap (fun o => match o with | .answer _ b _ => b | _ => []) = List.replicate n 0) ∧
        exec (.bar2Access off n (some bs)) s = .next (s.satReg rEarlyDrop)) ∧
      (s.early = false → s.rangeThere a n = true → ∃ s' c, exec (.bar2Access off n none) s = .next s' ∧
        s'.accs = s.accs ++ [c] ∧ c.m = .host ∧ c.addr = a ∧ c.len = n ∧ c.wr = none ∧ s'.mem = s.mem ∧ s'.tiles = s.tiles ∧
        s'.regs = s.regs) ∧
      (s.early = false → s.rangeThere a n = false → ∃ s' l e, exec (.bar2Access off n none) s = .next s' ∧
        s' = { s with out := s.out ++ l, errs := s.errs ++ [e] } ∧ e.code = 0x51 ∧
        l.flatMap (fun o => match o with | .answer _ b _ => b | _ => []) = List.replicate n 0) ∧
      (s.early = false → s.rangeThere a bs.length = true → a % 8 = 0 → bs.length % 8 = 0 →
        ∃ s' l, exec (.bar2Access off n (some bs)) s = .next s' ∧ s' = { s with mesh := s'.mesh } ∧
          s'.mesh.flits = s.mesh.flits ++ l ∧ (bs.length = 8 → ∃ f, l = [f] ∧
            f.body = .narrow (memOf a) {
              addr := a
              len := 8
              wr := some bs
              who := .write 0
              home := (masterPlace .host a).1
              port := (masterPlace .host a).2
              waited := false
              since := s.ck })) ∧
      (s.early = false → s.rangeThere a bs.length = true → ¬ (a % 8 = 0 ∧ bs.length % 8 = 0) →
        ∃ s' c, exec (.bar2Access off n (some bs)) s = .next s' ∧ s'.accs = s.accs ++ [c] ∧ c.m = .host ∧ c.addr = a ∧
          c.wr = some bs ∧ s'.mem = s.mem ∧ s'.tiles = s.tiles ∧ s'.regs = s.regs) ∧
      (s.early = false → s.rangeThere a bs.length = false → ∃ s' e, exec (.bar2Access off n (some bs)) s = .next s' ∧
        s' = { s with errs := s.errs ++ [e] } ∧ e.code = 0x51)) ∧
    (∀ (q : Fin 132) (v : Word), s.barOpen = true →
      (s.qEn q.val = true → fld v 0 12 < s.sqSize q.val → ringDist (s.q q.val).sqHead (s.q q.val).sqTail (s.sqSize q.val) +
          ringDist (s.q q.val).sqTail (fld v 0 12) (s.sqSize q.val) < s.sqSize q.val →
        ∃ s', exec (.sqTailDoorbell q true v) s = .next s' ∧
        s' = { s with host := s'.host } ∧ s'.q q.val = { s.q q.val with sqTail := fld v 0 12 }) ∧
      (s.qEn q.val = false ∨ s.sqSize q.val ≤ fld v 0 12 ∨ s.sqSize q.val ≤
            ringDist (s.q q.val).sqHead (s.q q.val).sqTail (s.sqSize q.val) +
              ringDist (s.q q.val).sqTail (fld v 0 12) (s.sqSize q.val) →
        ∃ s', exec (.sqTailDoorbell q true v) s = .next s' ∧
        s'.host = s.host ∧ s'.mem = s.mem ∧ s'.reg rDbErr = BitVec.ofNat 32 (q.val + 65536 * fld v 0 12) ∧
        s'.reg rDbErrCount = satAdd (s.reg rDbErrCount) 1)) ∧
    (∀ (q : Fin 132) (v : Word), s.barOpen = true →
      let h := fld v 0 12
      let x := s.q q
      let n := s.cqSize q.val
      (s.qEn q.val = true → h < n → ringDist x.cqHead h n ≤ ringDist x.cqHead x.cqTail n →
        (h = x.cqTail ∨ bit (s.reg (rQueue q.val 0x14)) 1 = false → ∃ s', exec (.cqHeadDoorbell q true v) s = .next s' ∧
          s' = { s with host := s'.host } ∧ s'.q q.val = { x with cqHead := h, arm := true }) ∧
        (h ≠ x.cqTail → bit (s.reg (rQueue q.val 0x14)) 1 = true →
          ∃ s', exec (.cqHeadDoorbell q true v) s = .next s' ∧ s'.mem = s.mem ∧ s'.q q.val = { x with cqHead := h, arm := false } ∧
            (s.mayMsix (queueVector q.val) = true → s'.out = s.out ++ [.msix (queueVector q.val)]))) ∧
      (s.qEn q.val = false ∨ n ≤ h ∨ ringDist x.cqHead x.cqTail n < ringDist x.cqHead h n →
        ∃ s', exec (.cqHeadDoorbell q true v) s = .next s' ∧ s'.host = s.host ∧
          s'.reg rDbErr = BitVec.ofNat 32 (q.val + 256 + 65536 * h))) ∧
    (∀ (d : Fin 16) (v : Word), s.barOpen = true → ∃ s', exec (.hostMessageDoorbell (.msg d) true v) s = .next s' ∧
      s' = { s with regs := s'.regs, bellMsgs := s'.bellMsgs, mesh := s'.mesh } ∧
      s.setReg (rMsg d.val) v = { s with regs := s'.regs } ∧ s.rings s' (480 + d.val)) ∧
    (∀ (c : Instr), (∃ q v, c = .sqTailDoorbell q false v ∨ c = .cqHeadDoorbell q false v) ∨
        (∃ d v, c = .hostMessageDoorbell (.msg d) false v) ∨ (∃ o dw v, c = .hostMessageDoorbell (.other o) dw v) →
      s.barOpen = true → ∃ s', exec c s = .next s' ∧ s'.mem = s.mem ∧ s'.host = s.host ∧ s'.out = s.out ∧
        bit (s'.reg rDbErr) 9 = true ∧ s.regsBut s' [rDbErr]) ∧
    (∀ o n dw v, s.barOpen = true → ∃ s' l, exec (.hostMessageDoorbell (.read o n) dw v) s = .next s' ∧
      s' = { s with out := s.out ++ l } ∧
      l.flatMap (fun o => match o with | .answer _ b _ => b | _ => []) = List.replicate n 0) ∧
    ∀ (kind : Fin 4) (posted : Bool), s.linkUp = true → s.host.perst = false →
      ∃ s', exec (.unsupportedRequest kind posted) s = .next s' ∧
        bit (s'.cfg 0x104) (if kind = 0 then 20 else if kind = 1 then 12 else if kind = 2 then 18 else 19) = true ∧
        s'.mem = s.mem ∧ s'.regs = s.regs ∧ s'.out = s.out ++ (if kind = 0 ∧ posted = false then [.completion none] else [])

/-- A fetch reads the next ring entries in requests that the link admits, and an entry that fails R363 has its status at
once. A NOP is done with OK (its DETAIL is open), a PICTURE or COPY arrives for its engine. The completion of the oldest
entry is written at the CQ tail as R369 lays it out, the queue moves on, and an armed vector is signalled. SDONE gives a
steward-served entry its status, or is a register access fault where none waits. SMSG is stored. Enabling an idle queue
starts it afresh (log 51: a queue that is not idle stays disabled); disabling drops what has not arrived and completes what
is not in service. (R359, R362, R363, R364, R369, R373, R374, R376, R379, R389, 11_host_link.md,
notes/assumptions/51.md) -/
def Obligations.QueueEntries : Prop :=
  ∀ (s : State) (q : Fin 132),
    (∀ raws : List (BitVec 512), s.mayRequest = true → s.qEn q.val = true → 0 < raws.length →
      raws.length ≤ s.fetchRoom q.val →
      (s.fetchPieces (s.sqBase q.val + 64 * (s.q q.val).fetch) (64 * raws.length)).length ≤ s.freeTags.length →
      ∃ s', exec (.entryFetch q raws) s = .next s' ∧ s'.out = s.out ++
          (s.freeTags.zip (s.fetchPieces (s.sqBase q.val + 64 * (s.q q.val).fetch) (64 * raws.length))).map
            (fun p => .hostRead p.1 p.2.1 p.2.2) ∧
        (s'.q q.val).fetch = ((s.q q.val).fetch + raws.length) % s.sqSize q.val ∧
        (s'.q q.val).held.map (fun e => (e.raw, e.index, e.taken)) =
          (s.q q.val).held.map (fun e => (e.raw, e.index, e.taken)) ++
            raws.zipIdx.map (fun p => (p.1, (s.q q.val).fetch + p.2, false)) ∧
        ∀ raw, raws = [raw] → (s.q q.val).held = [] → raw.toNat % 256 ≤ 2 ∨ arrivalFault (s.planesUsed q.val) q.val raw ≠ none →
          ∃ e, (s'.q q.val).held = [e] ∧ s'.mem = s.mem ∧ s'.regs = s.regs ∧
            (arrivalFault (s.planesUsed q.val) q.val raw = none → e.arrived = none ∧ e.done = none) ∧
            (∀ st d, arrivalFault (s.planesUsed q.val) q.val raw = some (st, d) →
              e.arrived = some s.ck ∧ e.done = some (st, false, d))) ∧
    (∀ e : Entry, s.pdOn 2 = true → (s.q q.val).held = [e] → e.arrived = none →
      (e.op = 0 → ∃ s' d, exec (.entryNop q) s = .next s' ∧ s'.mem = s.mem ∧ s'.regs = s.regs ∧
        (s'.q q.val).held = [{ e with arrived := some s.ck, epoch := s.reg rEpoch, done := some (0, false, d) }]) ∧
      (e.op = 1 → ∃ s', exec (.picture q) s = .next s' ∧ s'.mem = s.mem ∧ s'.regs = s.regs ∧
        (s'.q q.val).held = [{ e with arrived := some s.ck, epoch := s.reg rEpoch, done := none }]) ∧
      (e.op = 2 → ∃ s', exec (.copy q) s = .next s' ∧ s'.mem = s.mem ∧ s'.regs = s.regs ∧
        (s'.q q.val).held = [{ e with arrived := some s.ck, epoch := s.reg rEpoch, done := none }])) ∧
    (∀ (e : Entry) (rest : List Entry) (st d : Nat) (ab : Bool), (s.q q.val).held = e :: rest → e.done = some (st, ab, d) →
      s.cqFull q.val = false → s.mayRequest = true → s.abortWaits q.val e = false →
      let x := s.q q.val
      let tail := (x.cqTail + 1) % s.cqSize q.val
      let head := (e.index + 1) % s.sqSize q.val
      let irq := x.arm && bit (s.reg (rQueue q.val 0x14)) 1
      ∃ s' frame stream l, exec (.completionWrite q) s = .next s' ∧ s'.mem = s.mem ∧ s'.tiles = s.tiles ∧
        (e.op ≠ 1 → frame = (s.reg rFrame).toNat ∧ stream = 0xFF) ∧
        (e.op = 1 → e.taken = true → frame = e.frame.toNat ∧ stream = e.stream) ∧
        s'.q q.val = { x with
          held := rest
          sqHead := head
          cqTail := tail
          phase := if tail = 0 then !x.phase else x.phase
          arm := x.arm && !irq } ∧
        s'.out = s.out ++ [.hostWrite (s.cqBase q.val + 32 * x.cqTail)
          (bytesOfNat 4 e.tag ++ bytesOfNat 4 frame ++ bytesOfNat 4 e.epoch.toNat ++ bytesOfNat 2 head ++
            bytesOfNat 1 st ++ bytesOfNat 1 (b2n e.subst + 2 * b2n e.degraded + 4 * b2n e.late + 8 * b2n e.forced + 16 * b2n ab) ++
            bytesOfNat 8 d ++ bytesOfNat 1 q.val ++ bytesOfNat 1 stream ++ [0, 0, 0, 0, 0, BitVec.ofNat 8 (b2n x.phase)])] ++ l ∧
        l = (if irq && s.mayMsix (queueVector q.val) then [.msix (queueVector q.val)] else [])) ∧
    (∀ (m : Master) (v : Word), s.writes m rSdone = true → fld v 0 8 = q.val →
      (fld v 8 8 < 0xC → ∀ (k : Nat) (e : Entry), s.host.sent.find? (fun x => x.queue == q.val) = some ⟨q.val, k, false⟩ →
        s.entry q.val k = some e → ∃ s', exec (.sdone m v) s = .next s' ∧ s' = { s with host := s'.host, now := s'.now } ∧
        s'.host.sent = s.host.sent.erase ⟨q.val, k, false⟩ ∧
        s'.entry q.val k = some { e with
          taken := true
          done := some (fld v 8 8, fld v 8 8 == 0x06 || fld v 8 8 == 0x09 || fld v 8 8 == 0x0B,
            (s.reg (rSdoneDetail 0)).toNat + 2 ^ 32 * (s.reg (rSdoneDetail 1)).toNat) }) ∧
      (fld v 8 8 < 0xC → ∀ k, s.host.sent.find? (fun x => x.queue == q.val) = some ⟨q.val, k, true⟩ →
        ∃ s', exec (.sdone m v) s = .next s' ∧
          s' = { s with host := { s.host with sent := s.host.sent.erase ⟨q.val, k, true⟩ }, now := s'.now }) ∧
      (0xC ≤ fld v 8 8 ∨ s.host.sent.find? (fun x => x.queue == q.val) = none → s.refuses (.sdone m v) m rSdone)) ∧
    (∀ (m : Master) (v : Word), s.writes m rSmsg = true → ∃ s', exec (.hostSmsg m v) s = .next s' ∧ s'.reg rSmsg = v ∧
      s'.mem = s.mem ∧ s'.host = s.host) ∧
    ∀ (m : Master) (v : Word), s.writes m (rQueue q.val 0x14) = true →
      (s.qEn q.val = false → (s.q q.val).held = [] →
        ∃ s', exec (.queueEnable m q v) s = .next s' ∧ s' = { s with host := s'.host, regs := s'.regs, now := s'.now } ∧
          s'.qEn q.val = true ∧ s'.q q.val = { Queue.reset with arm := true } ∧ s.regsBut s' [rQueue q.val 0x14]) ∧
      (s.qEn q.val = true ∨ (s.q q.val).held ≠ [] →
        ∃ s', exec (.queueEnable m q v) s = .next s' ∧ s.onlyReg s' (rQueue q.val 0x14) ∧ s'.qEn q.val = s.qEn q.val) ∧
      (s.qEn q.val = true →
        ∃ s', exec (.queueDisable m q v) s = .next s' ∧ s' = { s with host := s'.host, regs := s'.regs, now := s'.now } ∧
          s'.qEn q.val = false ∧
          (s'.q q.val).held = ((s.q q.val).held.filter (fun e => e.arrived.isSome)).map (fun e =>
            if e.taken || e.done.isSome then e
            else { e with done := some (if e.op = 3 || e.op = 4 then 0x0B else 0x09, true, 0) })) ∧
      (s.qEn q.val = false →
        ∃ s', exec (.queueDisable m q v) s = .next s' ∧ s.onlyReg s' (rQueue q.val 0x14) ∧ s'.qEn q.val = false)

/-- The steward-served entry in front: a stop, or VARIANT 0xF, arms the stop index. ACTION 1 arms a variant whose checks
pass and completes PLAN_REFUSED with the first row that fails otherwise; ACTION 0 first copies its container to the Vat and
writes its image, waits while the engine is busy, and arms the stop index where a plan must stop before that. IDENTIFY
writes its page and FAULT_LOG the records to the host, TIMING_SET requests the timing set of its record, and SKIM_LAYOUT
writes the Skim registers; each completes OK, a record of another length and an unknown command ADMIN_ERROR. (R335, R336,
R337, R338, R367, R368, R379, R494, R547, notes/assumptions/50.md, notes/assumptions/54.md,
notes/assumptions/55.md) -/
def Obligations.StewardEntries : Prop :=
  ∀ (s : State) (q : Nat) (e : Entry), s.stewardsRun = true → s.host.sent = [⟨q, e.serial, false⟩] →
    s.entry q e.serial = some e → e.taken = false →
    let a := e.fld 192 32
    let v := e.fld 224 4
    (∀ (c : Instr) (fw : Fin 16) (data : List Byte), e.op = 3 → s.plan.armEntry ≠ some (q, e.serial) →
      (c = .planStop ∧ e.fld 232 8 = 2) ∨ (c = .planArm fw ∧ e.fld 232 8 = 1 ∧ v = 15) ∨
        (c = .planLoadAndArm fw data ∧ e.fld 232 8 = 0 ∧ v = 15) →
      ∃ s', exec c s = .next s' ∧ s'.mem = s.mem ∧
        s'.plan = { s.plan with arming := some stopArming, armEntry := some (q, e.serial) } ∧
        s'.entry q e.serial = some { e with taken := true }) ∧
    (∀ fw : Fin 16, e.op = 3 → e.fld 232 8 = 1 → v ≠ 15 →
      (s.firstRow fw.val a v = 0 → s.armBarred a v = false → s.plan.armEntry ≠ some (q, e.serial) →
        ∃ s', exec (.planArm fw) s = .next s' ∧ s.sameBytes s' ∧
          s'.plan = { s.plan with arming := some ⟨a, v⟩, armEntry := some (q, e.serial) } ∧
          s'.entry q e.serial = some { e with taken := true }) ∧
      ∀ row, row ≠ 0 → s.firstRow fw.val a v = row ∨ (s.firstRow fw.val a v = 0 ∧ s.armBarred a v = true ∧ row = 3) →
        ∃ s', exec (.planArm fw) s = .next s' ∧ s' = { s with host := s'.host } ∧
          s'.entry q e.serial = some { e with taken := true, done := some (7, false, row) }) ∧
    (∀ (fw : Fin 16) (data : List Byte), e.op = 3 → e.fld 232 8 = 0 → v ≠ 15 → s.mayRequest = true →
      data.length = e.fld 128 32 →
      (s.engineBusy = true → exec (.planLoadAndArm fw data) s = .next s) ∧
      (s.engineBusy = false → s.mustStop a (hasImage data) = true →
        ∃ s', exec (.planLoadAndArm fw data) s = .next s' ∧ s'.mem = s.mem ∧ s'.plan.arming = some stopArming) ∧
      (s.engineBusy = false → s.mustStop a (hasImage data) = false →
        (∀ i, i < data.length → isVat (a + i) = true ∧ s.memThere (a + i) = true) →
        let p := (s.startService q e).placeContainer a data
        let w := if p.integrityOk a && p.imageOk a then p.writeImage a else p
        (∀ i, i < data.length → p.mem.byte (a + i) = data.getD i 0) ∧ s.bytesBut p a data.length ∧
        (∀ dst n src, p.integrityOk a = true → p.imageOk a = true → p.imageOf a = [(dst, n, src)] →
          (∀ i, i < n → p.memThere (dst + i) = true) → src + n ≤ dst ∨ dst + n ≤ src →
          ∀ i, i < n → w.mem.byte (dst + i) = p.mem.byte (src + i)) ∧
        (∀ row, row ≠ 0 → w.firstRow fw.val a v = row → ∃ s', exec (.planLoadAndArm fw data) s = .next s' ∧
          s'.plan = s.plan ∧ s'.mem = w.mem ∧
          s'.entry q e.serial = some { e with taken := true, done := some (7, false, row) }) ∧
        (w.firstRow fw.val a v = 0 → s.armBarred a v = false → s.plan.armEntry ≠ some (q, e.serial) →
          ∃ s', exec (.planLoadAndArm fw data) s = .next s' ∧ w.sameBytes s' ∧
            s'.plan = { s.plan with arming := some ⟨a, v⟩, armEntry := some (q, e.serial) } ∧
            s'.entry q e.serial = some { e with taken := true }))) ∧
    (e.op = 4 → e.fld 64 16 = 0 ∨ 4 < e.fld 64 16 → ∀ (c : Instr) (data : List Byte),
      c ∈ [.identify data, .faultLog, .timingSet data, .skimLayout data] →
      ∃ s', exec c s = .next s' ∧ s' = { s with host := s'.host } ∧
        s'.entry q e.serial = some { e with taken := true, done := some (0x0A, false, 1) }) ∧
    (e.op = 4 → s.mayRequest = true →
      (∀ page : List Byte, page.length = 4096 → e.fld 64 16 = 1 →
        ∃ s' d l, exec (.identify page) s = .next s' ∧ s'.mem = s.mem ∧ s'.regs = s.regs ∧ s'.out = s.out ++ l ∧
          l.flatMap (fun o => match o with | .hostWrite _ bs => bs | _ => []) = page ∧
          s'.entry q e.serial = some { e with taken := true, done := some (0, false, d) }) ∧
      (e.fld 64 16 = 2 → ∃ s' d l, exec .faultLog s = .next s' ∧ s'.mem = s.mem ∧ s'.err = s.err ∧ s'.out = s.out ++ l ∧
        l.flatMap (fun o => match o with | .hostWrite _ bs => bs | _ => []) =
          (s.err.recs.flatMap (fun r => r.1.bytes r.2)).take (e.fld 192 32) ∧
        s'.entry q e.serial = some { e with taken := true, done := some (0, false, d) }) ∧
      (∀ data : List Byte, e.fld 64 16 = 3 → data.length = e.fld 192 32 → 24 ≤ data.length → s.pdOn 3 = true →
        ∃ s' d, exec (.timingSet data) s = .next s' ∧ s'.mem = s.mem ∧ s'.reg rTsCommit = 1 ∧
          (∀ i r, i < 6 → regRow (rTs i) = some r → s'.reg (rTs i) =
            (s.reg (rTs i) &&& ~~~ BitVec.ofNat 32 r.rw) ||| (wordAt data (4 * i) &&& BitVec.ofNat 32 r.rw)) ∧
          s'.entry q e.serial = some { e with taken := true, done := some (0, false, d) }) ∧
      (∀ data : List Byte, e.fld 64 16 = 4 → data.length = e.fld 192 32 →
        let n := min 16 (natOfBytes (data.take 1))
        16 + 64 * n ≤ data.length →
        ∃ s' d, exec (.skimLayout data) s = .next s' ∧ s'.mem = s.mem ∧
          (∀ i, n ≤ i → i < 16 → bit (s'.reg (rSkTile i 0)) 0 = false) ∧
          (∀ i r, i < n → regRow (rSkTile i 0) = some r → s'.reg (rSkTile i 0) =
            (s.reg (rSkTile i 0) &&& ~~~ BitVec.ofNat 32 r.rw) ||| (wordAt data (16 + 64 * i) &&& BitVec.ofNat 32 r.rw)) ∧
          s'.entry q e.serial = some { e with taken := true, done := some (0, false, d) }) ∧
      ∀ (data : List Byte) (c : Instr), (c = .timingSet data ∧ e.fld 64 16 = 3) ∨ (c = .skimLayout data ∧ e.fld 64 16 = 4) →
        data.length ≠ e.fld 192 32 → ∃ s' d, exec c s = .next s' ∧ s'.mem = s.mem ∧ s'.regs = s.regs ∧
          s'.entry q e.serial = some { e with taken := true, done := some (0x0A, false, d) })

/-- A function-level reset discards every queue, read and completion, counts itself, increments EPOCH and returns
configuration space and the HOST registers but SUBSYS_ID, FLR_COUNT and SENT_BASE to reset values; its end raises
the FLR source. PERST# also takes the link down and clears READY_CFG. The link coming up records width and rate and
sets READY_CFG; going down clears them; either way the link source is raised where its state changes. Bus Master Enable and
the power state change their bits in configuration space and in LINK, and nothing else but messages that may now leave.
(R382, R384, R386, R387, R388, R449, R450, R524, R531, 11_host_link.md) -/
def Obligations.HostResets : Prop :=
  ∀ s : State,
    (s.linkUp = true → s.host.perst = false → s.host.flr = false →
      ∃ s', exec .flr s = .next s' ∧ s'.host.flr = true ∧ s'.mayRequest = false ∧ s'.host.queues = [] ∧ s'.host.reads = [] ∧
        s'.mem = s.mem ∧ s'.reg rEpoch = s.reg rEpoch + 1 ∧ s'.reg rFlrCount = satAdd (s.reg rFlrCount) 1 ∧
        s'.reg rSubsysId = s.reg rSubsysId ∧ s'.reg rSentBase = s.reg rSentBase ∧ s'.cfg 0x04 = 0x00100000 ∧
        (∀ q : Fin 132, s'.qEn q.val = false) ∧ ∀ x ∈ s'.host.sent, x.stale = true) ∧
    (s.host.flr = true → ∃ s', exec .flrComplete s = .next s' ∧ s.rings s' 33 ∧
      s' = { s with host := { s.host with flr := false }, bellMsgs := s'.bellMsgs, mesh := s'.mesh }) ∧
    (∃ s', exec .perst s = .next s' ∧ s'.host.perst = true ∧ s'.linkUp = false ∧ s'.reg rReadyCfg = 0 ∧ s'.mem = s.mem ∧
      s'.tick = s.tick ∧ s'.scan = s.scan ∧ s'.plan = s.plan ∧ (s.pdOn 2 = true → s'.host.flr = false ∧ s'.host.queues = [] ∧
        s'.reg rEpoch = s.reg rEpoch + 1 ∧ s.rings s' 33 ∧ (s.linkUp = true → s.rings s' 34))) ∧
    (∀ (w : Fin 16) (r : Fin 8), s.pdOn 2 = true →
      (∃ s', exec (.linkStateChange true w r) s = .next s' ∧
        s' = { s with host := s'.host, regs := s'.regs, out := s'.out, bellMsgs := s'.bellMsgs, mesh := s'.mesh } ∧
        (s.linkUp = true → s'.bellMsgs = s.bellMsgs ∧ s'.mesh = s.mesh) ∧ (s.linkUp = false → s.rings s' 34) ∧
        s'.linkUp = true ∧ s'.host.perst = false ∧ s'.reg rReadyCfg = 1 ∧ fld (s'.reg rLink) 1 4 = w.val ∧
        fld (s'.reg rLink) 5 3 = r.val) ∧
      (∃ s', exec (.linkStateChange false w r) s = .next s' ∧ s'.linkUp = false ∧
        s' = { s with regs := s'.regs, bellMsgs := s'.bellMsgs, mesh := s'.mesh } ∧ s.regsBut s' [rLink] ∧
        (s.linkUp = false → s'.bellMsgs = s.bellMsgs ∧ s'.mesh = s.mesh) ∧ (s.linkUp = true → s.rings s' 34))) ∧
    (∀ on : Bool, s.linkUp = true → ∃ s', exec (.busMasterEnable on) s = .next s' ∧
      s' = { s with host := s'.host, regs := s'.regs, out := s'.out } ∧ bit (s'.cfg 0x04) 2 = on ∧ bit (s'.reg rLink) 8 = on ∧
      s'.host.queues = s.host.queues) ∧
    ∀ d3 : Bool, s.linkUp = true → ∃ s', exec (.powerStateChange d3) s = .next s' ∧
      s' = { s with host := s'.host, regs := s'.regs, out := s'.out } ∧ fld (s'.cfg 0x44) 0 2 = (if d3 then 3 else 0) ∧
      bit (s'.reg rLink) 10 = d3 ∧ s'.host.queues = s.host.queues

/-- TS_COMMIT and OUT_MODE leave a request that waits. A TE edge is held for the latch, which it sets in the next ck, and in
MEASURE mode records the raster line and counts. DP_TRAIN starts training, and its end clears TRAIN (unless a master has
written DP_CTRL in this ck, R11) and reports the outcome in DP_STATUS, with BW_FAIL where the link is too slow for the pixel
clock. An AUX transaction starts when none is in progress and ends with its outcome and its Bell source, as hot-plug events
do. (R11, R26, R390, R393, R397, R398, R425, R426, R427, R428, R450, 12_scanout.md) -/
def Obligations.ScanRequests : Prop :=
  ∀ (s : State) (m : Master) (o : Fin 2) (v : Word),
    (s.writes m rTsCommit = true → ∃ s', exec (.tsCommit m) s = .next s' ∧ s.onlyReg s' rTsCommit ∧ s'.reg rTsCommit = 1) ∧
    (s.writes m rOutMode = true → ∃ s' r, exec (.outMode m v) s = .next s' ∧ regRow rOutMode = some r ∧
      s' = { s with regs := s'.regs, now := s'.now, scan := { s.scan with modeWaits := true, modeBy := m } } ∧
      s.regsBut s' [rOutMode] ∧
      s'.reg rOutMode = (s.reg rOutMode &&& ~~~ BitVec.ofNat 32 r.rw) ||| (v &&& BitVec.ofNat 32 r.rw)) ∧
    (s.pdOn 3 = true → ∃ s', exec .teEdge s = .next s' ∧ s.onlyRegs s' ∧ s'.now.te = true ∧
      (fld (s.reg rTeCfg) 0 2 = 2 → fld (s'.reg rTeLine) 0 16 = s.rasterLine ∧ s'.reg rTeCount = s.reg rTeCount + 1 ∧
        s.regsBut s' [rTeLine, rTeCount]) ∧
      (fld (s.reg rTeCfg) 0 2 ≠ 2 → s'.regs = s.regs)) ∧
    (s.writes m (rDpCtrl o.val) = true → ∃ s', exec (.dpTrain m o) s = .next s' ∧ s.onlyReg s' (rDpCtrl o.val) ∧
      s'.reg (rDpCtrl o.val) = s.reg (rDpCtrl o.val) ||| 1) ∧
    (∀ (ok : Bool) (rate : Fin 4) (lanes : Fin 5) (tps4 async : Bool), s.pdOn 3 = true → bit (s.reg (rDpCtrl o.val)) 0 = true →
      let good := ok && s.pdOn (4 + o.val)
      ∃ s', exec (.dpTrainComplete o ok rate lanes tps4 async) s = .next s' ∧
        s' = { s with regs := s'.regs, now := s'.now, out := s.out ++ if good && async then [.msaIgnore o.val] else [] } ∧
        s.regsBut s' [rDpCtrl o.val, rDpStatus o.val] ∧
        (s.wroteNow (rDpCtrl o.val) = false → bit (s'.reg (rDpCtrl o.val)) 0 = false) ∧
        bit (s'.reg (rDpStatus o.val)) 1 = good ∧
        (good = true → fld (s'.reg (rDpStatus o.val)) 2 2 = min rate.val (fld (s.reg (rDpCtrl o.val)) 1 3) ∧
          fld (s'.reg (rDpStatus o.val)) 4 3 = min lanes.val (fld (s.reg (rDpCtrl o.val)) 4 3) ∧
          bit (s'.reg (rDpStatus o.val)) 7 = tps4 ∧ bit (s'.reg (rDpStatus o.val)) 8 = async ∧
          (bit (s'.reg (rDpStatus o.val)) 9 = true ↔ min lanes.val (fld (s.reg (rDpCtrl o.val)) 4 3) *
            dpRate (min rate.val (fld (s.reg (rDpCtrl o.val)) 1 3)) * 8000000 <
              tsPclk s.scan.ts * 3 * (if s.outNow 4 then 10 else 8)))) ∧
    (s.writes m (rAuxCmd o.val) = true →
      (bit (s.reg (rAuxStat o.val)) 0 = true → ∃ s', exec (.auxCmd m o v) s = .next s' ∧ s' = { s with now := s'.now }) ∧
      (bit (s.reg (rAuxStat o.val)) 0 = false → ∃ s', exec (.auxCmd m o v) s = .next s' ∧ s.onlyRegs s' ∧
        s.regsBut s' [rAuxCmd o.val, rAuxStat o.val] ∧ s'.reg (rAuxCmd o.val) = v &&& 0x8FFFFFFF ∧
        s'.reg (rAuxStat o.val) = if bit v 31 then 1 else s.reg (rAuxStat o.val))) ∧
    (∀ (outcome : Fin 4) (data : List Byte), s.pdOn 3 = true → bit (s.reg (rAuxStat o.val)) 0 = true →
      ∃ s', exec (.auxDone o outcome data) s = .next s' ∧ s.rings s' (12 + o.val) ∧
        s' = { s with regs := s'.regs, bellMsgs := s'.bellMsgs, mesh := s'.mesh } ∧
        s'.reg (rAuxStat o.val) = BitVec.ofNat 32 (2 * outcome.val + 16 * min 16 data.length) ∧
        (s.wroteNow (rAuxCmd o.val) = false → bit (s'.reg (rAuxCmd o.val)) 31 = false) ∧
        ∀ (i : Nat) (b : Byte), i < 16 → data[i]? = some b → fld (s'.reg (rAuxData o.val (i / 4))) (8 * (i % 4)) 8 = b.toNat) ∧
    ∀ k : Fin 3, s.pdOn 3 = true → ∃ s', exec (.hpdEvent o k) s = .next s' ∧ s.rings s' (10 + o.val) ∧
      s' = { s with regs := s'.regs, now := s'.now, bellMsgs := s'.bellMsgs, mesh := s'.mesh } ∧
      s.regsBut s' [rDpStatus o.val] ∧
      bit (s'.reg (rDpStatus o.val)) (if k = 0 then 18 else if k = 1 then 17 else 16) = true ∧
      (k = 1 → bit (s'.reg (rDpStatus o.val)) 0 = false ∧ bit (s'.reg (rDpStatus o.val)) 1 = false) ∧
      (k = 2 → bit (s'.reg (rDpStatus o.val)) 0 = true)

/-- A fetch starts a layer's next line, of the present frame or, from the line at which LEAD_MAX admits it, of the next one:
one line record more, and the next line to fetch moves on. A planned line in fetch sends its next read as reserved traffic.
A scan of an active line sends one line of H_ACTIVE pixels on every output in use whose link carries it and moves to the
next line. An opaque pixel replaces what lies below it, a transparent one shows it, and no pixel leaves the background.
(R399, R401, R406, R407, R410, R411, R414, 12_scanout.md) -/
def Obligations.ScanLines : Prop :=
  ∀ s : State,
    (∀ (o : Fin 2) (k : Fin 5), s.outUsed o.val = true →
      s.planned k.val = false ∨ (s.frameActs = true ∧ ∀ x ∈ s.scan.lines, x.id ≠ s.scan.nextId) →
      s.scan.lines.find? (fun l => l.output == o.val && l.layer == k.val && !l.toSend.isEmpty) = none →
      (s.scan.lines.filter (fun l => l.output == o.val && l.layer == k.val)).length < 64 →
      let v := tsVActive s.scan.ts
      let n := s.fetchLine o.val k.val
      n < 2 * v → s.layerLive k.val (decide (v ≤ n)) = true → (v ≤ n → s.leadLine ≤ s.rasterLine) →
      ∃ s' l, exec (.lineFetch o k) s = .next s' ∧ s'.mem = s.mem ∧ s'.tiles = s.tiles ∧
        s'.scan.lines = s.scan.lines ++ [l] ∧ l.output = o.val ∧ l.layer = k.val ∧ l.line = (if v ≤ n then n - v else n) ∧
        l.next = decide (v ≤ n) ∧ (s.planned k.val = false → l.toSend = []) ∧ s'.fetchLine o.val k.val = n + 1) ∧
    (∀ (o : Fin 2) (k : Fin 5) (l : CreamLine) (a n : Nat) (rest : List (Nat × Nat)), s.outUsed o.val = true →
      s.planned k.val = false ∨ s.frameActs = true →
      s.scan.lines.find? (fun l => l.output == o.val && l.layer == k.val && !l.toSend.isEmpty) = some l →
      l.toSend = (a, n) :: rest →
      ∃ s' f, exec (.lineFetch o k) s = .next s' ∧ s'.mem = s.mem ∧ s'.mesh.flits = s.mesh.flits ++ [f] ∧ f.frame = true ∧
        f.body = .vatRead (memOf a - 64) a n (.scan l.id) (s.scanRouter l.output l.layer (memOf a - 64)) true ∧
        s'.scan.lines = s.scan.lines.map (fun x => if x.id = l.id then { x with toSend := rest } else x)) ∧
    (s.tgOn = true → s.tick.blank = .active → s.tick.activeLine < tsVActive s.scan.ts →
      ∃ s' px qx, exec .scanLine s = .next s' ∧ s'.mem = s.mem ∧ s'.tiles = s.tiles ∧ px.length = tsHActive s.scan.ts ∧
        qx.length = tsHActive s.scan.ts ∧ s'.tick = { s.tick with activeLine := s.tick.activeLine + 1 } ∧
        s'.reg rLine = BitVec.ofNat 32 s.tick.activeLine ∧
        s'.out = s.out ++ (if s.linkCarries 0 then [.line 0 s.tick.activeLine px] else []) ++
          (if s.outUsed 1 && s.linkCarries 1 then [.line 1 s.tick.activeLine qx] else [])) ∧
    ∀ (bg : Nat × Nat × Nat) (l : List (Option Pix)) (r g b : Nat),
      composePix bg [] = bg ∧ composePix bg (l ++ [none]) = composePix bg l ∧
      composePix bg (l ++ [some (r, g, b, 255)]) = (r, g, b) ∧ composePix bg (l ++ [some (r, g, b, 0)]) = composePix bg l

/-- A running core in machine mode, with a legal long instruction that stands at its last element over steward SRAM (for
KX.HSET with its entry there, a tile that has power and a bank that is not locked): the element is written, x[rd] takes the result, kxprog
is 0 and the PC moves on. With no element at all it completes at once. With x0 or a source as rd it takes the
illegal-instruction exception. (R436, R437, R440, R442, 13_stewards_and_bell.md) -/
def Obligations.StewardKernels : Prop :=
  ∀ (s : State) (k : Fin 4) (rd rs1 rs2 : Fin 32), s.coreRuns k = true → (s.core k).haltReq = false →
    (s.core k).user = false → s.scope 3 = false →
    let z := s.core k
    let n := z.x[rd].toNat
    let a := z.x[rs1].toNat
    let b := z.x[rs2].toNat
    let e := z.kxprog.toNat
    let reads (p c : Nat) : Prop := z.pmpOk false .read p c = true ∧ isSram p = true ∧ s.elemThere p c = true ∧
      ∀ i, i < c → s.badByte (p + i) = false
    let writes (p : Nat) : Prop := z.pmpOk false .write p 8 = true ∧ isSram p = true ∧ s.elemThere p 8 = true
    let done (s' : State) (v : Dword) : Prop := (s'.core k).x = (z.wx rd.val v).x ∧ (s'.core k).kxprog = 0 ∧
      (s'.core k).pc = z.pc + 4 ∧ (s'.core k).user = false ∧ s'.tick = s.tick ∧ s'.regs = s.regs
    (rd.val ≠ 0 → rd ≠ rs1 → rd ≠ rs2 →
      (n ≤ 0x1000000 → n = 8 * (e + 1) → a % 8 = 0 →
        (b % 8 = 0 → reads (b + 8 * e) 8 → writes (a + 8 * e) → ∃ s', exec (.kxCopy k rd rs1 rs2) s = .next s' ∧ done s' 0 ∧
          s.bytesBut s' (a + 8 * e) 8 ∧ s'.mem.bytes (a + 8 * e) 8 = s.mem.bytes (b + 8 * e) 8) ∧
        (writes (a + 8 * e) → ∃ s', exec (.kxFill k rd rs1 rs2) s = .next s' ∧ done s' 0 ∧
          s.bytesBut s' (a + 8 * e) 8 ∧ s'.mem.bytes (a + 8 * e) 8 = bytesOfNat 8 b)) ∧
      (n ≤ 0x1000000 → n = e + 1 → reads (a + e) 1 → ∃ s', exec (.kxCrc32c k rd rs1 rs2) s = .next s' ∧ s'.mem = s.mem ∧
        done s' ((~~~ (crcByte (if e = 0 then ~~~ (z.x[rs2].setWidth 32) else z.kxacc) (s.mem.byte (a + e)))).setWidth 64)) ∧
      (∀ t : TileId, n = e + 1 → a % 16 = 0 → b / 65536 = t.val + 256 * (b / 2 ^ 24) → b < 2 ^ 25 → b % 65536 + n ≤ 64 →
        reads (a + 16 * e) 16 → s.bankLocked t.val (b / 2 ^ 24) = false → s.pdOn (16 + t.val) = true → ∃ s', exec (.kxHset k rd rs1 rs2) s = .next s' ∧
          s'.mem = s.mem ∧ done s' 0 ∧ s'.thr t = s.thr t ∧
          Sparse.get (fun _ => 0) (s'.tile t).handles (64 * (b / 2 ^ 24) + b % 65536 + e) =
            BitVec.ofNat 128 (natOfBytes (s.mem.bytes (a + 16 * e) 16))) ∧
      (n = 0 → (∃ s', exec (.kxCopy k rd rs1 rs2) s = .next s' ∧ s'.mem = s.mem ∧ done s' 0) ∧
        ∃ s', exec (.kxFill k rd rs1 rs2) s = .next s' ∧ s'.mem = s.mem ∧ done s' 0)) ∧
    (rd.val = 0 ∨ rd = rs1 ∨ rd = rs2 →
      ∀ c ∈ [Instr.kxCopy k rd rs1 rs2, .kxFill k rd rs1 rs2, .kxCrc32c k rd rs1 rs2, .kxHset k rd rs1 rs2],
        ∃ s', exec c s = .next s' ∧ s'.mem = s.mem ∧ s'.regs = s.regs ∧ (s'.core k).x = z.x ∧ (s'.core k).mcause = 2 ∧
          (s'.core k).mepc = z.pc ∧ (s'.core k).pc = z.mtvec &&& ~~~ 3)

/-- An admitted aligned access of a running core to steward SRAM: a load sets x[rd] from memory, a store writes its
bytes and nothing else, LR loads and reserves the 64-byte line, SC writes and answers 0 while the core holds the
line's reservation and writes nothing and answers 1 otherwise, an atomic stores what it computes and returns the
old value, and a fetch gives out the bytes. A load of Pail or Vat outside the cache begins an access through the narrow
ports; a store to a register is that register's write, and a load its read. A denied access traps with its cause. The
interrupt of highest RISC-V order saves the PC, enters machine mode at the trap vector and ends a long instruction's element
in progress. (R69, R89, R432, R434, R435, R443, R461, 13_stewards_and_bell.md) -/
def Obligations.StewardAccesses : Prop :=
  ∀ (s : State) (k : Fin 4) (a : BitVec 64) (sz : Fin 4) (rd : Fin 32) (v : Dword), s.scope 3 = false →
    let z := s.core k
    let n := 2 ^ sz.val
    let wx (s' : State) (d : Dword) : Prop := (s'.core k).x = (z.wx rd.val d).x
    (∀ kind : StewKind, s.coreRuns k = true → stewFetch kind = false → z.admits kind a.toNat n = true → isSram a.toNat = true →
      a.toNat % n = 0 → s.memThere a.toNat = true → s.memThere (a.toNat + n - 1) = true →
      (∀ i, i < n → s.badByte (a.toNat + i) = false) →
      let old := s.mem.bytes a.toNat n
      let held := z.lr = some (a.toNat / 64)
      ∃ s', exec (.stewardMemoryAccess k kind a sz rd v) s = .next s' ∧ s.bytesBut s' a.toNat n ∧ s'.regs = s.regs ∧
        s'.tiles = s.tiles ∧ (s'.core k).pc = z.pc ∧
        (∀ sgn, kind = .load sgn → s'.mem = s.mem ∧ wx s' (loadValue old sgn) ∧ (s'.core k).lr = z.lr) ∧
        (kind = .store → s'.mem.bytes a.toNat n = bytesOfNat n v.toNat ∧ (s'.core k).x = z.x ∧ (s'.core k).lr = z.lr) ∧
        (kind = .lr → s'.mem = s.mem ∧ wx s' (loadValue old true) ∧ (s'.core k).lr = some (a.toNat / 64)) ∧
        (kind = .sc → (s'.core k).lr = none ∧ (held → s'.mem.bytes a.toNat n = bytesOfNat n v.toNat ∧ wx s' 0) ∧
          (¬ held → s'.mem = s.mem ∧ wx s' 1)) ∧
        ∀ op, kind = .amo op → wx s' (loadValue old true) ∧
          s'.mem.bytes a.toNat n = bytesOfNat n (amoValue op n (natOfBytes old) (natOfBytes (bytesOfNat n v.toNat)))) ∧
    (s.coreRuns k = true → z.admits .fetch a.toNat n = true → isSram a.toNat = true → a.toNat % 2 = 0 →
      s.memThere a.toNat = true → s.memThere (a.toNat + n - 1) = true → (∀ i, i < n → s.badByte (a.toNat + i) = false) →
      ∃ s', exec (.stewardMemoryAccess k .fetch a sz rd v) s = .next s' ∧ s.sameBytes s' ∧ (s'.core k).x = z.x ∧
        (s'.core k).pc = a ∧ s'.out = s.out ++ [.answer (.steward k) (s.mem.bytes a.toNat n) false]) ∧
    (∀ sgn : Bool, s.coreRuns k = true → z.admits (.load sgn) a.toNat n = true → isRegAddr a.toNat = false →
      a.toNat % n = 0 → s.rangeThere a.toNat n = true → s.cached a.toNat = false →
      ∃ s' c, exec (.stewardMemoryAccess k (.load sgn) a sz rd v) s = .next s' ∧ s'.mem = s.mem ∧ s'.regs = s.regs ∧
        (s'.core k).x = z.x ∧ s'.accs = s.accs ++ [c] ∧ c.m = .steward k ∧ c.addr = a.toNat ∧ c.len = n ∧ c.wr = none ∧
        c.rd = rd.val ∧ c.sgn = sgn) ∧
    (∀ sgn : Bool, s.coreRuns k = true → z.admits (.load sgn) a.toNat n = true → isRegAddr a.toNat = true →
      a.toNat % 4 + n ≤ 4 →
      let r := (s.modCore k Steward.stepped).regRead (.steward k) (a.toNat / 4 * 4)
      ∃ s', exec (.stewardMemoryAccess k (.load sgn) a sz rd v) s = .next s' ∧ s'.mem = s.mem ∧
        wx s' (loadValue (((leBytes 4 r.2.toNat).drop (a.toNat % 4)).take n) sgn)) ∧
    (s.coreRuns k = true → z.admits .store a.toNat n = true → isRegAddr a.toNat = true →
      ∃ u, exec (.registerWrite (.steward k) (BitVec.ofNat 32 a.toNat) n (some v)) (s.modCore k Steward.stepped) = .next u ∧
        exec (.stewardMemoryAccess k .store a sz rd v) s = .next (u.modCore k Steward.retired)) ∧
    (∀ kind : StewKind, s.coreRuns k = true → stewFetch kind = false → z.admits kind a.toNat n = false →
      ∃ s', exec (.stewardMemoryAccess k kind a sz rd v) s = .next s' ∧ s' = { s with stew := s'.stew } ∧
        (s'.core k).x = z.x ∧ (s'.core k).mcause = (if stewReads kind then 5 else 7) ∧ (s'.core k).mepc = z.pc ∧
        (s'.core k).mtval = a ∧ (s'.core k).user = false ∧ (s'.core k).pc = z.mtvec &&& ~~~ 3) ∧
    (∀ c, s.pdOn 1 = true → z.held = false → z.halted = false → z.haltReq = false →
      ((s.bells.lines[k.val] = true ∧ c = 11) ∨ (s.bells.lines[k.val] = false ∧ bit (s.reg (rMsip k.val)) 0 = true ∧ c = 3) ∨
        (s.bells.lines[k.val] = false ∧ bit (s.reg (rMsip k.val)) 0 = false ∧ z.mtip = true ∧ c = 7)) →
      ∃ s', exec (.stewardInterrupt k) s = .next s' ∧ s' = { s with stew := s'.stew } ∧
        s'.core k = { z with
          kx := none
          mepc := z.pc
          mcause := BitVec.ofNat 64 (2 ^ 63 + c)
          mtval := 0
          user := false
          mstatus := (s'.core k).mstatus
          pc := z.mtvec &&& ~~~ 3 } ∧ ∀ j, j ≠ k → s'.core j = s.core j)

/-- A message of a source that has reached the Bell through the mesh tells its level or asks for it, and one on a wire asks:
at an open gateway the source becomes pending, at a closed one that is remembered, and with PD7 off the front end records
message doorbells. A rising wired input pends. The owner's claim answers the eligible source, clears its pending bit, closes
its gateway, pushes it and begins the hold-off; another master's only answers. An EOI pops the claim, opens the gateway and
pends a source that asked again or whose level stands; a wrong number or none is counted; another master's is a register
access fault. Hold-off ends at its time. GDIS and MSIP store their bit, and MTIP is set while MTIME has reached MTIMECMP.
(R450, R451, R453, R455, R457, R458, R459, R460, R461, R464, 13_stewards_and_bell.md) -/
def Obligations.BellDelivery : Prop :=
  ∀ s : State,
    (∀ (n : Fin 512) (f : Flit) (v : Bool), s.first f = true → f.body = .bellMsg n.val v →
      let rest := { s.mesh with flits := s.mesh.flits.filter (fun g => g.age ≠ f.age) }
      let b := { s.bells with heard := if isLevel n.val then putLevel s.bells.heard n.val v else s.bells.heard }
      ∃ s', exec (.bellSourceRequest n) s = .next s' ∧ s' = { s with mesh := rest, bells := s'.bells } ∧
        (isLevel n.val = false ∨ v = true → s.bells.closed.getLsbD n.val = false →
          s'.bells = { b with fresh := s.bells.fresh ||| srcBit n.val }) ∧
        (isLevel n.val = false → s.bells.closed.getLsbD n.val = true →
          s'.bells = { b with again := s.bells.again ||| srcBit n.val }) ∧
        (isLevel n.val = true → v = false ∨ s.bells.closed.getLsbD n.val = true → s'.bells = b)) ∧
    (∀ n : Fin 512, (∀ f ∈ s.mesh.flits, ∀ v, f.body ≠ .bellMsg n.val v) →
      (s.bellMsgs.contains n.val = true →
        (s.pdOn 7 = true → s.bells.closed.getLsbD n.val = false → ∃ s', exec (.bellSourceRequest n) s = .next s' ∧
          s' = { s with
            bellMsgs := s.bellMsgs.erase n.val
            bells := { s.bells with fresh := s.bells.fresh ||| srcBit n.val } }) ∧
        (s.pdOn 7 = true → s.bells.closed.getLsbD n.val = true → ∃ s', exec (.bellSourceRequest n) s = .next s' ∧
          s' = { s with
            bellMsgs := s.bellMsgs.erase n.val
            bells := { s.bells with again := s.bells.again ||| srcBit n.val } }) ∧
        (s.pdOn 7 = false → 480 ≤ n.val → n.val ≤ 510 → ∃ s', exec (.bellSourceRequest n) s = .next s' ∧
          s' = { s with
            bellMsgs := s.bellMsgs.erase n.val
            bells := { s.bells with image := s.bells.image ||| srcBit n.val } })) ∧
      (s.bellMsgs.contains n.val = false → s.pdOn 7 = true → s.level n.val = true → s.bells.closed.getLsbD n.val = false →
        ∃ s', exec (.bellSourceRequest n) s = .next s' ∧
          s' = { s with bells := { s.bells with fresh := s.bells.fresh ||| srcBit n.val } })) ∧
    (∀ (i : Fin 32) (high : Bool), i.val < 18 → s.bells.wired.getLsbD i.val = !high → s.pdOn 7 = true →
      2 ≤ s.trig (448 + i.val) → s.bells.closed.getLsbD (448 + i.val) = false →
      ∃ s', exec (.wiredInputChange i high) s = .next s' ∧ s'.bells.wired.getLsbD i.val = high ∧
        (high = decide (s.trig (448 + i.val) = 2) → s'.isPending (448 + i.val) = true) ∧
        (high ≠ decide (s.trig (448 + i.val) = 2) → s'.bells = { s.bells with wired := s'.bells.wired }) ∧
        (2 ≤ i.val → bit (s'.reg rGpioIn) (i.val - 2) = high)) ∧
    (∀ (m : Master) (t : Fin 5), s.pdOn 7 = true →
      (ownTarget m t = true → s.claimOf t ≠ 511 → let n := s.claimOf t
        ∃ s', exec (.bellClaim m t) s = .next s' ∧ s'.bells.pend = s.bells.pend &&& ~~~ srcBit n ∧
          s'.bells.closed = s.bells.closed ||| srcBit n ∧ s'.stack t = (n, s.prio n) :: s.stack t ∧
          (∀ h, h = fld (s.reg (rGroup (n / 16))) 0 16 → h ≠ 0 →
            Sparse.get (fun _ => 0) s'.bells.holdoff (n / 16) = s.bells.mtime.toNat + 1 + 25 * h) ∧
          s'.out = s.out ++ [.answer m (bytesOfNat 4 n) false] ∧ s'.regs = s.regs) ∧
      (ownTarget m t = false ∨ s.claimOf t = 511 →
        exec (.bellClaim m t) s = .next (s.emit (.answer m (bytesOfNat 4 (s.claimOf t)) false)))) ∧
    (∀ (m : Master) (t : Fin 5) (v : BitVec 9), s.pdOn 7 = true →
      (ownTarget m t = false → exec (.bellEoi m t v) s = .next (s.regFault m (rEoi t.val))) ∧
      (ownTarget m t = true → s.stack t = [] → exec (.bellEoi m t v) s = .next (s.satReg rEoiErr)) ∧
      (∀ (n p : Nat) (rest : List (Nat × Nat)), ownTarget m t = true → s.stack t = (n, p) :: rest → n < 511 →
        ∃ s', exec (.bellEoi m t v) s = .next s' ∧ s'.stack t = rest ∧ s'.bells.closed = s.bells.closed &&& ~~~ srcBit n ∧
          s'.regs = (if v.toNat = n then s else s.satReg rEoiErr).regs ∧
          (isLevel n = true → s'.isPending n = (s.isPending n || s.level n)) ∧
          (isLevel n = false → isWired n = false →
            s'.isPending n = (s.isPending n || s.bells.again.getLsbD n)))) ∧
    (∀ g : Fin 32, Sparse.get (fun _ => 0) s.bells.holdoff g.val ≠ 0 →
      (Sparse.get (fun _ => 0) s.bells.holdoff g.val ≤ s.bells.mtime.toNat → ∃ s', exec (.holdoffExpiry g) s = .next s' ∧
        s'.heldOff g.val = false ∧ s' = { s with bells := { s.bells with holdoff := s'.bells.holdoff } }) ∧
      (s.bells.mtime.toNat < Sparse.get (fun _ => 0) s.bells.holdoff g.val → exec (.holdoffExpiry g) s = .next s)) ∧
    (∀ (m : Master) (v : Bool), s.writes m rBellCtrl = true → ∃ s', exec (.gdisWrite m v) s = .next s' ∧
      s.onlyReg s' rBellCtrl ∧ bit (s'.reg rBellCtrl) 0 = v ∧ (v = true → ∀ t n, s'.eligible t n = false)) ∧
    (∀ (m : Master) (k : Fin 4) (v : Bool), s.writes m (rMsip k.val) = true → ∃ s', exec (.msipWrite m k v) s = .next s' ∧
      s.onlyReg s' (rMsip k.val) ∧ bit (s'.reg (rMsip k.val)) 0 = v) ∧
    ∀ k : Fin 4, ∃ s', exec (.mtimecmpMatch k) s = .next s' ∧ s' = { s with stew := s'.stew } ∧
      s'.core k = { s.core k with mtip := decide (s.mtimecmp k.val ≤ s.bells.mtime.toNat) } ∧ ∀ j, j ≠ k → s'.core j = s.core j

/-- PD_CTRL stores the domains asked for. A sequence's next switch goes first; else the lowest domain whose state
differs, if it may switch and its draw fits; a refused change puts its bit back and fills PD_ERR. A completed switch
changes that domain alone in PD_ON, and a tile switched off is reset. Main sequencing, with its power goods, queues
the board's domains. A sleep whose conditions fail, and a wake with nothing to do, answer at once. A power good that
is late ends in stage 0xA with EN_MAIN and FAULT_N low. (R465, R466, R467, R468, R469, R470, R530, R575, R576, R634,
14_power_and_leave.md) -/
def Obligations.PowerSwitching : Prop :=
  ∀ s : State,
    (∀ (m : Master) (w : Fin 3) (v : Word), s.writes m (rPdCtrl w.val) = true → ∃ s' r, exec (.pdCtrlWrite m w v) s = .next s' ∧
      regRow (rPdCtrl w.val) = some r ∧ s' = { s with regs := s'.regs, now := s'.now, power := { s.power with pdBy := m } } ∧
      s'.reg (rPdCtrl w.val) = (s.reg (rPdCtrl w.val) &&& ~~~ BitVec.ofNat 32 r.rw) ||| (v &&& BitVec.ofNat 32 r.rw) ∧
      ∀ a, a ≠ rPdCtrl w.val → s'.reg a = s.reg a) ∧
    (s.power.switching = none →
      (∀ d on r, s.power.seq = (d, on) :: r → ∃ s', exec .pdSwitch s = .next s' ∧
        s' = { s with power := { s.power with seq := r, switching := some (d, on) } }) ∧
      (∀ d, s.power.seq = [] → s.pdOn 7 = true → s.pdNext = some d →
        (s.pdRefused d (s.pdAsked d) = none → (s.pdAsked d = true → s.pdFits d = true) → ∃ s', exec .pdSwitch s = .next s' ∧
          s' = { s with power := { s.power with switching := some (d, s.pdAsked d) } }) ∧
        (∀ why, s.pdRefused d (s.pdAsked d) = some why → ∃ s', exec .pdSwitch s = .next s' ∧ s'.pdAsked d = s.pdOn d ∧
          s'.reg rPdErr = BitVec.ofNat 32 (d + 256 * why) ∧ s'.power = s.power ∧ s'.mem = s.mem ∧ ∀ e, e < 80 → s'.pdOn e = s.pdOn e))) ∧
    (∀ d on, s.power.switching = some (d, on) → 1 ≤ d → d < 80 → ∃ s', exec .pdSwitchComplete s = .next s' ∧ s'.pdOn d = on ∧
      s'.power.switching = none ∧ (∀ e, e < 80 → e ≠ d → s'.pdOn e = s.pdOn e) ∧
      ∀ t : TileId, d = 16 + t.val → on = false → s'.tile t = .reset) ∧
    (s.milk.aon = true → s.milk.rom = true → s.milk.enMain = true → s.milk.holdOff = false → s.power.seq = [] →
      s.pdOn 7 = false → s.maySequence = true → ∃ s', exec .mainSequencing s = .next s' ∧ s'.stage = 2 ∧
        s'.milk.pgCore = true ∧ s'.milk.pgMem = true ∧ s'.mem = s.mem ∧ s'.power.switching = none ∧
        s'.power.seq = (s.mainOrder.filter (fun d => !s.pdOn d)).map (fun d => (d, true))) ∧
    (∀ m : Master, s.writes m rMreq = true → bit (s.reg rMreq) 8 = false →
      (s.maySleep = true → s.power.seq = [] → s.power.switching = none → s.pdOn 7 = true →
        ∃ s', exec (.fabricSleep m) s = .next s' ∧ s'.reg rMreq = 0x101 ∧ s'.power.sleep = true ∧ s'.mem = s.mem ∧
          s'.power.seq = [(6, false), (3, false), (7, false)]) ∧
      (s.maySleep = false ∨ s.power.seq ≠ [] ∨ s.power.switching ≠ none →
        ∃ s', exec (.fabricSleep m) s = .next s' ∧ s'.reg rMresp = 0x104 ∧
        bit (s'.reg rMreq) 8 = false ∧ s'.power = s.power ∧ s'.bellMsgs = s.bellMsgs ++ [161]) ∧
      (s.maySleep = true → s.power.seq = [] → s.power.switching = none → s.pdOn 7 = false →
        ∃ s', exec (.fabricSleep m) s = .next s' ∧ s'.reg rMresp = 0x100 ∧ bit (s'.reg rMreq) 8 = false ∧ s'.power = s.power) ∧
      ([7, 3, 6].filter (fun d => !s.pdOn d) ≠ [] → ∃ s', exec (.fabricWake m) s = .next s' ∧ s'.reg rMreq = 0x102 ∧
        s'.mem = s.mem ∧ s'.power.seq = ([7, 3, 6].filter (fun d => !s.pdOn d)).map (fun d => (d, true))) ∧
      ([7, 3, 6].filter (fun d => !s.pdOn d) = [] → ∃ s', exec (.fabricWake m) s = .next s' ∧ s'.reg rMresp = 0x100 ∧
        bit (s'.reg rMreq) 8 = false ∧ s'.power = s.power)) ∧
    (∀ m : Master, s.writes m rMreq = true → bit (s.reg rMreq) 8 = true → ∀ c ∈ [Instr.fabricSleep m, .fabricWake m],
      ∃ s', exec c s = .next s' ∧ s' = { s with now := s'.now }) ∧
    (s.milk.aon = true → s.milk.rom = true → s.milk.enMain = true → s.stage = 1 ∨ s.stage = 2 → s.pdOn 7 = false →
      s.power.seq = [] → s.power.switching = none → s.milk.pgCore = false ∨ s.milk.pgMem = false →
      ∃ s', exec .powerGoodTimeout s = .next s' ∧ s'.stage = 10 ∧ s'.milk.enMain = false ∧ s'.milk.faultLow = true) ∧
    (∀ up : Bool, ∃ s', exec (.vddioSbChange up) s = .next s' ∧ s' = { s with milk := { s.milk with
      vddioSb := up
      response := if up then s.milk.response else none } }) ∧
    (s.milk.aon = true → ∃ s', exec .aonPllLock s = .next s' ∧ s' = { s with milk := { s.milk with aonPll := true } })

/-- A sample fills the TEMP registers. A pair of samples that both reach T1 raises step 0 to 1, and one that reaches T3,
or T2 with no plan running or no usable LIGHT, raises the step to 3 and arms the stop index; one that reaches T2 with a
usable LIGHT arms it at step 2. Two samples below T1 - HYST with PWR_THROT_N released end step 1. A release returns the step to 0
or sets REL_REJ, and arms nothing. PWR_THROT_N low makes the step at least 1. At the trip temperature EN_MAIN falls
and a device recovery starts. (R485, R486, R488, R489, R490, R509, 14_power_and_leave.md) -/
def Obligations.ThermalLadder : Prop :=
  ∀ s : State,
    (∀ (valid : BitVec 8) (temps : BitVec 64), s.pdOn 7 = true →
      let now := sampleMax valid temps
      ∃ s', exec (.thermalSample valid temps) s = .next s' ∧ s'.power.lastMax = some now ∧ s'.mem = s.mem ∧ s'.tiles = s.tiles ∧
        s'.reg rTempMax = (BitVec.ofInt 8 now).setWidth 32 ∧
        (∀ i, i < 8 → s'.reg (rTemp i) = BitVec.ofNat 32 (temps.toNat / 2 ^ (8 * i) % 256 + 256 * b2n (valid.getLsbD i))) ∧
        (s.power.lastMax = none → s'.thermStep = s.thermStep ∧ s'.plan = s.plan) ∧
        ∀ b, s.power.lastMax = some b →
          (s.thermStep = 0 → s.reached now b = 1 → s'.thermStep = 1 ∧ s'.plan = s.plan) ∧
          (s.thermStep < 3 → s.reached now b = 3 → s'.thermStep = 3 ∧ s'.plan.arming = some stopArming) ∧
          (s.thermStep < 2 → s.reached now b = 2 → s.plan.run = none → s'.thermStep = 3 ∧ s'.plan.arming = some stopArming) ∧
          (∀ p, s.thermStep < 2 → s.reached now b = 2 → s.plan.run = some p → p.light ≠ 255 → p.light ≠ p.variant →
            s.hwRow p.addr p.light = none → s'.thermStep = 2 ∧ s'.plan.arming = some ⟨p.addr, p.light⟩) ∧
          (∀ p, s.thermStep < 2 → s.reached now b = 2 → s.plan.run = some p →
            p.light = 255 ∨ p.light = p.variant ∨ s.hwRow p.addr p.light ≠ none →
            s'.thermStep = 3 ∧ s'.plan.arming = some stopArming) ∧
          (s.thermStep = 1 → s.reached now b ≤ 1 → now < s.coolBelow → b < s.coolBelow → s.power.throt = false →
            s'.thermStep = 0) ∧
          (2 ≤ s.thermStep → s.reached now b ≤ s.thermStep → s'.thermStep = s.thermStep ∧ s'.plan = s.plan)) ∧
    (∀ m : Master, s.writes m rThermCtrl = true →
      (degC (s.reg rTempMax).toNat < s.coolBelow → s.power.throt = false →
        ∃ s', exec (.thermalRelease m) s = .next s' ∧ s'.thermStep = 0 ∧ s'.plan = s.plan ∧ s'.mem = s.mem) ∧
      (s.coolBelow ≤ degC (s.reg rTempMax).toNat ∨ s.power.throt = true →
        ∃ s', exec (.thermalRelease m) s = .next s' ∧ s.onlyReg s' rThermCtrl ∧
          s'.reg rThermCtrl = s.reg rThermCtrl ||| 2)) ∧
    (s.pdOn 7 = true →
      (∃ s', exec (.pwrThrotChange true) s = .next s' ∧ s'.power = { s.power with throt := true } ∧
        s'.thermStep = max 1 s.thermStep ∧ s'.mem = s.mem) ∧
      ∃ s', exec (.pwrThrotChange false) s = .next s' ∧ s' = { s with power := { s.power with throt := false } }) ∧
    ∀ t : Int, s.power.lastMax = some t → s.milk.aon = true → s.milk.enMain = true →
      ((if Config.gradeI then 115 else 105) ≤ t → s.milk.recovery = none → s.mainOff = false →
        ∃ s', exec .thermalTrip s = .next s' ∧ s'.milk.enMain = false ∧ s'.milk.recovery = some (0x70, 0) ∧ s'.mem = s.mem) ∧
      (t < (if Config.gradeI then 115 else 105) → exec .thermalTrip s = .next s)

/-- The oldest message that does not wait becomes the newest record with the next sequence number, or with 64 records
held is lost and counted at the end of the ck, unless a pop of that ck makes room; it sets source 16 and goes to the
Milkhouse's log. REC_POP and CAND_POP drop the oldest and take in what met the full queue in the ck.
SSUB_SET sets bits, SSUB_CLR clears all but those set in this ck, and publication sends both words to the Vat
address. A steward's own kick stores the time, another master's is a register access fault. An enabled watchdog
whose period has passed without a kick starts a device recovery, and otherwise nothing happens. (R494, R497, R501,
R504, R509, R611, R612, R613, 15_faults_and_ordering.md) -/
def Obligations.ErrorsAndWatchdogs : Prop :=
  ∀ s : State,
    (∀ (r : ErrRec) (rest : List ErrRec), s.errs = r :: rest → s.recordWaits r = false → s.pdOn 7 = true →
      s.milk.recovery = none → ∃ s' e, exec .errRecordPost s = .next s' ∧ s'.errs = rest ∧ s'.mem = s.mem ∧
        s'.err.nextSeq = s.err.nextSeq + 1 ∧ s'.bellMsgs = s.bellMsgs ++ [16] ∧
        s'.milk.log.getLast? = some (s.milk.logPos, e) ∧ e = BitVec.ofNat 256 (natOfBytes (r.bytes s.err.nextSeq)) ∧
        (s.err.recs.length < 64 → s'.err.recs = s.err.recs ++ [(r, s.err.nextSeq)]) ∧
        (64 ≤ s.err.recs.length → s'.err.recs = s.err.recs ∧
          s'.err.lateRecs = s.err.lateRecs ++ [(r, s.err.nextSeq)])) ∧
    (∀ (r : ErrRec) (rest : List ErrRec), s.errs = r :: rest → s.recordWaits r = true → exec .errRecordPost s = .next s) ∧
    (s.loseLate.reg rErrLost = satAdd (s.reg rErrLost) s.err.lateRecs.length ∧
      s.loseLate.reg rCandLost = satAdd (s.reg rCandLost) s.err.lateCands.length ∧
      s.loseLate.err = { s.err with lateRecs := [], lateCands := [] } ∧ s.regsBut s.loseLate [rErrLost, rCandLost]) ∧
    (∀ m : Master, s.writes m 0x30090008 = true → ∃ s', exec (.recPop m) s = .next s' ∧
      s' = { s with
        now := s'.now
        err := { s.err with
          recs := s.err.recs.drop 1 ++ s.err.lateRecs.take 1
          lateRecs := s.err.lateRecs.drop 1 } }) ∧
    (∀ m : Master, s.writes m 0x300900A4 = true → ∃ s', exec (.candPop m) s = .next s' ∧
      s' = { s with
        now := s'.now
        err := { s.err with
          cands := s.err.cands.drop 1 ++ s.err.lateCands.take 1
          lateCands := s.err.lateCands.drop 1 } }) ∧
    (∀ (m : Master) (h : Fin 2) (v : Word),
      (s.writes m (0x30090060 + 4 * h.val) = true → ∃ s', exec (.ssubSet m h v) s = .next s' ∧
        s' = { s with regs := s'.regs, now := s'.now, err := { s.err with ssubNow := s'.err.ssubNow } } ∧
        s'.reg (rSsub h.val) = s.reg (rSsub h.val) ||| v ∧ (∀ a, a ≠ rSsub h.val → s'.reg a = s.reg a) ∧
        ∀ i, i < 32 → s'.err.ssubNow.getLsbD (32 * h.val + i) = (s.err.ssubNow.getLsbD (32 * h.val + i) || bit v i)) ∧
      (s.writes m (0x30090068 + 4 * h.val) = true → ∃ s', exec (.ssubClr m h v) s = .next s' ∧ s.onlyReg s' (rSsub h.val) ∧
        ∀ i, i < 32 → bit (s'.reg (rSsub h.val)) i =
          (bit (s.reg (rSsub h.val)) i && (!bit v i || s.err.ssubNow.getLsbD (32 * h.val + i))))) ∧
    (∀ a : Nat, a = (s.reg rSsubPub).toNat / 8 * 8 → s.pdOn 7 = true → bit (s.reg rSsubPub) 0 = true → isVat a = true → s.memThere a = true →
      ∃ s' f q, exec .ssubPublish s = .next s' ∧ s'.mesh.flits = s.mesh.flits ++ [f] ∧ f.body = .narrow (memOf a) q ∧
        q.addr = a ∧ q.len = 8 ∧ q.wr = some (bytesOfNat 4 (s.reg (rSsub 0)).toNat ++ bytesOfNat 4 (s.reg (rSsub 1)).toNat) ∧
        s'.mem = s.mem ∧ s'.regs = s.regs) ∧
    (∀ (m : Master) (k : Fin 4), s.writes m (0x30090080 + 4 * k.val) = true →
      (m = .steward k → ∃ s', exec (.wdogKick m k) s = .next s' ∧
        s' = { s with now := s'.now, milk := { s.milk with kick := s.milk.kick.set k.val s.bells.mtime.toNat } }) ∧
      (m ≠ .steward k → s.refuses (.wdogKick m k) m (0x30090080 + 4 * k.val))) ∧
    ∀ k : Fin 4,
      let c := s.reg rWdogCfg
      let due := s.milk.kick[k] + fld c 0 16 * 25000
      (s.pdOn 7 = true → bit c (16 + k.val) = true → 0 < fld c 0 16 → due ≤ s.bells.mtime.toNat → s.milk.recovery = none →
        s.mainOff = false → ∃ s', exec (.watchdogExpiry k) s = .next s' ∧ s'.milk.recovery = some (0x74, 0) ∧ s'.mem = s.mem ∧
          s'.tiles = s.tiles) ∧
      (s.bells.mtime.toNat < due ∨ bit c (16 + k.val) = false → exec (.watchdogExpiry k) s = .next s)

/-- Each trigger, outside a recovery and with the main side on, starts one with its code; during one it changes nothing,
but for the loss of the supplies. The steps: FAULT_N low; the queues' work aborted and gone; EPOCH increments,
VIDEO_OK falls and no plan runs; main reset takes every main domain but PD2 off (at once: log 60) and the boot
begins again at stage 1; once Skim shows, the recovery ends with FAULT_N high. A power-on reset returns every
register to its reset value but SB_STATUS, and with the debug fuse blown PERMA_DISABLE and WO_STATE; flash and fuse
stay, also when VDD_AON is lost. (R382, R509, R510, R511, R512, R523, R527, R576, R583, R633,
15_faults_and_ordering.md, notes/assumptions/60.md) -/
def Obligations.DeviceRecoverySteps : Prop :=
  ∀ s : State,
    (s.milk.recovery = none → s.mainOff = false →
      (∀ core mem, s.milk.enMain = true → ((core && s.milk.pgCore) || (mem && s.milk.pgMem)) = true → s.stage ≠ 2 →
        ∃ s', exec (.pgLoss core mem) s = .next s' ∧ s'.milk.recovery = some (0x71, 0) ∧ s'.milk.enMain = false ∧
          s'.mem = s.mem ∧ s'.tiles = s.tiles) ∧
      (s.milk.aon = true → s.milk.rom = true → ∃ s', exec .registerNetworkTimeout s = .next s' ∧
        s'.milk.recovery = some (0x73, 0) ∧ s'.mem = s.mem ∧ s'.tiles = s.tiles) ∧
      (s.pdOn 7 = true → s.power.relock = none → ∃ s', exec .corePllUnlock s = .next s' ∧
        s'.milk.recovery = some (0x76, 0) ∧ s'.mem = s.mem ∧ s'.tiles = s.tiles) ∧
      (s.pdOn 7 = true → ∃ s', exec .fabricUncorrectable s = .next s' ∧ s'.milk.recovery = some (0x72, 0) ∧
        s'.mem = s.mem ∧ s'.tiles = s.tiles) ∧
      (∀ m : Master, s.writes m rMreq = true → bit (s.reg rMreq) 8 = false → ∃ s', exec (.mreqDeviceRecovery m) s = .next s' ∧
        s'.milk.recovery = some (0x75, 0) ∧ s'.reg rMresp = 0x100 ∧ s'.mem = s.mem)) ∧
    (∀ r, s.milk.recovery = some r → exec .registerNetworkTimeout s = .next s ∧ exec .fabricUncorrectable s = .next s ∧
      ∀ m : Master, s.writes m rMreq = true → bit (s.reg rMreq) 8 = false → ∃ s', exec (.mreqDeviceRecovery m) s = .next s' ∧
        s'.milk = s.milk ∧ s'.reg rMresp = 0x103) ∧
    (∀ c, s.milk.recovery = some (c, 0) → ∃ s', exec .deviceRecovery s = .next s' ∧
      s' = { s with milk := { s.milk with faultLow := true, recovery := some (c, 1) } }) ∧
    (∀ c, s.milk.recovery = some (c, 1) → ∃ s', exec .deviceRecovery s = .next s' ∧ s'.milk.recovery = some (c, 2) ∧
      s'.mem = s.mem ∧ s'.host.sent = [] ∧ s'.host.reads = [] ∧ (∀ q : Fin 132, (s'.q q.val).held = []) ∧
      ∀ l, (s'.lad l).runs = []) ∧
    (∀ c, s.milk.recovery = some (c, 2) → ∃ s', exec .deviceRecovery s = .next s' ∧ s'.milk.recovery = some (c, 3) ∧
      s'.reg rEpoch = s.reg rEpoch + 1 ∧ s'.scan.videoOk = false ∧ s'.planRuns = false ∧ s'.tgOn = false) ∧
    (∀ c, s.milk.recovery = some (c, 3) → c ≠ 0x70 → c ≠ 0x71 → s.milk.holdOff = false →
      ∃ s', exec .deviceRecovery s = .next s' ∧ s'.milk.recovery = some (c, 4) ∧ s'.stage = 1 ∧ s'.milk.enMain = true ∧
        s'.pdOn 2 = s.pdOn 2 ∧ s'.milk.settled = false ∧ s'.errs = [] ∧ ∀ d, 1 ≤ d → d < 80 → d ≠ 2 → s'.pdOn d = false) ∧
    (∀ c, s.milk.recovery = some (c, 4) → s.skimOn = true → s.stage ≠ 9 → s.stage ≠ 10 →
      ∃ s', exec .deviceRecovery s = .next s' ∧
        s' = { s with errs := [], milk := { s.milk with recovery := none, faultLow := false } }) ∧
    (∀ (testEn : Bool) (addr : Fin 4), ∃ s', exec (.powerOnReset testEn addr) s = .next s' ∧ s'.milk.flash = s.milk.flash ∧
      s'.milk.dbgFuse = s.milk.dbgFuse ∧ s'.milk.recovery = none ∧ s'.milk.scope = 0 ∧ s'.mem = State.reset.mem ∧
      s'.tiles = State.reset.tiles ∧ s'.milk.enMain = !testEn ∧
      (∀ a, a ≠ rSbStatus → a ≠ rPermaDisable → a ≠ rWoState → s'.reg a = regReset a) ∧
      s'.reg rSbStatus = BitVec.ofNat 32 (0x4C + (if s.milk.vddioSb then addr.val else 0)) ∧
      (s.milk.dbgFuse = true → s'.reg rPermaDisable = 1)) ∧
    ∃ s', exec .vddAonLoss s = .next s' ∧ s'.milk.aon = false ∧ s'.milk.enMain = false ∧ s'.milk.flash = s.milk.flash ∧
      s'.milk.dbgFuse = s.milk.dbgFuse ∧ s'.mem = State.reset.mem ∧ s'.regs = State.reset.regs

/-- For every form that the port takes up: STATUS reports and clears the edge causes, TEMP, POWER and PULSE report,
LOG_READ gives up to seven records and LOG_CLEAR removes them, RESET_REQ with 0xA5 starts a device recovery and
another byte is BAD_ARG, MAIN_POWER starts a recovery that holds the main side off, or main sequencing, BOOT_SELECT
keeps its selection, the mailboxes and doorbells carry their bytes. BLOCK_READ_RESPONSE gives the response held for
its command; an alert response releases SB_ALERT_N; a bus timeout drops the response and counts. The register side
of the mailboxes sends and acknowledges. (R556, R557, R558, R560, R562, R563, R564, R565, R566, R567, R570,
17_milkhouse_sideband.md) -/
def Obligations.SidebandCommands : Prop :=
  ∀ (s : State) (f : SbForm),
    (s.sbTakes f 0x01 [] = true → ∃ s' d, exec (.status f) s = .next s' ∧ s'.sbHolds f 0x01 0 d ∧ d.length = 16 ∧
      s'.milk.alerts = 0 ∧ d.take 4 = [byteOf s.stage, byteOf s.statusFlags, s.stepByte, s.alertCauses.setWidth 8] ∧
      s'.mem = s.mem ∧ s'.regs = s.regs) ∧
    (s.sbTakes f 0x02 [] = true → ∃ s' d, exec (.temp f) s = .next s' ∧ s'.sbHolds f 0x02 0 d ∧ d.length = 11 ∧
      (∀ i, i < 8 → s.power.sensorOk.getLsbD i = false → d[1 + i]? = some 0x80) ∧ s'.regs = s.regs) ∧
    (s.sbTakes f 0x03 [] = true → s.milk.recovery = none → s.stage ≠ 2 → s.mainOff = false → s.pdOn 7 = true →
      ∃ s' d, exec (.power f) s = .next s' ∧ s'.sbHolds f 0x03 0 d ∧ d.length = 28 ∧ s'.regs = s.regs ∧
        d.take 4 = bytesOfNat 2 s.cap ++ bytesOfNat 2 s.standing ∧ (d.drop 12).take 4 = bytesOfNat 4 s.clkNow) ∧
    (s.sbTakes f 0x04 [] = true → ∃ s' d, exec (.pulse f) s = .next s' ∧ s'.sbHolds f 0x04 0 d ∧ d.length = 20 ∧
      (d.drop 4).take 4 = bytesOfNat 4 (s.reg rEpoch).toNat ∧
      (d.drop 8).take 4 = bytesOfNat 4 (if s.tgOn then (s.reg rFrame).toNat else 0xFFFFFFFF) ∧ s'.regs = s.regs) ∧
    (∀ pos : BitVec 32, s.sbTakes f 0x10 (bytesOfNat 4 pos.toNat) = true → ∃ s' d, exec (.logRead f pos) s = .next s' ∧
      s'.sbHolds f 0x10 0 d ∧ s'.milk.log = s.milk.log ∧
      let l := (s.milk.log.filter (fun e => decide (pos.toNat ≤ e.1))).take 7
      d.take 2 = [byteOf l.length, 0] ∧ d.drop 6 = (l.map (fun e => bytesOfNat 32 e.2.toNat)).flatten) ∧
    (∀ pos : BitVec 32, s.sbTakes f 0x11 (bytesOfNat 4 pos.toNat) = true → ∃ s', exec (.logClear f pos) s = .next s' ∧
      s'.sbHolds f 0x11 0 [] ∧ s'.milk.log = s.milk.log.filter (fun e => decide (pos.toNat < e.1)) ∧ s'.regs = s.regs) ∧
    (∀ v : Byte, s.sbTakes f 0x20 [v] = true →
      (v = 0xA5 → s.milk.recovery = none → s.stage ≠ 2 → s.mainOff = false → ∃ s', exec (.resetReq f v) s = .next s' ∧
        s'.sbHolds f 0x20 0 [] ∧ s'.milk.recovery = some (0x75, 0) ∧ s'.mem = s.mem) ∧
      (v = 0xA5 → s.milk.recovery.isSome = true → ∃ s', exec (.resetReq f v) s = .next s' ∧ s'.sbHolds f 0x20 3 [] ∧
        s'.milk.recovery = s.milk.recovery) ∧
      (v ≠ 0xA5 → ∃ s', exec (.resetReq f v) s = .next s' ∧ s'.sbHolds f 0x20 2 [] ∧ s'.regs = s.regs ∧
        s'.milk.recovery = s.milk.recovery)) ∧
    (s.sbTakes f 0x21 [0] = true → s.mainOff = false → s.milk.recovery = none → ∃ s', exec (.mainPower f 0) s = .next s' ∧
      s'.sbHolds f 0x21 0 [] ∧ s'.milk.holdOff = true ∧ s'.milk.recovery = some (0x75, 0) ∧ s'.mem = s.mem) ∧
    (s.sbTakes f 0x21 [1] = true →
      (s.mainOff = true → ∃ s', exec (.mainPower f 1) s = .next s' ∧ s'.sbHolds f 0x21 0 [] ∧ s'.stage = 2 ∧
        s'.milk.enMain = true ∧ s'.milk.holdOff = false ∧ s'.mem = s.mem) ∧
      (s.mainOff = false → ∃ s', exec (.mainPower f 1) s = .next s' ∧ s'.sbHolds f 0x21 0 [] ∧ s'.regs = s.regs)) ∧
    (∀ v : Byte, s.sbTakes f 0x22 [v] = true →
      (v.toNat ≤ 2 → ∃ s', exec (.bootSelect f v) s = .next s' ∧ s'.sbHolds f 0x22 0 [v] ∧ s'.milk.bootSel = v.toNat ∧
        s'.regs = s.regs) ∧
      (v = 0xFF → ∃ s', exec (.bootSelect f v) s = .next s' ∧ s'.sbHolds f 0x22 0 [byteOf s.milk.bootSel] ∧
        s'.milk.bootSel = s.milk.bootSel)) ∧
    (∀ msg : List Byte, 1 ≤ msg.length → msg.length ≤ 64 → s.sbTakes f 0x60 msg = true → s.mainOff = false →
      (s.sb2hFull = false → ∃ s', exec (.mboxSend f msg) s = .next s' ∧ s'.sbHolds f 0x60 0 [] ∧ s'.sb2hFull = true ∧
        fld (s'.reg rSb2hCtrl) 0 7 = msg.length ∧ s'.bellMsgs = s.bellMsgs ++ [160] ∧
        ∀ (i : Nat) (b : Byte), msg[i]? = some b → fld (s'.reg (rSb2hData (i / 4))) (8 * (i % 4)) 8 = b.toNat) ∧
      (s.sb2hFull = true → ∃ s', exec (.mboxSend f msg) s = .next s' ∧ s'.sbHolds f 0x60 3 [] ∧ s'.regs = s.regs)) ∧
    (s.sbTakes f 0x61 [] = true →
      (s.h2sbFull = true → fld (s.reg rH2sbCtrl) 0 7 ≤ 64 → ∃ s', exec (.mboxRecv f) s = .next s' ∧ s'.h2sbFull = false ∧
        s'.sbHolds f 0x61 0 (byteOf (fld (s.reg rH2sbCtrl) 0 7) :: s.h2sbBytes.take (fld (s.reg rH2sbCtrl) 0 7))) ∧
      (s.h2sbFull = false → ∃ s', exec (.mboxRecv f) s = .next s' ∧ s'.sbHolds f 0x61 0 [0] ∧ s'.regs = s.regs)) ∧
    (∀ (d : Byte) (v : Word), s.sbTakes f 0x62 (d :: bytesOfNat 4 v.toNat) = true →
      (d.toNat < 15 → s.mainOff = false → ∃ s', exec (.doorbell f d v) s = .next s' ∧ s'.sbHolds f 0x62 0 [] ∧
        s'.reg (rSbmsg d.toNat) = v ∧ s'.bellMsgs = s.bellMsgs ++ [496 + d.toNat] ∧
        (∀ a, a ≠ rSbmsg d.toNat → s'.reg a = s.reg a)) ∧
      (15 ≤ d.toNat → ∃ s', exec (.doorbell f d v) s = .next s' ∧ s'.sbHolds f 0x62 2 [] ∧ s'.regs = s.regs)) ∧
    (∀ code : Byte, s.sbServes = true → ∃ s' pec, exec (.blockReadResponse code) s = .next s' ∧
      (∀ r, s.milk.response = some (code.toNat, r) → s' = s.emit (.bytes (byteOf r.length :: (r ++ [pec])))) ∧
      (s.milk.response = none → s' = s.emit (.bytes [1, 1, pec]))) ∧
    (s.sbServes = true → s.alertLow = true → ∃ s', exec .alertResponse s = .next s' ∧ s'.alertLow = false ∧
      s'.out = s.out ++ [.bytes [s.sbAddr]] ∧ s'.regs = s.regs) ∧
    (s.sbServes = true → s.i2cMode = false → ∃ s', exec .smbusBusTimeout s = .next s' ∧ s'.milk.response = none ∧
      fld (s'.reg rSbStatus) 16 8 = min 255 (fld (s.reg rSbStatus) 16 8 + 1) ∧ ∀ a, a ≠ rSbStatus → s'.reg a = s.reg a) ∧
    (∀ (m : Master) (v : Word), s.writes m rH2sbCtrl = true →
      (s.h2sbFull = false → ∃ s', exec (.h2sbSend m v) s = .next s' ∧ s'.h2sbFull = true ∧
        fld (s'.reg rH2sbCtrl) 0 7 = fld v 0 7 ∧ s'.milk.alerts = s.milk.alerts ||| 1 ∧
        ∀ a, a ≠ rH2sbCtrl → s'.reg a = s.reg a) ∧
      (s.h2sbFull = true → ∃ s' e, exec (.h2sbSend m v) s = .next s' ∧ s'.reg rH2sbCtrl = s.reg rH2sbCtrl ∧
        s'.reg rH2sbDrop = satAdd (s.reg rH2sbDrop) 1 ∧ s'.errs = s.errs ++ [e] ∧ e.code = 0x50)) ∧
    ∀ m : Master, s.writes m rSb2hCtrl = true → ∃ s', exec (.sb2hAck m) s = .next s' ∧ s.onlyReg s' rSb2hCtrl ∧
      s'.sb2hFull = false

/-- The ROM starts with its power goods or ends in stage 0xA. The settings read goes to stage 1 with a valid header and
to 0xB without a flash. An authenticated slot starts the stewards at its ENTRY at stage 4, and no slot ends in stage
9 with FAULT_N low. A steward copy of 64 bytes to SRAM ends with DONE and its bytes moved, one out of range with ERR
and cause 1; an aborted copy that moved nothing only ends. Erase and program set their bytes and nothing else, the
sideband's as the AND of old and new. FLASH_OPEN owns the flash, and CLOSE and the timeout end it. A repair
candidate becomes a record. (R528, R530, R533, R540, R541, R543, R544, R568, R569, R572, 16_startup_and_boundary.md,
17_milkhouse_sideband.md) -/
def Obligations.BootAndFlash : Prop :=
  ∀ s : State,
    (s.milk.aon = true → s.milk.rom = false → s.milk.testEn = false →
      (∃ s', exec (.romStart true) s = .next s' ∧ s' = { s with milk := { s.milk with rom := true, pgCore := true, pgMem := true } }) ∧
      ∃ s', exec (.romStart false) s = .next s' ∧ s'.milk.rom = true ∧ s'.stage = 10 ∧ s'.milk.enMain = false ∧
        s'.milk.faultLow = true) ∧
    (∀ (log2 : Fin 32) (mode : Fin 3) (jedec : BitVec 24), s.milk.aon = true → s.milk.rom = true → s.milk.settled = false →
      s.mainOff = false → s.stage ≠ 2 →
      (∃ s', exec (.settingsRead false log2 mode jedec) s = .next s' ∧ s'.milk.settled = true ∧ s'.stage = 11 ∧
        s'.milk.flashSize = 0 ∧ s'.milk.flash = s.milk.flash) ∧
      (24 ≤ log2.val → log2.val ≤ 28 → s.headerValid = true → ∃ s', exec (.settingsRead true log2 mode jedec) s = .next s' ∧
        s'.milk.settled = true ∧ s'.stage = 1 ∧ s'.milk.flashSize = 2 ^ log2.val ∧ s'.milk.settings.hdrOk = true ∧
        s'.milk.flash = s.milk.flash ∧ s'.reg rFlashId = jedec.setWidth 32)) ∧
    (s.stage = 3 → s.milk.bootReads = true → s.pdOn 1 = true →
      (∀ (r : BootRec) (t : State), s.milk.bootSel = 1 → s.milk.settings.bootA = some r → s.trySlot (some r) = (t, true) →
        ∃ s', exec .stewardImageAuthenticate s = .next s' ∧ s'.stage = 4 ∧ s'.mem = t.mem ∧ s'.milk.bootSel = 0 ∧
          s'.milk.bootReads = false ∧ ∀ k, (s'.core k).held = false ∧ (s'.core k).user = false ∧
            (s'.core k).pc = BitVec.ofNat 64 (r.le 12 4)) ∧
      (s.milk.settings.bootA = none → s.milk.settings.bootB = none →
        ∃ s', exec .stewardImageAuthenticate s = .next s' ∧ s'.stage = 9 ∧ s'.milk.faultLow = true ∧ s'.milk.bootReads = false ∧
          s'.mem = s.mem ∧ s'.stew = s.stew)) ∧
    (∀ (m : Master) (v : Word), s.writes m rFlashReq = true → ∃ s', exec (.flashReq m v) s = .next s' ∧
      s.onlyReg s' rFlashReq ∧ s'.reg rFlashReq = v &&& 1) ∧
    (∀ (m : Master) (v : Word), s.writes m rCpCtrl = true → s.copyBusy = false → s.stewardsOwn = true → s.eraseBusy = false →
      ∃ s', exec (.flashCopy m v) s = .next s' ∧ s.onlyReg s' rCpCtrl ∧ s'.copyBusy = true) ∧
    (∀ n : Nat, s.copyBusy = true → s.milk.flashWait = false →
      (s.copyInRange = false → ∃ s', exec (.flashCopyComplete n) s = .next s' ∧ s.onlyRegs s' ∧ s'.copyBusy = false ∧
        bit (s'.reg rCpStatus) 1 = true ∧ fld (s'.reg rCpStatus) 2 2 = 1) ∧
      (∀ dst : Nat, dst = (s.reg rCpDst).toNat → s.copyInRange = true → fld (s.reg rCpLen) 0 25 = 64 → bit (s.reg rCpCtrl) 2 = false → isSram dst = true →
        s.memThere dst = true → ∃ s', exec (.flashCopyComplete n) s = .next s' ∧ s'.copyBusy = false ∧
          bit (s'.reg rCpStatus) 0 = true ∧ s.bytesBut s' dst 64 ∧
          s'.mem.bytes dst 64 = s.flashBytes (fld (s.reg rCpSrc) 0 28) 64)) ∧
    (∀ m : Master, s.writes m rCpCtrl = true → s.copyBusy = true → ∃ s', exec (.flashCopyAbort m 0) s = .next s' ∧
      s'.copyBusy = false ∧ s'.mem = s.mem ∧ s'.milk = s.milk) ∧
    (∀ (m : Master) (v : Word), s.writes m rErCtrl = true → s.eraseBusy = false →
      (s.stewardsOwn = true → s.copyBusy = false → ∃ s', exec (.flashErGo m v) s = .next s' ∧ s.onlyReg s' rErCtrl ∧
        s'.reg rErCtrl = (v &&& 2) ||| 1) ∧
      (s.stewardsOwn = false → ∃ s', exec (.flashErGo m v) s = .next s' ∧ s.onlyReg s' rErCtrl ∧ s'.eraseBusy = false)) ∧
    (s.eraseBusy = true → s.eraseAt < s.milk.flashSize → ∃ s', exec .flashOpComplete s = .next s' ∧ s'.eraseBusy = false ∧
      ∀ a, s'.flashByte a = if s.eraseAt ≤ a ∧ a < s.eraseAt + s.eraseSize then 0xFF else s.flashByte a) ∧
    (∀ (off : Nat) (bs : List Byte), s.eraseBusy = false → s.milk.sbOp = some (off, bs) →
      ∃ s', exec .flashOpComplete s = .next s' ∧ s'.milk.sbOp = none ∧ s'.regs = s.regs ∧
        ∀ a, s'.flashByte a = if off ≤ a ∧ a < off + bs.length then bs.getD (a - off) 0 else s.flashByte a) ∧
    (∀ f : SbForm, s.milk.sbOp = none →
      (s.sbTakes f 0x30 [] = true → s.milk.flashOpen = false → s.milk.bootReads = false → s.copyBusy = false →
        s.eraseBusy = false → ∃ s', exec (.flashOpen f) s = .next s' ∧ s'.sbHolds f 0x30 0 s.flashParts ∧
        s'.milk.flashOpen = true ∧ s'.regs = s.regs) ∧
      (∀ (off : BitVec 32) (len : BitVec 8), s.sbTakes f 0x31 (bytesOfNat 4 off.toNat ++ [len]) = true → 0 < len.toNat →
        len.toNat ≤ 240 → off.toNat + len.toNat ≤ s.milk.flashSize →
        (s.milk.flashOpen = true → ∃ s', exec (.flashRead f off len) s = .next s' ∧
          s'.sbHolds f 0x31 0 (s.flashBytes off.toNat len.toNat)) ∧
        (s.milk.flashOpen = false → ∃ s', exec (.flashRead f off len) s = .next s' ∧ s'.sbHolds f 0x31 4 [])) ∧
      (∀ (off : BitVec 32) (data : List Byte), s.sbTakes f 0x32 (bytesOfNat 4 off.toNat ++ data) = true → 1 ≤ data.length →
        data.length ≤ 128 → off.toNat % 256 + data.length ≤ 256 → off.toNat + data.length ≤ s.milk.flashSize →
        s.milk.flashOpen = true → s.flashReadOnly = false → ∃ s' bs, exec (.flashWrite f off data) s = .next s' ∧
          s'.sbHolds f 0x32 0 [] ∧ s'.milk.sbOp = some (off.toNat, bs) ∧ s'.milk.flash = s.milk.flash ∧
          bs.length = data.length ∧ ∀ (i : Nat) (b : Byte), data[i]? = some b → bs[i]? = some (b &&& s.flashByte (off.toNat + i))) ∧
      (∀ (off : BitVec 32) (size : BitVec 8), s.sbTakes f 0x33 (bytesOfNat 4 off.toNat ++ [size]) = true → size.toNat < 2 →
        let n := if size.toNat = 0 then 4096 else 65536
        off.toNat % n = 0 → off.toNat + n ≤ s.milk.flashSize → s.milk.flashOpen = true → s.flashReadOnly = false →
        ∃ s', exec (.flashErase f off size) s = .next s' ∧ s'.sbHolds f 0x33 0 [] ∧ s'.milk.flash = s.milk.flash ∧
          s'.milk.sbOp = some (off.toNat, List.replicate n 0xFF)) ∧
      (s.sbTakes f 0x34 [] = true → ∃ s', exec (.flashClose f) s = .next s' ∧ s'.sbHolds f 0x34 0 [] ∧
        s'.milk.flashOpen = false) ∧
      (s.milk.flashOpen = true → ∃ s', exec .flashOwnershipTimeout s = .next s' ∧ s'.milk.flashOpen = false ∧
        s'.regs = s.regs ∧ s'.milk.flash = s.milk.flash)) ∧
    ∀ (e : Word) (rest : List Word) (k : Nat), s.milk.aon = true → s.milk.rom = true → s.milk.settings.smbus / 8 % 2 = 1 →
      s.milk.settings.hdrOk = true → s.flashOwner = 0 → s.milk.flashWait = false → s.milk.repairCands = e :: rest →
      s.freeSpare e = some k → s.spaceFree s.milk.settings.next = true → s.milk.settings.count < 4095 →
      16 ≤ s.milk.settings.next →
      ∃ s', exec .repairRecordAppend s = .next s' ∧ s'.milk.repairCands = rest ∧ s'.regs = s.regs ∧
        s'.milk.settings.count = s.milk.settings.count + 1 ∧ s'.milk.settings.next = s.milk.settings.next + 16 ∧
        s'.flashBytes (s.milk.settings.next + 8) 4 = bytesOfNat 4 (setFld e 0 6 k).toNat ∧
        ∀ a, 16 ≤ a → (a < s.milk.settings.next ∨ s.milk.settings.next + 16 ≤ a) → s'.flashByte a = s.flashByte a

/-- A challenge gives a nonce, which a response uses up: a good one sets the scope, a bad one counts a failure; the fuse
denies both. A nonce expires. Under their scope DBG_STOP sets when the frame domain freezes, RESUME and STEP when a
frozen one runs on, and a steward halts, resumes and steps; without scope a write is a register access fault. The
end of a step freezes again. Revocation clears the scope, and PERMA_DISABLE blows the fuse once. Trace enable
restarts the ring, and its oldest record goes to the slot at the head. (R579, R580, R581, R582, R583, R586, R591,
R593, R596, R597, R602, 18_debug.md) -/
def Obligations.DebugControl : Prop :=
  ∀ s : State,
    (∀ f : SbForm, s.sbTakes f 0x40 [] = true →
      (s.milk.dbgFuse = false → ∃ s' n, exec (.dbgChallenge f) s = .next s' ∧ s'.sbHolds f 0x40 0 (n ++ serialBytes) ∧
        s'.milk.nonce = some n ∧ n.length = 32 ∧ s'.milk.scope = s.milk.scope ∧ s'.regs = s.regs) ∧
      (s.milk.dbgFuse = true → ∃ s', exec (.dbgChallenge f) s = .next s' ∧ s'.sbHolds f 0x40 4 [] ∧
        s'.milk.nonce = s.milk.nonce)) ∧
    (∀ (f : SbForm) (scope : Byte) (sig : Vector Byte 96), s.sbTakes f 0x41 (scope :: sig.toList) = true →
      s.milk.dbgFuse = false →
      (s.authGood scope sig.toList = true → s.milk.authFail < 8 → ∃ s', exec (.dbgResponse f scope sig) s = .next s' ∧
        s'.sbHolds f 0x41 0 [] ∧ s'.milk.scope = scope.toNat ∧ s'.milk.nonce = none) ∧
      (s.authGood scope sig.toList = false → ∃ s', exec (.dbgResponse f scope sig) s = .next s' ∧ s'.sbHolds f 0x41 4 [] ∧
        s'.milk.scope = s.milk.scope ∧ s'.milk.nonce = none ∧ s'.milk.authFail = min 15 (s.milk.authFail + 1))) ∧
    (∀ (f : SbForm) (first : BitVec 32) (n : BitVec 8), s.sbTakes f 0x50 (bytesOfNat 4 first.toNat ++ [n]) = true →
      0 < n.toNat → n.toNat ≤ 60 →
      (s.milk.dbgFuse = false → s.milk.scope.testBit 1 = true → s.milk.recovery = none → s.stage ≠ 2 → s.mainOff = false →
        ∃ s' d, exec (.stateScan f first n) s = .next s' ∧ s'.sbHolds f 0x50 0 d ∧ d.length = 4 * n.toNat ∧
          s'.mem = s.mem ∧ s'.regs = s.regs) ∧
      (s.milk.scope.testBit 1 = false → ∃ s', exec (.stateScan f first n) s = .next s' ∧ s'.sbHolds f 0x50 4 [])) ∧
    (∃ s', exec .nonceExpiry s = .next s' ∧ s' = { s with milk := { s.milk with nonce := none } }) ∧
    (∀ m : Master, s.writes m 0x300A0004 = true →
      (s.scope 0 = true → s.dbg.stopped = false → s.dbg.stopAt = none → ∃ s', exec (.dbgStop m) s = .next s' ∧
        s' = { s with now := s'.now, dbg := { s.dbg with stopAt := some (s.ck + 6, 1) } }) ∧
      (∀ c k, s.scope 0 = true → s.dbg.stopped = false → s.dbg.stopAt = some (c, k) → ∃ s', exec (.dbgStop m) s = .next s' ∧
        s' = { s with now := s'.now, dbg := { s.dbg with stopAt := some (min c (s.ck + 6), k) } }) ∧
      (s.scope 0 = false → s.refuses (.dbgStop m) m 0x300A0004)) ∧
    (s.pdOn 7 = true → s.scope 0 = true → bit (s.reg rDbgCtrl) 0 = true → s.milk.dbgFuse = false → s.dbg.stopped = false →
      s.dbg.stopAt = none → ∃ s', exec .dbgStopN s = .next s' ∧ s' = { s with dbg := { s.dbg with stopAt := some (s.ck + 10, 2) } }) ∧
    (∀ (m : Master) (n : BitVec 16), s.scope 0 = true → s.dbg.stopped = true → s.dbg.resumeAt = none →
      (s.writes m 0x300A0008 = true → ∃ s', exec (.dbgResume m) s = .next s' ∧
        s' = { s with now := s'.now, dbg := { s.dbg with resumeAt := some (s.ck + 6, 0) } }) ∧
      (s.writes m 0x300A000C = true → n ≠ 0 → ∃ s', exec (.dbgStep m n) s = .next s' ∧
        s' = { s with now := s'.now, dbg := { s.dbg with resumeAt := some (s.ck + 6, n.toNat) } })) ∧
    (s.dbg.stopped = false → s.dbg.stepLeft = 1 → ∃ s', exec .stepEnd s = .next s' ∧
      s' = { s with dbg := { s.dbg with stepLeft := 0, stopAt := some (s.ck + 1, 0) } }) ∧
    (∀ m : Master, s.writes m 0x300A0034 = true → ∃ s', exec (.authRevoke m) s = .next s' ∧ s'.milk.scope = 0 ∧
      (∀ b, b < 8 → s'.scope b = false) ∧ s'.mem = s.mem) ∧
    (∀ (m : Master) (v : Word), s.writes m rPermaDisable = true → s.woWritten rPermaDisable = false → bit v 0 = true →
      ∃ s', exec (.permaDisable m v) s = .next s' ∧ s'.milk.dbgFuse = true ∧ s'.milk.scope = 0 ∧ s'.reg rPermaDisable = 1 ∧
        s'.woWritten rPermaDisable = true) ∧
    (∀ (m : Master) (k : Fin 4) (drain : Bool), s.writes m (rSctrl k.val) = true →
      (s.scope 3 = true → s.pdOn 1 = true →
        ((s.core k).halted = false → (s.core k).haltReq = false → ∃ s', exec (.stewardHalt m k drain) s = .next s' ∧
          s'.core k = { s.core k with haltReq := true, cause := 1 } ∧ (∀ j, j ≠ k → s'.core j = s.core j) ∧
          s'.reg (rSctrl k.val) = if drain then 8 else 0) ∧
        ((s.core k).halted = true →
          (∃ s', exec (.stewardResume m k drain) s = .next s' ∧ (∀ j, j ≠ k → s'.core j = s.core j) ∧
            s'.core k = { s.core k with halted := false, haltReq := false, stepLeft := false }) ∧
          ∃ s', exec (.stewardStep m k drain) s = .next s' ∧ (∀ j, j ≠ k → s'.core j = s.core j) ∧
            s'.core k = { s.core k with halted := false, haltReq := true, stepLeft := true, cause := 3 })) ∧
      (s.scope 3 = false → s.refuses (.stewardHalt m k drain) m (rSctrl k.val))) ∧
    (∀ k : Fin 4, (s.core k).haltReq = true → (s.core k).stepLeft = false → (s.core k).halted = false → (s.core k).kx = none →
      s.drained k = true → ∃ s', exec (.stewardHalted k) s = .next s' ∧
        s'.core k = { s.core k with halted := true, haltReq := false } ∧ ∀ j, j ≠ k → s'.core j = s.core j) ∧
    (∀ (m : Master) (v : Word), s.writes m rTrCtrl = true → s.scope 2 = true →
      ∃ s', exec (.traceEnable m v) s = .next s' ∧ s'.reg rTrCtrl = v &&& 1 ∧ s'.mem = s.mem ∧
        (bit v 0 = true → bit (s.reg rTrCtrl) 0 = false → s'.reg rTrHead = 0 ∧ s'.reg rTrTail = 0)) ∧
    (∀ (r : BitVec 128) (rest : List (BitVec 128)), s.dbg.port = r :: rest → bit (s.reg rTrCtrl) 0 = true → s.ringFull = false →
      s.pdOn 7 = true →
      let a := (s.reg rTrBase).toNat + 16 * (s.reg rTrHead).toNat
      isVat a = true → s.memThere a = true → a % 16 = 0 → bit (s.reg rTrNotify) 16 = false →
      ∃ s' f q, exec .traceRingWrite s = .next s' ∧ s'.dbg.port = rest ∧ s'.mem = s.mem ∧
        s'.mesh.flits = s.mesh.flits ++ [f] ∧ f.body = .narrow (memOf a) q ∧ q.addr = a ∧
        q.wr = some (bytesOfNat 16 r.toNat) ∧
        s'.reg rTrHead = BitVec.ofNat 32 (((s.reg rTrHead).toNat + 1) % s.ringSize))

/-- With power: a reset makes IDCODE current; IDCODE gives the identification; BYPASS gives its bits one later; EXTEST
and SAMPLE/PRELOAD give the input cells as captured and load the cells shifted in. An authorisation scan captures
and then makes a nonce or judges a response with its result kept; under the fuse it is BYPASS. A state scan gives
five bytes a word under the scope STATE and is BYPASS without it. DBGACC writes and reads a register or a word of
steward SRAM as the debug port under the scope MEMORY, and is BYPASS without it. (R584, R585, R627, R628, R629,
18_debug.md, notes/assumptions/71.md) -/
def Obligations.TapScans : Prop :=
  ∀ s : State, s.milk.aon = true →
    (∃ s', exec .tapReset s = .next s' ∧ s' = { s with milk := { s.milk with ir := 0x02 } }) ∧
    (∃ s', exec .idcode s = .next s' ∧ s' = { s with
      milk := { s.milk with ir := 0x02 }
      out := s.out ++ [.bytes [0x57, 0x89, 0x31, 0x17]] }) ∧
    (∀ bits : BitVec 32, ∃ s', exec (.bypass bits) s = .next s' ∧ s' = { s with
      milk := { s.milk with ir := 0xFF }
      out := s.out ++ [.bytes (bytesOfNat 4 (2 * bits.toNat % 2 ^ 32))] }) ∧
    (∀ pads cells : BitVec 89, ∀ c ∈ [(Instr.extest pads cells, 0x00), (.samplePreload pads cells, 0x01)],
      ∃ s' d, exec c.1 s = .next s' ∧ s'.milk = { s.milk with ir := c.2, bsr := cells } ∧ s'.regs = s.regs ∧ s'.mem = s.mem ∧
        s'.out = s.out ++ [.bytes (bytesOfNat 12 d)] ∧ d.testBit 78 = s.milk.enMain ∧
        ∀ i, i < 89 → i ≠ 78 → inputCell i = true → d.testBit i = pads.getLsbD i) ∧
    (s.milk.dbgFuse = false → s.milk.rom = true →
      (∃ s' n, exec .jtagAuthChallenge s = .next s' ∧ s'.milk.nonce = some n ∧ n.length = 32 ∧ s'.milk.ir = 0x10 ∧
        s'.milk.scope = s.milk.scope) ∧
      ∀ b : Vector Byte 103, (∀ i, 97 ≤ i → i < 103 → b.toList[i]? = some 0) →
        (s.authGood (b.toList.getD 0 0) ((b.toList.drop 1).take 96) = true → s.milk.authFail < 8 →
          ∃ s', exec (.jtagAuthSubmit b) s = .next s' ∧ s'.milk.scope = (b.toList.getD 0 0).toNat ∧ s'.milk.nonce = none ∧
            s'.milk.jtagResult = 0) ∧
        (s.authGood (b.toList.getD 0 0) ((b.toList.drop 1).take 96) = false →
          ∃ s', exec (.jtagAuthSubmit b) s = .next s' ∧ s'.milk.scope = s.milk.scope ∧ s'.milk.nonce = none ∧
            s'.milk.jtagResult = 4 ∧ s'.milk.authFail = min 15 (s.milk.authFail + 1))) ∧
    (s.milk.dbgFuse = true → ∃ s', exec .jtagAuthChallenge s = .next s' ∧ s' = { s with milk := { s.milk with ir := 0xFF } }) ∧
    (∀ (first : BitVec 32) (n : BitVec 8),
      (s.milk.dbgFuse = false → s.milk.scope.testBit 1 = true → ∃ s' d, exec (.jtagState first n) s = .next s' ∧
        s'.out = s.out ++ [.bytes d] ∧ d.length = 5 * n.toNat ∧ s'.milk.stateAddr = (first.toNat + n.toNat) % 2 ^ 32 ∧
        s'.milk.ir = 0x11 ∧ s'.regs = s.regs ∧ s'.mem = s.mem) ∧
      (s.milk.scope.testBit 1 = false → ∃ s', exec (.jtagState first n) s = .next s' ∧
        s' = { s with milk := { s.milk with ir := 0xFF } })) ∧
    ∀ (a v : BitVec 32),
      (s.milk.scope.testBit 4 = false → ∀ wr, ∃ s', exec (.dbgacc a v wr) s = .next s' ∧
        s' = { s with milk := { s.milk with ir := 0xFF } }) ∧
      (s.milk.dbgFuse = false → s.milk.scope.testBit 4 = true →
        (∀ o : Fin 2048, a.toNat = rTickval o.val → s.pdOn 7 = true → s.planRuns = false →
          ∃ s', exec (.dbgacc a v true) s = .next s' ∧ s'.reg (rTickval o.val) = v ∧ s'.mem = s.mem ∧ s'.milk.ir = 0x12 ∧
            ∀ b, b ≠ rTickval o.val → s'.reg b = s.reg b) ∧
        (isSram a.toNat = true → a.toNat % 4 = 0 → s.memThere a.toNat = true →
          (∃ s', exec (.dbgacc a v true) s = .next s' ∧ s.bytesBut s' a.toNat 4 ∧
            s'.mem.bytes a.toNat 4 = bytesOfNat 4 v.toNat ∧ s'.regs = s.regs) ∧
          (s.badByte a.toNat = false → ∃ s', exec (.dbgacc a v false) s = .next s' ∧ s'.mem = s.mem ∧ s'.regs = s.regs ∧
            s'.milk.accData = BitVec.ofNat 32 (natOfBytes (s.mem.bytes a.toNat 4)) ∧ s'.milk.accStatus = 0)))
end

