-- ==== Sys2Proof/Laws/Sparse.lean ====
section
/-!
SUPPORT. Laws of the sparse maps: what a read gives after a write, and that every operation keeps the canonical form.
-/

namespace Sys2Proof.Machine

variable {β : Type}

/-! ### Reads after writes -/

@[simp] theorem Sparse.get_insert_same (d : Nat → β) (m : List (Nat × β)) (k : Nat) (v : β) :
    Sparse.get d (Sparse.insert m k v) k = v := by
  induction m with
  | nil => simp [Sparse.insert, Sparse.get]
  | cons e r ih =>
    obtain ⟨k', v'⟩ := e
    simp only [Sparse.insert]
    split
    · simp [Sparse.get]
    · split
      · simp [Sparse.get]
      · rename_i h1 h2
        simp [Sparse.get, Ne.symm h2, ih]

theorem Sparse.get_insert_other (d : Nat → β) (m : List (Nat × β)) (k j : Nat) (v : β) (h : j ≠ k) :
    Sparse.get d (Sparse.insert m k v) j = Sparse.get d m j := by
  induction m with
  | nil => simp [Sparse.insert, Sparse.get, Ne.symm h]
  | cons e r ih =>
    obtain ⟨k', v'⟩ := e
    simp only [Sparse.insert]
    split
    · simp [Sparse.get, Ne.symm h]
    · split
      · rename_i h1 h2
        subst h2
        simp [Sparse.get, Ne.symm h]
      · simp only [Sparse.get, ih]

theorem Sparse.get_without_same (d : Nat → β) (m : List (Nat × β)) (k : Nat) :
    Sparse.get d (m.filter (fun e => decide (e.1 ≠ k))) k = d k := by
  induction m with
  | nil => rfl
  | cons e r ih =>
    obtain ⟨k', v'⟩ := e
    by_cases h : k' = k
    · simp [h] at ih ⊢; exact ih
    · simp [h, Sparse.get] at ih ⊢; exact ih

theorem Sparse.get_without_other (d : Nat → β) (m : List (Nat × β)) (k j : Nat) (h : j ≠ k) :
    Sparse.get d (m.filter (fun e => decide (e.1 ≠ k))) j = Sparse.get d m j := by
  induction m with
  | nil => rfl
  | cons e r ih =>
    obtain ⟨k', v'⟩ := e
    by_cases hk : k' = k
    · subst hk
      simp [Sparse.get, Ne.symm h] at ih ⊢; exact ih
    · simp only [List.filter_cons, hk, ne_eq, not_false_eq_true, decide_true, if_true, Sparse.get]
      simp at ih ⊢
      rw [ih]

section
variable [DecidableEq β]

/-- A read of a written key gives the value written. -/
@[simp] theorem Sparse.get_set_same (d : Nat → β) (m : List (Nat × β)) (k : Nat) (v : β) :
    Sparse.get d (Sparse.set d m k v) k = v := by
  unfold Sparse.set
  split
  · rename_i h
    rw [Sparse.get_without_same, h]
  · simp

/-- A write leaves every other key alone. -/
theorem Sparse.get_set_other (d : Nat → β) (m : List (Nat × β)) (k j : Nat) (v : β) (h : j ≠ k) :
    Sparse.get d (Sparse.set d m k v) j = Sparse.get d m j := by
  unfold Sparse.set
  split
  · exact Sparse.get_without_other d m k j h
  · exact Sparse.get_insert_other d m k j v h

/-! ### The canonical form -/

theorem Sparse.wf_iff (d : Nat → β) (m : List (Nat × β)) :
    Sparse.wf d m = true ↔ m.Pairwise (fun a b => a.1 < b.1) ∧ ∀ e ∈ m, e.2 ≠ d e.1 := by
  induction m with
  | nil => simp [Sparse.wf]
  | cons e r ih =>
    obtain ⟨k, v⟩ := e
    cases r with
    | nil => simp [Sparse.wf]
    | cons e' r' =>
      obtain ⟨k', v'⟩ := e'
      simp only [Sparse.wf, Bool.and_eq_true, decide_eq_true_eq, ih, List.pairwise_cons, List.mem_cons]
      constructor
      · rintro ⟨⟨h1, h2⟩, ⟨h3, h4⟩, h5⟩
        refine ⟨⟨?_, h3, h4⟩, ?_⟩
        · rintro a (rfl | ha)
          · exact h1
          · exact Nat.lt_trans h1 (h3 a ha)
        · rintro a (rfl | ha)
          · exact h2
          · exact h5 a ha
      · rintro ⟨⟨h1, h3, h4⟩, h5⟩
        exact ⟨⟨h1 (k', v') (Or.inl rfl), h5 (k, v) (Or.inl rfl)⟩, ⟨h3, h4⟩, fun a ha => h5 a (Or.inr ha)⟩

/-- Entries removed leave the form. -/
theorem Sparse.wf_filter (d : Nat → β) (m : List (Nat × β)) (p : Nat × β → Bool) (h : Sparse.wf d m = true) :
    Sparse.wf d (m.filter p) = true := by
  rw [Sparse.wf_iff] at h ⊢
  exact ⟨h.1.filter p, fun e he => h.2 e ((List.mem_filter.1 he).1)⟩

omit [DecidableEq β] in
theorem Sparse.mem_insert (m : List (Nat × β)) (k : Nat) (v : β) (e : Nat × β) (h : e ∈ Sparse.insert m k v) :
    e = (k, v) ∨ e ∈ m := by
  induction m with
  | nil => simp [Sparse.insert] at h; exact Or.inl h
  | cons a r ih =>
    obtain ⟨k', v'⟩ := a
    simp only [Sparse.insert] at h
    split at h
    · simpa only [List.mem_cons] using h
    · split at h
      · simp only [List.mem_cons] at h ⊢
        exact h.imp_right Or.inr
      · simp only [List.mem_cons] at h ⊢
        rcases h with h | h
        · exact Or.inr (Or.inl h)
        · rcases ih h with h | h
          · exact Or.inl h
          · exact Or.inr (Or.inr h)

omit [DecidableEq β] in
theorem Sparse.sorted_insert (m : List (Nat × β)) (k : Nat) (v : β) (h : m.Pairwise (fun a b => a.1 < b.1)) :
    (Sparse.insert m k v).Pairwise (fun a b => a.1 < b.1) := by
  induction m with
  | nil => simp [Sparse.insert]
  | cons a r ih =>
    obtain ⟨k', v'⟩ := a
    rw [List.pairwise_cons] at h
    simp only [Sparse.insert]
    split
    · rename_i hk
      rw [List.pairwise_cons, List.pairwise_cons]
      refine ⟨?_, h⟩
      intro e he
      rcases List.mem_cons.1 he with rfl | he
      · exact hk
      · exact Nat.lt_trans hk (h.1 e he)
    · split
      · rename_i h1 h2
        subst h2
        exact List.pairwise_cons.2 ⟨h.1, h.2⟩
      · rename_i h1 h2
        refine List.pairwise_cons.2 ⟨?_, ih h.2⟩
        intro e he
        rcases Sparse.mem_insert r k v e he with rfl | he
        · simp only; omega
        · exact h.1 e he

/-- A write keeps the form. -/
theorem Sparse.wf_set (d : Nat → β) (m : List (Nat × β)) (k : Nat) (v : β) (h : Sparse.wf d m = true) :
    Sparse.wf d (Sparse.set d m k v) = true := by
  unfold Sparse.set
  split
  · exact Sparse.wf_filter d m _ h
  · rename_i hv
    rw [Sparse.wf_iff] at h ⊢
    refine ⟨Sparse.sorted_insert m k v h.1, ?_⟩
    intro e he
    rcases Sparse.mem_insert m k v e he with rfl | he
    · exact hv
    · exact h.2 e he

/-- A range removed keeps the form. -/
theorem Sparse.wf_drop (d : Nat → β) (m : List (Nat × β)) (lo hi : Nat) (h : Sparse.wf d m = true) :
    Sparse.wf d (Sparse.drop m lo hi) = true := Sparse.wf_filter d m _ h

/-- The form with another default, where the two agree on the entries. -/
theorem Sparse.wf_congr (d d' : Nat → β) (m : List (Nat × β)) (h : Sparse.wf d m = true)
    (hd : ∀ e ∈ m, d' e.1 = d e.1) : Sparse.wf d' m = true := by
  rw [Sparse.wf_iff] at h ⊢
  exact ⟨h.1, fun e he => by rw [hd e he]; exact h.2 e he⟩

end

end Sys2Proof.Machine
end

