-- ==== Sys2Proof/Laws/Memory.lean ====
section
/-!
SUPPORT. Laws of the byte memory: a read after a write, and that every memory operation keeps the canonical form.
-/

namespace Sys2Proof.Machine

/-! ### One byte -/

@[simp] theorem MemState.setByte_lost (m : MemState) (a : Nat) (b : Byte) : (m.setByte a b).lost = m.lost := rfl
@[simp] theorem MemState.setByte_ecc (m : MemState) (a : Nat) (b : Byte) : (m.setByte a b).ecc = m.ecc := rfl
@[simp] theorem MemState.setEcc_cells (m : MemState) (w v : Nat) : (m.setEcc w v).cells = m.cells := rfl
@[simp] theorem MemState.setEcc_lost (m : MemState) (w v : Nat) : (m.setEcc w v).lost = m.lost := rfl

@[simp] theorem MemState.byte_setByte_same (m : MemState) (a : Nat) (b : Byte) : (m.setByte a b).byte a = b := by
  simp [MemState.byte, MemState.setByte]

theorem MemState.byte_setByte_other (m : MemState) (a j : Nat) (b : Byte) (h : j ≠ a) :
    (m.setByte a b).byte j = m.byte j := by
  simp [MemState.byte, MemState.setByte, Sparse.get_set_other _ _ _ _ _ h]

@[simp] theorem MemState.byte_setEcc (m : MemState) (w v j : Nat) : (m.setEcc w v).byte j = m.byte j := rfl

theorem MemState.wf_setByte (m : MemState) (a : Nat) (b : Byte) (h : m.wf = true) : (m.setByte a b).wf = true :=
  Sparse.wf_set _ _ _ _ h

@[simp] theorem MemState.wf_setEcc (m : MemState) (w v : Nat) : (m.setEcc w v).wf = m.wf := rfl

/-! ### Several bytes -/

theorem MemState.byte_setBytes_out (bs : List Byte) : ∀ (m : MemState) (a j : Nat),
    (j < a ∨ a + bs.length ≤ j) → (m.setBytes a bs).byte j = m.byte j := by
  induction bs with
  | nil => intro m a j _; rfl
  | cons b r ih =>
    intro m a j h
    simp only [MemState.setBytes, List.length_cons] at h ⊢
    rw [ih _ _ _ (by omega), MemState.byte_setByte_other _ _ _ _ (by omega)]

theorem MemState.byte_setBytes_in (bs : List Byte) : ∀ (m : MemState) (a i : Nat),
    (h : i < bs.length) → (m.setBytes a bs).byte (a + i) = bs[i] := by
  induction bs with
  | nil => intro m a i h; exact absurd h (Nat.not_lt_zero i)
  | cons b r ih =>
    intro m a i h
    cases i with
    | zero =>
      simp only [MemState.setBytes, Nat.add_zero, List.getElem_cons_zero]
      rw [MemState.byte_setBytes_out r _ _ _ (by omega), MemState.byte_setByte_same]
    | succ i =>
      have := ih (m.setByte a b) (a + 1) i (by simpa using h)
      simp only [MemState.setBytes, List.getElem_cons_succ]
      rw [← this]
      congr 1
      omega

theorem MemState.wf_setBytes (bs : List Byte) : ∀ (m : MemState) (a : Nat), m.wf = true → (m.setBytes a bs).wf = true := by
  induction bs with
  | nil => intro m a h; exact h
  | cons b r ih => intro m a h; exact ih _ _ (MemState.wf_setByte m a b h)

/-! ### Contents lost -/

/-- A region's contents lost keeps the form. -/
theorem MemState.wf_lose (m : MemState) (lo hi : Nat) (h : m.wf = true) : (m.lose lo hi).wf = true := by
  have h1 := Sparse.wf_drop (memDflt m.lost) m.cells lo hi h
  refine Sparse.wf_congr _ _ _ h1 ?_
  intro e he
  have hm := (List.mem_filter.1 he).2
  have hout : ¬ (lo ≤ e.1 ∧ e.1 < hi) := by
    simp only [Bool.or_eq_true, decide_eq_true_eq] at hm
    omega
  have hb : (decide (lo ≤ e.1) && decide (e.1 < hi)) = false := by
    rw [Bool.and_eq_false_iff]
    by_cases h2 : lo ≤ e.1
    · right; simp; omega
    · left; simp; omega
  simp only [MemState.lose, memDflt, List.find?_cons, hb]

/-! ### The state's memory operations -/

/-- Check bits set word by word change no byte. -/
theorem foldl_setEcc_cells (l : List Nat) : ∀ m : MemState,
    (l.foldl (fun m w => m.setEcc w 0) m).cells = m.cells ∧ (l.foldl (fun m w => m.setEcc w 0) m).lost = m.lost := by
  induction l with
  | nil => intro m; exact ⟨rfl, rfl⟩
  | cons w r ih => intro m; exact ih (m.setEcc w 0)

theorem State.clearEcc_byte (s : State) (a n j : Nat) : (s.clearEcc a n).mem.byte j = s.mem.byte j := by
  have h := foldl_setEcc_cells (wordsOf a n) s.mem
  simp [State.clearEcc, MemState.byte, h.1, h.2]

theorem State.clearEcc_wf (s : State) (a n : Nat) : (s.clearEcc a n).mem.wf = s.mem.wf := by
  have h := foldl_setEcc_cells (wordsOf a n) s.mem
  simp [State.clearEcc, MemState.wf, h.1, h.2]

/-- A write stores its bytes, -/
theorem State.writeClaimed_byte_in (s : State) (a : Nat) (bs : List Byte) (i : Nat) (h : i < bs.length) :
    (s.writeClaimed a bs).mem.byte (a + i) = bs[i] := by
  rw [State.writeClaimed, State.clearEcc_byte]
  exact MemState.byte_setBytes_in bs s.mem a i h

/-- leaves every other byte, -/
theorem State.writeClaimed_byte_out (s : State) (a : Nat) (bs : List Byte) (j : Nat) (h : j < a ∨ a + bs.length ≤ j) :
    (s.writeClaimed a bs).mem.byte j = s.mem.byte j := by
  rw [State.writeClaimed, State.clearEcc_byte]
  exact MemState.byte_setBytes_out bs s.mem a j h

/-- and keeps the canonical form. -/
theorem State.writeClaimed_wf (s : State) (a : Nat) (bs : List Byte) (h : s.mem.wf = true) :
    (s.writeClaimed a bs).mem.wf = true := by
  rw [State.writeClaimed, State.clearEcc_wf]
  exact MemState.wf_setBytes bs s.mem a h

@[simp] theorem State.setReg_mem (s : State) (a : Nat) (v : Word) : (s.setReg a v).mem = s.mem := rfl

/-- What a narrow write does to the bytes is what a write does. -/
theorem State.writeNarrow_byte (s : State) (a : Nat) (bs : List Byte) (j : Nat) :
    (s.writeNarrow a bs).mem.byte j = (s.writeClaimed a bs).mem.byte j := by
  unfold State.writeNarrow
  simp only
  split
  · rfl
  · split
    · rfl
    · rfl

theorem State.writeNarrow_wf (s : State) (a : Nat) (bs : List Byte) (h : s.mem.wf = true) :
    (s.writeNarrow a bs).mem.wf = true := by
  have hw := State.writeClaimed_wf s a bs h
  unfold State.writeNarrow
  simp only
  split
  · exact hw
  · split
    · exact hw
    · exact hw

theorem State.sramWrite_byte (s : State) (k : Option (Fin 4)) (a : Nat) (bs : List Byte) (j : Nat) :
    (s.sramWrite k a bs).mem.byte j = (s.writeClaimed a bs).mem.byte j := rfl

theorem State.sramWrite_wf (s : State) (k : Option (Fin 4)) (a : Nat) (bs : List Byte) (h : s.mem.wf = true) :
    (s.sramWrite k a bs).mem.wf = true := State.writeClaimed_wf s a bs h

/-- Reset memory has the canonical form. -/
theorem State.reset_mem_wf : State.reset.mem.wf = true := rfl

end Sys2Proof.Machine
end

