-- ==== Sys2Proof/Laws/Keeps.lean ====
section
/-!
SUPPORT. What every operation of the block keeps: the queue, the canonical forms of memory, registers and flash, the
debug fuse, and the rule that a blown fuse leaves no scope. `Keeps s t` says it of a state t reached from s; one lemma
for each operation, in the files named after the model's, says that the operation keeps it.
-/

namespace Sys2Proof.Machine

/-- The flash is in its canonical form. -/
def State.flashWf (s : State) : Prop := Sparse.wf (fun _ => Config.flashFill) s.milk.flash = true

/-- What a run of operations from s to t keeps. -/
structure Keeps (s t : State) : Prop where
  queue : t.pending = s.pending
  mem : s.mem.wf = true → t.mem.wf = true
  regs : Sparse.wf regReset s.regs = true → Sparse.wf regReset t.regs = true
  flash : s.flashWf → t.flashWf
  fuse : s.milk.dbgFuse = true → t.milk.dbgFuse = true
  locked : (s.milk.dbgFuse = true → s.milk.scope = 0) → (t.milk.dbgFuse = true → t.milk.scope = 0)

theorem Keeps.refl (s : State) : Keeps s s := ⟨rfl, id, id, id, id, id⟩

theorem Keeps.trans {s t u : State} (a : Keeps s t) (b : Keeps t u) : Keeps s u :=
  ⟨b.queue.trans a.queue, b.mem ∘ a.mem, b.regs ∘ a.regs, b.flash ∘ a.flash, b.fuse ∘ a.fuse, b.locked ∘ a.locked⟩

/-- An update of parts that `Keeps` does not speak of. -/
theorem Keeps.upd {s x t : State} (h : Keeps s x) (hp : t.pending = x.pending) (hc : t.mem.cells = x.mem.cells)
    (hl : t.mem.lost = x.mem.lost) (hr : t.regs = x.regs) (hf : t.milk.flash = x.milk.flash)
    (hd : t.milk.dbgFuse = x.milk.dbgFuse) (hs : t.milk.scope = x.milk.scope) : Keeps s t :=
  h.trans ⟨hp, by simp only [MemState.wf, hc, hl]; exact id, by simp only [hr]; exact id,
    by simp only [State.flashWf, hf]; exact id, by simp only [hd]; exact id, by simp only [hd, hs]; exact id⟩

theorem Keeps.ite {s a b : State} {c : Prop} [Decidable c] (ha : Keeps s a) (hb : Keeps s b) : Keeps s (if c then a else b) := by
  split <;> assumption

theorem Keeps.ite1 {α : Type} {s : State} {a b : State × α} {c : Prop} [Decidable c] (ha : Keeps s a.1) (hb : Keeps s b.1) :
    Keeps s (if c then a else b).1 := by
  split <;> assumption

/-- The state in a pair that a function answered. -/
theorem Keeps.of_eq {α : Type} {s a : State} {v : State × α} {b : α} (e : v = (a, b)) (h : Keeps s v.1) : Keeps s a := by
  subst e; exact h

theorem Keeps.foldl {α : Type} {s a : State} {f : State → α → State} {l : List α} (h : Keeps s a)
    (hf : ∀ y x, Keeps s y → Keeps s (f y x)) : Keeps s (l.foldl f a) := by
  induction l generalizing a with
  | nil => exact h
  | cons x r ih => exact ih (hf a x h)

theorem Keeps.foldl1 {α β : Type} {s : State} {a : State × β} {f : State × β → α → State × β} {l : List α} (h : Keeps s a.1)
    (hf : ∀ y x, Keeps s y.1 → Keeps s (f y x).1) : Keeps s (l.foldl f a).1 := by
  induction l generalizing a with
  | nil => exact h
  | cons x r ih => exact ih (hf a x h)

/-- An update of memory that keeps its form. -/
theorem Keeps.updMem {s x t : State} (h : Keeps s x) (hp : t.pending = x.pending) (hm : x.mem.wf = true → t.mem.wf = true)
    (hr : t.regs = x.regs) (hf : t.milk.flash = x.milk.flash)
    (hd : t.milk.dbgFuse = x.milk.dbgFuse) (hs : t.milk.scope = x.milk.scope) : Keeps s t :=
  h.trans ⟨hp, hm, by simp only [hr]; exact id,
    by simp only [State.flashWf, hf]; exact id, by simp only [hd]; exact id, by simp only [hd, hs]; exact id⟩

/-- An update of registers that keeps their form. -/
theorem Keeps.updRegs {s x t : State} (h : Keeps s x) (hp : t.pending = x.pending) (hm : t.mem = x.mem)
    (hr : Sparse.wf regReset x.regs = true → Sparse.wf regReset t.regs = true) (hk : t.milk = x.milk) : Keeps s t :=
  h.trans ⟨hp, by simp only [hm]; exact id, hr, by simp only [State.flashWf, hk]; exact id, by simp only [hk]; exact id,
    by simp only [hk]; exact id⟩

/-! ### Updates of the parts that `Keeps` does not speak of, whole or within memory and Milkhouse -/

theorem Keeps.updTop {s₀ x : State} {ck : Nat} {fck : Nat} {tickF : Nat} {frameF : Word} {round : Nat} {free : Nat}
    {out : List Out} {mesh : Mesh} {sync : SyncState} {tiles : Vector Tile 64} {tick : TickState} {now : CkNotes}
    {plan : PlanState} {staged : Staged} {errs : List ErrRec} {bellMsgs : List Nat} {faultSeen : List Nat}
    {faultedWindow : BitVec 64} {variantFault : Bool} {err : ErrState} {host : HostState} {ladle : LadleState} {accs :
    List Acc} {cacheWork : CacheWork} {stew : Vector Steward 4} {bells : BellState} {dbg : DbgState} {power :
    PowerState} {scan : ScanState} (h : Keeps s₀ x) : Keeps s₀ (State.mk x.pending ck fck tickF frameF round free out
    x.regs x.mem mesh sync tiles tick now plan staged errs bellMsgs faultSeen faultedWindow variantFault err host
    ladle accs cacheWork stew bells dbg x.milk power scan) :=
  h.upd rfl rfl rfl rfl rfl rfl rfl

theorem Keeps.updTopMem {s₀ x : State} {ck : Nat} {fck : Nat} {tickF : Nat} {frameF : Word} {round : Nat} {free : Nat}
    {out : List Out} {m_ecc : List (Nat × Nat)} {m_ports : List (Nat × List NarrowReq)} {m_banksUsed : List (Nat ×
    Nat)} {m_portsUsed : List Nat} {m_widesUsed : List (Nat × Nat)} {m_slots : List (Nat × List SlotRec)} {m_vh : List
    (Nat × Quad)} {m_cache : List CacheLine} {m_cacheNext : Option Nat} {m_trackers : List (Nat × List Track)}
    {m_posted : List (Nat × Nat × Nat)} {m_repairs : List (Nat × Nat × Nat × Nat)} {m_rowMaps : List (Nat × Nat × Nat
    × Nat)} {mesh : Mesh} {sync : SyncState} {tiles : Vector Tile 64} {tick : TickState} {now : CkNotes} {plan :
    PlanState} {staged : Staged} {errs : List ErrRec} {bellMsgs : List Nat} {faultSeen : List Nat} {faultedWindow :
    BitVec 64} {variantFault : Bool} {err : ErrState} {host : HostState} {ladle : LadleState} {accs : List Acc}
    {cacheWork : CacheWork} {stew : Vector Steward 4} {bells : BellState} {dbg : DbgState} {power : PowerState} {scan
    : ScanState} (h : Keeps s₀ x) : Keeps s₀ (State.mk x.pending ck fck tickF frameF round free out x.regs
    (MemState.mk x.mem.cells x.mem.lost m_ecc m_ports m_banksUsed m_portsUsed m_widesUsed m_slots m_vh m_cache
    m_cacheNext m_trackers m_posted m_repairs m_rowMaps) mesh sync tiles tick now plan staged errs bellMsgs faultSeen
    faultedWindow variantFault err host ladle accs cacheWork stew bells dbg x.milk power scan) :=
  h.upd rfl rfl rfl rfl rfl rfl rfl

theorem Keeps.updTopMilk {s₀ x : State} {ck : Nat} {fck : Nat} {tickF : Nat} {frameF : Word} {round : Nat} {free :
    Nat} {out : List Out} {mesh : Mesh} {sync : SyncState} {tiles : Vector Tile 64} {tick : TickState} {now : CkNotes}
    {plan : PlanState} {staged : Staged} {errs : List ErrRec} {bellMsgs : List Nat} {faultSeen : List Nat}
    {faultedWindow : BitVec 64} {variantFault : Bool} {err : ErrState} {host : HostState} {ladle : LadleState} {accs :
    List Acc} {cacheWork : CacheWork} {stew : Vector Steward 4} {bells : BellState} {dbg : DbgState} {k_aon : Bool}
    {k_testEn : Bool} {k_vddioSb : Bool} {k_aonPll : Bool} {k_rom : Bool} {k_enMain : Bool} {k_pgCore : Bool} {k_pgMem
    : Bool} {k_settings : Settings} {k_settled : Bool} {k_repairApplied : Nat} {k_repairSkipped : Nat} {k_bootSel :
    Nat} {k_flashSize : Nat} {k_flashOpen : Bool} {k_flashWait : Bool} {k_sbOp : Option (Nat × List Byte)}
    {k_bootReads : Bool} {k_log : List (Nat × BitVec 256)} {k_logPos : Nat} {k_logLost : Nat} {k_ownSeq : Nat}
    {k_alerts : BitVec 5} {k_alertSeen : BitVec 5} {k_response : Option (Nat × List Byte)} {k_nonce : Option (List
    Byte)} {k_authFail : Nat} {k_jtagResult : Nat} {k_recovery : Option (Nat × Nat)} {k_faultLow : Bool} {k_holdOff :
    Bool} {k_repairCands : List Word} {k_kick : Vector Nat 4} {k_tickTime : Nat} {k_ir : Nat} {k_bsr : BitVec 89}
    {k_stateAddr : Nat} {k_accData : Word} {k_accStatus : Nat} {power : PowerState} {scan : ScanState} (h : Keeps s₀
    x) : Keeps s₀ (State.mk x.pending ck fck tickF frameF round free out x.regs x.mem mesh sync tiles tick now plan
    staged errs bellMsgs faultSeen faultedWindow variantFault err host ladle accs cacheWork stew bells dbg
    (MilkState.mk k_aon k_testEn k_vddioSb k_aonPll k_rom k_enMain k_pgCore k_pgMem k_settings k_settled
    x.milk.dbgFuse k_repairApplied k_repairSkipped k_bootSel x.milk.flash k_flashSize k_flashOpen k_flashWait k_sbOp
    k_bootReads k_log k_logPos k_logLost k_ownSeq k_alerts k_alertSeen k_response k_nonce x.milk.scope k_authFail
    k_jtagResult k_recovery k_faultLow k_holdOff k_repairCands k_kick k_tickTime k_ir k_bsr k_stateAddr k_accData
    k_accStatus) power scan) :=
  h.upd rfl rfl rfl rfl rfl rfl rfl

theorem Keeps.updTopBoth {s₀ x : State} {ck : Nat} {fck : Nat} {tickF : Nat} {frameF : Word} {round : Nat} {free :
    Nat} {out : List Out} {m_ecc : List (Nat × Nat)} {m_ports : List (Nat × List NarrowReq)} {m_banksUsed : List (Nat
    × Nat)} {m_portsUsed : List Nat} {m_widesUsed : List (Nat × Nat)} {m_slots : List (Nat × List SlotRec)} {m_vh :
    List (Nat × Quad)} {m_cache : List CacheLine} {m_cacheNext : Option Nat} {m_trackers : List (Nat × List Track)}
    {m_posted : List (Nat × Nat × Nat)} {m_repairs : List (Nat × Nat × Nat × Nat)} {m_rowMaps : List (Nat × Nat × Nat
    × Nat)} {mesh : Mesh} {sync : SyncState} {tiles : Vector Tile 64} {tick : TickState} {now : CkNotes} {plan :
    PlanState} {staged : Staged} {errs : List ErrRec} {bellMsgs : List Nat} {faultSeen : List Nat} {faultedWindow :
    BitVec 64} {variantFault : Bool} {err : ErrState} {host : HostState} {ladle : LadleState} {accs : List Acc}
    {cacheWork : CacheWork} {stew : Vector Steward 4} {bells : BellState} {dbg : DbgState} {k_aon : Bool} {k_testEn :
    Bool} {k_vddioSb : Bool} {k_aonPll : Bool} {k_rom : Bool} {k_enMain : Bool} {k_pgCore : Bool} {k_pgMem : Bool}
    {k_settings : Settings} {k_settled : Bool} {k_repairApplied : Nat} {k_repairSkipped : Nat} {k_bootSel : Nat}
    {k_flashSize : Nat} {k_flashOpen : Bool} {k_flashWait : Bool} {k_sbOp : Option (Nat × List Byte)} {k_bootReads :
    Bool} {k_log : List (Nat × BitVec 256)} {k_logPos : Nat} {k_logLost : Nat} {k_ownSeq : Nat} {k_alerts : BitVec 5}
    {k_alertSeen : BitVec 5} {k_response : Option (Nat × List Byte)} {k_nonce : Option (List Byte)} {k_authFail : Nat}
    {k_jtagResult : Nat} {k_recovery : Option (Nat × Nat)} {k_faultLow : Bool} {k_holdOff : Bool} {k_repairCands :
    List Word} {k_kick : Vector Nat 4} {k_tickTime : Nat} {k_ir : Nat} {k_bsr : BitVec 89} {k_stateAddr : Nat}
    {k_accData : Word} {k_accStatus : Nat} {power : PowerState} {scan : ScanState} (h : Keeps s₀ x) : Keeps s₀
    (State.mk x.pending ck fck tickF frameF round free out x.regs (MemState.mk x.mem.cells x.mem.lost m_ecc m_ports
    m_banksUsed m_portsUsed m_widesUsed m_slots m_vh m_cache m_cacheNext m_trackers m_posted m_repairs m_rowMaps) mesh
    sync tiles tick now plan staged errs bellMsgs faultSeen faultedWindow variantFault err host ladle accs cacheWork
    stew bells dbg (MilkState.mk k_aon k_testEn k_vddioSb k_aonPll k_rom k_enMain k_pgCore k_pgMem k_settings
    k_settled x.milk.dbgFuse k_repairApplied k_repairSkipped k_bootSel x.milk.flash k_flashSize k_flashOpen
    k_flashWait k_sbOp k_bootReads k_log k_logPos k_logLost k_ownSeq k_alerts k_alertSeen k_response k_nonce
    x.milk.scope k_authFail k_jtagResult k_recovery k_faultLow k_holdOff k_repairCands k_kick k_tickTime k_ir k_bsr
    k_stateAddr k_accData k_accStatus) power scan) :=
  h.upd rfl rfl rfl rfl rfl rfl rfl

/-! ### The writers -/

theorem State.setReg_keeps {s₀ s : State} {a : Nat} {v : Word} (h : Keeps s₀ s) : Keeps s₀ (s.setReg a v) :=
  h.updRegs rfl rfl (fun k => Sparse.wf_set _ _ _ _ k) rfl

theorem State.resetRegs_keeps {s₀ s : State} {lo hi : Nat} (h : Keeps s₀ s) : Keeps s₀ (s.resetRegs lo hi) :=
  h.updRegs rfl rfl (fun k => Sparse.wf_drop _ _ _ _ k) rfl

theorem State.clearEcc_keeps {s₀ s : State} {a n : Nat} (h : Keeps s₀ s) : Keeps s₀ (s.clearEcc a n) :=
  h.updMem rfl (by rw [State.clearEcc_wf]; exact id) rfl rfl rfl rfl

theorem State.writeClaimed_keeps {s₀ s : State} {a : Nat} {bs : List Byte} (h : Keeps s₀ s) : Keeps s₀ (s.writeClaimed a bs) :=
  h.updMem rfl (State.writeClaimed_wf s a bs) rfl rfl rfl rfl

end Sys2Proof.Machine
end

