-- ==== Sys2Proof/Laws/KeepsOps.lean ====
section
/-!
SUPPORT. What the operations of Machine/Ops.lean keep (Laws/Keeps.lean).
-/

namespace Sys2Proof.Machine

theorem State.modReg_keeps {s₀ : State} {s : State} {a : Nat} {f : Word → Word} (hK : Keeps s₀ s) :
    Keeps s₀ (State.modReg s a f) := by
  unfold State.modReg
  repeat' first
    | intro _ | with_reducible exact hK | with_reducible assumption | with_reducible exact Keeps.refl _
    | with_reducible apply State.setReg_keeps

theorem State.satReg_keeps {s₀ : State} {s : State} {a : Nat} {n : Nat} (hK : Keeps s₀ s) :
    Keeps s₀ (State.satReg s a n) := by
  unfold State.satReg
  repeat' first
    | intro _ | with_reducible exact hK | with_reducible assumption | with_reducible exact Keeps.refl _
    | with_reducible apply State.modReg_keeps

theorem State.incReg_keeps {s₀ : State} {s : State} {a : Nat} {n : Nat} (hK : Keeps s₀ s) :
    Keeps s₀ (State.incReg s a n) := by
  unfold State.incReg
  repeat' first
    | intro _ | with_reducible exact hK | with_reducible assumption | with_reducible exact Keeps.refl _
    | with_reducible apply State.modReg_keeps

theorem State.noteSet_keeps {s₀ : State} {s : State} {a : Nat} {m : Word} (hK : Keeps s₀ s) :
    Keeps s₀ (State.noteSet s a m) := by
  unfold State.noteSet
  repeat' first
    | intro _ | with_reducible exact hK | with_reducible assumption | with_reducible exact Keeps.refl _
    | with_reducible apply Keeps.updTop

theorem State.noteWrite_keeps {s₀ : State} {s : State} {code a : Nat} (hK : Keeps s₀ s) :
    Keeps s₀ (State.noteWrite s code a) := by
  unfold State.noteWrite
  repeat' first
    | intro _ | with_reducible exact hK | with_reducible assumption | with_reducible exact Keeps.refl _
    | with_reducible apply Keeps.ite | split | (refine Keeps.of_eq (by assumption) ?_) | (dsimp only; split)
    | with_reducible apply Keeps.updTop

theorem State.unnote_keeps {s₀ : State} {s : State} {code a : Nat} (hK : Keeps s₀ s) :
    Keeps s₀ (State.unnote s code a) := by
  unfold State.unnote
  repeat' first
    | intro _ | with_reducible exact hK | with_reducible assumption | with_reducible exact Keeps.refl _
    | with_reducible apply Keeps.ite | split | (refine Keeps.of_eq (by assumption) ?_) | (dsimp only; split)
    | with_reducible apply Keeps.updTop

theorem State.hwReg_keeps {s₀ : State} {s : State} {a : Nat} {v : Word} (hK : Keeps s₀ s) :
    Keeps s₀ (State.hwReg s a v) := by
  unfold State.hwReg
  repeat' first
    | intro _ | with_reducible exact hK | with_reducible assumption | with_reducible exact Keeps.refl _
    | with_reducible apply State.setReg_keeps | with_reducible apply Keeps.ite | split
    | (refine Keeps.of_eq (by assumption) ?_) | (dsimp only; split)

theorem State.orReg_keeps {s₀ : State} {s : State} {a : Nat} {m : Word} (hK : Keeps s₀ s) :
    Keeps s₀ (State.orReg s a m) := by
  unfold State.orReg
  repeat' first
    | intro _ | with_reducible exact hK | with_reducible assumption | with_reducible exact Keeps.refl _
    | with_reducible apply State.modReg_keeps | with_reducible apply State.noteSet_keeps

theorem State.clrReg_keeps {s₀ : State} {s : State} {a : Nat} {m : Word} (hK : Keeps s₀ s) :
    Keeps s₀ (State.clrReg s a m) := by
  unfold State.clrReg
  repeat' first
    | intro _ | with_reducible exact hK | with_reducible assumption | with_reducible exact Keeps.refl _
    | with_reducible apply State.modReg_keeps

theorem State.fresh_keeps {s₀ : State} {s : State} (hK : Keeps s₀ s) :
    Keeps s₀ (State.fresh s).2 := by
  unfold State.fresh
  repeat' first
    | intro _ | with_reducible exact hK | with_reducible assumption | with_reducible exact Keeps.refl _
    | with_reducible apply Keeps.updTop

theorem State.setTile_keeps {s₀ : State} {s : State} {t : TileId} {x : Tile} (hK : Keeps s₀ s) :
    Keeps s₀ (State.setTile s t x) := by
  unfold State.setTile
  repeat' first
    | intro _ | with_reducible exact hK | with_reducible assumption | with_reducible exact Keeps.refl _
    | with_reducible apply Keeps.updTop

theorem State.modTile_keeps {s₀ : State} {s : State} {t : TileId} {f : Tile → Tile} (hK : Keeps s₀ s) :
    Keeps s₀ (State.modTile s t f) := by
  unfold State.modTile
  repeat' first
    | intro _ | with_reducible exact hK | with_reducible assumption | with_reducible exact Keeps.refl _
    | with_reducible apply State.setTile_keeps

theorem State.modThr_keeps {s₀ : State} {s : State} {t : TileId} {th : ThreadId} {f : Thread → Thread} (hK : Keeps s₀ s) :
    Keeps s₀ (State.modThr s t th f) := by
  unfold State.modThr
  repeat' first
    | intro _ | with_reducible exact hK | with_reducible assumption | with_reducible exact Keeps.refl _
    | with_reducible apply State.modTile_keeps

theorem State.mapTiles_keeps {s₀ : State} {s : State} {f : TileId → Tile → Tile} (hK : Keeps s₀ s) :
    Keeps s₀ (State.mapTiles s f) := by
  unfold State.mapTiles
  repeat' first
    | intro _ | with_reducible exact hK | with_reducible assumption | with_reducible exact Keeps.refl _
    | with_reducible apply Keeps.updTop

theorem State.countNdet_keeps {s₀ : State} {s : State} {k : Fin 5} {n : Nat} (hK : Keeps s₀ s) :
    Keeps s₀ (State.countNdet s k n) := by
  unfold State.countNdet
  repeat' first
    | intro _ | with_reducible exact hK | with_reducible assumption | with_reducible exact Keeps.refl _
    | with_reducible apply Keeps.updTop

theorem State.addFlit_keeps {s₀ : State} {s : State} {f : Flit} (hK : Keeps s₀ s) :
    Keeps s₀ (State.addFlit s f) := by
  unfold State.addFlit
  repeat' first
    | intro _ | with_reducible exact hK | with_reducible assumption | with_reducible exact Keeps.refl _
    | with_reducible apply Keeps.updTop

theorem State.noteSent_keeps {s₀ : State} {s : State} {r inp : Nat} {ls : List MeshLane} (hK : Keeps s₀ s) :
    Keeps s₀ (State.noteSent s r inp ls) := by
  unfold State.noteSent
  repeat' first
    | intro _ | with_reducible exact hK | with_reducible assumption | with_reducible exact Keeps.refl _
    | with_reducible apply Keeps.updTop

theorem State.sendFrame_keeps {s₀ : State} {s : State} {body : Payload} {lane : MeshLane} {cls : SlotClass} {src dst port h : Nat} {inp : Nat} (hK : Keeps s₀ s) :
    Keeps s₀ (State.sendFrame s body lane cls src dst port h inp) := by
  unfold State.sendFrame
  repeat' first
    | intro _ | with_reducible exact hK | with_reducible assumption | with_reducible exact Keeps.refl _
    | with_reducible apply State.addFlit_keeps | with_reducible apply State.noteSent_keeps

theorem State.sendAsync_keeps {s₀ : State} {s : State} {body : Payload} {lane : MeshLane} {cls : SlotClass} {src dst port : Nat} {delay : Nat} {inp : Nat} (hK : Keeps s₀ s) :
    Keeps s₀ (State.sendAsync s body lane cls src dst port delay inp) := by
  unfold State.sendAsync
  repeat' first
    | intro _ | with_reducible exact hK | with_reducible assumption | with_reducible exact Keeps.refl _
    | with_reducible apply State.addFlit_keeps

theorem State.bellWire_keeps {s₀ : State} {s : State} {n : Nat} (hK : Keeps s₀ s) :
    Keeps s₀ (State.bellWire s n) := by
  unfold State.bellWire
  repeat' first
    | intro _ | with_reducible exact hK | with_reducible assumption | with_reducible exact Keeps.refl _
    | with_reducible apply Keeps.updTop

theorem State.bellVia_keeps {s₀ : State} {s : State} {r inp n : Nat} {value : Bool} (hK : Keeps s₀ s) :
    Keeps s₀ (State.bellVia s r inp n value) := by
  unfold State.bellVia
  repeat' first
    | intro _ | with_reducible exact hK | with_reducible assumption | with_reducible exact Keeps.refl _
    | with_reducible apply State.sendAsync_keeps | with_reducible apply State.bellWire_keeps
    | with_reducible apply Keeps.ite | split | (refine Keeps.of_eq (by assumption) ?_) | (dsimp only; split)

theorem State.bell_keeps {s₀ : State} {s : State} {n : Nat} (hK : Keeps s₀ s) :
    Keeps s₀ (State.bell s n) := by
  unfold State.bell
  repeat' first
    | intro _ | with_reducible exact hK | with_reducible assumption | with_reducible exact Keeps.refl _
    | with_reducible apply State.bellWire_keeps | with_reducible apply State.bellVia_keeps
    | with_reducible apply Keeps.ite | split | (refine Keeps.of_eq (by assumption) ?_) | (dsimp only; split)

theorem State.post_keeps {s₀ : State} {s : State} {code level unit index : Nat} {addr info : Word} (hK : Keeps s₀ s) :
    Keeps s₀ (State.post s code level unit index addr info) := by
  unfold State.post
  repeat' first
    | intro _ | with_reducible exact hK | with_reducible assumption | with_reducible exact Keeps.refl _
    | with_reducible apply Keeps.updTop

theorem State.regFault_keeps {s₀ : State} {s : State} {m : Master} {a : Nat} (hK : Keeps s₀ s) :
    Keeps s₀ (State.regFault s m a) := by
  unfold State.regFault
  repeat' first
    | intro _ | with_reducible exact hK | with_reducible assumption | with_reducible exact Keeps.refl _
    | with_reducible apply State.post_keeps

theorem State.regRefuse_keeps {s₀ : State} {s : State} {m : Master} {a : Nat} (hK : Keeps s₀ s) :
    Keeps s₀ (State.regRefuse s m a) := by
  unfold State.regRefuse
  repeat' first
    | intro _ | with_reducible exact hK | with_reducible assumption | with_reducible exact Keeps.refl _
    | with_reducible apply State.unnote_keeps | with_reducible apply State.regFault_keeps

theorem State.regGate_keeps {s₀ : State} {s : State} {m : Master} {a : Nat} {k : State → State} (hK : Keeps s₀ s) (hkk : ∀ x0, Keeps s₀ x0 → Keeps s₀ (k x0)) :
    Keeps s₀ (State.regGate s m a k) := by
  unfold State.regGate
  repeat' first
    | intro _ | with_reducible exact hK | with_reducible assumption | with_reducible exact Keeps.refl _
    | (with_reducible apply hkk) | with_reducible apply State.satReg_keeps
    | with_reducible apply State.noteWrite_keeps | with_reducible apply State.regFault_keeps
    | with_reducible apply Keeps.ite | split | (refine Keeps.of_eq (by assumption) ?_) | (dsimp only; split)

theorem State.postCandidate_keeps {s₀ : State} {s : State} {mem bank row : Nat} (hK : Keeps s₀ s) :
    Keeps s₀ (State.postCandidate s mem bank row) := by
  unfold State.postCandidate
  repeat' first
    | intro _ | with_reducible exact hK | with_reducible assumption | with_reducible exact Keeps.refl _
    | with_reducible apply State.bell_keeps | with_reducible apply State.post_keeps | with_reducible apply Keeps.ite
    | split | (refine Keeps.of_eq (by assumption) ?_) | (dsimp only; split) | with_reducible apply Keeps.updTop
    | with_reducible apply Keeps.updTopMem | with_reducible apply Keeps.updTopMilk
    | with_reducible apply Keeps.updTopBoth

theorem State.track_keeps {s₀ : State} {s : State} {mem bank row : Nat} (hK : Keeps s₀ s) :
    Keeps s₀ (State.track s mem bank row) := by
  unfold State.track
  repeat' first
    | intro _ | with_reducible exact hK | with_reducible assumption | with_reducible exact Keeps.refl _
    | with_reducible apply State.satReg_keeps | with_reducible apply State.postCandidate_keeps
    | with_reducible apply Keeps.ite | split | (refine Keeps.of_eq (by assumption) ?_) | (dsimp only; split)
    | with_reducible apply Keeps.updTop | with_reducible apply Keeps.updTopMem

theorem State.eccWord_keeps {s₀ : State} {s : State} {level wa : Nat} (hK : Keeps s₀ s) :
    Keeps s₀ (State.eccWord s level wa) := by
  unfold State.eccWord
  repeat' first
    | intro _ | with_reducible exact hK | with_reducible assumption | with_reducible exact Keeps.refl _
    | with_reducible apply State.satReg_keeps | with_reducible apply State.bell_keeps
    | with_reducible apply State.post_keeps | with_reducible apply State.postCandidate_keeps
    | with_reducible apply State.track_keeps | with_reducible apply Keeps.ite | split
    | (refine Keeps.of_eq (by assumption) ?_) | (dsimp only; split)

theorem State.readMem_keeps {s₀ : State} {s : State} {level a n : Nat} (hK : Keeps s₀ s) :
    Keeps s₀ (State.readMem s level a n).1 := by
  unfold State.readMem
  repeat' first
    | intro _ | with_reducible exact hK | with_reducible assumption | with_reducible exact Keeps.refl _
    | with_reducible apply State.eccWord_keeps | with_reducible apply Keeps.foldl | with_reducible apply Keeps.foldl1

theorem State.sramWrite_keeps {s₀ : State} {s : State} {k : Option (Fin 4)} {a : Nat} {bs : List Byte} (hK : Keeps s₀ s) :
    Keeps s₀ (State.sramWrite s k a bs) := by
  unfold State.sramWrite
  repeat' first
    | intro _ | with_reducible exact hK | with_reducible assumption | with_reducible exact Keeps.refl _
    | with_reducible apply State.writeClaimed_keeps | with_reducible apply Keeps.ite | split
    | (refine Keeps.of_eq (by assumption) ?_) | (dsimp only; split) | with_reducible apply Keeps.updTop

theorem State.writeNarrow_keeps {s₀ : State} {s : State} {a : Nat} {bs : List Byte} (hK : Keeps s₀ s) :
    Keeps s₀ (State.writeNarrow s a bs) := by
  unfold State.writeNarrow
  have h : Keeps s₀ (s.writeClaimed a bs) := State.writeClaimed_keeps hK
  dsimp only
  split
  · exact h
  · split
    · exact State.setReg_keeps (h.updMem rfl (by rw [MemState.wf_setEcc]; exact id) rfl rfl rfl rfl)
    · exact h

theorem State.useBank_keeps {s₀ : State} {s : State} {mem b : Nat} (hK : Keeps s₀ s) :
    Keeps s₀ (State.useBank s mem b) := by
  unfold State.useBank
  repeat' first
    | intro _ | with_reducible exact hK | with_reducible assumption | with_reducible exact Keeps.refl _
    | with_reducible apply Keeps.updTop | with_reducible apply Keeps.updTopMem

theorem State.useWide_keeps {s₀ : State} {s : State} {mem dir b : Nat} (hK : Keeps s₀ s) :
    Keeps s₀ (State.useWide s mem dir b) := by
  unfold State.useWide
  repeat' first
    | intro _ | with_reducible exact hK | with_reducible assumption | with_reducible exact Keeps.refl _
    | with_reducible apply State.useBank_keeps | with_reducible apply Keeps.ite | split
    | (refine Keeps.of_eq (by assumption) ?_) | (dsimp only; split) | with_reducible apply Keeps.updTop
    | with_reducible apply Keeps.updTopMem

end Sys2Proof.Machine
end

