-- ==== Sys2Proof/Laws/KeepsLink.lean ====
section
/-!
SUPPORT. What the operations of Machine/Link.lean keep (Laws/Keeps.lean).
-/

namespace Sys2Proof.Machine

theorem State.emit_keeps {s₀ : State} {s : State} {o : Out} (hK : Keeps s₀ s) :
    Keeps s₀ (State.emit s o) := by
  unfold State.emit
  repeat' first
    | intro _ | with_reducible exact hK | with_reducible assumption | with_reducible exact Keeps.refl _
    | with_reducible apply Keeps.updTop

theorem State.setCfg_keeps {s₀ : State} {s : State} {o : Nat} {v : Word} (hK : Keeps s₀ s) :
    Keeps s₀ (State.setCfg s o v) := by
  unfold State.setCfg
  repeat' first
    | intro _ | with_reducible exact hK | with_reducible assumption | with_reducible exact Keeps.refl _
    | with_reducible apply Keeps.updTop

theorem State.aer_keeps {s₀ : State} {s : State} {b : Nat} (hK : Keeps s₀ s) :
    Keeps s₀ (State.aer s b) := by
  unfold State.aer
  repeat' first
    | intro _ | with_reducible exact hK | with_reducible assumption | with_reducible exact Keeps.refl _
    | with_reducible apply State.setCfg_keeps

theorem State.hostWriteN_keeps {s₀ : State} {s : State} {fuel a : Nat} {bs : List Byte} (hK : Keeps s₀ s) :
    Keeps s₀ (State.hostWriteN s fuel a bs) := by
  induction fuel generalizing s a bs with
  | zero => cases bs <;> exact hK
  | succ n ih =>
    cases bs with
    | nil => exact hK
    | cons b r => exact ih (State.emit_keeps hK)

theorem State.hostWrite_keeps {s₀ : State} {s : State} {a : Nat} {bs : List Byte} (hK : Keeps s₀ s) :
    Keeps s₀ (State.hostWrite s a bs) :=
  State.hostWriteN_keeps hK

theorem State.hostAnswer_keeps {s₀ : State} {s : State} {a : Nat} {bs : List Byte} (hK : Keeps s₀ s) :
    Keeps s₀ (State.hostAnswer s a bs) := by
  unfold State.hostAnswer
  repeat' first
    | intro _ | with_reducible exact hK | with_reducible assumption | with_reducible exact Keeps.refl _
    | with_reducible apply State.emit_keeps | with_reducible apply Keeps.foldl

theorem State.hostRead_keeps {s₀ : State} {s : State} {who : ReadFor} {q a n : Nat} (hK : Keeps s₀ s) :
    Keeps s₀ (State.hostRead s who q a n) := by
  unfold State.hostRead
  repeat' first
    | intro _ | with_reducible exact hK | with_reducible assumption | with_reducible exact Keeps.refl _
    | with_reducible apply State.emit_keeps | with_reducible apply Keeps.ite | with_reducible apply Keeps.ite1
    | with_reducible apply Keeps.foldl | with_reducible apply Keeps.foldl1 | split
    | (refine Keeps.of_eq (by assumption) ?_) | (dsimp only; split) | with_reducible apply Keeps.updTop

theorem State.msix_keeps {s₀ : State} {s : State} {v : Nat} (hK : Keeps s₀ s) :
    Keeps s₀ (State.msix s v) := by
  unfold State.msix
  repeat' first
    | intro _ | with_reducible exact hK | with_reducible assumption | with_reducible exact Keeps.refl _
    | with_reducible apply State.orReg_keeps | with_reducible apply State.emit_keeps | with_reducible apply Keeps.ite
    | split | (refine Keeps.of_eq (by assumption) ?_) | (dsimp only; split)

theorem State.msixFlush_keeps {s₀ : State} {s : State} (hK : Keeps s₀ s) :
    Keeps s₀ (State.msixFlush s) := by
  unfold State.msixFlush
  repeat' first
    | intro _ | with_reducible exact hK | with_reducible assumption | with_reducible exact Keeps.refl _
    | with_reducible apply State.clrReg_keeps | with_reducible apply State.emit_keeps
    | with_reducible apply State.msix_keeps | with_reducible apply Keeps.ite | with_reducible apply Keeps.foldl
    | split | (refine Keeps.of_eq (by assumption) ?_) | (dsimp only; split)

theorem State.event_keeps {s₀ : State} {s : State} {i : Nat} (hK : Keeps s₀ s) :
    Keeps s₀ (State.event s i) := by
  unfold State.event
  repeat' first
    | intro _ | with_reducible exact hK | with_reducible assumption | with_reducible exact Keeps.refl _
    | with_reducible apply State.orReg_keeps | with_reducible apply State.msix_keeps | with_reducible apply Keeps.ite
    | split | (refine Keeps.of_eq (by assumption) ?_) | (dsimp only; split)

theorem State.tickFlag_keeps {s₀ : State} {s : State} {i : Nat} (hK : Keeps s₀ s) :
    Keeps s₀ (State.tickFlag s i) := by
  unfold State.tickFlag
  repeat' first
    | intro _ | with_reducible exact hK | with_reducible assumption | with_reducible exact Keeps.refl _
    | with_reducible apply State.orReg_keeps | with_reducible apply State.event_keeps

end Sys2Proof.Machine
end

