-- ==== Sys2Proof/Laws/KeepsTileOps.lean ====
section
/-!
SUPPORT. What the operations of Machine/TileOps.lean keep (Laws/Keeps.lean).
-/

namespace Sys2Proof.Machine

theorem State.recordFault_keeps {s₀ : State} {s : State} {t : TileId} {info addr : Word} {tileLevel : Bool} (hK : Keeps s₀ s) :
    Keeps s₀ (State.recordFault s t info addr tileLevel) := by
  unfold State.recordFault
  repeat' first
    | intro _ | with_reducible exact hK | with_reducible assumption | with_reducible exact Keeps.refl _
    | with_reducible apply State.setReg_keeps | with_reducible apply Keeps.ite | split
    | (refine Keeps.of_eq (by assumption) ?_) | (dsimp only; split)

theorem State.undefBank_keeps {s₀ : State} {s : State} {t : TileId} {b : Nat} (hK : Keeps s₀ s) :
    Keeps s₀ (State.undefBank s t b) := by
  unfold State.undefBank
  repeat' first
    | intro _ | with_reducible exact hK | with_reducible assumption | with_reducible exact Keeps.refl _
    | with_reducible apply State.modTile_keeps | with_reducible apply Keeps.foldl | with_reducible apply Keeps.updTop

theorem State.variantLevel_keeps {s₀ : State} {s : State} (hK : Keeps s₀ s) :
    Keeps s₀ (State.variantLevel s) := by
  unfold State.variantLevel
  repeat' first
    | intro _ | with_reducible exact hK | with_reducible assumption | with_reducible exact Keeps.refl _
    | with_reducible apply Keeps.updTop

theorem State.fireStop_keeps {s₀ : State} {s : State} {cause after : Nat} (hK : Keeps s₀ s) :
    Keeps s₀ (State.fireStop s cause after) := by
  unfold State.fireStop
  repeat' first
    | intro _ | with_reducible exact hK | with_reducible assumption | with_reducible exact Keeps.refl _
    | with_reducible apply Keeps.ite | split | (refine Keeps.of_eq (by assumption) ?_) | (dsimp only; split)
    | with_reducible apply Keeps.updTop

theorem State.tileFault_keeps {s₀ : State} {s : State} {t : TileId} {th : Nat} {code slot pc addr : Nat} (hK : Keeps s₀ s) :
    Keeps s₀ (State.tileFault s t th code slot pc addr) := by
  unfold State.tileFault
  repeat' first
    | intro _ | with_reducible exact hK | with_reducible assumption | with_reducible exact Keeps.refl _
    | with_reducible apply State.modTile_keeps | with_reducible apply State.post_keeps
    | with_reducible apply State.recordFault_keeps | with_reducible apply State.undefBank_keeps
    | with_reducible apply State.variantLevel_keeps | with_reducible apply State.fireStop_keeps
    | with_reducible apply Keeps.ite | with_reducible apply Keeps.ite1 | with_reducible apply Keeps.foldl
    | with_reducible apply Keeps.foldl1 | split | (refine Keeps.of_eq (by assumption) ?_) | (dsimp only; split)
    | with_reducible apply Keeps.updTop

theorem State.threadFault_keeps {s₀ : State} {s : State} {t : TileId} {th : ThreadId} {code slot pc addr : Nat} (hK : Keeps s₀ s) :
    Keeps s₀ (State.threadFault s t th code slot pc addr) := by
  unfold State.threadFault
  repeat' first
    | intro _ | with_reducible exact hK | with_reducible assumption | with_reducible exact Keeps.refl _
    | with_reducible apply State.modThr_keeps | with_reducible apply State.post_keeps
    | with_reducible apply State.recordFault_keeps | with_reducible apply Keeps.updTop

theorem State.slotFault_keeps {s₀ : State} {s : State} {t : TileId} {th : ThreadId} {code slot addr : Nat} (hK : Keeps s₀ s) :
    Keeps s₀ (State.slotFault s t th code slot addr) := by
  unfold State.slotFault
  repeat' first
    | intro _ | with_reducible exact hK | with_reducible assumption | with_reducible exact Keeps.refl _
    | with_reducible apply State.tileFault_keeps | with_reducible apply State.threadFault_keeps
    | with_reducible apply Keeps.ite | split | (refine Keeps.of_eq (by assumption) ?_) | (dsimp only; split)

theorem State.absorb_keeps {s₀ : State} {s : State} {t : TileId} (hK : Keeps s₀ s) :
    Keeps s₀ (State.absorb s t) := by
  unfold State.absorb
  repeat' first
    | intro _ | with_reducible exact hK | with_reducible assumption | with_reducible exact Keeps.refl _
    | with_reducible apply State.satReg_keeps

theorem State.tileDeliver_keeps {s₀ : State} {s : State} {t : TileId} {e : Quad} {a : Nat} {bs : List Byte} {bad : List Bool} (hK : Keeps s₀ s) :
    Keeps s₀ (State.tileDeliver s t e a bs bad).1 := by
  unfold State.tileDeliver
  repeat' first
    | intro _ | with_reducible exact hK | with_reducible assumption | with_reducible exact Keeps.refl _
    | with_reducible apply State.satReg_keeps | with_reducible apply Keeps.ite | with_reducible apply Keeps.ite1
    | split | (refine Keeps.of_eq (by assumption) ?_) | (dsimp only; split)

theorem State.tileSubst_keeps {s₀ : State} {s : State} {t : TileId} {e : Quad} {a n : Nat} (hK : Keeps s₀ s) :
    Keeps s₀ (State.tileSubst s t e a n).1 := by
  unfold State.tileSubst
  repeat' first
    | intro _ | with_reducible exact hK | with_reducible assumption | with_reducible exact Keeps.refl _
    | with_reducible apply State.satReg_keeps

theorem State.tileRead_keeps {s₀ : State} {s : State} {t : TileId} {e : Quad} {a n : Nat} (hK : Keeps s₀ s) :
    Keeps s₀ (State.tileRead s t e a n).1 := by
  unfold State.tileRead
  repeat' first
    | intro _ | with_reducible exact hK | with_reducible assumption | with_reducible exact Keeps.refl _
    | with_reducible apply State.readMem_keeps | with_reducible apply State.tileDeliver_keeps

theorem State.sendBy_keeps {s₀ : State} {s : State} {frame : Bool} {body : Payload} {lane : MeshLane} {cls : SlotClass} {src dst port h : Nat} (hK : Keeps s₀ s) :
    Keeps s₀ (State.sendBy s frame body lane cls src dst port h) := by
  unfold State.sendBy
  repeat' first
    | intro _ | with_reducible exact hK | with_reducible assumption | with_reducible exact Keeps.refl _
    | with_reducible apply State.sendFrame_keeps | with_reducible apply State.sendAsync_keeps
    | with_reducible apply Keeps.ite | split | (refine Keeps.of_eq (by assumption) ?_) | (dsimp only; split)

theorem State.dropFlit_keeps {s₀ : State} {s : State} {age : Nat} (hK : Keeps s₀ s) :
    Keeps s₀ (State.dropFlit s age) := by
  unfold State.dropFlit
  repeat' first
    | intro _ | with_reducible exact hK | with_reducible assumption | with_reducible exact Keeps.refl _
    | with_reducible apply Keeps.updTop

theorem State.traceOut_keeps {s₀ : State} {s : State} {t : TileId} {mk : Nat → Word → BitVec 128} {type : Nat} {value : Word} (hK : Keeps s₀ s) :
    Keeps s₀ (State.traceOut s t mk type value) := by
  unfold State.traceOut
  repeat' first
    | intro _ | with_reducible exact hK | with_reducible assumption | with_reducible exact Keeps.refl _
    | with_reducible apply State.satReg_keeps | with_reducible apply State.modTile_keeps
    | with_reducible apply Keeps.ite | split | (refine Keeps.of_eq (by assumption) ?_) | (dsimp only; split)
    | with_reducible apply Keeps.updTop

theorem State.trace_keeps {s₀ : State} {s : State} {t : TileId} {th : ThreadId} {type obj who : Nat} {value : Word} (hK : Keeps s₀ s) :
    Keeps s₀ (State.trace s t th type obj who value) := by
  unfold State.trace
  repeat' first
    | intro _ | with_reducible exact hK | with_reducible assumption | with_reducible exact Keeps.refl _
    | with_reducible apply State.traceOut_keeps | with_reducible apply Keeps.ite | split
    | (refine Keeps.of_eq (by assumption) ?_) | (dsimp only; split)

theorem State.putSync_keeps {s₀ : State} {s : State} {o : Nat} {r : SyncCk} {who : Nat} (hK : Keeps s₀ s) :
    Keeps s₀ (State.putSync s o r who) := by
  unfold State.putSync
  repeat' first
    | intro _ | with_reducible exact hK | with_reducible assumption | with_reducible exact Keeps.refl _
    | with_reducible apply State.setReg_keeps | with_reducible apply State.modTile_keeps
    | with_reducible apply Keeps.ite | split | (refine Keeps.of_eq (by assumption) ?_) | (dsimp only; split)
    | with_reducible apply Keeps.updTop

theorem State.dropSync_keeps {s₀ : State} {s : State} {o : SyncOp} (hK : Keeps s₀ s) :
    Keeps s₀ (State.dropSync s o) := by
  unfold State.dropSync
  repeat' first
    | intro _ | with_reducible exact hK | with_reducible assumption | with_reducible exact Keeps.refl _
    | with_reducible apply State.setReg_keeps | with_reducible apply State.satReg_keeps
    | with_reducible apply Keeps.ite | split | (refine Keeps.of_eq (by assumption) ?_) | (dsimp only; split)

theorem State.applySync_keeps {s₀ : State} {s : State} {o : SyncOp} {isLocal : Bool} (hK : Keeps s₀ s) :
    Keeps s₀ (State.applySync s o isLocal) := by
  unfold State.applySync
  repeat' first
    | intro _ | with_reducible exact hK | with_reducible assumption | with_reducible exact Keeps.refl _
    | with_reducible apply State.putSync_keeps | with_reducible apply State.dropSync_keeps
    | with_reducible apply Keeps.ite | split | (refine Keeps.of_eq (by assumption) ?_) | (dsimp only; split)
    | with_reducible apply Keeps.updTop

theorem State.signalLocal_keeps {s₀ : State} {s : State} {t : TileId} {obj : Nat} {frame : Bool} {thread kind : Nat} (hK : Keeps s₀ s) :
    Keeps s₀ (State.signalLocal s t obj frame thread kind) := by
  unfold State.signalLocal
  repeat' first
    | intro _ | with_reducible exact hK | with_reducible assumption | with_reducible exact Keeps.refl _
    | with_reducible apply State.applySync_keeps

theorem State.poisonStored_keeps {s₀ : State} {s : State} {t : TileId} {h n : Nat} (hK : Keeps s₀ s) :
    Keeps s₀ (State.poisonStored s t h n) := by
  unfold State.poisonStored
  repeat' first
    | intro _ | with_reducible exact hK | with_reducible assumption | with_reducible exact Keeps.refl _
    | with_reducible apply State.satReg_keeps | with_reducible apply State.modTile_keeps
    | with_reducible apply State.sendAsync_keeps | with_reducible apply Keeps.ite | split
    | (refine Keeps.of_eq (by assumption) ?_) | (dsimp only; split) | with_reducible apply Keeps.updTop

theorem State.overdrawRec_keeps {s₀ : State} {s : State} {t : TileId} {w tot : Nat} (hK : Keeps s₀ s) :
    Keeps s₀ (State.overdrawRec s t w tot) := by
  unfold State.overdrawRec
  repeat' first
    | intro _ | with_reducible exact hK | with_reducible assumption | with_reducible exact Keeps.refl _
    | with_reducible apply State.setReg_keeps | with_reducible apply State.satReg_keeps
    | with_reducible apply Keeps.ite | split | (refine Keeps.of_eq (by assumption) ?_) | (dsimp only; split)

theorem State.drawLeave_keeps {s₀ : State} {s : State} {t : TileId} {key n c0 e : Nat} (hK : Keeps s₀ s) :
    Keeps s₀ (State.drawLeave s t key n c0 e) := by
  unfold State.drawLeave
  repeat' first
    | intro _ | with_reducible exact hK | with_reducible assumption | with_reducible exact Keeps.refl _
    | with_reducible apply State.modTile_keeps | with_reducible apply Keeps.updTop

theorem State.releaseLeave_keeps {s₀ : State} {s : State} {t : TileId} {key : Nat} (hK : Keeps s₀ s) :
    Keeps s₀ (State.releaseLeave s t key) := by
  unfold State.releaseLeave
  repeat' first
    | intro _ | with_reducible exact hK | with_reducible assumption | with_reducible exact Keeps.refl _
    | with_reducible apply State.modTile_keeps | with_reducible apply Keeps.updTop

end Sys2Proof.Machine
end

