-- ==== Sys2Proof/Laws/KeepsOperands.lean ====
section
/-!
SUPPORT. What the operations of Machine/Operands.lean keep (Laws/Keeps.lean).
-/

namespace Sys2Proof.Machine

theorem SlotOut.done_keeps {s₀ : State} {s : State} (hK : Keeps s₀ s) :
    Keeps s₀ (SlotOut.done s).st := by
  unfold SlotOut.done
  repeat' first
    | intro _ | with_reducible exact hK | with_reducible assumption | with_reducible exact Keeps.refl _

theorem SlotOut.illegal_keeps {s₀ : State} {s : State} (hK : Keeps s₀ s) :
    Keeps s₀ (SlotOut.illegal s).st := by
  unfold SlotOut.illegal
  repeat' first
    | intro _ | with_reducible exact hK | with_reducible assumption | with_reducible exact Keeps.refl _

theorem SlotOut.raise_keeps {s₀ : State} {s : State} {code addr : Nat} (hK : Keeps s₀ s) :
    Keeps s₀ (SlotOut.raise s code addr).st := by
  unfold SlotOut.raise
  repeat' first
    | intro _ | with_reducible exact hK | with_reducible assumption | with_reducible exact Keeps.refl _

theorem State.advanceDraw_keeps {s₀ : State} {s : State} {t : TileId} {th : ThreadId} {rnd n : Nat} (hK : Keeps s₀ s) :
    Keeps s₀ (State.advanceDraw s t th rnd n) := by
  unfold State.advanceDraw
  repeat' first
    | intro _ | with_reducible exact hK | with_reducible assumption | with_reducible exact Keeps.refl _
    | with_reducible apply State.modThr_keeps | with_reducible apply Keeps.ite | split
    | (refine Keeps.of_eq (by assumption) ?_) | (dsimp only; split) | with_reducible apply Keeps.updTop

theorem slotUnless_keeps {s₀ : State} {held : State → TileId → ThreadId → Thread → SlotWord → Bool} {f : SlotFn} {z0 : State} {z1 : TileId} {z2 : ThreadId} {z3 : Thread} {z4 : SlotWord} (hK : Keeps s₀ z0) (hkf : ∀ x0 x1 x2 x3 x4, Keeps s₀ x0 → Keeps s₀ (f x0 x1 x2 x3 x4).st) :
    Keeps s₀ (slotUnless held f z0 z1 z2 z3 z4).st := by
  unfold slotUnless
  repeat' first
    | intro _ | with_reducible exact hK | with_reducible assumption | with_reducible exact Keeps.refl _
    | (with_reducible apply hkf) | with_reducible apply SlotOut.done_keeps | with_reducible apply Keeps.ite | split
    | (refine Keeps.of_eq (by assumption) ?_) | (dsimp only; split)

theorem slotCommand_keeps {s₀ : State} {f : SlotFn} {slot : Nat} {t : TileId} {th : ThreadId} {w : SlotWord} {s : State} (hK : Keeps s₀ s) (hkf : ∀ x0 x1 x2 x3 x4, Keeps s₀ x0 → Keeps s₀ (f x0 x1 x2 x3 x4).st) :
    Keeps s₀ (slotCommand f slot t th w s) := by
  unfold slotCommand
  repeat' first
    | intro _ | with_reducible exact hK | with_reducible assumption | with_reducible exact Keeps.refl _
    | (with_reducible apply hkf) | with_reducible apply State.slotFault_keeps | with_reducible apply Keeps.ite | split
    | (refine Keeps.of_eq (by assumption) ?_) | (dsimp only; split)

end Sys2Proof.Machine
end

