-- ==== Sys2Proof/Laws/KeepsVector.lean ====
section
/-!
SUPPORT. What the operations of Machine/Vector.lean keep (Laws/Keeps.lean).
-/

namespace Sys2Proof.Machine

theorem State.putV_keeps {s₀ : State} {s : State} {t : TileId} {th : ThreadId} {vd w lat : Nat} {l : List (Nat × Bool)} (hK : Keeps s₀ s) :
    Keeps s₀ (State.putV s t th vd w lat l) := by
  unfold State.putV
  repeat' first
    | intro _ | with_reducible exact hK | with_reducible assumption | with_reducible exact Keeps.refl _
    | with_reducible apply State.modThr_keeps

theorem vecMap_keeps {s₀ : State} {usesD usesB : Bool} {lat : Nat} {g : VF → Word → Nat → Nat → Nat → Nat} {s : State} {t : TileId} {th : ThreadId} {y : Thread} {w : SlotWord} (hK : Keeps s₀ s) :
    Keeps s₀ (vecMap usesD usesB lat g s t th y w) := by
  unfold vecMap
  repeat' first
    | intro _ | with_reducible exact hK | with_reducible assumption | with_reducible exact Keeps.refl _
    | with_reducible apply State.putV_keeps | with_reducible apply Keeps.ite | with_reducible apply Keeps.ite1 | split
    | (refine Keeps.of_eq (by assumption) ?_) | (dsimp only; split)

theorem vSlot_keeps {s₀ : State} {legal : Bool} {n : Nat} {effect : State → State} {s : State} {t : TileId} {th : ThreadId} {y : Thread} {w : SlotWord} (hK : Keeps s₀ s) (hkeffect : ∀ x0, Keeps s₀ x0 → Keeps s₀ (effect x0)) :
    Keeps s₀ (vSlot legal n effect s t th y w).st := by
  unfold vSlot
  repeat' first
    | intro _ | with_reducible exact hK | with_reducible assumption | with_reducible exact Keeps.refl _
    | (with_reducible apply hkeffect) | with_reducible apply SlotOut.done_keeps
    | with_reducible apply SlotOut.illegal_keeps | with_reducible apply State.advanceDraw_keeps
    | with_reducible apply Keeps.ite | split | (refine Keeps.of_eq (by assumption) ?_) | (dsimp only; split)

theorem vaddSlot_keeps {s₀ : State} {z0 : State} {z1 : TileId} {z2 : ThreadId} {z3 : Thread} {z4 : SlotWord} (hK : Keeps s₀ z0) :
    Keeps s₀ (vaddSlot z0 z1 z2 z3 z4).st := by
  unfold vaddSlot
  repeat' first
    | intro _ | with_reducible exact hK | with_reducible assumption | with_reducible exact Keeps.refl _
    | with_reducible apply vecMap_keeps | with_reducible apply vSlot_keeps

theorem vsubSlot_keeps {s₀ : State} {z0 : State} {z1 : TileId} {z2 : ThreadId} {z3 : Thread} {z4 : SlotWord} (hK : Keeps s₀ z0) :
    Keeps s₀ (vsubSlot z0 z1 z2 z3 z4).st := by
  unfold vsubSlot
  repeat' first
    | intro _ | with_reducible exact hK | with_reducible assumption | with_reducible exact Keeps.refl _
    | with_reducible apply vecMap_keeps | with_reducible apply vSlot_keeps

theorem vmulSlot_keeps {s₀ : State} {z0 : State} {z1 : TileId} {z2 : ThreadId} {z3 : Thread} {z4 : SlotWord} (hK : Keeps s₀ z0) :
    Keeps s₀ (vmulSlot z0 z1 z2 z3 z4).st := by
  unfold vmulSlot
  repeat' first
    | intro _ | with_reducible exact hK | with_reducible assumption | with_reducible exact Keeps.refl _
    | with_reducible apply vecMap_keeps | with_reducible apply vSlot_keeps

theorem vmulhSlot_keeps {s₀ : State} {z0 : State} {z1 : TileId} {z2 : ThreadId} {z3 : Thread} {z4 : SlotWord} (hK : Keeps s₀ z0) :
    Keeps s₀ (vmulhSlot z0 z1 z2 z3 z4).st := by
  unfold vmulhSlot
  repeat' first
    | intro _ | with_reducible exact hK | with_reducible assumption | with_reducible exact Keeps.refl _
    | with_reducible apply vecMap_keeps | with_reducible apply vSlot_keeps

theorem vfmaSlot_keeps {s₀ : State} {z0 : State} {z1 : TileId} {z2 : ThreadId} {z3 : Thread} {z4 : SlotWord} (hK : Keeps s₀ z0) :
    Keeps s₀ (vfmaSlot z0 z1 z2 z3 z4).st := by
  unfold vfmaSlot
  repeat' first
    | intro _ | with_reducible exact hK | with_reducible assumption | with_reducible exact Keeps.refl _
    | with_reducible apply vecMap_keeps | with_reducible apply vSlot_keeps

theorem vminSlot_keeps {s₀ : State} {z0 : State} {z1 : TileId} {z2 : ThreadId} {z3 : Thread} {z4 : SlotWord} (hK : Keeps s₀ z0) :
    Keeps s₀ (vminSlot z0 z1 z2 z3 z4).st := by
  unfold vminSlot
  repeat' first
    | intro _ | with_reducible exact hK | with_reducible assumption | with_reducible exact Keeps.refl _
    | with_reducible apply vecMap_keeps | with_reducible apply vSlot_keeps

theorem vmaxSlot_keeps {s₀ : State} {z0 : State} {z1 : TileId} {z2 : ThreadId} {z3 : Thread} {z4 : SlotWord} (hK : Keeps s₀ z0) :
    Keeps s₀ (vmaxSlot z0 z1 z2 z3 z4).st := by
  unfold vmaxSlot
  repeat' first
    | intro _ | with_reducible exact hK | with_reducible assumption | with_reducible exact Keeps.refl _
    | with_reducible apply vecMap_keeps | with_reducible apply vSlot_keeps

theorem vandSlot_keeps {s₀ : State} {z0 : State} {z1 : TileId} {z2 : ThreadId} {z3 : Thread} {z4 : SlotWord} (hK : Keeps s₀ z0) :
    Keeps s₀ (vandSlot z0 z1 z2 z3 z4).st := by
  unfold vandSlot
  repeat' first
    | intro _ | with_reducible exact hK | with_reducible assumption | with_reducible exact Keeps.refl _
    | with_reducible apply vecMap_keeps | with_reducible apply vSlot_keeps

theorem vorSlot_keeps {s₀ : State} {z0 : State} {z1 : TileId} {z2 : ThreadId} {z3 : Thread} {z4 : SlotWord} (hK : Keeps s₀ z0) :
    Keeps s₀ (vorSlot z0 z1 z2 z3 z4).st := by
  unfold vorSlot
  repeat' first
    | intro _ | with_reducible exact hK | with_reducible assumption | with_reducible exact Keeps.refl _
    | with_reducible apply vecMap_keeps | with_reducible apply vSlot_keeps

theorem vxorSlot_keeps {s₀ : State} {z0 : State} {z1 : TileId} {z2 : ThreadId} {z3 : Thread} {z4 : SlotWord} (hK : Keeps s₀ z0) :
    Keeps s₀ (vxorSlot z0 z1 z2 z3 z4).st := by
  unfold vxorSlot
  repeat' first
    | intro _ | with_reducible exact hK | with_reducible assumption | with_reducible exact Keeps.refl _
    | with_reducible apply vecMap_keeps | with_reducible apply vSlot_keeps

theorem vshlSlot_keeps {s₀ : State} {z0 : State} {z1 : TileId} {z2 : ThreadId} {z3 : Thread} {z4 : SlotWord} (hK : Keeps s₀ z0) :
    Keeps s₀ (vshlSlot z0 z1 z2 z3 z4).st := by
  unfold vshlSlot
  repeat' first
    | intro _ | with_reducible exact hK | with_reducible assumption | with_reducible exact Keeps.refl _
    | with_reducible apply vecMap_keeps | with_reducible apply vSlot_keeps

theorem vshrSlot_keeps {s₀ : State} {z0 : State} {z1 : TileId} {z2 : ThreadId} {z3 : Thread} {z4 : SlotWord} (hK : Keeps s₀ z0) :
    Keeps s₀ (vshrSlot z0 z1 z2 z3 z4).st := by
  unfold vshrSlot
  repeat' first
    | intro _ | with_reducible exact hK | with_reducible assumption | with_reducible exact Keeps.refl _
    | with_reducible apply vecMap_keeps | with_reducible apply vSlot_keeps

theorem vcmpSlot_keeps {s₀ : State} {z0 : State} {z1 : TileId} {z2 : ThreadId} {z3 : Thread} {z4 : SlotWord} (hK : Keeps s₀ z0) :
    Keeps s₀ (vcmpSlot z0 z1 z2 z3 z4).st := by
  unfold vcmpSlot
  repeat' first
    | intro _ | with_reducible exact hK | with_reducible assumption | with_reducible exact Keeps.refl _
    | with_reducible apply SlotOut.done_keeps | with_reducible apply SlotOut.illegal_keeps
    | with_reducible apply vecMap_keeps | with_reducible apply Keeps.ite | split
    | (refine Keeps.of_eq (by assumption) ?_) | (dsimp only; split)

theorem vselSlot_keeps {s₀ : State} {z0 : State} {z1 : TileId} {z2 : ThreadId} {z3 : Thread} {z4 : SlotWord} (hK : Keeps s₀ z0) :
    Keeps s₀ (vselSlot z0 z1 z2 z3 z4).st := by
  unfold vselSlot
  repeat' first
    | intro _ | with_reducible exact hK | with_reducible assumption | with_reducible exact Keeps.refl _
    | with_reducible apply State.putV_keeps | with_reducible apply vSlot_keeps | with_reducible apply Keeps.ite
    | with_reducible apply Keeps.ite1 | split | (refine Keeps.of_eq (by assumption) ?_) | (dsimp only; split)

theorem vbcastSlot_keeps {s₀ : State} {z0 : State} {z1 : TileId} {z2 : ThreadId} {z3 : Thread} {z4 : SlotWord} (hK : Keeps s₀ z0) :
    Keeps s₀ (vbcastSlot z0 z1 z2 z3 z4).st := by
  unfold vbcastSlot
  repeat' first
    | intro _ | with_reducible exact hK | with_reducible assumption | with_reducible exact Keeps.refl _
    | with_reducible apply State.putV_keeps | with_reducible apply vSlot_keeps

theorem vabsSlot_keeps {s₀ : State} {z0 : State} {z1 : TileId} {z2 : ThreadId} {z3 : Thread} {z4 : SlotWord} (hK : Keeps s₀ z0) :
    Keeps s₀ (vabsSlot z0 z1 z2 z3 z4).st := by
  unfold vabsSlot
  repeat' first
    | intro _ | with_reducible exact hK | with_reducible assumption | with_reducible exact Keeps.refl _
    | with_reducible apply vecMap_keeps | with_reducible apply vSlot_keeps | with_reducible apply Keeps.ite | split
    | (refine Keeps.of_eq (by assumption) ?_) | (dsimp only; split)

theorem vnegSlot_keeps {s₀ : State} {z0 : State} {z1 : TileId} {z2 : ThreadId} {z3 : Thread} {z4 : SlotWord} (hK : Keeps s₀ z0) :
    Keeps s₀ (vnegSlot z0 z1 z2 z3 z4).st := by
  unfold vnegSlot
  repeat' first
    | intro _ | with_reducible exact hK | with_reducible assumption | with_reducible exact Keeps.refl _
    | with_reducible apply vecMap_keeps | with_reducible apply vSlot_keeps | with_reducible apply Keeps.ite | split
    | (refine Keeps.of_eq (by assumption) ?_) | (dsimp only; split)

theorem reduceSlot_keeps {s₀ : State} {g : VF → List (Nat × Bool) → Nat} {z0 : State} {z1 : TileId} {z2 : ThreadId} {z3 : Thread} {z4 : SlotWord} (hK : Keeps s₀ z0) :
    Keeps s₀ (reduceSlot g z0 z1 z2 z3 z4).st := by
  unfold reduceSlot
  repeat' first
    | intro _ | with_reducible exact hK | with_reducible assumption | with_reducible exact Keeps.refl _
    | with_reducible apply State.modThr_keeps | with_reducible apply SlotOut.done_keeps
    | with_reducible apply SlotOut.illegal_keeps | with_reducible apply Keeps.ite | split
    | (refine Keeps.of_eq (by assumption) ?_) | (dsimp only; split)

theorem vrsumSlot_keeps {s₀ : State} {z0 : State} {z1 : TileId} {z2 : ThreadId} {z3 : Thread} {z4 : SlotWord} (hK : Keeps s₀ z0) :
    Keeps s₀ (vrsumSlot z0 z1 z2 z3 z4).st := by
  unfold vrsumSlot
  repeat' first
    | intro _ | with_reducible exact hK | with_reducible assumption | with_reducible exact Keeps.refl _
    | with_reducible apply reduceSlot_keeps

theorem vrmaxSlot_keeps {s₀ : State} {z0 : State} {z1 : TileId} {z2 : ThreadId} {z3 : Thread} {z4 : SlotWord} (hK : Keeps s₀ z0) :
    Keeps s₀ (vrmaxSlot z0 z1 z2 z3 z4).st := by
  unfold vrmaxSlot
  repeat' first
    | intro _ | with_reducible exact hK | with_reducible assumption | with_reducible exact Keeps.refl _
    | with_reducible apply reduceSlot_keeps

theorem vrminSlot_keeps {s₀ : State} {z0 : State} {z1 : TileId} {z2 : ThreadId} {z3 : Thread} {z4 : SlotWord} (hK : Keeps s₀ z0) :
    Keeps s₀ (vrminSlot z0 z1 z2 z3 z4).st := by
  unfold vrminSlot
  repeat' first
    | intro _ | with_reducible exact hK | with_reducible assumption | with_reducible exact Keeps.refl _
    | with_reducible apply reduceSlot_keeps

theorem vrargmaxSlot_keeps {s₀ : State} {z0 : State} {z1 : TileId} {z2 : ThreadId} {z3 : Thread} {z4 : SlotWord} (hK : Keeps s₀ z0) :
    Keeps s₀ (vrargmaxSlot z0 z1 z2 z3 z4).st := by
  unfold vrargmaxSlot
  repeat' first
    | intro _ | with_reducible exact hK | with_reducible assumption | with_reducible exact Keeps.refl _
    | with_reducible apply reduceSlot_keeps

theorem vlutSlot_keeps {s₀ : State} {z0 : State} {z1 : TileId} {z2 : ThreadId} {z3 : Thread} {z4 : SlotWord} (hK : Keeps s₀ z0) :
    Keeps s₀ (vlutSlot z0 z1 z2 z3 z4).st := by
  unfold vlutSlot
  repeat' first
    | intro _ | with_reducible exact hK | with_reducible assumption | with_reducible exact Keeps.refl _
    | with_reducible apply vecMap_keeps | with_reducible apply vSlot_keeps

theorem State.putElems_keeps {s₀ : State} {s : State} {t : TileId} {th : ThreadId} {y : Thread} {vd fmt dst0 lat : Nat} {l : List (Nat × Bool)} (hK : Keeps s₀ s) :
    Keeps s₀ (State.putElems s t th y vd fmt dst0 lat l) := by
  unfold State.putElems
  repeat' first
    | intro _ | with_reducible exact hK | with_reducible assumption | with_reducible exact Keeps.refl _
    | with_reducible apply State.modThr_keeps | with_reducible apply Keeps.ite | with_reducible apply Keeps.ite1
    | split | (refine Keeps.of_eq (by assumption) ?_) | (dsimp only; split)

theorem vcvtSlot_keeps {s₀ : State} {sub : Nat} {z0 : State} {z1 : TileId} {z2 : ThreadId} {z3 : Thread} {z4 : SlotWord} (hK : Keeps s₀ z0) :
    Keeps s₀ (vcvtSlot sub z0 z1 z2 z3 z4).st := by
  unfold vcvtSlot
  repeat' first
    | intro _ | with_reducible exact hK | with_reducible assumption | with_reducible exact Keeps.refl _
    | with_reducible apply SlotOut.done_keeps | with_reducible apply SlotOut.illegal_keeps
    | with_reducible apply State.advanceDraw_keeps | with_reducible apply State.putElems_keeps
    | with_reducible apply Keeps.ite | with_reducible apply Keeps.ite1 | split
    | (refine Keeps.of_eq (by assumption) ?_) | (dsimp only; split)

theorem vqntSlot_keeps {s₀ : State} {z0 : State} {z1 : TileId} {z2 : ThreadId} {z3 : Thread} {z4 : SlotWord} (hK : Keeps s₀ z0) :
    Keeps s₀ (vqntSlot z0 z1 z2 z3 z4).st := by
  unfold vqntSlot
  repeat' first
    | intro _ | with_reducible exact hK | with_reducible assumption | with_reducible exact Keeps.refl _
    | with_reducible apply SlotOut.done_keeps | with_reducible apply SlotOut.illegal_keeps
    | with_reducible apply State.advanceDraw_keeps | with_reducible apply State.putElems_keeps
    | with_reducible apply Keeps.ite | with_reducible apply Keeps.ite1 | split
    | (refine Keeps.of_eq (by assumption) ?_) | (dsimp only; split)

end Sys2Proof.Machine
end

