-- ==== Sys2Proof/Laws/KeepsTensor.lean ====
section
/-!
SUPPORT. What the operations of Machine/Tensor.lean keep (Laws/Keeps.lean).
-/

namespace Sys2Proof.Machine

theorem macroSlot_keeps {s₀ : State} {k : MacroKind} {z0 : State} {z1 : TileId} {z2 : ThreadId} {z3 : Thread} {z4 : SlotWord} (hK : Keeps s₀ z0) :
    Keeps s₀ (macroSlot k z0 z1 z2 z3 z4).st := by
  unfold macroSlot
  repeat' first
    | intro _ | with_reducible exact hK | with_reducible assumption | with_reducible exact Keeps.refl _
    | with_reducible apply State.modTile_keeps | with_reducible apply SlotOut.done_keeps
    | with_reducible apply SlotOut.illegal_keeps | with_reducible apply SlotOut.raise_keeps
    | with_reducible apply Keeps.ite | split | (refine Keeps.of_eq (by assumption) ?_) | (dsimp only; split)
    | with_reducible apply Keeps.updTop

theorem mmSlot_keeps {s₀ : State} {z0 : State} {z1 : TileId} {z2 : ThreadId} {z3 : Thread} {z4 : SlotWord} (hK : Keeps s₀ z0) :
    Keeps s₀ (mmSlot z0 z1 z2 z3 z4).st := by
  unfold mmSlot
  repeat' first
    | intro _ | with_reducible exact hK | with_reducible assumption | with_reducible exact Keeps.refl _
    | with_reducible apply macroSlot_keeps

theorem convSlot_keeps {s₀ : State} {z0 : State} {z1 : TileId} {z2 : ThreadId} {z3 : Thread} {z4 : SlotWord} (hK : Keeps s₀ z0) :
    Keeps s₀ (convSlot z0 z1 z2 z3 z4).st := by
  unfold convSlot
  repeat' first
    | intro _ | with_reducible exact hK | with_reducible assumption | with_reducible exact Keeps.refl _
    | with_reducible apply macroSlot_keeps

theorem dwSlot_keeps {s₀ : State} {z0 : State} {z1 : TileId} {z2 : ThreadId} {z3 : Thread} {z4 : SlotWord} (hK : Keeps s₀ z0) :
    Keeps s₀ (dwSlot z0 z1 z2 z3 z4).st := by
  unfold dwSlot
  repeat' first
    | intro _ | with_reducible exact hK | with_reducible assumption | with_reducible exact Keeps.refl _
    | with_reducible apply macroSlot_keeps

theorem State.startMacro_keeps {s₀ : State} {s : State} {t : TileId} {m : MacroOp} (hK : Keeps s₀ s) :
    Keeps s₀ (State.startMacro s t m) := by
  unfold State.startMacro
  repeat' first
    | intro _ | with_reducible exact hK | with_reducible assumption | with_reducible exact Keeps.refl _
    | with_reducible apply State.modTile_keeps | with_reducible apply Keeps.ite | split
    | (refine Keeps.of_eq (by assumption) ?_) | (dsimp only; split) | with_reducible apply Keeps.updTop

theorem State.readBlk_keeps {s₀ : State} {s : State} {key a n : Nat} (hK : Keeps s₀ s) :
    Keeps s₀ (State.readBlk s key a n).1 := by
  unfold State.readBlk
  repeat' first
    | intro _ | with_reducible exact hK | with_reducible assumption | with_reducible exact Keeps.refl _
    | with_reducible apply State.readMem_keeps

theorem State.readViolation_keeps {s₀ : State} {s : State} {t : TileId} {th slot a : Nat} (hK : Keeps s₀ s) :
    Keeps s₀ (State.readViolation s t th slot a) := by
  unfold State.readViolation
  repeat' first
    | intro _ | with_reducible exact hK | with_reducible assumption | with_reducible exact Keeps.refl _
    | with_reducible apply State.satReg_keeps | with_reducible apply State.tileFault_keeps

theorem State.macroRead_keeps {s₀ : State} {s : State} {t : TileId} (hK : Keeps s₀ s) :
    Keeps s₀ (State.macroRead s t) := by
  unfold State.macroRead
  repeat' first
    | intro _ | with_reducible exact hK | with_reducible assumption | with_reducible exact Keeps.refl _
    | with_reducible apply State.satReg_keeps | with_reducible apply State.modTile_keeps
    | with_reducible apply State.useWide_keeps | with_reducible apply State.readBlk_keeps
    | with_reducible apply State.readViolation_keeps | with_reducible apply Keeps.ite | split
    | (refine Keeps.of_eq (by assumption) ?_) | (dsimp only; split) | with_reducible apply Keeps.updTop

theorem State.macroStart_keeps {s₀ : State} {s : State} {t : TileId} (hK : Keeps s₀ s) :
    Keeps s₀ (State.macroStart s t) := by
  unfold State.macroStart
  repeat' first
    | intro _ | with_reducible exact hK | with_reducible assumption | with_reducible exact Keeps.refl _
    | with_reducible apply State.modTile_keeps | with_reducible apply State.tileFault_keeps
    | with_reducible apply State.overdrawRec_keeps | with_reducible apply State.drawLeave_keeps
    | with_reducible apply State.startMacro_keeps | with_reducible apply State.macroRead_keeps
    | with_reducible apply Keeps.ite | split | (refine Keeps.of_eq (by assumption) ?_) | (dsimp only; split)
    | with_reducible apply Keeps.updTop

theorem State.macroEnd_keeps {s₀ : State} {s : State} {t : TileId} (hK : Keeps s₀ s) :
    Keeps s₀ (State.macroEnd s t) := by
  unfold State.macroEnd
  repeat' first
    | intro _ | with_reducible exact hK | with_reducible assumption | with_reducible exact Keeps.refl _
    | with_reducible apply State.modTile_keeps | with_reducible apply State.signalLocal_keeps
    | with_reducible apply Keeps.ite | with_reducible apply Keeps.foldl | split
    | (refine Keeps.of_eq (by assumption) ?_) | (dsimp only; split) | with_reducible apply Keeps.updTop

theorem accRdSlot_keeps {s₀ : State} {z0 : State} {z1 : TileId} {z2 : ThreadId} {z3 : Thread} {z4 : SlotWord} (hK : Keeps s₀ z0) :
    Keeps s₀ (accRdSlot z0 z1 z2 z3 z4).st := by
  unfold accRdSlot
  repeat' first
    | intro _ | with_reducible exact hK | with_reducible assumption | with_reducible exact Keeps.refl _
    | with_reducible apply SlotOut.done_keeps | with_reducible apply SlotOut.illegal_keeps
    | with_reducible apply State.putV_keeps | with_reducible apply Keeps.ite | split
    | (refine Keeps.of_eq (by assumption) ?_) | (dsimp only; split)

theorem accWrSlot_keeps {s₀ : State} {z0 : State} {z1 : TileId} {z2 : ThreadId} {z3 : Thread} {z4 : SlotWord} (hK : Keeps s₀ z0) :
    Keeps s₀ (accWrSlot z0 z1 z2 z3 z4).st := by
  unfold accWrSlot
  repeat' first
    | intro _ | with_reducible exact hK | with_reducible assumption | with_reducible exact Keeps.refl _
    | with_reducible apply State.modTile_keeps | with_reducible apply SlotOut.done_keeps
    | with_reducible apply SlotOut.illegal_keeps | with_reducible apply Keeps.ite | with_reducible apply Keeps.ite1
    | with_reducible apply Keeps.foldl | with_reducible apply Keeps.foldl1 | split
    | (refine Keeps.of_eq (by assumption) ?_) | (dsimp only; split)

theorem accClrSlot_keeps {s₀ : State} {z0 : State} {z1 : TileId} {z2 : ThreadId} {z3 : Thread} {z4 : SlotWord} (hK : Keeps s₀ z0) :
    Keeps s₀ (accClrSlot z0 z1 z2 z3 z4).st := by
  unfold accClrSlot
  repeat' first
    | intro _ | with_reducible exact hK | with_reducible assumption | with_reducible exact Keeps.refl _
    | with_reducible apply State.modTile_keeps | with_reducible apply SlotOut.done_keeps
    | with_reducible apply SlotOut.illegal_keeps | with_reducible apply Keeps.ite | with_reducible apply Keeps.foldl
    | split | (refine Keeps.of_eq (by assumption) ?_) | (dsimp only; split)

theorem State.jobRead_keeps {s₀ : State} {s : State} {t : TileId} {i : Nat} (hK : Keeps s₀ s) :
    Keeps s₀ (State.jobRead s t i) := by
  unfold State.jobRead
  repeat' first
    | intro _ | with_reducible exact hK | with_reducible assumption | with_reducible exact Keeps.refl _
    | with_reducible apply State.satReg_keeps | with_reducible apply State.modTile_keeps
    | with_reducible apply State.countNdet_keeps | with_reducible apply State.useWide_keeps
    | with_reducible apply State.readBlk_keeps | with_reducible apply State.readViolation_keeps
    | with_reducible apply Keeps.ite | split | (refine Keeps.of_eq (by assumption) ?_) | (dsimp only; split)
    | with_reducible apply Keeps.updTop

theorem lutLoadSlot_keeps {s₀ : State} {z0 : State} {z1 : TileId} {z2 : ThreadId} {z3 : Thread} {z4 : SlotWord} (hK : Keeps s₀ z0) :
    Keeps s₀ (lutLoadSlot z0 z1 z2 z3 z4).st := by
  unfold lutLoadSlot
  repeat' first
    | intro _ | with_reducible exact hK | with_reducible assumption | with_reducible exact Keeps.refl _
    | with_reducible apply State.modTile_keeps | with_reducible apply State.overdrawRec_keeps
    | with_reducible apply State.drawLeave_keeps | with_reducible apply SlotOut.done_keeps
    | with_reducible apply SlotOut.illegal_keeps | with_reducible apply SlotOut.raise_keeps
    | with_reducible apply Keeps.ite | split | (refine Keeps.of_eq (by assumption) ?_) | (dsimp only; split)
    | with_reducible apply Keeps.updTop

theorem State.lutComplete_keeps {s₀ : State} {s : State} {t : TileId} (hK : Keeps s₀ s) :
    Keeps s₀ (State.lutComplete s t) := by
  unfold State.lutComplete
  repeat' first
    | intro _ | with_reducible exact hK | with_reducible assumption | with_reducible exact Keeps.refl _
    | with_reducible apply State.modTile_keeps | with_reducible apply Keeps.ite | with_reducible apply Keeps.ite1
    | with_reducible apply Keeps.foldl | with_reducible apply Keeps.foldl1 | split
    | (refine Keeps.of_eq (by assumption) ?_) | (dsimp only; split) | with_reducible apply Keeps.updTop

end Sys2Proof.Machine
end

