-- ==== Sys2Proof/Laws/KeepsStream.lean ====
section
/-!
SUPPORT. What the operations of Machine/Stream.lean keep (Laws/Keeps.lean).
-/

namespace Sys2Proof.Machine

theorem State.narrowRead_keeps {s₀ : State} {s : State} {from_ a n : Nat} {who : Purpose} {port : Nat} (hK : Keeps s₀ s) :
    Keeps s₀ (State.narrowRead s from_ a n who port) := by
  unfold State.narrowRead
  repeat' first
    | intro _ | with_reducible exact hK | with_reducible assumption | with_reducible exact Keeps.refl _
    | with_reducible apply State.sendAsync_keeps | with_reducible apply Keeps.foldl
    | with_reducible apply Keeps.foldl1

theorem State.narrowWrite_keeps {s₀ : State} {s : State} {from_ a : Nat} {bs : List Byte} {who : Purpose} {port : Nat} (hK : Keeps s₀ s) :
    Keeps s₀ (State.narrowWrite s from_ a bs who port) := by
  unfold State.narrowWrite
  repeat' first
    | intro _ | with_reducible exact hK | with_reducible assumption | with_reducible exact Keeps.refl _
    | with_reducible apply State.sendAsync_keeps | with_reducible apply Keeps.foldl
    | with_reducible apply Keeps.foldl1

theorem State.deliverV_keeps {s₀ : State} {s : State} {t : TileId} {th : ThreadId} {vd lo : Nat} {l : List (Byte × Bool)} {ready : Thread → Thread} (hK : Keeps s₀ s) :
    Keeps s₀ (State.deliverV s t th vd lo l ready) := by
  unfold State.deliverV
  repeat' first
    | intro _ | with_reducible exact hK | with_reducible assumption | with_reducible exact Keeps.refl _
    | with_reducible apply State.modThr_keeps | with_reducible apply Keeps.updTop

theorem State.deliverS_keeps {s₀ : State} {s : State} {t : TileId} {th : ThreadId} {sd : Nat} {l : List (Byte × Bool)} {ready : Thread → Thread} (hK : Keeps s₀ s) :
    Keeps s₀ (State.deliverS s t th sd l ready) := by
  unfold State.deliverS
  repeat' first
    | intro _ | with_reducible exact hK | with_reducible assumption | with_reducible exact Keeps.refl _
    | with_reducible apply State.modThr_keeps | with_reducible apply Keeps.ite | with_reducible apply Keeps.ite1
    | split | (refine Keeps.of_eq (by assumption) ?_) | (dsimp only; split) | with_reducible apply Keeps.updTop

theorem State.deliver_keeps {s₀ : State} {s : State} {who : Purpose} {a : Nat} {l : List (Byte × Bool)} {ready : Nat → Thread → Thread} (hK : Keeps s₀ s) :
    Keeps s₀ (State.deliver s who a l ready) := by
  unfold State.deliver
  repeat' first
    | intro _ | with_reducible exact hK | with_reducible assumption | with_reducible exact Keeps.refl _
    | with_reducible apply State.deliverV_keeps | with_reducible apply State.deliverS_keeps
    | with_reducible apply Keeps.ite | split | (refine Keeps.of_eq (by assumption) ?_) | (dsimp only; split)

theorem State.pailPerform_keeps {s₀ : State} {s : State} {t : TileId} {q : NarrowReq} (hK : Keeps s₀ s) :
    Keeps s₀ (State.pailPerform s t q) := by
  unfold State.pailPerform
  repeat' first
    | intro _ | with_reducible exact hK | with_reducible assumption | with_reducible exact Keeps.refl _
    | with_reducible apply State.writeNarrow_keeps | with_reducible apply State.useWide_keeps
    | with_reducible apply State.tileRead_keeps | with_reducible apply State.deliver_keeps
    | with_reducible apply Keeps.ite | split | (refine Keeps.of_eq (by assumption) ?_) | (dsimp only; split)

theorem State.asyncPail_keeps {s₀ : State} {s : State} {t : TileId} {th : ThreadId} {q : NarrowReq} (hK : Keeps s₀ s) :
    Keeps s₀ (State.asyncPail s t th q) := by
  unfold State.asyncPail
  repeat' first
    | intro _ | with_reducible exact hK | with_reducible assumption | with_reducible exact Keeps.refl _
    | with_reducible apply State.modThr_keeps | with_reducible apply State.pailPerform_keeps
    | with_reducible apply Keeps.ite | split | (refine Keeps.of_eq (by assumption) ?_) | (dsimp only; split)
    | with_reducible apply Keeps.updTop

theorem State.load_keeps {s₀ : State} {s : State} {t : TileId} {th : ThreadId} {e : Quad} {h a n key : Nat} {who : Purpose} (hK : Keeps s₀ s) :
    Keeps s₀ (State.load s t th e h a n key who).st := by
  unfold State.load
  repeat' first
    | intro _ | with_reducible exact hK | with_reducible assumption | with_reducible exact Keeps.refl _
    | with_reducible apply State.modThr_keeps | with_reducible apply State.sendFrame_keeps
    | with_reducible apply State.useWide_keeps | with_reducible apply State.tileSubst_keeps
    | with_reducible apply State.tileRead_keeps | with_reducible apply SlotOut.done_keeps
    | with_reducible apply SlotOut.raise_keeps | with_reducible apply State.narrowRead_keeps
    | with_reducible apply State.deliver_keeps | with_reducible apply State.asyncPail_keeps
    | with_reducible apply Keeps.ite | with_reducible apply Keeps.ite1 | with_reducible apply Keeps.foldl
    | with_reducible apply Keeps.foldl1 | split | (refine Keeps.of_eq (by assumption) ?_) | (dsimp only; split)

theorem ldSlot_keeps {s₀ : State} {z0 : State} {z1 : TileId} {z2 : ThreadId} {z3 : Thread} {z4 : SlotWord} (hK : Keeps s₀ z0) :
    Keeps s₀ (ldSlot z0 z1 z2 z3 z4).st := by
  unfold ldSlot
  repeat' first
    | intro _ | with_reducible exact hK | with_reducible assumption | with_reducible exact Keeps.refl _
    | with_reducible apply SlotOut.done_keeps | with_reducible apply SlotOut.illegal_keeps
    | with_reducible apply State.load_keeps | with_reducible apply Keeps.ite | split
    | (refine Keeps.of_eq (by assumption) ?_) | (dsimp only; split)

theorem sldSlot_keeps {s₀ : State} {z0 : State} {z1 : TileId} {z2 : ThreadId} {z3 : Thread} {z4 : SlotWord} (hK : Keeps s₀ z0) :
    Keeps s₀ (sldSlot z0 z1 z2 z3 z4).st := by
  unfold sldSlot
  repeat' first
    | intro _ | with_reducible exact hK | with_reducible assumption | with_reducible exact Keeps.refl _
    | with_reducible apply SlotOut.done_keeps | with_reducible apply SlotOut.illegal_keeps
    | with_reducible apply State.load_keeps | with_reducible apply Keeps.ite | split
    | (refine Keeps.of_eq (by assumption) ?_) | (dsimp only; split)

theorem State.fixStore_keeps {s₀ : State} {s : State} {t : TileId} {e : Quad} {h a : Nat} {l : List (Byte × Bool)} (hK : Keeps s₀ s) :
    Keeps s₀ (State.fixStore s t e h a l).1 := by
  unfold State.fixStore
  repeat' first
    | intro _ | with_reducible exact hK | with_reducible assumption | with_reducible exact Keeps.refl _
    | with_reducible apply State.poisonStored_keeps

theorem stSlot_keeps {s₀ : State} {z0 : State} {z1 : TileId} {z2 : ThreadId} {z3 : Thread} {z4 : SlotWord} (hK : Keeps s₀ z0) :
    Keeps s₀ (stSlot z0 z1 z2 z3 z4).st := by
  unfold stSlot
  repeat' first
    | intro _ | with_reducible exact hK | with_reducible assumption | with_reducible exact Keeps.refl _
    | with_reducible apply State.writeClaimed_keeps | with_reducible apply State.sendFrame_keeps
    | with_reducible apply State.useWide_keeps | with_reducible apply SlotOut.done_keeps
    | with_reducible apply SlotOut.illegal_keeps | with_reducible apply SlotOut.raise_keeps
    | with_reducible apply State.narrowWrite_keeps | with_reducible apply State.asyncPail_keeps
    | with_reducible apply State.fixStore_keeps | with_reducible apply Keeps.ite | split
    | (refine Keeps.of_eq (by assumption) ?_) | (dsimp only; split)

theorem rwrSlot_keeps {s₀ : State} {z0 : State} {z1 : TileId} {z2 : ThreadId} {z3 : Thread} {z4 : SlotWord} (hK : Keeps s₀ z0) :
    Keeps s₀ (rwrSlot z0 z1 z2 z3 z4).st := by
  unfold rwrSlot
  repeat' first
    | intro _ | with_reducible exact hK | with_reducible assumption | with_reducible exact Keeps.refl _
    | with_reducible apply State.setReg_keeps | with_reducible apply State.absorb_keeps
    | with_reducible apply State.sendBy_keeps | with_reducible apply SlotOut.done_keeps
    | with_reducible apply SlotOut.illegal_keeps | with_reducible apply SlotOut.raise_keeps
    | with_reducible apply Keeps.ite | with_reducible apply Keeps.ite1 | split
    | (refine Keeps.of_eq (by assumption) ?_) | (dsimp only; split)

theorem State.gatherAsync_keeps {s₀ : State} {s : State} {t : TileId} {th : ThreadId} {e : Quad} {vd : Nat} {els : List (Nat × Option Nat)} (hK : Keeps s₀ s) :
    Keeps s₀ (State.gatherAsync s t th e vd els) := by
  unfold State.gatherAsync
  repeat' first
    | intro _ | with_reducible exact hK | with_reducible assumption | with_reducible exact Keeps.refl _
    | with_reducible apply State.modThr_keeps | with_reducible apply State.narrowRead_keeps
    | with_reducible apply Keeps.ite | with_reducible apply Keeps.ite1 | with_reducible apply Keeps.foldl
    | with_reducible apply Keeps.foldl1 | split | (refine Keeps.of_eq (by assumption) ?_) | (dsimp only; split)
    | with_reducible apply Keeps.updTop

theorem State.gatherPoison_keeps {s₀ : State} {s : State} {t : TileId} {th : ThreadId} {y : Thread} {e : Quad} {vd : Nat} {els : List (Nat × Option Nat)} (hK : Keeps s₀ s) :
    Keeps s₀ (State.gatherPoison s t th y e vd els) := by
  unfold State.gatherPoison
  repeat' first
    | intro _ | with_reducible exact hK | with_reducible assumption | with_reducible exact Keeps.refl _
    | with_reducible apply State.satReg_keeps | with_reducible apply State.modTile_keeps
    | with_reducible apply State.modThr_keeps | with_reducible apply State.gatherAsync_keeps
    | with_reducible apply Keeps.ite | with_reducible apply Keeps.ite1 | with_reducible apply Keeps.foldl
    | with_reducible apply Keeps.foldl1 | split | (refine Keeps.of_eq (by assumption) ?_) | (dsimp only; split)
    | with_reducible apply Keeps.updTop

theorem gatherSlot_keeps {s₀ : State} {z0 : State} {z1 : TileId} {z2 : ThreadId} {z3 : Thread} {z4 : SlotWord} (hK : Keeps s₀ z0) :
    Keeps s₀ (gatherSlot z0 z1 z2 z3 z4).st := by
  unfold gatherSlot
  repeat' first
    | intro _ | with_reducible exact hK | with_reducible assumption | with_reducible exact Keeps.refl _
    | with_reducible apply State.modThr_keeps | with_reducible apply SlotOut.done_keeps
    | with_reducible apply SlotOut.illegal_keeps | with_reducible apply SlotOut.raise_keeps
    | with_reducible apply State.gatherAsync_keeps | with_reducible apply State.gatherPoison_keeps
    | with_reducible apply Keeps.ite | with_reducible apply Keeps.ite1 | split
    | (refine Keeps.of_eq (by assumption) ?_) | (dsimp only; split) | with_reducible apply Keeps.updTop

theorem State.gatherFinish_keeps {s₀ : State} {s : State} {t : TileId} {j : PortJob} {vd : Nat} {e : Quad} (hK : Keeps s₀ s) :
    Keeps s₀ (State.gatherFinish s t j vd e) := by
  unfold State.gatherFinish
  repeat' first
    | intro _ | with_reducible exact hK | with_reducible assumption | with_reducible exact Keeps.refl _
    | with_reducible apply State.deliverV_keeps | with_reducible apply Keeps.ite | with_reducible apply Keeps.ite1
    | with_reducible apply Keeps.foldl | with_reducible apply Keeps.foldl1 | split
    | (refine Keeps.of_eq (by assumption) ?_) | (dsimp only; split)

theorem ldbSlot_keeps {s₀ : State} {z0 : State} {z1 : TileId} {z2 : ThreadId} {z3 : Thread} {z4 : SlotWord} (hK : Keeps s₀ z0) :
    Keeps s₀ (ldbSlot z0 z1 z2 z3 z4).st := by
  unfold ldbSlot
  repeat' first
    | intro _ | with_reducible exact hK | with_reducible assumption | with_reducible exact Keeps.refl _
    | with_reducible apply State.modTile_keeps | with_reducible apply SlotOut.done_keeps
    | with_reducible apply SlotOut.illegal_keeps | with_reducible apply SlotOut.raise_keeps
    | with_reducible apply State.advanceDraw_keeps | with_reducible apply Keeps.ite | split
    | (refine Keeps.of_eq (by assumption) ?_) | (dsimp only; split) | with_reducible apply Keeps.updTop

theorem State.ldbFinish_keeps {s₀ : State} {s : State} {t : TileId} {j : PortJob} {e : Quad} {bank a rnd : Nat} {sat : Bool} {draw : Word} (hK : Keeps s₀ s) :
    Keeps s₀ (State.ldbFinish s t j e bank a rnd sat draw) := by
  unfold State.ldbFinish
  repeat' first
    | intro _ | with_reducible exact hK | with_reducible assumption | with_reducible exact Keeps.refl _
    | with_reducible apply State.modTile_keeps | with_reducible apply Keeps.ite | with_reducible apply Keeps.ite1
    | with_reducible apply Keeps.foldl | with_reducible apply Keeps.foldl1 | split
    | (refine Keeps.of_eq (by assumption) ?_) | (dsimp only; split) | with_reducible apply Keeps.updTop

theorem stbSlot_keeps {s₀ : State} {z0 : State} {z1 : TileId} {z2 : ThreadId} {z3 : Thread} {z4 : SlotWord} (hK : Keeps s₀ z0) :
    Keeps s₀ (stbSlot z0 z1 z2 z3 z4).st := by
  unfold stbSlot
  repeat' first
    | intro _ | with_reducible exact hK | with_reducible assumption | with_reducible exact Keeps.refl _
    | with_reducible apply State.modTile_keeps | with_reducible apply State.poisonStored_keeps
    | with_reducible apply SlotOut.done_keeps | with_reducible apply SlotOut.illegal_keeps
    | with_reducible apply SlotOut.raise_keeps | with_reducible apply State.advanceDraw_keeps
    | with_reducible apply Keeps.ite | split | (refine Keeps.of_eq (by assumption) ?_) | (dsimp only; split)
    | with_reducible apply Keeps.updTop

theorem State.jobWrite_keeps {s₀ : State} {s : State} {t : TileId} {i : Nat} (hK : Keeps s₀ s) :
    Keeps s₀ (State.jobWrite s t i) := by
  unfold State.jobWrite
  repeat' first
    | intro _ | with_reducible exact hK | with_reducible assumption | with_reducible exact Keeps.refl _
    | with_reducible apply State.writeClaimed_keeps | with_reducible apply State.modTile_keeps
    | with_reducible apply State.countNdet_keeps | with_reducible apply State.writeNarrow_keeps
    | with_reducible apply State.useWide_keeps | with_reducible apply State.tileFault_keeps
    | with_reducible apply Keeps.ite | split | (refine Keeps.of_eq (by assumption) ?_) | (dsimp only; split)
    | with_reducible apply Keeps.updTop

theorem State.jobFinish_keeps {s₀ : State} {s : State} {t : TileId} {j : PortJob} (hK : Keeps s₀ s) :
    Keeps s₀ (State.jobFinish s t j) := by
  unfold State.jobFinish
  repeat' first
    | intro _ | with_reducible exact hK | with_reducible assumption | with_reducible exact Keeps.refl _
    | with_reducible apply State.modTile_keeps | with_reducible apply State.gatherFinish_keeps
    | with_reducible apply State.ldbFinish_keeps | with_reducible apply Keeps.ite | split
    | (refine Keeps.of_eq (by assumption) ?_) | (dsimp only; split) | with_reducible apply Keeps.updTop

theorem moveSlot_keeps {s₀ : State} {ix : Bool} {z0 : State} {z1 : TileId} {z2 : ThreadId} {z3 : Thread} {z4 : SlotWord} (hK : Keeps s₀ z0) :
    Keeps s₀ (moveSlot ix z0 z1 z2 z3 z4).st := by
  unfold moveSlot
  repeat' first
    | intro _ | with_reducible exact hK | with_reducible assumption | with_reducible exact Keeps.refl _
    | with_reducible apply State.modTile_keeps | with_reducible apply SlotOut.done_keeps
    | with_reducible apply SlotOut.illegal_keeps | with_reducible apply SlotOut.raise_keeps
    | with_reducible apply Keeps.ite | with_reducible apply Keeps.ite1 | split
    | (refine Keeps.of_eq (by assumption) ?_) | (dsimp only; split) | with_reducible apply Keeps.updTop

theorem smovSlot_keeps {s₀ : State} {z0 : State} {z1 : TileId} {z2 : ThreadId} {z3 : Thread} {z4 : SlotWord} (hK : Keeps s₀ z0) :
    Keeps s₀ (smovSlot z0 z1 z2 z3 z4).st := by
  unfold smovSlot
  repeat' first
    | intro _ | with_reducible exact hK | with_reducible assumption | with_reducible exact Keeps.refl _
    | with_reducible apply moveSlot_keeps

theorem smovxSlot_keeps {s₀ : State} {z0 : State} {z1 : TileId} {z2 : ThreadId} {z3 : Thread} {z4 : SlotWord} (hK : Keeps s₀ z0) :
    Keeps s₀ (smovxSlot z0 z1 z2 z3 z4).st := by
  unfold smovxSlot
  repeat' first
    | intro _ | with_reducible exact hK | with_reducible assumption | with_reducible exact Keeps.refl _
    | with_reducible apply moveSlot_keeps

theorem State.moveFault_keeps {s₀ : State} {s : State} {t : TileId} {m : Move} {code addr : Nat} (hK : Keeps s₀ s) :
    Keeps s₀ (State.moveFault s t m code addr) := by
  unfold State.moveFault
  repeat' first
    | intro _ | with_reducible exact hK | with_reducible assumption | with_reducible exact Keeps.refl _
    | with_reducible apply State.modTile_keeps | with_reducible apply State.modThr_keeps
    | with_reducible apply State.tileFault_keeps | with_reducible apply State.threadFault_keeps
    | with_reducible apply Keeps.ite | split | (refine Keeps.of_eq (by assumption) ?_) | (dsimp only; split)
    | with_reducible apply Keeps.updTop

theorem State.moveListRead_keeps {s₀ : State} {s : State} {t : TileId} {m : Move} (hK : Keeps s₀ s) :
    Keeps s₀ (State.moveListRead s t m) := by
  unfold State.moveListRead
  repeat' first
    | intro _ | with_reducible exact hK | with_reducible assumption | with_reducible exact Keeps.refl _
    | with_reducible apply State.satReg_keeps | with_reducible apply State.modTile_keeps
    | with_reducible apply State.useWide_keeps | with_reducible apply State.tileRead_keeps
    | with_reducible apply State.poisonStored_keeps | with_reducible apply State.moveFault_keeps
    | with_reducible apply Keeps.ite | with_reducible apply Keeps.ite1 | split
    | (refine Keeps.of_eq (by assumption) ?_) | (dsimp only; split) | with_reducible apply Keeps.updTop

theorem State.moveDue_keeps {s₀ : State} {s : State} {t : TileId} {m : Move} {dst : Nat} {bs : List Byte} {d : Nat} (hK : Keeps s₀ s) :
    Keeps s₀ (State.moveDue s t m dst bs d) := by
  unfold State.moveDue
  repeat' first
    | intro _ | with_reducible exact hK | with_reducible assumption | with_reducible exact Keeps.refl _
    | with_reducible apply State.modTile_keeps | with_reducible apply Keeps.updTop

theorem State.moveFix_keeps {s₀ : State} {s : State} {t : TileId} {m : Move} {a dst : Nat} {l : List (Byte × Bool)} (hK : Keeps s₀ s) :
    Keeps s₀ (State.moveFix s t m a dst l).1 := by
  unfold State.moveFix
  repeat' first
    | intro _ | with_reducible exact hK | with_reducible assumption | with_reducible exact Keeps.refl _
    | with_reducible apply State.poisonStored_keeps

theorem State.moveSubst_keeps {s₀ : State} {s : State} {t : TileId} {m : Move} {a dst n : Nat} (hK : Keeps s₀ s) :
    Keeps s₀ (State.moveSubst s t m a dst n) := by
  unfold State.moveSubst
  repeat' first
    | intro _ | with_reducible exact hK | with_reducible assumption | with_reducible exact Keeps.refl _
    | with_reducible apply State.tileSubst_keeps | with_reducible apply State.moveDue_keeps
    | with_reducible apply State.moveFix_keeps

theorem State.movePart_keeps {s₀ : State} {s : State} {t : TileId} {m : Move} {p : MovePart} {rest : List MovePart} (hK : Keeps s₀ s) :
    Keeps s₀ (State.movePart s t m p rest) := by
  unfold State.movePart
  repeat' first
    | intro _ | with_reducible exact hK | with_reducible assumption | with_reducible exact Keeps.refl _
    | with_reducible apply State.modTile_keeps | with_reducible apply State.sendFrame_keeps
    | with_reducible apply State.useWide_keeps | with_reducible apply State.tileFault_keeps
    | with_reducible apply State.tileRead_keeps | with_reducible apply State.narrowRead_keeps
    | with_reducible apply State.moveFault_keeps | with_reducible apply State.moveDue_keeps
    | with_reducible apply State.moveFix_keeps | with_reducible apply State.moveSubst_keeps
    | with_reducible apply Keeps.ite | split | (refine Keeps.of_eq (by assumption) ?_) | (dsimp only; split)
    | with_reducible apply Keeps.updTop

theorem State.moveStepNow_keeps {s₀ : State} {s : State} {t : TileId} {m : Move} (hK : Keeps s₀ s) :
    Keeps s₀ (State.moveStepNow s t m) := by
  unfold State.moveStepNow
  repeat' first
    | intro _ | with_reducible exact hK | with_reducible assumption | with_reducible exact Keeps.refl _
    | with_reducible apply State.moveListRead_keeps | with_reducible apply State.movePart_keeps
    | with_reducible apply Keeps.ite | split | (refine Keeps.of_eq (by assumption) ?_) | (dsimp only; split)

theorem State.moveWaits_keeps {s₀ : State} {s : State} {t : TileId} (hK : Keeps s₀ s) :
    Keeps s₀ (State.moveWaits s t) := by
  unfold State.moveWaits
  repeat' first
    | intro _ | with_reducible exact hK | with_reducible assumption | with_reducible exact Keeps.refl _
    | with_reducible apply State.modTile_keeps | with_reducible apply Keeps.ite | split
    | (refine Keeps.of_eq (by assumption) ?_) | (dsimp only; split) | with_reducible apply Keeps.updTop

theorem State.moveStep_keeps {s₀ : State} {s : State} {t : TileId} {frame : Bool} (hK : Keeps s₀ s) :
    Keeps s₀ (State.moveStep s t frame) := by
  unfold State.moveStep
  repeat' first
    | intro _ | with_reducible exact hK | with_reducible assumption | with_reducible exact Keeps.refl _
    | with_reducible apply State.countNdet_keeps | with_reducible apply State.overdrawRec_keeps
    | with_reducible apply State.drawLeave_keeps | with_reducible apply State.moveFault_keeps
    | with_reducible apply State.moveStepNow_keeps | with_reducible apply Keeps.ite | split
    | (refine Keeps.of_eq (by assumption) ?_) | (dsimp only; split)

theorem State.moveDueNow_keeps {s₀ : State} {s : State} {t : TileId} {frame : Bool} (hK : Keeps s₀ s) :
    Keeps s₀ (State.moveDueNow s t frame) := by
  unfold State.moveDueNow
  repeat' first
    | intro _ | with_reducible exact hK | with_reducible assumption | with_reducible exact Keeps.refl _
    | with_reducible apply State.writeClaimed_keeps | with_reducible apply State.modTile_keeps
    | with_reducible apply State.countNdet_keeps | with_reducible apply State.sendFrame_keeps
    | with_reducible apply State.writeNarrow_keeps | with_reducible apply State.useWide_keeps
    | with_reducible apply State.tileFault_keeps | with_reducible apply SlotOut.done_keeps
    | with_reducible apply State.narrowWrite_keeps | with_reducible apply Keeps.ite | split
    | (refine Keeps.of_eq (by assumption) ?_) | (dsimp only; split) | with_reducible apply Keeps.updTop

theorem State.moveEnd_keeps {s₀ : State} {s : State} {t : TileId} {frame : Bool} (hK : Keeps s₀ s) :
    Keeps s₀ (State.moveEnd s t frame) := by
  unfold State.moveEnd
  repeat' first
    | intro _ | with_reducible exact hK | with_reducible assumption | with_reducible exact Keeps.refl _
    | with_reducible apply State.modTile_keeps | with_reducible apply State.modThr_keeps
    | with_reducible apply State.threadFault_keeps | with_reducible apply State.signalLocal_keeps
    | with_reducible apply Keeps.ite | split | (refine Keeps.of_eq (by assumption) ?_) | (dsimp only; split)
    | with_reducible apply Keeps.updTop

end Sys2Proof.Machine
end

