-- ==== Sys2Proof/Laws/KeepsSync.lean ====
section
/-!
SUPPORT. What the operations of Machine/Sync.lean keep (Laws/Keeps.lean).
-/

namespace Sys2Proof.Machine

theorem State.syncArrive_keeps {s₀ : State} {s : State} (hK : Keeps s₀ s) :
    Keeps s₀ (State.syncArrive s) := by
  unfold State.syncArrive
  repeat' first
    | intro _ | with_reducible exact hK | with_reducible assumption | with_reducible exact Keeps.refl _
    | with_reducible apply State.sendAsync_keeps | with_reducible apply State.dropFlit_keeps
    | with_reducible apply State.applySync_keeps | with_reducible apply Keeps.ite | split
    | (refine Keeps.of_eq (by assumption) ?_) | (dsimp only; split) | with_reducible apply Keeps.updTop

theorem State.syncAcked_keeps {s₀ : State} {s : State} {t : TileId} {th : ThreadId} (hK : Keeps s₀ s) :
    Keeps s₀ (State.syncAcked s t th) := by
  unfold State.syncAcked
  repeat' first
    | intro _ | with_reducible exact hK | with_reducible assumption | with_reducible exact Keeps.refl _
    | with_reducible apply State.modThr_keeps | with_reducible apply State.dropFlit_keeps
    | with_reducible apply Keeps.ite | split | (refine Keeps.of_eq (by assumption) ?_) | (dsimp only; split)
    | with_reducible apply Keeps.updTop

theorem State.setWatch_keeps {s₀ : State} {s : State} {k : Nat} {w : Option Watch} (hK : Keeps s₀ s) :
    Keeps s₀ (State.setWatch s k w) := by
  unfold State.setWatch
  repeat' first
    | intro _ | with_reducible exact hK | with_reducible assumption | with_reducible exact Keeps.refl _
    | with_reducible apply Keeps.updTop

theorem State.watchArrive_keeps {s₀ : State} {s : State} (hK : Keeps s₀ s) :
    Keeps s₀ (State.watchArrive s) := by
  unfold State.watchArrive
  repeat' first
    | intro _ | with_reducible exact hK | with_reducible assumption | with_reducible exact Keeps.refl _
    | with_reducible apply State.dropFlit_keeps | with_reducible apply State.setWatch_keeps
    | with_reducible apply Keeps.ite | split | (refine Keeps.of_eq (by assumption) ?_) | (dsimp only; split)
    | with_reducible apply Keeps.updTop

theorem State.releaseInject_keeps {s₀ : State} {s : State} {half : Nat} {t : TileId} {th : ThreadId} (hK : Keeps s₀ s) :
    Keeps s₀ (State.releaseInject s half t th) := by
  unfold State.releaseInject
  repeat' first
    | intro _ | with_reducible exact hK | with_reducible assumption | with_reducible exact Keeps.refl _
    | with_reducible apply State.sendFrame_keeps | with_reducible apply State.sendAsync_keeps
    | with_reducible apply State.setWatch_keeps | with_reducible apply Keeps.ite | split
    | (refine Keeps.of_eq (by assumption) ?_) | (dsimp only; split)

theorem State.watchLapse_keeps {s₀ : State} {s : State} {half : Nat} {t : TileId} {th : ThreadId} (hK : Keeps s₀ s) :
    Keeps s₀ (State.watchLapse s half t th) := by
  unfold State.watchLapse
  repeat' first
    | intro _ | with_reducible exact hK | with_reducible assumption | with_reducible exact Keeps.refl _
    | with_reducible apply State.setWatch_keeps | with_reducible apply Keeps.ite | split
    | (refine Keeps.of_eq (by assumption) ?_) | (dsimp only; split)

theorem State.releaseArrive_keeps {s₀ : State} {s : State} {t : TileId} (hK : Keeps s₀ s) :
    Keeps s₀ (State.releaseArrive s t) := by
  unfold State.releaseArrive
  repeat' first
    | intro _ | with_reducible exact hK | with_reducible assumption | with_reducible exact Keeps.refl _
    | with_reducible apply State.modThr_keeps | with_reducible apply State.dropFlit_keeps
    | with_reducible apply Keeps.ite | split | (refine Keeps.of_eq (by assumption) ?_) | (dsimp only; split)
    | with_reducible apply Keeps.updTop

theorem State.evalWatches_keeps {s₀ : State} {s : State} (hK : Keeps s₀ s) :
    Keeps s₀ (State.evalWatches s) := by
  unfold State.evalWatches
  repeat' first
    | intro _ | with_reducible exact hK | with_reducible assumption | with_reducible exact Keeps.refl _
    | with_reducible apply Keeps.ite | with_reducible apply Keeps.ite1 | split
    | (refine Keeps.of_eq (by assumption) ?_) | (dsimp only; split) | with_reducible apply Keeps.updTop

theorem State.evalWatchers_keeps {s₀ : State} {s : State} (hK : Keeps s₀ s) :
    Keeps s₀ (State.evalWatchers s) := by
  unfold State.evalWatchers
  repeat' first
    | intro _ | with_reducible exact hK | with_reducible assumption | with_reducible exact Keeps.refl _
    | with_reducible apply State.setReg_keeps | with_reducible apply Keeps.ite | with_reducible apply Keeps.foldl
    | split | (refine Keeps.of_eq (by assumption) ?_) | (dsimp only; split)

theorem State.evalWaits_keeps {s₀ : State} {s : State} {t : TileId} (hK : Keeps s₀ s) :
    Keeps s₀ (State.evalWaits s t) := by
  unfold State.evalWaits
  repeat' first
    | intro _ | with_reducible exact hK | with_reducible assumption | with_reducible exact Keeps.refl _
    | with_reducible apply State.modThr_keeps | with_reducible apply Keeps.ite | with_reducible apply Keeps.foldl
    | split | (refine Keeps.of_eq (by assumption) ?_) | (dsimp only; split) | with_reducible apply Keeps.updTop

theorem State.regSync_keeps {s₀ : State} {s : State} {m : Master} {a obj : Nat} {arm : Bool} {v : Word} (hK : Keeps s₀ s) :
    Keeps s₀ (State.regSync s m a obj arm v) := by
  unfold State.regSync
  repeat' first
    | intro _ | with_reducible exact hK | with_reducible assumption | with_reducible exact Keeps.refl _
    | with_reducible apply State.regRefuse_keeps | with_reducible apply State.dropSync_keeps
    | with_reducible apply State.applySync_keeps | with_reducible apply Keeps.ite | split
    | (refine Keeps.of_eq (by assumption) ?_) | (dsimp only; split)

theorem State.syncCountWrite_keeps {s₀ : State} {s : State} {m : Master} {n : Nat} {v : Word} (hK : Keeps s₀ s) :
    Keeps s₀ (State.syncCountWrite s m n v) := by
  unfold State.syncCountWrite
  repeat' first
    | intro _ | with_reducible exact hK | with_reducible assumption | with_reducible exact Keeps.refl _
    | with_reducible apply State.regGate_keeps | with_reducible apply State.regSync_keeps

theorem State.syncAddWrite_keeps {s₀ : State} {s : State} {m : Master} {n : Nat} {v : Word} (hK : Keeps s₀ s) :
    Keeps s₀ (State.syncAddWrite s m n v) := by
  unfold State.syncAddWrite
  repeat' first
    | intro _ | with_reducible exact hK | with_reducible assumption | with_reducible exact Keeps.refl _
    | with_reducible apply State.regGate_keeps | with_reducible apply State.regSync_keeps

theorem State.lsyncWrite_keeps {s₀ : State} {s : State} {m : Master} {t : TileId} {k : Nat} {v : Word} (hK : Keeps s₀ s) :
    Keeps s₀ (State.lsyncWrite s m t k v) := by
  unfold State.lsyncWrite
  repeat' first
    | intro _ | with_reducible exact hK | with_reducible assumption | with_reducible exact Keeps.refl _
    | with_reducible apply State.regRefuse_keeps | with_reducible apply State.regGate_keeps
    | with_reducible apply State.dropSync_keeps | with_reducible apply State.applySync_keeps
    | with_reducible apply Keeps.ite | split | (refine Keeps.of_eq (by assumption) ?_) | (dsimp only; split)

theorem State.paceWrite_keeps {s₀ : State} {s : State} {m : Master} {v : Word} (hK : Keeps s₀ s) :
    Keeps s₀ (State.paceWrite s m v) := by
  unfold State.paceWrite
  repeat' first
    | intro _ | with_reducible exact hK | with_reducible assumption | with_reducible exact Keeps.refl _
    | with_reducible apply State.regRefuse_keeps | with_reducible apply State.regGate_keeps
    | with_reducible apply State.dropSync_keeps | with_reducible apply State.applySync_keeps
    | with_reducible apply Keeps.ite | split | (refine Keeps.of_eq (by assumption) ?_) | (dsimp only; split)

theorem State.watchCfgWrite_keeps {s₀ : State} {s : State} {m : Master} {w : Nat} {target : Bool} {v : Word} (hK : Keeps s₀ s) :
    Keeps s₀ (State.watchCfgWrite s m w target v) := by
  unfold State.watchCfgWrite
  repeat' first
    | intro _ | with_reducible exact hK | with_reducible assumption | with_reducible exact Keeps.refl _
    | with_reducible apply State.setReg_keeps | with_reducible apply State.regGate_keeps
    | with_reducible apply Keeps.ite | split | (refine Keeps.of_eq (by assumption) ?_) | (dsimp only; split)
    | with_reducible apply Keeps.updTop

end Sys2Proof.Machine
end

