-- ==== Sys2Proof/Laws/KeepsControl.lean ====
section
/-!
SUPPORT. What the operations of Machine/Control.lean keep (Laws/Keeps.lean).
-/

namespace Sys2Proof.Machine

theorem cSlot_keeps {s₀ : State} {legal : Bool} {effect : State → SlotOut} {s : State} {y : Thread} {w : SlotWord} (hK : Keeps s₀ s) (hkeffect : ∀ x0, Keeps s₀ x0 → Keeps s₀ (effect x0).st) :
    Keeps s₀ (cSlot legal effect s y w).st := by
  unfold cSlot
  repeat' first
    | intro _ | with_reducible exact hK | with_reducible assumption | with_reducible exact Keeps.refl _
    | (with_reducible apply hkeffect) | with_reducible apply SlotOut.done_keeps
    | with_reducible apply SlotOut.illegal_keeps | with_reducible apply Keeps.ite | split
    | (refine Keeps.of_eq (by assumption) ?_) | (dsimp only; split)

theorem State.syncIssue_keeps {s₀ : State} {s : State} {t : TileId} {th : ThreadId} {obj : Nat} {arm : Bool} {v : Word} (hK : Keeps s₀ s) :
    Keeps s₀ (State.syncIssue s t th obj arm v).st := by
  unfold State.syncIssue
  repeat' first
    | intro _ | with_reducible exact hK | with_reducible assumption | with_reducible exact Keeps.refl _
    | with_reducible apply State.modThr_keeps | with_reducible apply State.sendBy_keeps
    | with_reducible apply State.trace_keeps | with_reducible apply State.applySync_keeps
    | with_reducible apply SlotOut.done_keeps | with_reducible apply SlotOut.raise_keeps
    | with_reducible apply Keeps.ite | with_reducible apply Keeps.ite1 | split
    | (refine Keeps.of_eq (by assumption) ?_) | (dsimp only; split) | with_reducible apply Keeps.updTop

theorem sigSlot_keeps {s₀ : State} {z0 : State} {z1 : TileId} {z2 : ThreadId} {z3 : Thread} {z4 : SlotWord} (hK : Keeps s₀ z0) :
    Keeps s₀ (sigSlot z0 z1 z2 z3 z4).st := by
  unfold sigSlot
  repeat' first
    | intro _ | with_reducible exact hK | with_reducible assumption | with_reducible exact Keeps.refl _
    | with_reducible apply cSlot_keeps | with_reducible apply State.syncIssue_keeps | with_reducible apply Keeps.ite
    | split | (refine Keeps.of_eq (by assumption) ?_) | (dsimp only; split)

theorem armSlot_keeps {s₀ : State} {z0 : State} {z1 : TileId} {z2 : ThreadId} {z3 : Thread} {z4 : SlotWord} (hK : Keeps s₀ z0) :
    Keeps s₀ (armSlot z0 z1 z2 z3 z4).st := by
  unfold armSlot
  repeat' first
    | intro _ | with_reducible exact hK | with_reducible assumption | with_reducible exact Keeps.refl _
    | with_reducible apply cSlot_keeps | with_reducible apply State.syncIssue_keeps

theorem waitSlot_keeps {s₀ : State} {z0 : State} {z1 : TileId} {z2 : ThreadId} {z3 : Thread} {z4 : SlotWord} (hK : Keeps s₀ z0) :
    Keeps s₀ (waitSlot z0 z1 z2 z3 z4).st := by
  unfold waitSlot
  repeat' first
    | intro _ | with_reducible exact hK | with_reducible assumption | with_reducible exact Keeps.refl _
    | with_reducible apply State.modThr_keeps | with_reducible apply State.sendBy_keeps
    | with_reducible apply State.trace_keeps | with_reducible apply SlotOut.done_keeps
    | with_reducible apply SlotOut.raise_keeps | with_reducible apply cSlot_keeps | with_reducible apply Keeps.ite
    | split | (refine Keeps.of_eq (by assumption) ?_) | (dsimp only; split) | with_reducible apply Keeps.updTop

theorem State.waitComplete_keeps {s₀ : State} {s : State} {t : TileId} {th : ThreadId} (hK : Keeps s₀ s) :
    Keeps s₀ (State.waitComplete s t th) := by
  unfold State.waitComplete
  repeat' first
    | intro _ | with_reducible exact hK | with_reducible assumption | with_reducible exact Keeps.refl _
    | with_reducible apply State.setReg_keeps | with_reducible apply State.modThr_keeps
    | with_reducible apply State.trace_keeps | with_reducible apply Keeps.ite | split
    | (refine Keeps.of_eq (by assumption) ?_) | (dsimp only; split)

theorem State.slipNow_keeps {s₀ : State} {s : State} {t : TileId} {th : ThreadId} (hK : Keeps s₀ s) :
    Keeps s₀ (State.slipNow s t th) := by
  unfold State.slipNow
  repeat' first
    | intro _ | with_reducible exact hK | with_reducible assumption | with_reducible exact Keeps.refl _
    | with_reducible apply State.modTile_keeps | with_reducible apply State.modThr_keeps
    | with_reducible apply State.tickFlag_keeps | with_reducible apply State.tileFault_keeps
    | with_reducible apply State.absorb_keeps | with_reducible apply State.trace_keeps
    | with_reducible apply Keeps.ite | split | (refine Keeps.of_eq (by assumption) ?_) | (dsimp only; split)
    | with_reducible apply Keeps.updTop

theorem lchkSlot_keeps {s₀ : State} {z0 : State} {z1 : TileId} {z2 : ThreadId} {z3 : Thread} {z4 : SlotWord} (hK : Keeps s₀ z0) :
    Keeps s₀ (lchkSlot z0 z1 z2 z3 z4).st := by
  unfold lchkSlot
  repeat' first
    | intro _ | with_reducible exact hK | with_reducible assumption | with_reducible exact Keeps.refl _
    | with_reducible apply State.modTile_keeps | with_reducible apply State.countNdet_keeps
    | with_reducible apply State.sendAsync_keeps | with_reducible apply State.trace_keeps
    | with_reducible apply SlotOut.done_keeps | with_reducible apply SlotOut.raise_keeps
    | with_reducible apply cSlot_keeps | with_reducible apply Keeps.ite | split
    | (refine Keeps.of_eq (by assumption) ?_) | (dsimp only; split)

theorem creditGrantSlot_keeps {s₀ : State} {z0 : State} {z1 : TileId} {z2 : ThreadId} {z3 : Thread} {z4 : SlotWord} (hK : Keeps s₀ z0) :
    Keeps s₀ (creditGrantSlot z0 z1 z2 z3 z4).st := by
  unfold creditGrantSlot
  repeat' first
    | intro _ | with_reducible exact hK | with_reducible assumption | with_reducible exact Keeps.refl _
    | with_reducible apply State.sendBy_keeps | with_reducible apply SlotOut.done_keeps
    | with_reducible apply SlotOut.raise_keeps | with_reducible apply cSlot_keeps | with_reducible apply Keeps.ite
    | split | (refine Keeps.of_eq (by assumption) ?_) | (dsimp only; split)

theorem State.swapHandles_keeps {s₀ : State} {s : State} {t : TileId} (hK : Keeps s₀ s) :
    Keeps s₀ (State.swapHandles s t) := by
  unfold State.swapHandles
  repeat' first
    | intro _ | with_reducible exact hK | with_reducible assumption | with_reducible exact Keeps.refl _
    | with_reducible apply State.modReg_keeps

theorem hswapSlot_keeps {s₀ : State} {z0 : State} {z1 : TileId} {z2 : ThreadId} {z3 : Thread} {z4 : SlotWord} (hK : Keeps s₀ z0) :
    Keeps s₀ (hswapSlot z0 z1 z2 z3 z4).st := by
  unfold hswapSlot
  repeat' first
    | intro _ | with_reducible exact hK | with_reducible assumption | with_reducible exact Keeps.refl _
    | with_reducible apply SlotOut.done_keeps | with_reducible apply cSlot_keeps
    | with_reducible apply State.swapHandles_keeps

theorem scalarSlot_keeps {s₀ : State} {g : Word → Word → Word} {z0 : State} {z1 : TileId} {z2 : ThreadId} {z3 : Thread} {z4 : SlotWord} (hK : Keeps s₀ z0) :
    Keeps s₀ (scalarSlot g z0 z1 z2 z3 z4).st := by
  unfold scalarSlot
  repeat' first
    | intro _ | with_reducible exact hK | with_reducible assumption | with_reducible exact Keeps.refl _
    | with_reducible apply State.modThr_keeps | with_reducible apply SlotOut.done_keeps
    | with_reducible apply cSlot_keeps

theorem saddSlot_keeps {s₀ : State} {z0 : State} {z1 : TileId} {z2 : ThreadId} {z3 : Thread} {z4 : SlotWord} (hK : Keeps s₀ z0) :
    Keeps s₀ (saddSlot z0 z1 z2 z3 z4).st := by
  unfold saddSlot
  repeat' first
    | intro _ | with_reducible exact hK | with_reducible assumption | with_reducible exact Keeps.refl _
    | with_reducible apply scalarSlot_keeps

theorem ssubSlot_keeps {s₀ : State} {z0 : State} {z1 : TileId} {z2 : ThreadId} {z3 : Thread} {z4 : SlotWord} (hK : Keeps s₀ z0) :
    Keeps s₀ (ssubSlot z0 z1 z2 z3 z4).st := by
  unfold ssubSlot
  repeat' first
    | intro _ | with_reducible exact hK | with_reducible assumption | with_reducible exact Keeps.refl _
    | with_reducible apply scalarSlot_keeps

theorem sandSlot_keeps {s₀ : State} {z0 : State} {z1 : TileId} {z2 : ThreadId} {z3 : Thread} {z4 : SlotWord} (hK : Keeps s₀ z0) :
    Keeps s₀ (sandSlot z0 z1 z2 z3 z4).st := by
  unfold sandSlot
  repeat' first
    | intro _ | with_reducible exact hK | with_reducible assumption | with_reducible exact Keeps.refl _
    | with_reducible apply scalarSlot_keeps

theorem sorSlot_keeps {s₀ : State} {z0 : State} {z1 : TileId} {z2 : ThreadId} {z3 : Thread} {z4 : SlotWord} (hK : Keeps s₀ z0) :
    Keeps s₀ (sorSlot z0 z1 z2 z3 z4).st := by
  unfold sorSlot
  repeat' first
    | intro _ | with_reducible exact hK | with_reducible assumption | with_reducible exact Keeps.refl _
    | with_reducible apply scalarSlot_keeps

theorem sxorSlot_keeps {s₀ : State} {z0 : State} {z1 : TileId} {z2 : ThreadId} {z3 : Thread} {z4 : SlotWord} (hK : Keeps s₀ z0) :
    Keeps s₀ (sxorSlot z0 z1 z2 z3 z4).st := by
  unfold sxorSlot
  repeat' first
    | intro _ | with_reducible exact hK | with_reducible assumption | with_reducible exact Keeps.refl _
    | with_reducible apply scalarSlot_keeps

theorem sshlSlot_keeps {s₀ : State} {z0 : State} {z1 : TileId} {z2 : ThreadId} {z3 : Thread} {z4 : SlotWord} (hK : Keeps s₀ z0) :
    Keeps s₀ (sshlSlot z0 z1 z2 z3 z4).st := by
  unfold sshlSlot
  repeat' first
    | intro _ | with_reducible exact hK | with_reducible assumption | with_reducible exact Keeps.refl _
    | with_reducible apply scalarSlot_keeps

theorem sshrSlot_keeps {s₀ : State} {z0 : State} {z1 : TileId} {z2 : ThreadId} {z3 : Thread} {z4 : SlotWord} (hK : Keeps s₀ z0) :
    Keeps s₀ (sshrSlot z0 z1 z2 z3 z4).st := by
  unfold sshrSlot
  repeat' first
    | intro _ | with_reducible exact hK | with_reducible assumption | with_reducible exact Keeps.refl _
    | with_reducible apply scalarSlot_keeps

theorem smulSlot_keeps {s₀ : State} {z0 : State} {z1 : TileId} {z2 : ThreadId} {z3 : Thread} {z4 : SlotWord} (hK : Keeps s₀ z0) :
    Keeps s₀ (smulSlot z0 z1 z2 z3 z4).st := by
  unfold smulSlot
  repeat' first
    | intro _ | with_reducible exact hK | with_reducible assumption | with_reducible exact Keeps.refl _
    | with_reducible apply scalarSlot_keeps

theorem sliSlot_keeps {s₀ : State} {z0 : State} {z1 : TileId} {z2 : ThreadId} {z3 : Thread} {z4 : SlotWord} (hK : Keeps s₀ z0) :
    Keeps s₀ (sliSlot z0 z1 z2 z3 z4).st := by
  unfold sliSlot
  repeat' first
    | intro _ | with_reducible exact hK | with_reducible assumption | with_reducible exact Keeps.refl _
    | with_reducible apply State.modThr_keeps | with_reducible apply SlotOut.done_keeps
    | with_reducible apply cSlot_keeps

theorem sluiSlot_keeps {s₀ : State} {z0 : State} {z1 : TileId} {z2 : ThreadId} {z3 : Thread} {z4 : SlotWord} (hK : Keeps s₀ z0) :
    Keeps s₀ (sluiSlot z0 z1 z2 z3 z4).st := by
  unfold sluiSlot
  repeat' first
    | intro _ | with_reducible exact hK | with_reducible assumption | with_reducible exact Keeps.refl _
    | with_reducible apply State.modThr_keeps | with_reducible apply SlotOut.done_keeps
    | with_reducible apply cSlot_keeps

theorem scmpSlot_keeps {s₀ : State} {z0 : State} {z1 : TileId} {z2 : ThreadId} {z3 : Thread} {z4 : SlotWord} (hK : Keeps s₀ z0) :
    Keeps s₀ (scmpSlot z0 z1 z2 z3 z4).st := by
  unfold scmpSlot
  repeat' first
    | intro _ | with_reducible exact hK | with_reducible assumption | with_reducible exact Keeps.refl _
    | with_reducible apply State.modThr_keeps | with_reducible apply SlotOut.done_keeps
    | with_reducible apply SlotOut.illegal_keeps | with_reducible apply cSlot_keeps | with_reducible apply Keeps.ite
    | split | (refine Keeps.of_eq (by assumption) ?_) | (dsimp only; split)

theorem plogSlot_keeps {s₀ : State} {z0 : State} {z1 : TileId} {z2 : ThreadId} {z3 : Thread} {z4 : SlotWord} (hK : Keeps s₀ z0) :
    Keeps s₀ (plogSlot z0 z1 z2 z3 z4).st := by
  unfold plogSlot
  repeat' first
    | intro _ | with_reducible exact hK | with_reducible assumption | with_reducible exact Keeps.refl _
    | with_reducible apply State.modThr_keeps | with_reducible apply SlotOut.done_keeps
    | with_reducible apply cSlot_keeps

theorem brSlot_keeps {s₀ : State} {z0 : State} {z1 : TileId} {z2 : ThreadId} {z3 : Thread} {z4 : SlotWord} (hK : Keeps s₀ z0) :
    Keeps s₀ (brSlot z0 z1 z2 z3 z4).st := by
  unfold brSlot
  repeat' first
    | intro _ | with_reducible exact hK | with_reducible assumption | with_reducible exact Keeps.refl _
    | with_reducible apply State.modThr_keeps | with_reducible apply SlotOut.done_keeps
    | with_reducible apply cSlot_keeps | with_reducible apply Keeps.updTop

theorem loopSlot_keeps {s₀ : State} {z0 : State} {z1 : TileId} {z2 : ThreadId} {z3 : Thread} {z4 : SlotWord} (hK : Keeps s₀ z0) :
    Keeps s₀ (loopSlot z0 z1 z2 z3 z4).st := by
  unfold loopSlot
  repeat' first
    | intro _ | with_reducible exact hK | with_reducible assumption | with_reducible exact Keeps.refl _
    | with_reducible apply State.modThr_keeps | with_reducible apply SlotOut.done_keeps
    | with_reducible apply cSlot_keeps | with_reducible apply Keeps.ite | split
    | (refine Keeps.of_eq (by assumption) ?_) | (dsimp only; split) | with_reducible apply Keeps.updTop

theorem rdcSlot_keeps {s₀ : State} {z0 : State} {z1 : TileId} {z2 : ThreadId} {z3 : Thread} {z4 : SlotWord} (hK : Keeps s₀ z0) :
    Keeps s₀ (rdcSlot z0 z1 z2 z3 z4).st := by
  unfold rdcSlot
  repeat' first
    | intro _ | with_reducible exact hK | with_reducible assumption | with_reducible exact Keeps.refl _
    | with_reducible apply State.modThr_keeps | with_reducible apply SlotOut.done_keeps
    | with_reducible apply cSlot_keeps

theorem holdSlot_keeps {s₀ : State} {z0 : State} {z1 : TileId} {z2 : ThreadId} {z3 : Thread} {z4 : SlotWord} (hK : Keeps s₀ z0) :
    Keeps s₀ (holdSlot z0 z1 z2 z3 z4).st := by
  unfold holdSlot
  repeat' first
    | intro _ | with_reducible exact hK | with_reducible assumption | with_reducible exact Keeps.refl _
    | with_reducible apply State.modThr_keeps | with_reducible apply SlotOut.done_keeps
    | with_reducible apply cSlot_keeps | with_reducible apply Keeps.ite | split
    | (refine Keeps.of_eq (by assumption) ?_) | (dsimp only; split) | with_reducible apply Keeps.updTop

theorem endSlot_keeps {s₀ : State} {z0 : State} {z1 : TileId} {z2 : ThreadId} {z3 : Thread} {z4 : SlotWord} (hK : Keeps s₀ z0) :
    Keeps s₀ (endSlot z0 z1 z2 z3 z4).st := by
  unfold endSlot
  repeat' first
    | intro _ | with_reducible exact hK | with_reducible assumption | with_reducible exact Keeps.refl _
    | with_reducible apply State.modThr_keeps | with_reducible apply State.trace_keeps
    | with_reducible apply SlotOut.done_keeps | with_reducible apply cSlot_keeps | with_reducible apply Keeps.updTop

end Sys2Proof.Machine
end

