-- ==== Sys2Proof/Laws/KeepsMesh.lean ====
section
/-!
SUPPORT. What the operations of Machine/Mesh.lean keep (Laws/Keeps.lean).
-/

namespace Sys2Proof.Machine

theorem State.markUsed_keeps {s₀ : State} {s : State} {r out : Nat} {f : Flit} (hK : Keeps s₀ s) :
    Keeps s₀ (State.markUsed s r out f) := by
  unfold State.markUsed
  repeat' first
    | intro _ | with_reducible exact hK | with_reducible assumption | with_reducible exact Keeps.refl _
    | with_reducible apply Keeps.updTop

theorem State.putFlit_keeps {s₀ : State} {s : State} {f : Flit} (hK : Keeps s₀ s) :
    Keeps s₀ (State.putFlit s f) := by
  unfold State.putFlit
  repeat' first
    | intro _ | with_reducible exact hK | with_reducible assumption | with_reducible exact Keeps.refl _
    | with_reducible apply Keeps.ite | split | (refine Keeps.of_eq (by assumption) ?_) | (dsimp only; split)
    | with_reducible apply Keeps.updTop

theorem State.crossLink_keeps {s₀ : State} {s : State} {r out : Nat} {f : Flit} (hK : Keeps s₀ s) :
    Keeps s₀ (State.crossLink s r out f) := by
  unfold State.crossLink
  repeat' first
    | intro _ | with_reducible exact hK | with_reducible assumption | with_reducible exact Keeps.refl _
    | with_reducible apply State.incReg_keeps | with_reducible apply State.markUsed_keeps
    | with_reducible apply State.putFlit_keeps | with_reducible apply Keeps.ite | split
    | (refine Keeps.of_eq (by assumption) ?_) | (dsimp only; split) | with_reducible apply Keeps.updTop

theorem State.enterAll_keeps {s₀ : State} {s : State} {r out : Nat} {l : MeshLane} (hK : Keeps s₀ s) :
    Keeps s₀ (State.enterAll s r out l) := by
  unfold State.enterAll
  repeat' first
    | intro _ | with_reducible exact hK | with_reducible assumption | with_reducible exact Keeps.refl _
    | with_reducible apply State.markUsed_keeps | with_reducible apply State.putFlit_keeps
    | with_reducible apply Keeps.ite | with_reducible apply Keeps.foldl | split
    | (refine Keeps.of_eq (by assumption) ?_) | (dsimp only; split) | with_reducible apply Keeps.updTop

theorem State.meshForward_keeps {s₀ : State} {s : State} {r out : Nat} {l : MeshLane} (hK : Keeps s₀ s) :
    Keeps s₀ (State.meshForward s r out l) := by
  unfold State.meshForward
  repeat' first
    | intro _ | with_reducible exact hK | with_reducible assumption | with_reducible exact Keeps.refl _
    | with_reducible apply State.crossLink_keeps | with_reducible apply State.enterAll_keeps
    | with_reducible apply Keeps.ite | split | (refine Keeps.of_eq (by assumption) ?_) | (dsimp only; split)
    | with_reducible apply Keeps.updTop

theorem State.countHold_keeps {s₀ : State} {s : State} {r : Nat} (hK : Keeps s₀ s) :
    Keeps s₀ (State.countHold s r) := by
  unfold State.countHold
  repeat' first
    | intro _ | with_reducible exact hK | with_reducible assumption | with_reducible exact Keeps.refl _
    | with_reducible apply State.incReg_keeps | with_reducible apply Keeps.ite | split
    | (refine Keeps.of_eq (by assumption) ?_) | (dsimp only; split)

theorem State.injectData_keeps {s₀ : State} {viol : State → Flit → State} {s : State} {f : Flit} (hK : Keeps s₀ s) (hkviol : ∀ x0 x1, Keeps s₀ x0 → Keeps s₀ (viol x0 x1)) :
    Keeps s₀ (State.injectData viol s f) := by
  unfold State.injectData
  repeat' first
    | intro _ | with_reducible exact hK | with_reducible assumption | with_reducible exact Keeps.refl _
    | (with_reducible apply hkviol) | with_reducible apply State.noteSent_keeps
    | with_reducible apply State.dropFlit_keeps | with_reducible apply State.putFlit_keeps
    | with_reducible apply Keeps.ite | split | (refine Keeps.of_eq (by assumption) ?_) | (dsimp only; split)
    | with_reducible apply Keeps.updTop

theorem State.remoteFault_keeps {s₀ : State} {s : State} {t : TileId} {h : Nat} (hK : Keeps s₀ s) :
    Keeps s₀ (State.remoteFault s t h) := by
  unfold State.remoteFault
  repeat' first
    | intro _ | with_reducible exact hK | with_reducible assumption | with_reducible exact Keeps.refl _
    | with_reducible apply State.post_keeps | with_reducible apply State.tileFault_keeps
    | with_reducible apply Keeps.ite | split | (refine Keeps.of_eq (by assumption) ?_) | (dsimp only; split)

theorem State.remoteArrive_keeps {s₀ : State} {s : State} {t : TileId} (hK : Keeps s₀ s) :
    Keeps s₀ (State.remoteArrive s t) := by
  unfold State.remoteArrive
  repeat' first
    | intro _ | with_reducible exact hK | with_reducible assumption | with_reducible exact Keeps.refl _
    | with_reducible apply State.writeClaimed_keeps | with_reducible apply State.countNdet_keeps
    | with_reducible apply State.writeNarrow_keeps | with_reducible apply State.useWide_keeps
    | with_reducible apply State.tileFault_keeps | with_reducible apply State.dropFlit_keeps
    | with_reducible apply State.fixStore_keeps | with_reducible apply State.remoteFault_keeps
    | with_reducible apply Keeps.ite | with_reducible apply Keeps.ite1 | split
    | (refine Keeps.of_eq (by assumption) ?_) | (dsimp only; split) | with_reducible apply Keeps.updTop

theorem State.grantArrive_keeps {s₀ : State} {s : State} {t : TileId} (hK : Keeps s₀ s) :
    Keeps s₀ (State.grantArrive s t) := by
  unfold State.grantArrive
  repeat' first
    | intro _ | with_reducible exact hK | with_reducible assumption | with_reducible exact Keeps.refl _
    | with_reducible apply State.setReg_keeps | with_reducible apply State.modTile_keeps
    | with_reducible apply State.post_keeps | with_reducible apply State.tileFault_keeps
    | with_reducible apply State.dropFlit_keeps | with_reducible apply Keeps.ite | split
    | (refine Keeps.of_eq (by assumption) ?_) | (dsimp only; split) | with_reducible apply Keeps.updTop

end Sys2Proof.Machine
end

