-- ==== Sys2Proof/Laws/KeepsHostOps.lean ====
section
/-!
SUPPORT. What the operations of Machine/HostOps.lean keep (Laws/Keeps.lean).
-/

namespace Sys2Proof.Machine

theorem State.setQ_keeps {s₀ : State} {s : State} {q : Nat} {x : Queue} (hK : Keeps s₀ s) :
    Keeps s₀ (State.setQ s q x) := by
  unfold State.setQ
  repeat' first
    | intro _ | with_reducible exact hK | with_reducible assumption | with_reducible exact Keeps.refl _
    | with_reducible apply Keeps.updTop

theorem State.modQ_keeps {s₀ : State} {s : State} {q : Nat} {f : Queue → Queue} (hK : Keeps s₀ s) :
    Keeps s₀ (State.modQ s q f) := by
  unfold State.modQ
  repeat' first
    | intro _ | with_reducible exact hK | with_reducible assumption | with_reducible exact Keeps.refl _
    | with_reducible apply State.setQ_keeps

theorem State.modEntry_keeps {s₀ : State} {s : State} {q serial : Nat} {f : Entry → Entry} (hK : Keeps s₀ s) :
    Keeps s₀ (State.modEntry s q serial f) := by
  unfold State.modEntry
  repeat' first
    | intro _ | with_reducible exact hK | with_reducible assumption | with_reducible exact Keeps.refl _
    | with_reducible apply State.modQ_keeps | with_reducible apply Keeps.ite | split
    | (refine Keeps.of_eq (by assumption) ?_) | (dsimp only; split) | with_reducible apply Keeps.updTop

theorem State.endPlan_keeps {s₀ : State} {s : State} {o : Option (Nat × Nat)} {st detail : Nat} (hK : Keeps s₀ s) :
    Keeps s₀ (State.endPlan s o st detail) := by
  unfold State.endPlan
  repeat' first
    | intro _ | with_reducible exact hK | with_reducible assumption | with_reducible exact Keeps.refl _
    | with_reducible apply SlotOut.done_keeps | with_reducible apply State.modEntry_keeps
    | with_reducible apply Keeps.ite | split | (refine Keeps.of_eq (by assumption) ?_) | (dsimp only; split)
    | with_reducible apply Keeps.updTop

theorem State.fresh64_keeps {s₀ : State} {s : State} (hK : Keeps s₀ s) :
    Keeps s₀ (State.fresh64 s).2 := by
  unfold State.fresh64
  repeat' first
    | intro _ | with_reducible exact hK | with_reducible assumption | with_reducible exact Keeps.refl _
    | with_reducible apply State.fresh_keeps

end Sys2Proof.Machine
end

