-- ==== Sys2Proof/Laws/KeepsLadle.lean ====
section
/-!
SUPPORT. What the operations of Machine/Ladle.lean keep (Laws/Keeps.lean).
-/

namespace Sys2Proof.Machine

theorem State.modLad_keeps {s₀ : State} {s : State} {l : Fin 16} {f : Ladle → Ladle} (hK : Keeps s₀ s) :
    Keeps s₀ (State.modLad s l f) := by
  unfold State.modLad
  repeat' first
    | intro _ | with_reducible exact hK | with_reducible assumption | with_reducible exact Keeps.refl _
    | with_reducible apply Keeps.updTop

theorem State.ladleFault_keeps {s₀ : State} {s : State} {l : Nat} {code level addr : Nat} (hK : Keeps s₀ s) :
    Keeps s₀ (State.ladleFault s l code level addr) := by
  unfold State.ladleFault
  repeat' first
    | intro _ | with_reducible exact hK | with_reducible assumption | with_reducible exact Keeps.refl _
    | with_reducible apply State.bell_keeps | with_reducible apply State.post_keeps

theorem State.ladleSlotFault_keeps {s₀ : State} {s : State} {l addr : Nat} (hK : Keeps s₀ s) :
    Keeps s₀ (State.ladleSlotFault s l addr) := by
  unfold State.ladleSlotFault
  repeat' first
    | intro _ | with_reducible exact hK | with_reducible assumption | with_reducible exact Keeps.refl _
    | with_reducible apply State.variantLevel_keeps | with_reducible apply State.ladleFault_keeps

theorem State.ladleSend_keeps {s₀ : State} {s : State} {l : Nat} {body : Payload} {lane : MeshLane} {cls : SlotClass} {dst port h : Nat} (hK : Keeps s₀ s) :
    Keeps s₀ (State.ladleSend s l body lane cls dst port h) := by
  unfold State.ladleSend
  repeat' first
    | intro _ | with_reducible exact hK | with_reducible assumption | with_reducible exact Keeps.refl _
    | with_reducible apply State.sendFrame_keeps

theorem State.takeEntry_keeps {s₀ : State} {s : State} {b : Band} (hK : Keeps s₀ s) :
    Keeps s₀ (State.takeEntry s b) := by
  unfold State.takeEntry
  repeat' first
    | intro _ | with_reducible exact hK | with_reducible assumption | with_reducible exact Keeps.refl _
    | with_reducible apply State.satReg_keeps | with_reducible apply State.modEntry_keeps
    | with_reducible apply Keeps.ite | split | (refine Keeps.of_eq (by assumption) ?_) | (dsimp only; split)
    | with_reducible apply Keeps.updTop

theorem State.bandLeave_keeps {s₀ : State} {s : State} {l : Nat} {b : Band} (hK : Keeps s₀ s) :
    Keeps s₀ (State.bandLeave s l b).1 := by
  unfold State.bandLeave
  repeat' first
    | intro _ | with_reducible exact hK | with_reducible assumption | with_reducible exact Keeps.refl _
    | with_reducible apply State.setReg_keeps | with_reducible apply State.satReg_keeps
    | with_reducible apply State.variantLevel_keeps | with_reducible apply State.ladleFault_keeps
    | with_reducible apply Keeps.ite | with_reducible apply Keeps.ite1 | split
    | (refine Keeps.of_eq (by assumption) ?_) | (dsimp only; split) | with_reducible apply Keeps.updTop

theorem State.bandStart_keeps {s₀ : State} {s : State} {l : Fin 16} {b : Band} (hK : Keeps s₀ s) :
    Keeps s₀ (State.bandStart s l b) := by
  unfold State.bandStart
  repeat' first
    | intro _ | with_reducible exact hK | with_reducible assumption | with_reducible exact Keeps.refl _
    | with_reducible apply State.modLad_keeps | with_reducible apply State.takeEntry_keeps
    | with_reducible apply State.bandLeave_keeps | with_reducible apply Keeps.ite | with_reducible apply Keeps.ite1
    | with_reducible apply Keeps.foldl | with_reducible apply Keeps.foldl1 | split
    | (refine Keeps.of_eq (by assumption) ?_) | (dsimp only; split) | with_reducible apply Keeps.updTop

theorem State.setRun_keeps {s₀ : State} {s : State} {l : Fin 16} {r : BandRun} (hK : Keeps s₀ s) :
    Keeps s₀ (State.setRun s l r) := by
  unfold State.setRun
  repeat' first
    | intro _ | with_reducible exact hK | with_reducible assumption | with_reducible exact Keeps.refl _
    | with_reducible apply State.modLad_keeps | with_reducible apply Keeps.ite | split
    | (refine Keeps.of_eq (by assumption) ?_) | (dsimp only; split) | with_reducible apply Keeps.updTop

theorem State.dropRun_keeps {s₀ : State} {s : State} {l : Fin 16} {id : Nat} (hK : Keeps s₀ s) :
    Keeps s₀ (State.dropRun s l id) := by
  unfold State.dropRun
  repeat' first
    | intro _ | with_reducible exact hK | with_reducible assumption | with_reducible exact Keeps.refl _
    | with_reducible apply State.modLad_keeps | with_reducible apply Keeps.updTop

theorem State.bandIssue_keeps {s₀ : State} {s : State} {l : Fin 16} {b : Nat} (hK : Keeps s₀ s) :
    Keeps s₀ (State.bandIssue s l b) := by
  unfold State.bandIssue
  repeat' first
    | intro _ | with_reducible exact hK | with_reducible assumption | with_reducible exact Keeps.refl _
    | with_reducible apply State.bandStart_keeps | with_reducible apply Keeps.ite | split
    | (refine Keeps.of_eq (by assumption) ?_) | (dsimp only; split)

theorem State.nextRead_keeps {s₀ s u : State} {l : Fin 16} {copy : Bool} {p : Nat × Nat × (State → State)}
    (hp : s.nextRead l copy = some p) (hK : Keeps s₀ u) : Keeps s₀ (p.2.2 u) := by
  unfold State.nextRead at hp
  split at hp
  · split at hp
    · split at hp
      · split at hp
        · cases hp; exact State.hostRead_keeps hK
        · cases hp
      · cases hp
    · cases hp
  · obtain ⟨x, -, rfl⟩ := Option.map_eq_some_iff.1 hp
    exact State.setRun_keeps (State.hostRead_keeps hK)

theorem State.hostReadIssue_keeps {s₀ : State} {s : State} {l : Fin 16} {copy : Bool} (hK : Keeps s₀ s) :
    Keeps s₀ (State.hostReadIssue s l copy) := by
  unfold State.hostReadIssue
  split
  · exact hK
  · split
    · exact hK
    · rename_i a n go h
      dsimp only
      split
      · exact State.nextRead_keeps h (Keeps.updTop hK)
      · split
        · exact hK
        · exact Keeps.updTop hK

theorem State.lateOver_keeps {s₀ : State} {s : State} {l : Fin 16} {x : BandRun} (hK : Keeps s₀ s) :
    Keeps s₀ (State.lateOver s l x) := by
  unfold State.lateOver
  repeat' first
    | intro _ | with_reducible exact hK | with_reducible assumption | with_reducible exact Keeps.refl _
    | with_reducible apply State.dropRun_keeps | with_reducible apply Keeps.ite | split
    | (refine Keeps.of_eq (by assumption) ?_) | (dsimp only; split)

theorem State.landData_keeps {s₀ : State} {s : State} {l : Fin 16} {run first : Nat} {r : HostRead} {ok : Bool} {data : List Byte} (hK : Keeps s₀ s) :
    Keeps s₀ (State.landData s l run first r ok data) := by
  unfold State.landData
  repeat' first
    | intro _ | with_reducible exact hK | with_reducible assumption | with_reducible exact Keeps.refl _
    | with_reducible apply State.satReg_keeps | with_reducible apply State.modEntry_keeps
    | with_reducible apply State.ladleFault_keeps | with_reducible apply State.setRun_keeps
    | with_reducible apply State.lateOver_keeps | with_reducible apply Keeps.ite | with_reducible apply Keeps.ite1
    | with_reducible apply Keeps.foldl | with_reducible apply Keeps.foldl1 | split
    | (refine Keeps.of_eq (by assumption) ?_) | (dsimp only; split) | with_reducible apply Keeps.updTop

theorem State.pictureOver_keeps {s₀ : State} {s : State} {l : Nat} {p : Nat × Nat} (hK : Keeps s₀ s) :
    Keeps s₀ (State.pictureOver s l p) := by
  unfold State.pictureOver
  repeat' first
    | intro _ | with_reducible exact hK | with_reducible assumption | with_reducible exact Keeps.refl _
    | with_reducible apply State.sendAsync_keeps | with_reducible apply State.modEntry_keeps
    | with_reducible apply Keeps.ite | with_reducible apply Keeps.ite1 | with_reducible apply Keeps.foldl
    | with_reducible apply Keeps.foldl1 | split | (refine Keeps.of_eq (by assumption) ?_) | (dsimp only; split)
    | with_reducible apply Keeps.updTop

theorem State.runDrained_keeps {s₀ : State} {s : State} {l : Fin 16} {r : BandRun} (hK : Keeps s₀ s) :
    Keeps s₀ (State.runDrained s l r) := by
  unfold State.runDrained
  repeat' first
    | intro _ | with_reducible exact hK | with_reducible assumption | with_reducible exact Keeps.refl _
    | with_reducible apply State.modEntry_keeps | with_reducible apply State.setRun_keeps
    | with_reducible apply State.dropRun_keeps | with_reducible apply State.pictureOver_keeps
    | with_reducible apply Keeps.ite | with_reducible apply Keeps.ite1 | split
    | (refine Keeps.of_eq (by assumption) ?_) | (dsimp only; split) | with_reducible apply Keeps.updTop

theorem State.completionPost_keeps {s₀ : State} {s : State} {q : Nat} (hK : Keeps s₀ s) :
    Keeps s₀ (State.completionPost s q) := by
  unfold State.completionPost
  repeat' first
    | intro _ | with_reducible exact hK | with_reducible assumption | with_reducible exact Keeps.refl _
    | with_reducible apply SlotOut.done_keeps | with_reducible apply State.modEntry_keeps
    | with_reducible apply Keeps.ite | split | (refine Keeps.of_eq (by assumption) ?_) | (dsimp only; split)
    | with_reducible apply Keeps.updTop

theorem State.markStream_keeps {s₀ : State} {s : State} {st : Nat} {odd late : Bool} (hK : Keeps s₀ s) :
    Keeps s₀ (State.markStream s st odd late) := by
  unfold State.markStream
  repeat' first
    | intro _ | with_reducible exact hK | with_reducible assumption | with_reducible exact Keeps.refl _
    | with_reducible apply State.modQ_keeps | with_reducible apply Keeps.ite | with_reducible apply Keeps.foldl
    | split | (refine Keeps.of_eq (by assumption) ?_) | (dsimp only; split) | with_reducible apply Keeps.updTop

theorem State.degradeArrive_keeps {s₀ : State} {s : State} (hK : Keeps s₀ s) :
    Keeps s₀ (State.degradeArrive s) := by
  unfold State.degradeArrive
  repeat' first
    | intro _ | with_reducible exact hK | with_reducible assumption | with_reducible exact Keeps.refl _
    | with_reducible apply State.satReg_keeps | with_reducible apply State.dropFlit_keeps
    | with_reducible apply State.markStream_keeps | with_reducible apply Keeps.ite | split
    | (refine Keeps.of_eq (by assumption) ?_) | (dsimp only; split) | with_reducible apply Keeps.updTop

theorem State.lateArrive_keeps {s₀ : State} {s : State} (hK : Keeps s₀ s) :
    Keeps s₀ (State.lateArrive s) := by
  unfold State.lateArrive
  repeat' first
    | intro _ | with_reducible exact hK | with_reducible assumption | with_reducible exact Keeps.refl _
    | with_reducible apply State.dropFlit_keeps | with_reducible apply State.markStream_keeps
    | with_reducible apply Keeps.ite | split | (refine Keeps.of_eq (by assumption) ?_) | (dsimp only; split)
    | with_reducible apply Keeps.updTop

theorem State.fenceArrive_keeps {s₀ : State} {s : State} {t : TileId} (hK : Keeps s₀ s) :
    Keeps s₀ (State.fenceArrive s t) := by
  unfold State.fenceArrive
  repeat' first
    | intro _ | with_reducible exact hK | with_reducible assumption | with_reducible exact Keeps.refl _
    | with_reducible apply State.sendAsync_keeps | with_reducible apply State.dropFlit_keeps
    | with_reducible apply Keeps.ite | split | (refine Keeps.of_eq (by assumption) ?_) | (dsimp only; split)
    | with_reducible apply Keeps.updTop

theorem State.fenceAcked_keeps {s₀ : State} {s : State} (hK : Keeps s₀ s) :
    Keeps s₀ (State.fenceAcked s) := by
  unfold State.fenceAcked
  repeat' first
    | intro _ | with_reducible exact hK | with_reducible assumption | with_reducible exact Keeps.refl _
    | with_reducible apply State.dropFlit_keeps | with_reducible apply State.modEntry_keeps
    | with_reducible apply Keeps.ite | with_reducible apply Keeps.foldl | split
    | (refine Keeps.of_eq (by assumption) ?_) | (dsimp only; split) | with_reducible apply Keeps.updTop

theorem State.resolveBand_keeps {s₀ : State} {s : State} {l : Nat} {r : BandRun} {rd : Bool} (hK : Keeps s₀ s) :
    Keeps s₀ (State.resolveBand s l r rd) := by
  unfold State.resolveBand
  repeat' first
    | intro _ | with_reducible exact hK | with_reducible assumption | with_reducible exact Keeps.refl _
    | with_reducible apply State.ladleFault_keeps | with_reducible apply Keeps.ite | with_reducible apply Keeps.ite1
    | with_reducible apply Keeps.foldl | with_reducible apply Keeps.foldl1 | split
    | (refine Keeps.of_eq (by assumption) ?_) | (dsimp only; split)

theorem State.landingSlot_keeps {s₀ : State} {s : State} {l : Fin 16} (hK : Keeps s₀ s) :
    Keeps s₀ (State.landingSlot s l) := by
  unfold State.landingSlot
  repeat' first
    | intro _ | with_reducible exact hK | with_reducible assumption | with_reducible exact Keeps.refl _
    | with_reducible apply State.ladleSlotFault_keeps | with_reducible apply State.ladleSend_keeps
    | with_reducible apply State.setRun_keeps | with_reducible apply State.resolveBand_keeps
    | with_reducible apply Keeps.ite | split | (refine Keeps.of_eq (by assumption) ?_) | (dsimp only; split)
    | with_reducible apply Keeps.updTop

theorem State.commitSend_keeps {s₀ : State} {s : State} {l : Nat} {c : Commit} (hK : Keeps s₀ s) :
    Keeps s₀ (State.commitSend s l c) := by
  unfold State.commitSend
  repeat' first
    | intro _ | with_reducible exact hK | with_reducible assumption | with_reducible exact Keeps.refl _
    | with_reducible apply State.ladleSlotFault_keeps | with_reducible apply State.ladleSend_keeps
    | with_reducible apply Keeps.ite | split | (refine Keeps.of_eq (by assumption) ?_) | (dsimp only; split)

theorem State.commitRun_keeps {s₀ : State} {s : State} {l : Fin 16} {r : BandRun} (hK : Keeps s₀ s) :
    Keeps s₀ (State.commitRun s l r) := by
  unfold State.commitRun
  repeat' first
    | intro _ | with_reducible exact hK | with_reducible assumption | with_reducible exact Keeps.refl _
    | with_reducible apply SlotOut.done_keeps | with_reducible apply State.setRun_keeps
    | with_reducible apply State.dropRun_keeps | with_reducible apply State.pictureOver_keeps
    | with_reducible apply State.commitSend_keeps | with_reducible apply Keeps.ite | with_reducible apply Keeps.foldl
    | split | (refine Keeps.of_eq (by assumption) ?_) | (dsimp only; split) | with_reducible apply Keeps.updTop

theorem State.bandCommit_keeps {s₀ : State} {s : State} {l : Fin 16} (hK : Keeps s₀ s) :
    Keeps s₀ (State.bandCommit s l) := by
  unfold State.bandCommit
  repeat' first
    | intro _ | with_reducible exact hK | with_reducible assumption | with_reducible exact Keeps.refl _
    | with_reducible apply State.commitRun_keeps | with_reducible apply Keeps.ite | with_reducible apply Keeps.foldl
    | split | (refine Keeps.of_eq (by assumption) ?_) | (dsimp only; split)

theorem State.writeoutRun_keeps {s₀ : State} {s : State} {l : Fin 16} (hK : Keeps s₀ s) :
    Keeps s₀ (State.writeoutRun s l).1 := by
  unfold State.writeoutRun
  repeat' first
    | intro _ | with_reducible exact hK | with_reducible assumption | with_reducible exact Keeps.refl _
    | with_reducible apply State.bandStart_keeps | with_reducible apply Keeps.ite | with_reducible apply Keeps.ite1
    | split | (refine Keeps.of_eq (by assumption) ?_) | (dsimp only; split)

theorem State.skipPart_keeps {s₀ : State} {s : State} {l : Fin 16} {r : BandRun} {k : Nat} (hK : Keeps s₀ s) :
    Keeps s₀ (State.skipPart s l r k) := by
  unfold State.skipPart
  repeat' first
    | intro _ | with_reducible exact hK | with_reducible assumption | with_reducible exact Keeps.refl _
    | with_reducible apply State.satReg_keeps | with_reducible apply State.modEntry_keeps
    | with_reducible apply State.ladleFault_keeps | with_reducible apply State.runDrained_keeps
    | with_reducible apply Keeps.ite | split | (refine Keeps.of_eq (by assumption) ?_) | (dsimp only; split)
    | with_reducible apply Keeps.updTop

theorem State.writeoutSlot_keeps {s₀ : State} {s : State} {l : Fin 16} (hK : Keeps s₀ s) :
    Keeps s₀ (State.writeoutSlot s l) := by
  unfold State.writeoutSlot
  repeat' first
    | intro _ | with_reducible exact hK | with_reducible assumption | with_reducible exact Keeps.refl _
    | with_reducible apply State.ladleSlotFault_keeps | with_reducible apply State.ladleSend_keeps
    | with_reducible apply State.setRun_keeps | with_reducible apply State.runDrained_keeps
    | with_reducible apply State.resolveBand_keeps | with_reducible apply State.writeoutRun_keeps
    | with_reducible apply State.skipPart_keeps | with_reducible apply Keeps.ite | split
    | (refine Keeps.of_eq (by assumption) ?_) | (dsimp only; split) | with_reducible apply Keeps.updTop

theorem State.writeoutData_keeps {s₀ : State} {s : State} {l : Fin 16} {run k a : Nat} {bs : List Byte} {bad : List Bool} (hK : Keeps s₀ s) :
    Keeps s₀ (State.writeoutData s l run k a bs bad) := by
  unfold State.writeoutData
  repeat' first
    | intro _ | with_reducible exact hK | with_reducible assumption | with_reducible exact Keeps.refl _
    | with_reducible apply State.modEntry_keeps | with_reducible apply State.setRun_keeps
    | with_reducible apply State.runDrained_keeps | with_reducible apply Keeps.ite | with_reducible apply Keeps.ite1
    | split | (refine Keeps.of_eq (by assumption) ?_) | (dsimp only; split) | with_reducible apply Keeps.updTop

theorem State.bandWrite_keeps {s₀ : State} {s : State} {l : Fin 16} (hK : Keeps s₀ s) :
    Keeps s₀ (State.bandWrite s l) := by
  unfold State.bandWrite
  repeat' first
    | intro _ | with_reducible exact hK | with_reducible assumption | with_reducible exact Keeps.refl _
    | with_reducible apply State.hostWrite_keeps | with_reducible apply SlotOut.done_keeps
    | with_reducible apply State.modEntry_keeps | with_reducible apply State.runDrained_keeps
    | with_reducible apply Keeps.ite | split | (refine Keeps.of_eq (by assumption) ?_) | (dsimp only; split)
    | with_reducible apply Keeps.updTop

end Sys2Proof.Machine
end

