-- ==== Sys2Proof/Laws/KeepsCopy.lean ====
section
/-!
SUPPORT. What the operations of Machine/Copy.lean keep (Laws/Keeps.lean).
-/

namespace Sys2Proof.Machine

theorem State.setCopy_keeps {s₀ : State} {s : State} {l : Fin 16} {c : CopyRun} (hK : Keeps s₀ s) :
    Keeps s₀ (State.setCopy s l c) := by
  unfold State.setCopy
  repeat' first
    | intro _ | with_reducible exact hK | with_reducible assumption | with_reducible exact Keeps.refl _
    | with_reducible apply State.modLad_keeps | with_reducible apply Keeps.updTop

theorem State.copyRead_keeps {s₀ : State} {s : State} {l : Fin 16} {c : CopyRun} {host : Bool} {a n : Nat} (hK : Keeps s₀ s) :
    Keeps s₀ (State.copyRead s l c host a n) := by
  unfold State.copyRead
  repeat' first
    | intro _ | with_reducible exact hK | with_reducible assumption | with_reducible exact Keeps.refl _
    | with_reducible apply State.narrowRead_keeps | with_reducible apply State.setCopy_keeps
    | with_reducible apply Keeps.ite | split | (refine Keeps.of_eq (by assumption) ?_) | (dsimp only; split)
    | with_reducible apply Keeps.updTop

theorem State.copyWrite_keeps {s₀ : State} {s : State} {l : Fin 16} {c : CopyRun} {host : Bool} {a : Nat} {bs : List Byte} (hK : Keeps s₀ s) :
    Keeps s₀ (State.copyWrite s l c host a bs) := by
  unfold State.copyWrite
  repeat' first
    | intro _ | with_reducible exact hK | with_reducible assumption | with_reducible exact Keeps.refl _
    | with_reducible apply State.narrowWrite_keeps | with_reducible apply State.setCopy_keeps
    | with_reducible apply Keeps.ite | split | (refine Keeps.of_eq (by assumption) ?_) | (dsimp only; split)
    | with_reducible apply Keeps.updTop

theorem State.copyEnd_keeps {s₀ : State} {s : State} {l : Fin 16} {c : CopyRun} {status block : Nat} (hK : Keeps s₀ s) :
    Keeps s₀ (State.copyEnd s l c status block) := by
  unfold State.copyEnd
  repeat' first
    | intro _ | with_reducible exact hK | with_reducible assumption | with_reducible exact Keeps.refl _
    | with_reducible apply State.satReg_keeps | with_reducible apply State.ladleFault_keeps
    | with_reducible apply State.setCopy_keeps | with_reducible apply Keeps.ite | split
    | (refine Keeps.of_eq (by assumption) ?_) | (dsimp only; split) | with_reducible apply Keeps.updTop

theorem State.copyBlock_keeps {s₀ : State} {s : State} {l : Fin 16} {c : CopyRun} {b off : Nat} (hK : Keeps s₀ s) :
    Keeps s₀ (State.copyBlock s l c b off) := by
  unfold State.copyBlock
  repeat' first
    | intro _ | with_reducible exact hK | with_reducible assumption | with_reducible exact Keeps.refl _
    | with_reducible apply State.copyRead_keeps | with_reducible apply State.copyEnd_keeps
    | with_reducible apply Keeps.ite | split | (refine Keeps.of_eq (by assumption) ?_) | (dsimp only; split)
    | with_reducible apply Keeps.updTop

theorem State.copyRowPart_keeps {s₀ : State} {s : State} {l : Fin 16} {c : CopyRun} {k off : Nat} (hK : Keeps s₀ s) :
    Keeps s₀ (State.copyRowPart s l c k off) := by
  unfold State.copyRowPart
  repeat' first
    | intro _ | with_reducible exact hK | with_reducible assumption | with_reducible exact Keeps.refl _
    | with_reducible apply State.copyWrite_keeps | with_reducible apply State.copyEnd_keeps
    | with_reducible apply Keeps.ite | split | (refine Keeps.of_eq (by assumption) ?_) | (dsimp only; split)
    | with_reducible apply Keeps.updTop

theorem State.copyIndexFault_keeps {s₀ : State} {s : State} {l : Fin 16} {c : CopyRun} {k : Nat} (hK : Keeps s₀ s) :
    Keeps s₀ (State.copyIndexFault s l c k) := by
  unfold State.copyIndexFault
  repeat' first
    | intro _ | with_reducible exact hK | with_reducible assumption | with_reducible exact Keeps.refl _
    | with_reducible apply State.setReg_keeps | with_reducible apply State.satReg_keeps
    | with_reducible apply State.ladleFault_keeps | with_reducible apply State.copyEnd_keeps
    | with_reducible apply State.copyRowPart_keeps | with_reducible apply Keeps.ite | split
    | (refine Keeps.of_eq (by assumption) ?_) | (dsimp only; split) | with_reducible apply Keeps.updTop

theorem State.copyIndex_keeps {s₀ : State} {s : State} {l : Fin 16} {c : CopyRun} {k : Nat} (hK : Keeps s₀ s) :
    Keeps s₀ (State.copyIndex s l c k) := by
  unfold State.copyIndex
  repeat' first
    | intro _ | with_reducible exact hK | with_reducible assumption | with_reducible exact Keeps.refl _
    | with_reducible apply State.copyRead_keeps | with_reducible apply State.copyEnd_keeps
    | with_reducible apply State.copyIndexFault_keeps | with_reducible apply Keeps.ite | split
    | (refine Keeps.of_eq (by assumption) ?_) | (dsimp only; split) | with_reducible apply Keeps.updTop

theorem State.copyRowOut_keeps {s₀ : State} {s : State} {l : Fin 16} {c : CopyRun} {k off : Nat} (hK : Keeps s₀ s) :
    Keeps s₀ (State.copyRowOut s l c k off) := by
  unfold State.copyRowOut
  repeat' first
    | intro _ | with_reducible exact hK | with_reducible assumption | with_reducible exact Keeps.refl _
    | with_reducible apply State.copyRowPart_keeps | with_reducible apply State.copyIndex_keeps
    | with_reducible apply Keeps.ite | split | (refine Keeps.of_eq (by assumption) ?_) | (dsimp only; split)

theorem State.copyRow_keeps {s₀ : State} {s : State} {l : Fin 16} {c : CopyRun} {k off : Nat} (hK : Keeps s₀ s) :
    Keeps s₀ (State.copyRow s l c k off) := by
  unfold State.copyRow
  repeat' first
    | intro _ | with_reducible exact hK | with_reducible assumption | with_reducible exact Keeps.refl _
    | with_reducible apply State.copyRead_keeps | with_reducible apply State.copyIndexFault_keeps
    | with_reducible apply Keeps.ite | split | (refine Keeps.of_eq (by assumption) ?_) | (dsimp only; split)
    | with_reducible apply Keeps.updTop

theorem State.copyGiveBack_keeps {s₀ : State} {s : State} {l : Fin 16} {c : CopyRun} (hK : Keeps s₀ s) :
    Keeps s₀ (State.copyGiveBack s l c) := by
  unfold State.copyGiveBack
  repeat' first
    | intro _ | with_reducible exact hK | with_reducible assumption | with_reducible exact Keeps.refl _
    | with_reducible apply State.modEntry_keeps | with_reducible apply State.modLad_keeps
    | with_reducible apply Keeps.ite | split | (refine Keeps.of_eq (by assumption) ?_) | (dsimp only; split)
    | with_reducible apply Keeps.updTop

theorem State.copyBegin_keeps {s₀ : State} {s : State} {l : Fin 16} {c : CopyRun} (hK : Keeps s₀ s) :
    Keeps s₀ (State.copyBegin s l c) := by
  unfold State.copyBegin
  repeat' first
    | intro _ | with_reducible exact hK | with_reducible assumption | with_reducible exact Keeps.refl _
    | with_reducible apply State.copyBlock_keeps | with_reducible apply State.copyIndex_keeps
    | with_reducible apply Keeps.ite | split | (refine Keeps.of_eq (by assumption) ?_) | (dsimp only; split)

theorem State.copyGot_keeps {s₀ : State} {s : State} {l : Fin 16} {c : CopyRun} (hK : Keeps s₀ s) :
    Keeps s₀ (State.copyGot s l c) := by
  unfold State.copyGot
  repeat' first
    | intro _ | with_reducible exact hK | with_reducible assumption | with_reducible exact Keeps.refl _
    | with_reducible apply State.satReg_keeps | with_reducible apply State.ladleFault_keeps
    | with_reducible apply State.setCopy_keeps | with_reducible apply State.copyRead_keeps
    | with_reducible apply State.copyWrite_keeps | with_reducible apply State.copyEnd_keeps
    | with_reducible apply State.copyIndexFault_keeps | with_reducible apply State.copyRowOut_keeps
    | with_reducible apply State.copyRow_keeps | with_reducible apply State.copyGiveBack_keeps
    | with_reducible apply State.copyBegin_keeps | with_reducible apply Keeps.ite | split
    | (refine Keeps.of_eq (by assumption) ?_) | (dsimp only; split) | with_reducible apply Keeps.updTop

theorem State.copyWrote_keeps {s₀ : State} {s : State} {l : Fin 16} {c : CopyRun} (hK : Keeps s₀ s) :
    Keeps s₀ (State.copyWrote s l c) := by
  unfold State.copyWrote
  repeat' first
    | intro _ | with_reducible exact hK | with_reducible assumption | with_reducible exact Keeps.refl _
    | with_reducible apply State.copyBlock_keeps | with_reducible apply State.copyRowOut_keeps
    | with_reducible apply Keeps.ite | split | (refine Keeps.of_eq (by assumption) ?_) | (dsimp only; split)

theorem State.copyData_keeps {s₀ : State} {s : State} {l : Fin 16} {a : Nat} {bs : List Byte} {bad : Nat} (hK : Keeps s₀ s) :
    Keeps s₀ (State.copyData s l a bs bad) := by
  unfold State.copyData
  repeat' first
    | intro _ | with_reducible exact hK | with_reducible assumption | with_reducible exact Keeps.refl _
    | with_reducible apply State.setCopy_keeps | with_reducible apply State.copyGot_keeps
    | with_reducible apply Keeps.ite | with_reducible apply Keeps.ite1 | with_reducible apply Keeps.foldl
    | with_reducible apply Keeps.foldl1 | split | (refine Keeps.of_eq (by assumption) ?_) | (dsimp only; split)
    | with_reducible apply Keeps.updTop

theorem State.copyWriteDone_keeps {s₀ : State} {s : State} {l : Fin 16} (hK : Keeps s₀ s) :
    Keeps s₀ (State.copyWriteDone s l) := by
  unfold State.copyWriteDone
  repeat' first
    | intro _ | with_reducible exact hK | with_reducible assumption | with_reducible exact Keeps.refl _
    | with_reducible apply State.setCopy_keeps | with_reducible apply State.copyWrote_keeps
    | with_reducible apply Keeps.ite | split | (refine Keeps.of_eq (by assumption) ?_) | (dsimp only; split)
    | with_reducible apply Keeps.updTop

theorem State.noteEligible_keeps {s₀ : State} {s : State} (hK : Keeps s₀ s) :
    Keeps s₀ (State.noteEligible s) := by
  unfold State.noteEligible
  repeat' first
    | intro _ | with_reducible exact hK | with_reducible assumption | with_reducible exact Keeps.refl _
    | with_reducible apply Keeps.ite | with_reducible apply Keeps.foldl | split
    | (refine Keeps.of_eq (by assumption) ?_) | (dsimp only; split) | with_reducible apply Keeps.updTop

theorem State.copyGrant_keeps {s₀ : State} {s : State} {l : Fin 16} (hK : Keeps s₀ s) :
    Keeps s₀ (State.copyGrant s l) := by
  unfold State.copyGrant
  repeat' first
    | intro _ | with_reducible exact hK | with_reducible assumption | with_reducible exact Keeps.refl _
    | with_reducible apply State.setReg_keeps | with_reducible apply State.modEntry_keeps
    | with_reducible apply State.copyRead_keeps | with_reducible apply State.copyEnd_keeps
    | with_reducible apply Keeps.ite | split | (refine Keeps.of_eq (by assumption) ?_) | (dsimp only; split)
    | with_reducible apply Keeps.updTop

theorem State.copyLeft_keeps {s₀ : State} {s : State} {l : Fin 16} (hK : Keeps s₀ s) :
    Keeps s₀ (State.copyLeft s l) := by
  unfold State.copyLeft
  repeat' first
    | intro _ | with_reducible exact hK | with_reducible assumption | with_reducible exact Keeps.refl _
    | with_reducible apply State.copyBegin_keeps | with_reducible apply Keeps.ite | split
    | (refine Keeps.of_eq (by assumption) ?_) | (dsimp only; split) | with_reducible apply Keeps.updTop

theorem State.copySignal_keeps {s₀ : State} {s : State} {l : Nat} {raw : List Byte} (hK : Keeps s₀ s) :
    Keeps s₀ (State.copySignal s l raw) := by
  unfold State.copySignal
  repeat' first
    | intro _ | with_reducible exact hK | with_reducible assumption | with_reducible exact Keeps.refl _
    | with_reducible apply State.sendAsync_keeps | with_reducible apply Keeps.ite | split
    | (refine Keeps.of_eq (by assumption) ?_) | (dsimp only; split)

theorem State.copyComplete_keeps {s₀ : State} {s : State} {l : Fin 16} (hK : Keeps s₀ s) :
    Keeps s₀ (State.copyComplete s l) := by
  unfold State.copyComplete
  repeat' first
    | intro _ | with_reducible exact hK | with_reducible assumption | with_reducible exact Keeps.refl _
    | with_reducible apply State.setReg_keeps | with_reducible apply State.bellVia_keeps
    | with_reducible apply State.sramWrite_keeps | with_reducible apply SlotOut.done_keeps
    | with_reducible apply State.modEntry_keeps | with_reducible apply State.modLad_keeps
    | with_reducible apply State.copySignal_keeps | with_reducible apply Keeps.ite | split
    | (refine Keeps.of_eq (by assumption) ?_) | (dsimp only; split) | with_reducible apply Keeps.updTop

theorem State.hostWriteIssue_keeps {s₀ : State} {s : State} {l : Fin 16} {copy : Bool} (hK : Keeps s₀ s) :
    Keeps s₀ (State.hostWriteIssue s l copy) := by
  unfold State.hostWriteIssue
  repeat' first
    | intro _ | with_reducible exact hK | with_reducible assumption | with_reducible exact Keeps.refl _
    | with_reducible apply State.hostWrite_keeps | with_reducible apply State.bandWrite_keeps
    | with_reducible apply State.copyWrote_keeps | with_reducible apply Keeps.ite | split
    | (refine Keeps.of_eq (by assumption) ?_) | (dsimp only; split) | with_reducible apply Keeps.updTop

theorem State.completionAer_keeps {s₀ : State} {s : State} {tag : Nat} {ok : Bool} {data : List Byte} (hK : Keeps s₀ s) :
    Keeps s₀ (State.completionAer s tag ok data) := by
  unfold State.completionAer
  repeat' first
    | intro _ | with_reducible exact hK | with_reducible assumption | with_reducible exact Keeps.refl _
    | with_reducible apply State.aer_keeps | with_reducible apply Keeps.ite | split
    | (refine Keeps.of_eq (by assumption) ?_) | (dsimp only; split)

theorem State.readEnd_keeps {s₀ : State} {s : State} {tag : Nat} {ok : Bool} {data : List Byte} (hK : Keeps s₀ s) :
    Keeps s₀ (State.readEnd s tag ok data) := by
  unfold State.readEnd
  repeat' first
    | intro _ | with_reducible exact hK | with_reducible assumption | with_reducible exact Keeps.refl _
    | with_reducible apply State.landData_keeps | with_reducible apply State.copyData_keeps
    | with_reducible apply Keeps.ite | split | (refine Keeps.of_eq (by assumption) ?_) | (dsimp only; split)
    | with_reducible apply Keeps.updTop

theorem State.readTimeout_keeps {s₀ : State} {s : State} {tag : Nat} (hK : Keeps s₀ s) :
    Keeps s₀ (State.readTimeout s tag) := by
  unfold State.readTimeout
  repeat' first
    | intro _ | with_reducible exact hK | with_reducible assumption | with_reducible exact Keeps.refl _
    | with_reducible apply State.aer_keeps | with_reducible apply State.readEnd_keeps | with_reducible apply Keeps.ite
    | split | (refine Keeps.of_eq (by assumption) ?_) | (dsimp only; split)

theorem State.sringTail_keeps {s₀ : State} {s : State} {m : Master} {k : Nat} {v : Word} (hK : Keeps s₀ s) :
    Keeps s₀ (State.sringTail s m k v) := by
  unfold State.sringTail
  repeat' first
    | intro _ | with_reducible exact hK | with_reducible assumption | with_reducible exact Keeps.refl _
    | with_reducible apply State.setReg_keeps | with_reducible apply State.regGate_keeps

end Sys2Proof.Machine
end

