-- ==== Sys2Proof/Laws/KeepsMemory.lean ====
section
/-!
SUPPORT. What the operations of Machine/Memory.lean keep (Laws/Keeps.lean).
-/

namespace Sys2Proof.Machine

theorem State.sliceFault_keeps {s₀ : State} {s : State} {who : Purpose} {code a : Nat} (hK : Keeps s₀ s) :
    Keeps s₀ (State.sliceFault s who code a) := by
  unfold State.sliceFault
  repeat' first
    | intro _ | with_reducible exact hK | with_reducible assumption | with_reducible exact Keeps.refl _
    | with_reducible apply State.tileFault_keeps | with_reducible apply State.ladleSlotFault_keeps
    | with_reducible apply Keeps.ite | split | (refine Keeps.of_eq (by assumption) ?_) | (dsimp only; split)

theorem State.sliceSubst_keeps {s₀ : State} {s : State} {who : Purpose} {a n : Nat} (hK : Keeps s₀ s) :
    Keeps s₀ (State.sliceSubst s who a n) := by
  unfold State.sliceSubst
  repeat' first
    | intro _ | with_reducible exact hK | with_reducible assumption | with_reducible exact Keeps.refl _
    | with_reducible apply State.tileSubst_keeps | with_reducible apply State.deliver_keeps
    | with_reducible apply State.moveSubst_keeps | with_reducible apply Keeps.ite | with_reducible apply Keeps.foldl
    | split | (refine Keeps.of_eq (by assumption) ?_) | (dsimp only; split) | with_reducible apply Keeps.updTop

theorem State.vatReadRequest_keeps {s₀ : State} {s : State} {n : Nat} (hK : Keeps s₀ s) :
    Keeps s₀ (State.vatReadRequest s n) := by
  unfold State.vatReadRequest
  repeat' first
    | intro _ | with_reducible exact hK | with_reducible assumption | with_reducible exact Keeps.refl _
    | with_reducible apply State.addFlit_keeps | with_reducible apply State.readMem_keeps
    | with_reducible apply State.useWide_keeps | with_reducible apply State.dropFlit_keeps
    | with_reducible apply State.sliceFault_keeps | with_reducible apply State.sliceSubst_keeps
    | with_reducible apply Keeps.ite | with_reducible apply Keeps.foldl | split
    | (refine Keeps.of_eq (by assumption) ?_) | (dsimp only; split) | with_reducible apply Keeps.updTop

theorem State.injectAll_keeps {s₀ : State} {s : State} (hK : Keeps s₀ s) :
    Keeps s₀ (State.injectAll s) := by
  unfold State.injectAll
  repeat' first
    | intro _ | with_reducible exact hK | with_reducible assumption | with_reducible exact Keeps.refl _
    | with_reducible apply State.injectData_keeps | with_reducible apply State.sliceFault_keeps
    | with_reducible apply Keeps.ite | with_reducible apply Keeps.foldl | split
    | (refine Keeps.of_eq (by assumption) ?_) | (dsimp only; split)

theorem State.moveWritten_keeps {s₀ : State} {s : State} {t lane : Nat} (hK : Keeps s₀ s) :
    Keeps s₀ (State.moveWritten s t lane) := by
  unfold State.moveWritten
  repeat' first
    | intro _ | with_reducible exact hK | with_reducible assumption | with_reducible exact Keeps.refl _
    | with_reducible apply State.modTile_keeps | with_reducible apply Keeps.ite | split
    | (refine Keeps.of_eq (by assumption) ?_) | (dsimp only; split) | with_reducible apply Keeps.updTop

theorem State.vatWriteFlit_keeps {s₀ : State} {s : State} {n : Nat} (hK : Keeps s₀ s) :
    Keeps s₀ (State.vatWriteFlit s n) := by
  unfold State.vatWriteFlit
  repeat' first
    | intro _ | with_reducible exact hK | with_reducible assumption | with_reducible exact Keeps.refl _
    | with_reducible apply State.writeClaimed_keeps | with_reducible apply State.useWide_keeps
    | with_reducible apply State.dropFlit_keeps | with_reducible apply State.sliceFault_keeps
    | with_reducible apply State.moveWritten_keeps | with_reducible apply Keeps.ite | split
    | (refine Keeps.of_eq (by assumption) ?_) | (dsimp only; split) | with_reducible apply Keeps.updTop

theorem State.setPortQ_keeps {s₀ : State} {s : State} {p : Nat} {l : List NarrowReq} (hK : Keeps s₀ s) :
    Keeps s₀ (State.setPortQ s p l) := by
  unfold State.setPortQ
  repeat' first
    | intro _ | with_reducible exact hK | with_reducible assumption | with_reducible exact Keeps.refl _
    | with_reducible apply Keeps.updTop | with_reducible apply Keeps.updTopMem

theorem State.portFill_keeps {s₀ : State} {s : State} {p : Nat} (hK : Keeps s₀ s) :
    Keeps s₀ (State.portFill s p) := by
  unfold State.portFill
  repeat' first
    | intro _ | with_reducible exact hK | with_reducible assumption | with_reducible exact Keeps.refl _
    | with_reducible apply State.setPortQ_keeps | with_reducible apply Keeps.ite | split
    | (refine Keeps.of_eq (by assumption) ?_) | (dsimp only; split) | with_reducible apply Keeps.updTop

theorem State.narrowWrote_keeps {s₀ : State} {s : State} {who : Purpose} (hK : Keeps s₀ s) :
    Keeps s₀ (State.narrowWrote s who) := by
  unfold State.narrowWrote
  repeat' first
    | intro _ | with_reducible exact hK | with_reducible assumption | with_reducible exact Keeps.refl _
    | with_reducible apply State.copyWrite_keeps | with_reducible apply State.copyWriteDone_keeps
    | with_reducible apply State.moveWritten_keeps | with_reducible apply Keeps.ite | split
    | (refine Keeps.of_eq (by assumption) ?_) | (dsimp only; split) | with_reducible apply Keeps.updTop

theorem State.narrowDo_keeps {s₀ : State} {s : State} {p : Nat} {q : NarrowReq} (hK : Keeps s₀ s) :
    Keeps s₀ (State.narrowDo s p q) := by
  unfold State.narrowDo
  repeat' first
    | intro _ | with_reducible exact hK | with_reducible assumption | with_reducible exact Keeps.refl _
    | with_reducible apply State.countNdet_keeps | with_reducible apply State.sendAsync_keeps
    | with_reducible apply State.readMem_keeps | with_reducible apply State.writeNarrow_keeps
    | with_reducible apply State.useBank_keeps | with_reducible apply State.narrowWrote_keeps
    | with_reducible apply Keeps.ite | split | (refine Keeps.of_eq (by assumption) ?_) | (dsimp only; split)
    | with_reducible apply Keeps.updTop | with_reducible apply Keeps.updTopMem

theorem State.narrowPerform_keeps {s₀ : State} {s : State} {p : Nat} (hK : Keeps s₀ s) :
    Keeps s₀ (State.narrowPerform s p) := by
  unfold State.narrowPerform
  repeat' first
    | intro _ | with_reducible exact hK | with_reducible assumption | with_reducible exact Keeps.refl _
    | with_reducible apply State.setPortQ_keeps | with_reducible apply State.portFill_keeps
    | with_reducible apply State.narrowDo_keeps | with_reducible apply Keeps.ite | split
    | (refine Keeps.of_eq (by assumption) ?_) | (dsimp only; split) | with_reducible apply Keeps.updTop

theorem State.asyncPailDo_keeps {s₀ : State} {s : State} {t : TileId} {th : ThreadId} (hK : Keeps s₀ s) :
    Keeps s₀ (State.asyncPailDo s t th) := by
  unfold State.asyncPailDo
  repeat' first
    | intro _ | with_reducible exact hK | with_reducible assumption | with_reducible exact Keeps.refl _
    | with_reducible apply State.modThr_keeps | with_reducible apply State.countNdet_keeps
    | with_reducible apply State.pailPerform_keeps | with_reducible apply Keeps.ite | split
    | (refine Keeps.of_eq (by assumption) ?_) | (dsimp only; split) | with_reducible apply Keeps.updTop

theorem State.eccArm_keeps {s₀ : State} {s : State} {m : Master} {mem : Nat} {double : Bool} (hK : Keeps s₀ s) :
    Keeps s₀ (State.eccArm s m mem double) := by
  unfold State.eccArm
  repeat' first
    | intro _ | with_reducible exact hK | with_reducible assumption | with_reducible exact Keeps.refl _
    | with_reducible apply State.setReg_keeps | with_reducible apply State.regGate_keeps
    | with_reducible apply Keeps.ite | split | (refine Keeps.of_eq (by assumption) ?_) | (dsimp only; split)

theorem State.modCore_keeps {s₀ : State} {s : State} {k : Fin 4} {f : Steward → Steward} (hK : Keeps s₀ s) :
    Keeps s₀ (State.modCore s k f) := by
  unfold State.modCore
  repeat' first
    | intro _ | with_reducible exact hK | with_reducible assumption | with_reducible exact Keeps.refl _
    | with_reducible apply Keeps.updTop

theorem State.coreTrap_keeps {s₀ : State} {s : State} {k : Fin 4} {cause tval : Nat} (hK : Keeps s₀ s) :
    Keeps s₀ (State.coreTrap s k cause tval) := by
  unfold State.coreTrap
  repeat' first
    | intro _ | with_reducible exact hK | with_reducible assumption | with_reducible exact Keeps.refl _
    | with_reducible apply State.modCore_keeps

theorem State.debugDone_keeps {s₀ : State} {s : State} {d : Word} {err : Bool} (hK : Keeps s₀ s) :
    Keeps s₀ (State.debugDone s d err) := by
  unfold State.debugDone
  repeat' first
    | intro _ | with_reducible exact hK | with_reducible assumption | with_reducible exact Keeps.refl _
    | with_reducible apply Keeps.updTop | with_reducible apply Keeps.updTopMilk

theorem State.answerRead_keeps {s₀ : State} {s : State} {m : Master} {rd : Nat} {sgn : Bool} {a : Nat} {bs : List Byte} {err : Bool} {fetch : Bool} (hK : Keeps s₀ s) :
    Keeps s₀ (State.answerRead s m rd sgn a bs err fetch) := by
  unfold State.answerRead
  repeat' first
    | intro _ | with_reducible exact hK | with_reducible assumption | with_reducible exact Keeps.refl _
    | with_reducible apply State.emit_keeps | with_reducible apply State.hostAnswer_keeps
    | with_reducible apply State.modCore_keeps | with_reducible apply State.coreTrap_keeps
    | with_reducible apply State.debugDone_keeps | with_reducible apply Keeps.ite | split
    | (refine Keeps.of_eq (by assumption) ?_) | (dsimp only; split)

theorem State.refuseWrite_keeps {s₀ : State} {s : State} {m : Master} {a : Nat} (hK : Keeps s₀ s) :
    Keeps s₀ (State.refuseWrite s m a) := by
  unfold State.refuseWrite
  repeat' first
    | intro _ | with_reducible exact hK | with_reducible assumption | with_reducible exact Keeps.refl _
    | with_reducible apply State.emit_keeps | with_reducible apply State.coreTrap_keeps
    | with_reducible apply State.debugDone_keeps | with_reducible apply Keeps.ite | split
    | (refine Keeps.of_eq (by assumption) ?_) | (dsimp only; split)

theorem State.noAddress_keeps {s₀ : State} {s : State} {m : Master} {a : Nat} (hK : Keeps s₀ s) :
    Keeps s₀ (State.noAddress s m a) := by
  unfold State.noAddress
  repeat' first
    | intro _ | with_reducible exact hK | with_reducible assumption | with_reducible exact Keeps.refl _
    | with_reducible apply State.post_keeps | with_reducible apply Keeps.ite | split
    | (refine Keeps.of_eq (by assumption) ?_) | (dsimp only; split)

theorem State.beginAcc_keeps {s₀ : State} {s : State} {m : Master} {a n : Nat} {wr : Option (List Byte)} {rd : Nat} {sgn : Bool} {fetch : Bool} (hK : Keeps s₀ s) :
    Keeps s₀ (State.beginAcc s m a n wr rd sgn fetch) := by
  unfold State.beginAcc
  repeat' first
    | intro _ | with_reducible exact hK | with_reducible assumption | with_reducible exact Keeps.refl _
    | with_reducible apply State.narrowRead_keeps | with_reducible apply Keeps.ite | split
    | (refine Keeps.of_eq (by assumption) ?_) | (dsimp only; split) | with_reducible apply Keeps.updTop

theorem State.masterRead_keeps {s₀ : State} {s : State} {m : Master} {a n rd : Nat} {sgn : Bool} {fetch : Bool} (hK : Keeps s₀ s) :
    Keeps s₀ (State.masterRead s m a n rd sgn fetch) := by
  unfold State.masterRead
  repeat' first
    | intro _ | with_reducible exact hK | with_reducible assumption | with_reducible exact Keeps.refl _
    | with_reducible apply State.answerRead_keeps | with_reducible apply State.noAddress_keeps
    | with_reducible apply State.beginAcc_keeps | with_reducible apply Keeps.ite | split
    | (refine Keeps.of_eq (by assumption) ?_) | (dsimp only; split)

theorem State.masterWrite_keeps {s₀ : State} {s : State} {m : Master} {a : Nat} {bs : List Byte} (hK : Keeps s₀ s) :
    Keeps s₀ (State.masterWrite s m a bs) := by
  unfold State.masterWrite
  repeat' first
    | intro _ | with_reducible exact hK | with_reducible assumption | with_reducible exact Keeps.refl _
    | with_reducible apply State.narrowWrite_keeps | with_reducible apply State.refuseWrite_keeps
    | with_reducible apply State.noAddress_keeps | with_reducible apply State.beginAcc_keeps
    | with_reducible apply Keeps.ite | split | (refine Keeps.of_eq (by assumption) ?_) | (dsimp only; split)

theorem State.accDone_keeps {s₀ : State} {s : State} {c : Acc} (hK : Keeps s₀ s) :
    Keeps s₀ (State.accDone s c) := by
  unfold State.accDone
  repeat' first
    | intro _ | with_reducible exact hK | with_reducible assumption | with_reducible exact Keeps.refl _
    | with_reducible apply State.narrowWrite_keeps | with_reducible apply State.answerRead_keeps
    | with_reducible apply State.refuseWrite_keeps | with_reducible apply Keeps.ite | with_reducible apply Keeps.ite1
    | split | (refine Keeps.of_eq (by assumption) ?_) | (dsimp only; split) | with_reducible apply Keeps.updTop

theorem State.accData_keeps {s₀ : State} {s : State} {name a : Nat} {bs : List Byte} {bad : List Bool} (hK : Keeps s₀ s) :
    Keeps s₀ (State.accData s name a bs bad) := by
  unfold State.accData
  repeat' first
    | intro _ | with_reducible exact hK | with_reducible assumption | with_reducible exact Keeps.refl _
    | with_reducible apply State.accDone_keeps | with_reducible apply Keeps.ite | with_reducible apply Keeps.ite1
    | with_reducible apply Keeps.foldl | with_reducible apply Keeps.foldl1 | split
    | (refine Keeps.of_eq (by assumption) ?_) | (dsimp only; split) | with_reducible apply Keeps.updTop

end Sys2Proof.Machine
end

