-- ==== Sys2Proof/Laws/KeepsDomain.lean ====
section
/-!
SUPPORT. What the operations of Machine/Domain.lean keep (Laws/Keeps.lean).
-/

namespace Sys2Proof.Machine

theorem State.resetDomainRegs_keeps {s₀ : State} {s : State} {d : Nat} (hK : Keeps s₀ s) :
    Keeps s₀ (State.resetDomainRegs s d) := by
  unfold State.resetDomainRegs
  repeat' first
    | intro _ | with_reducible exact hK | with_reducible assumption | with_reducible exact Keeps.refl _
    | with_reducible apply State.resetRegs_keeps | with_reducible apply Keeps.foldl
    | with_reducible apply Keeps.foldl1

theorem State.resetFabricRegs_keeps {s₀ : State} {s : State} {sleep : Bool} (hK : Keeps s₀ s) :
    Keeps s₀ (State.resetFabricRegs s sleep) := by
  unfold State.resetFabricRegs
  repeat' first
    | intro _ | with_reducible exact hK | with_reducible assumption | with_reducible exact Keeps.refl _
    | with_reducible apply State.setReg_keeps | with_reducible apply State.resetDomainRegs_keeps
    | with_reducible apply Keeps.foldl | with_reducible apply Keeps.foldl1

theorem State.clearMem_keeps {s₀ : State} {s : State} {mem : Nat} (hK : Keeps s₀ s) :
    Keeps s₀ (State.clearMem s mem) := by
  unfold State.clearMem
  repeat' first
    | intro _ | with_reducible exact hK | with_reducible assumption | with_reducible exact Keeps.refl _
    | with_reducible apply Keeps.ite | split | (refine Keeps.of_eq (by assumption) ?_) | (dsimp only; split)
    | with_reducible apply Keeps.updTop | with_reducible apply Keeps.updTopMem

theorem State.setPd_keeps {s₀ : State} {s : State} {d : Nat} {on : Bool} (hK : Keeps s₀ s) :
    Keeps s₀ (State.setPd s d on) := by
  unfold State.setPd
  repeat' first
    | intro _ | with_reducible exact hK | with_reducible assumption | with_reducible exact Keeps.refl _
    | with_reducible apply State.modReg_keeps

theorem State.untrain_keeps {s₀ : State} {s : State} {o : Nat} (hK : Keeps s₀ s) :
    Keeps s₀ (State.untrain s o) := by
  unfold State.untrain
  repeat' first
    | intro _ | with_reducible exact hK | with_reducible assumption | with_reducible exact Keeps.refl _
    | with_reducible apply State.modReg_keeps

theorem State.fabricOff_keeps {s₀ : State} {s : State} {sleep : Bool} (hK : Keeps s₀ s) :
    Keeps s₀ (State.fabricOff s sleep) := by
  unfold State.fabricOff
  repeat' first
    | intro _ | with_reducible exact hK | with_reducible assumption | with_reducible exact Keeps.refl _
    | with_reducible apply State.fresh_keeps | with_reducible apply State.resetFabricRegs_keeps
    | with_reducible apply Keeps.ite | split | (refine Keeps.of_eq (by assumption) ?_) | (dsimp only; split)
    | with_reducible apply Keeps.updTop | with_reducible apply Keeps.updTopMem

theorem State.domainOff_keeps {s₀ : State} {s : State} {d : Nat} {sleep : Bool} (hK : Keeps s₀ s) :
    Keeps s₀ (State.domainOff s d sleep) := by
  unfold State.domainOff
  repeat' first
    | intro _ | with_reducible exact hK | with_reducible assumption | with_reducible exact Keeps.refl _
    | with_reducible apply State.setReg_keeps | with_reducible apply State.setTile_keeps
    | with_reducible apply State.resetDomainRegs_keeps | with_reducible apply State.clearMem_keeps
    | with_reducible apply State.setPd_keeps | with_reducible apply State.untrain_keeps
    | with_reducible apply State.fabricOff_keeps | with_reducible apply Keeps.ite | split
    | (refine Keeps.of_eq (by assumption) ?_) | (dsimp only; split) | with_reducible apply Keeps.updTop

theorem State.loadSubsys_keeps {s₀ : State} {s : State} (hK : Keeps s₀ s) :
    Keeps s₀ (State.loadSubsys s) := by
  unfold State.loadSubsys
  repeat' first
    | intro _ | with_reducible exact hK | with_reducible assumption | with_reducible exact Keeps.refl _
    | with_reducible apply State.setReg_keeps | with_reducible apply State.orReg_keeps

theorem State.loadFabric_keeps {s₀ : State} {s : State} (hK : Keeps s₀ s) :
    Keeps s₀ (State.loadFabric s) := by
  unfold State.loadFabric
  repeat' first
    | intro _ | with_reducible exact hK | with_reducible assumption | with_reducible exact Keeps.refl _
    | with_reducible apply State.setReg_keeps | with_reducible apply State.fresh_keeps
    | with_reducible apply Keeps.ite | with_reducible apply Keeps.foldl | split
    | (refine Keeps.of_eq (by assumption) ?_) | (dsimp only; split) | with_reducible apply Keeps.updTop

theorem State.loadTiming_keeps {s₀ : State} {s : State} (hK : Keeps s₀ s) :
    Keeps s₀ (State.loadTiming s) := by
  unfold State.loadTiming
  repeat' first
    | intro _ | with_reducible exact hK | with_reducible assumption | with_reducible exact Keeps.refl _
    | with_reducible apply State.setReg_keeps | with_reducible apply Keeps.foldl

theorem State.domainOn_keeps {s₀ : State} {s : State} {d : Nat} (hK : Keeps s₀ s) : Keeps s₀ (State.domainOn s d) := by
  have h := State.setPd_keeps (d := d) (on := true) hK
  have l : ∀ lo hi, Keeps s₀ { s.setPd d true with mem := (s.setPd d true).mem.lose lo hi } :=
    fun lo hi => h.updMem rfl (MemState.wf_lose _ lo hi) rfl rfl rfl rfl
  have r : ∀ n lo hi, Keeps s₀ { s.setPd d true with mem := ((s.setPd d true).mem.loadRows n).lose lo hi } :=
    fun n lo hi => h.updMem rfl (fun k => MemState.wf_lose _ lo hi k) rfl rfl rfl rfl
  unfold State.domainOn
  dsimp only
  split
  · exact l _ _
  · exact State.loadSubsys_keeps h
  · exact State.loadTiming_keeps h
  · exact State.loadFabric_keeps h
  · split
    · exact r _ _ _
    · split
      · exact r _ _ _
      · exact h

end Sys2Proof.Machine
end

