-- ==== Sys2Proof/Laws/KeepsTileCtl.lean ====
section
/-!
SUPPORT. What the operations of Machine/TileCtl.lean keep (Laws/Keeps.lean).
-/

namespace Sys2Proof.Machine

theorem State.threadStart_keeps {s₀ : State} {s : State} {m : Master} {t : TileId} {th : ThreadId} (hK : Keeps s₀ s) :
    Keeps s₀ (State.threadStart s m t th) := by
  unfold State.threadStart
  repeat' first
    | intro _ | with_reducible exact hK | with_reducible assumption | with_reducible exact Keeps.refl _
    | with_reducible apply State.modTile_keeps | with_reducible apply State.regGate_keeps
    | with_reducible apply Keeps.ite | split | (refine Keeps.of_eq (by assumption) ?_) | (dsimp only; split)
    | with_reducible apply Keeps.updTop

theorem State.threadStop_keeps {s₀ : State} {s : State} {m : Master} {t : TileId} {th : ThreadId} (hK : Keeps s₀ s) :
    Keeps s₀ (State.threadStop s m t th) := by
  unfold State.threadStop
  repeat' first
    | intro _ | with_reducible exact hK | with_reducible assumption | with_reducible exact Keeps.refl _
    | with_reducible apply State.modTile_keeps | with_reducible apply State.regGate_keeps
    | with_reducible apply Keeps.ite | split | (refine Keeps.of_eq (by assumption) ?_) | (dsimp only; split)
    | with_reducible apply Keeps.updTop

theorem State.threadNow_keeps {s₀ : State} {s : State} {t : TileId} {th : ThreadId} (hK : Keeps s₀ s) :
    Keeps s₀ (State.threadNow s t th) := by
  unfold State.threadNow
  repeat' first
    | intro _ | with_reducible exact hK | with_reducible assumption | with_reducible exact Keeps.refl _
    | with_reducible apply State.modTile_keeps | with_reducible apply State.modThr_keeps
    | with_reducible apply Keeps.ite | split | (refine Keeps.of_eq (by assumption) ?_) | (dsimp only; split)
    | with_reducible apply Keeps.updTop

theorem State.threadsNow_keeps {s₀ : State} {s : State} {t : TileId} (hK : Keeps s₀ s) :
    Keeps s₀ (State.threadsNow s t) := by
  unfold State.threadsNow
  repeat' first
    | intro _ | with_reducible exact hK | with_reducible assumption | with_reducible exact Keeps.refl _
    | with_reducible apply State.threadNow_keeps | with_reducible apply Keeps.ite | with_reducible apply Keeps.foldl
    | split | (refine Keeps.of_eq (by assumption) ?_) | (dsimp only; split)

theorem State.haltThreads_keeps {s₀ : State} {s : State} {t : TileId} {all : Bool} (hK : Keeps s₀ s) :
    Keeps s₀ (State.haltThreads s t all) := by
  unfold State.haltThreads
  repeat' first
    | intro _ | with_reducible exact hK | with_reducible assumption | with_reducible exact Keeps.refl _
    | with_reducible apply State.modThr_keeps | with_reducible apply Keeps.ite | with_reducible apply Keeps.foldl
    | split | (refine Keeps.of_eq (by assumption) ?_) | (dsimp only; split)

theorem State.tileHalt_keeps {s₀ : State} {s : State} {m : Master} {t : TileId} (hK : Keeps s₀ s) :
    Keeps s₀ (State.tileHalt s m t) := by
  unfold State.tileHalt
  repeat' first
    | intro _ | with_reducible exact hK | with_reducible assumption | with_reducible exact Keeps.refl _
    | with_reducible apply State.setReg_keeps | with_reducible apply State.regGate_keeps
    | with_reducible apply State.haltThreads_keeps

theorem State.tileForcedHalt_keeps {s₀ : State} {s : State} {m : Master} {t : TileId} (hK : Keeps s₀ s) :
    Keeps s₀ (State.tileForcedHalt s m t) := by
  unfold State.tileForcedHalt
  repeat' first
    | intro _ | with_reducible exact hK | with_reducible assumption | with_reducible exact Keeps.refl _
    | with_reducible apply State.setReg_keeps | with_reducible apply State.regGate_keeps
    | with_reducible apply State.tileFault_keeps | with_reducible apply State.haltThreads_keeps
    | with_reducible apply Keeps.ite | split | (refine Keeps.of_eq (by assumption) ?_) | (dsimp only; split)

theorem State.haltRelease_keeps {s₀ : State} {s : State} {m : Master} {t : TileId} (hK : Keeps s₀ s) :
    Keeps s₀ (State.haltRelease s m t) := by
  unfold State.haltRelease
  repeat' first
    | intro _ | with_reducible exact hK | with_reducible assumption | with_reducible exact Keeps.refl _
    | with_reducible apply State.setReg_keeps | with_reducible apply State.clrReg_keeps
    | with_reducible apply State.modThr_keeps | with_reducible apply State.regGate_keeps
    | with_reducible apply Keeps.ite | with_reducible apply Keeps.foldl | split
    | (refine Keeps.of_eq (by assumption) ?_) | (dsimp only; split) | with_reducible apply Keeps.updTop

theorem State.haltComplete_keeps {s₀ : State} {s : State} {t : TileId} (hK : Keeps s₀ s) :
    Keeps s₀ (State.haltComplete s t) := by
  unfold State.haltComplete
  repeat' first
    | intro _ | with_reducible exact hK | with_reducible assumption | with_reducible exact Keeps.refl _
    | with_reducible apply State.orReg_keeps | with_reducible apply Keeps.ite | split
    | (refine Keeps.of_eq (by assumption) ?_) | (dsimp only; split)

theorem State.faultClear_keeps {s₀ : State} {s : State} {m : Master} {t : TileId} (hK : Keeps s₀ s) :
    Keeps s₀ (State.faultClear s m t) := by
  unfold State.faultClear
  repeat' first
    | intro _ | with_reducible exact hK | with_reducible assumption | with_reducible exact Keeps.refl _
    | with_reducible apply State.clrReg_keeps | with_reducible apply State.regGate_keeps

theorem State.ibufStart_keeps {s₀ : State} {s : State} {m : Master} {t : TileId} (hK : Keeps s₀ s) :
    Keeps s₀ (State.ibufStart s m t) := by
  unfold State.ibufStart
  repeat' first
    | intro _ | with_reducible exact hK | with_reducible assumption | with_reducible exact Keeps.refl _
    | with_reducible apply State.setReg_keeps | with_reducible apply State.modTile_keeps
    | with_reducible apply State.regRefuse_keeps | with_reducible apply State.regGate_keeps
    | with_reducible apply State.narrowRead_keeps | with_reducible apply Keeps.ite | split
    | (refine Keeps.of_eq (by assumption) ?_) | (dsimp only; split) | with_reducible apply Keeps.updTop

theorem State.ibufPiece_keeps {s₀ : State} {s : State} {t : TileId} {base a : Nat} {bs : List Byte} {bad : List Bool} (hK : Keeps s₀ s) :
    Keeps s₀ (State.ibufPiece s t base a bs bad) := by
  unfold State.ibufPiece
  repeat' first
    | intro _ | with_reducible exact hK | with_reducible assumption | with_reducible exact Keeps.refl _
    | with_reducible apply State.modTile_keeps | with_reducible apply Keeps.ite | split
    | (refine Keeps.of_eq (by assumption) ?_) | (dsimp only; split) | with_reducible apply Keeps.updTop

theorem State.ibufDone_keeps {s₀ : State} {s : State} {t : TileId} (hK : Keeps s₀ s) :
    Keeps s₀ (State.ibufDone s t) := by
  unfold State.ibufDone
  repeat' first
    | intro _ | with_reducible exact hK | with_reducible assumption | with_reducible exact Keeps.refl _
    | with_reducible apply State.setReg_keeps | with_reducible apply Keeps.ite | split
    | (refine Keeps.of_eq (by assumption) ?_) | (dsimp only; split)

theorem State.tileRecover_keeps {s₀ : State} {s : State} {t : TileId} (hK : Keeps s₀ s) :
    Keeps s₀ (State.tileRecover s t) := by
  unfold State.tileRecover
  repeat' first
    | intro _ | with_reducible exact hK | with_reducible assumption | with_reducible exact Keeps.refl _
    | with_reducible apply State.domainOff_keeps | with_reducible apply Keeps.ite | split
    | (refine Keeps.of_eq (by assumption) ?_) | (dsimp only; split)

theorem State.tileRecovered_keeps {s₀ : State} {s : State} {t : TileId} (hK : Keeps s₀ s) :
    Keeps s₀ (State.tileRecovered s t) := by
  unfold State.tileRecovered
  repeat' first
    | intro _ | with_reducible exact hK | with_reducible assumption | with_reducible exact Keeps.refl _
    | with_reducible apply State.clrReg_keeps | with_reducible apply State.domainOn_keeps
    | with_reducible apply Keeps.ite | split | (refine Keeps.of_eq (by assumption) ?_) | (dsimp only; split)

end Sys2Proof.Machine
end

