-- ==== Sys2Proof/Laws/KeepsBell.lean ====
section
/-!
SUPPORT. What the operations of Machine/Bell.lean keep (Laws/Keeps.lean).
-/

namespace Sys2Proof.Machine

theorem State.tellLevel_keeps {s₀ : State} {s : State} {n : Nat} (hK : Keeps s₀ s) :
    Keeps s₀ (State.tellLevel s n) := by
  unfold State.tellLevel
  repeat' first
    | intro _ | with_reducible exact hK | with_reducible assumption | with_reducible exact Keeps.refl _
    | with_reducible apply State.bellVia_keeps | with_reducible apply Keeps.ite | split
    | (refine Keeps.of_eq (by assumption) ?_) | (dsimp only; split) | with_reducible apply Keeps.updTop

theorem State.tellLevels_keeps {s₀ : State} {s : State} (hK : Keeps s₀ s) :
    Keeps s₀ (State.tellLevels s) := by
  unfold State.tellLevels
  repeat' first
    | intro _ | with_reducible exact hK | with_reducible assumption | with_reducible exact Keeps.refl _
    | with_reducible apply State.tellLevel_keeps | with_reducible apply Keeps.ite | with_reducible apply Keeps.foldl
    | split | (refine Keeps.of_eq (by assumption) ?_) | (dsimp only; split)

theorem State.setPending_keeps {s₀ : State} {s : State} {n : Nat} (hK : Keeps s₀ s) :
    Keeps s₀ (State.setPending s n) := by
  unfold State.setPending
  repeat' first
    | intro _ | with_reducible exact hK | with_reducible assumption | with_reducible exact Keeps.refl _
    | with_reducible apply State.fresh_keeps | with_reducible apply Keeps.updTop

theorem State.request_keeps {s₀ : State} {s : State} {n : Nat} (hK : Keeps s₀ s) :
    Keeps s₀ (State.request s n) := by
  unfold State.request
  repeat' first
    | intro _ | with_reducible exact hK | with_reducible assumption | with_reducible exact Keeps.refl _
    | with_reducible apply State.setPending_keeps | with_reducible apply Keeps.ite | split
    | (refine Keeps.of_eq (by assumption) ?_) | (dsimp only; split) | with_reducible apply Keeps.updTop

theorem State.recordImage_keeps {s₀ : State} {s : State} {n : Nat} (hK : Keeps s₀ s) :
    Keeps s₀ (State.recordImage s n) := by
  unfold State.recordImage
  repeat' first
    | intro _ | with_reducible exact hK | with_reducible assumption | with_reducible exact Keeps.refl _
    | with_reducible apply Keeps.ite | split | (refine Keeps.of_eq (by assumption) ?_) | (dsimp only; split)
    | with_reducible apply Keeps.updTop

theorem State.bellTold_keeps {s₀ : State} {s : State} {n : Nat} {value : Bool} (hK : Keeps s₀ s) :
    Keeps s₀ (State.bellTold s n value) := by
  unfold State.bellTold
  repeat' first
    | intro _ | with_reducible exact hK | with_reducible assumption | with_reducible exact Keeps.refl _
    | with_reducible apply State.setPending_keeps | with_reducible apply State.request_keeps
    | with_reducible apply Keeps.ite | split | (refine Keeps.of_eq (by assumption) ?_) | (dsimp only; split)
    | with_reducible apply Keeps.updTop

theorem State.sourceRequest_keeps {s₀ : State} {s : State} {n : Nat} (hK : Keeps s₀ s) :
    Keeps s₀ (State.sourceRequest s n) := by
  unfold State.sourceRequest
  repeat' first
    | intro _ | with_reducible exact hK | with_reducible assumption | with_reducible exact Keeps.refl _
    | with_reducible apply State.dropFlit_keeps | with_reducible apply State.setPending_keeps
    | with_reducible apply State.request_keeps | with_reducible apply State.recordImage_keeps
    | with_reducible apply State.bellTold_keeps | with_reducible apply Keeps.ite | split
    | (refine Keeps.of_eq (by assumption) ?_) | (dsimp only; split) | with_reducible apply Keeps.updTop

theorem State.wiredChange_keeps {s₀ : State} {s : State} {i : Nat} {high : Bool} (hK : Keeps s₀ s) :
    Keeps s₀ (State.wiredChange s i high) := by
  unfold State.wiredChange
  repeat' first
    | intro _ | with_reducible exact hK | with_reducible assumption | with_reducible exact Keeps.refl _
    | with_reducible apply State.modReg_keeps | with_reducible apply State.request_keeps
    | with_reducible apply State.recordImage_keeps | with_reducible apply Keeps.ite | split
    | (refine Keeps.of_eq (by assumption) ?_) | (dsimp only; split) | with_reducible apply Keeps.updTop

theorem State.nextLines_keeps {s₀ : State} {s : State} (hK : Keeps s₀ s) :
    Keeps s₀ (State.nextLines s) := by
  unfold State.nextLines
  repeat' first
    | intro _ | with_reducible exact hK | with_reducible assumption | with_reducible exact Keeps.refl _
    | with_reducible apply Keeps.updTop

theorem State.claim_keeps {s₀ : State} {s : State} {t : Fin 5} (hK : Keeps s₀ s) :
    Keeps s₀ (State.claim s t).1 := by
  unfold State.claim
  repeat' first
    | intro _ | with_reducible exact hK | with_reducible assumption | with_reducible exact Keeps.refl _
    | with_reducible apply Keeps.ite | with_reducible apply Keeps.ite1 | split
    | (refine Keeps.of_eq (by assumption) ?_) | (dsimp only; split) | with_reducible apply Keeps.updTop

theorem State.claimRead_keeps {s₀ : State} {s : State} {m : Master} {t : Fin 5} (hK : Keeps s₀ s) :
    Keeps s₀ (State.claimRead s m t).1 := by
  unfold State.claimRead
  repeat' first
    | intro _ | with_reducible exact hK | with_reducible assumption | with_reducible exact Keeps.refl _
    | with_reducible apply State.claim_keeps | with_reducible apply Keeps.ite | with_reducible apply Keeps.ite1
    | split | (refine Keeps.of_eq (by assumption) ?_) | (dsimp only; split)

theorem State.bellClaim_keeps {s₀ : State} {s : State} {m : Master} {t : Fin 5} (hK : Keeps s₀ s) :
    Keeps s₀ (State.bellClaim s m t) := by
  unfold State.bellClaim
  repeat' first
    | intro _ | with_reducible exact hK | with_reducible assumption | with_reducible exact Keeps.refl _
    | with_reducible apply State.emit_keeps | with_reducible apply State.claimRead_keeps

theorem State.openGate_keeps {s₀ : State} {s : State} {n : Nat} (hK : Keeps s₀ s) :
    Keeps s₀ (State.openGate s n) := by
  unfold State.openGate
  repeat' first
    | intro _ | with_reducible exact hK | with_reducible assumption | with_reducible exact Keeps.refl _
    | with_reducible apply State.setPending_keeps | with_reducible apply Keeps.ite | split
    | (refine Keeps.of_eq (by assumption) ?_) | (dsimp only; split) | with_reducible apply Keeps.updTop

theorem State.bellEoi_keeps {s₀ : State} {s : State} {m : Master} {t : Fin 5} {v : Nat} (hK : Keeps s₀ s) :
    Keeps s₀ (State.bellEoi s m t v) := by
  unfold State.bellEoi
  repeat' first
    | intro _ | with_reducible exact hK | with_reducible assumption | with_reducible exact Keeps.refl _
    | with_reducible apply State.satReg_keeps | with_reducible apply State.regFault_keeps
    | with_reducible apply State.openGate_keeps | with_reducible apply Keeps.ite | split
    | (refine Keeps.of_eq (by assumption) ?_) | (dsimp only; split) | with_reducible apply Keeps.updTop

theorem State.holdoffLate_keeps {s₀ : State} {s : State} (hK : Keeps s₀ s) :
    Keeps s₀ (State.holdoffLate s) := by
  unfold State.holdoffLate
  repeat' first
    | intro _ | with_reducible exact hK | with_reducible assumption | with_reducible exact Keeps.refl _
    | with_reducible apply Keeps.ite | split | (refine Keeps.of_eq (by assumption) ?_) | (dsimp only; split)
    | with_reducible apply Keeps.updTop

theorem State.holdoffExpire_keeps {s₀ : State} {s : State} {g : Nat} (hK : Keeps s₀ s) :
    Keeps s₀ (State.holdoffExpire s g) := by
  unfold State.holdoffExpire
  repeat' first
    | intro _ | with_reducible exact hK | with_reducible assumption | with_reducible exact Keeps.refl _
    | with_reducible apply Keeps.ite | split | (refine Keeps.of_eq (by assumption) ?_) | (dsimp only; split)
    | with_reducible apply Keeps.updTop

theorem State.gdisWrite_keeps {s₀ : State} {s : State} {m : Master} {v : Bool} (hK : Keeps s₀ s) :
    Keeps s₀ (State.gdisWrite s m v) := by
  unfold State.gdisWrite
  repeat' first
    | intro _ | with_reducible exact hK | with_reducible assumption | with_reducible exact Keeps.refl _
    | with_reducible apply State.setReg_keeps | with_reducible apply State.regGate_keeps
    | with_reducible apply Keeps.ite | split | (refine Keeps.of_eq (by assumption) ?_) | (dsimp only; split)

theorem State.msipWrite_keeps {s₀ : State} {s : State} {m : Master} {k : Nat} {v : Bool} (hK : Keeps s₀ s) :
    Keeps s₀ (State.msipWrite s m k v) := by
  unfold State.msipWrite
  repeat' first
    | intro _ | with_reducible exact hK | with_reducible assumption | with_reducible exact Keeps.refl _
    | with_reducible apply State.setReg_keeps | with_reducible apply State.regGate_keeps
    | with_reducible apply Keeps.ite | split | (refine Keeps.of_eq (by assumption) ?_) | (dsimp only; split)

theorem State.timerMatch_keeps {s₀ : State} {s : State} {k : Fin 4} (hK : Keeps s₀ s) :
    Keeps s₀ (State.timerMatch s k) := by
  unfold State.timerMatch
  repeat' first
    | intro _ | with_reducible exact hK | with_reducible assumption | with_reducible exact Keeps.refl _
    | with_reducible apply State.modCore_keeps | with_reducible apply Keeps.ite | split
    | (refine Keeps.of_eq (by assumption) ?_) | (dsimp only; split) | with_reducible apply Keeps.updTop

end Sys2Proof.Machine
end

