-- ==== Sys2Proof/Laws/KeepsSteward.lean ====
section
/-!
SUPPORT. What the operations of Machine/Steward.lean keep (Laws/Keeps.lean).
-/

namespace Sys2Proof.Machine

theorem State.bpTaken_keeps {s₀ : State} {s : State} {k : Fin 4} {i : Nat} (hK : Keeps s₀ s) :
    Keeps s₀ (State.bpTaken s k i) := by
  unfold State.bpTaken
  repeat' first
    | intro _ | with_reducible exact hK | with_reducible assumption | with_reducible exact Keeps.refl _
    | with_reducible apply State.fireStop_keeps | with_reducible apply State.modCore_keeps
    | with_reducible apply Keeps.ite | split | (refine Keeps.of_eq (by assumption) ?_) | (dsimp only; split)
    | with_reducible apply Keeps.updTop

theorem State.cacheAsk_keeps {s₀ : State} {s : State} {r : CacheReq} (hK : Keeps s₀ s) :
    Keeps s₀ (State.cacheAsk s r) := by
  unfold State.cacheAsk
  repeat' first
    | intro _ | with_reducible exact hK | with_reducible assumption | with_reducible exact Keeps.refl _
    | with_reducible apply State.sendAsync_keeps | with_reducible apply State.request_keeps
    | with_reducible apply Keeps.ite | split | (refine Keeps.of_eq (by assumption) ?_) | (dsimp only; split)

theorem State.coreStore_keeps {s₀ : State} {s : State} {k : Fin 4} {a : Nat} {bs : List Byte} {kx : Bool} (hK : Keeps s₀ s) :
    Keeps s₀ (State.coreStore s k a bs kx) := by
  unfold State.coreStore
  repeat' first
    | intro _ | with_reducible exact hK | with_reducible assumption | with_reducible exact Keeps.refl _
    | with_reducible apply State.sramWrite_keeps | with_reducible apply State.narrowWrite_keeps
    | with_reducible apply State.cacheAsk_keeps | with_reducible apply Keeps.ite | split
    | (refine Keeps.of_eq (by assumption) ?_) | (dsimp only; split)

theorem State.setHandle_keeps {s₀ : State} {s : State} {table bank i : Nat} {e : Quad} (hK : Keeps s₀ s) :
    Keeps s₀ (State.setHandle s table bank i e) := by
  unfold State.setHandle
  repeat' first
    | intro _ | with_reducible exact hK | with_reducible assumption | with_reducible exact Keeps.refl _
    | with_reducible apply State.modTile_keeps | with_reducible apply Keeps.ite | split
    | (refine Keeps.of_eq (by assumption) ?_) | (dsimp only; split) | with_reducible apply Keeps.updTop
    | with_reducible apply Keeps.updTopMem

/-- The state an element's read leaves. -/
abbrev ElemRead.state : ElemRead → State
  | .data s _ => s
  | .wait s => s
  | .stop s => s

theorem State.elemRead_keeps {s₀ : State} {s : State} {k : Fin 4} {r : KxRun} (hK : Keeps s₀ s) :
    Keeps s₀ (State.elemRead s k r).state := by
  unfold State.elemRead
  dsimp only
  split
  · exact hK
  · split
    · exact State.bpTaken_keeps hK
    · split
      · exact State.modCore_keeps (State.coreTrap_keeps hK)
      · split
        · split
          · exact State.modCore_keeps (State.coreTrap_keeps (State.readMem_keeps hK))
          · exact State.readMem_keeps hK
        · split
          · exact State.cacheAsk_keeps (State.modCore_keeps hK)
          · exact State.narrowRead_keeps (State.modCore_keeps hK)

theorem State.elemDo_keeps {s₀ : State} {s : State} {k : Fin 4} {r : KxRun} {bs : List Byte} (hK : Keeps s₀ s) :
    Keeps s₀ (State.elemDo s k r bs).1 := by
  unfold State.elemDo
  dsimp only
  repeat' first
    | with_reducible exact hK | with_reducible apply State.bpTaken_keeps | with_reducible apply State.coreTrap_keeps | with_reducible apply State.coreStore_keeps | with_reducible apply State.modCore_keeps | with_reducible apply State.setHandle_keeps | split

theorem State.kxRun_keeps {s₀ : State} {fuel : Nat} {s : State} {k : Fin 4} {r : KxRun} (hK : Keeps s₀ s) :
    Keeps s₀ (State.kxRun fuel s k r) := by
  induction fuel generalizing s with
  | zero => exact hK
  | succ n ih =>
    have e : Keeps s₀ (s.elemRead k r).state := State.elemRead_keeps hK
    unfold State.kxRun
    dsimp only
    split
    · exact State.modCore_keeps hK
    · split
      · exact State.modCore_keeps hK
      · cases h : s.elemRead k r with
        | stop t => rw [h] at e; exact e
        | wait t => rw [h] at e; exact e
        | data t bs =>
          rw [h] at e
          have d := State.elemDo_keeps (k := k) (r := r) (bs := bs) e
          dsimp only [ElemRead.state] at d ⊢
          split
          · exact ih (State.modCore_keeps d)
          · exact d

theorem State.kxData_keeps {s₀ : State} {s : State} {k : Fin 4} {a : Nat} {bs : List Byte} {bad : Bool} (hK : Keeps s₀ s) :
    Keeps s₀ (State.kxData s k a bs bad) := by
  unfold State.kxData
  repeat' first
    | intro _ | with_reducible exact hK | with_reducible assumption | with_reducible exact Keeps.refl _
    | with_reducible apply State.modCore_keeps | with_reducible apply State.coreTrap_keeps
    | with_reducible apply State.elemDo_keeps | with_reducible apply State.kxRun_keeps
    | with_reducible apply Keeps.ite | with_reducible apply Keeps.ite1 | with_reducible apply Keeps.foldl
    | with_reducible apply Keeps.foldl1 | split | (refine Keeps.of_eq (by assumption) ?_) | (dsimp only; split)
    | with_reducible apply Keeps.updTop

theorem State.kxLong_keeps {s₀ : State} {s : State} {k : Fin 4} {op : KxOp} {rd rs1 rs2 : Fin 32} (hK : Keeps s₀ s) :
    Keeps s₀ (State.kxLong s k op rd rs1 rs2) := by
  unfold State.kxLong
  repeat' first
    | intro _ | with_reducible exact hK | with_reducible assumption | with_reducible exact Keeps.refl _
    | with_reducible apply State.modCore_keeps | with_reducible apply State.coreTrap_keeps
    | with_reducible apply State.kxRun_keeps | with_reducible apply Keeps.ite | split
    | (refine Keeps.of_eq (by assumption) ?_) | (dsimp only; split) | with_reducible apply Keeps.updTop

theorem State.hswap_keeps {s₀ : State} {s : State} {table : Nat} (hK : Keeps s₀ s) :
    Keeps s₀ (State.hswap s table).1 := by
  unfold State.hswap
  repeat' first
    | intro _ | with_reducible exact hK | with_reducible assumption | with_reducible exact Keeps.refl _
    | with_reducible apply State.modReg_keeps | with_reducible apply State.orReg_keeps
    | with_reducible apply Keeps.ite | with_reducible apply Keeps.ite1 | split
    | (refine Keeps.of_eq (by assumption) ?_) | (dsimp only; split)

theorem State.kxHswap_keeps {s₀ : State} {s : State} {k : Fin 4} {rd rs1 : Fin 32} (hK : Keeps s₀ s) :
    Keeps s₀ (State.kxHswap s k rd rs1) := by
  unfold State.kxHswap
  repeat' first
    | intro _ | with_reducible exact hK | with_reducible assumption | with_reducible exact Keeps.refl _
    | with_reducible apply State.modCore_keeps | with_reducible apply State.coreTrap_keeps
    | with_reducible apply State.hswap_keeps | with_reducible apply Keeps.ite | split
    | (refine Keeps.of_eq (by assumption) ?_) | (dsimp only; split) | with_reducible apply Keeps.updTop

theorem State.coreInterrupt_keeps {s₀ : State} {s : State} {k : Fin 4} (hK : Keeps s₀ s) :
    Keeps s₀ (State.coreInterrupt s k) := by
  unfold State.coreInterrupt
  repeat' first
    | intro _ | with_reducible exact hK | with_reducible assumption | with_reducible exact Keeps.refl _
    | with_reducible apply State.modCore_keeps | with_reducible apply Keeps.ite | split
    | (refine Keeps.of_eq (by assumption) ?_) | (dsimp only; split) | with_reducible apply Keeps.updTop

end Sys2Proof.Machine
end

