-- ==== Sys2Proof/Laws/KeepsCache.lean ====
section
/-!
SUPPORT. What the operations of Machine/Cache.lean keep (Laws/Keeps.lean).
-/

namespace Sys2Proof.Machine

theorem State.writeBack_keeps {s₀ : State} {s : State} {l : CacheLine} (hK : Keeps s₀ s) :
    Keeps s₀ (State.writeBack s l) := by
  unfold State.writeBack
  repeat' first
    | intro _ | with_reducible exact hK | with_reducible assumption | with_reducible exact Keeps.refl _
    | with_reducible apply State.incReg_keeps | with_reducible apply State.narrowWrite_keeps
    | with_reducible apply Keeps.ite | split | (refine Keeps.of_eq (by assumption) ?_) | (dsimp only; split)
    | with_reducible apply Keeps.updTop

theorem State.cacheEmpty_keeps {s₀ : State} {s : State} (hK : Keeps s₀ s) :
    Keeps s₀ (State.cacheEmpty s) := by
  unfold State.cacheEmpty
  repeat' first
    | intro _ | with_reducible exact hK | with_reducible assumption | with_reducible exact Keeps.refl _
    | with_reducible apply Keeps.updTop | with_reducible apply Keeps.updTopMem

theorem State.cacheGot_keeps {s₀ : State} {s : State} {r : CacheReq} {bs : List Byte} {bad : Bool} (hK : Keeps s₀ s) :
    Keeps s₀ (State.cacheGot s r bs bad) := by
  unfold State.cacheGot
  repeat' first
    | intro _ | with_reducible exact hK | with_reducible assumption | with_reducible exact Keeps.refl _
    | with_reducible apply State.coreTrap_keeps | with_reducible apply State.answerRead_keeps
    | with_reducible apply State.refuseWrite_keeps | with_reducible apply State.kxData_keeps
    | with_reducible apply Keeps.ite | split | (refine Keeps.of_eq (by assumption) ?_) | (dsimp only; split)

theorem State.cacheAnswer_keeps {s₀ : State} {s : State} {r : CacheReq} {bs : List Byte} {bad : Bool} (hK : Keeps s₀ s) :
    Keeps s₀ (State.cacheAnswer s r bs bad) := by
  unfold State.cacheAnswer
  repeat' first
    | intro _ | with_reducible exact hK | with_reducible assumption | with_reducible exact Keeps.refl _
    | with_reducible apply State.sendAsync_keeps | with_reducible apply State.request_keeps
    | with_reducible apply Keeps.ite | split | (refine Keeps.of_eq (by assumption) ?_) | (dsimp only; split)

theorem State.uncached_keeps {s₀ : State} {s : State} {r : CacheReq} (hK : Keeps s₀ s) :
    Keeps s₀ (State.uncached s r) := by
  unfold State.uncached
  repeat' first
    | intro _ | with_reducible exact hK | with_reducible assumption | with_reducible exact Keeps.refl _
    | with_reducible apply State.narrowRead_keeps | with_reducible apply State.masterRead_keeps
    | with_reducible apply State.masterWrite_keeps | with_reducible apply Keeps.ite | split
    | (refine Keeps.of_eq (by assumption) ?_) | (dsimp only; split)

theorem State.cacheTake_keeps {s₀ : State} {s : State} (hK : Keeps s₀ s) :
    Keeps s₀ (State.cacheTake s) := by
  unfold State.cacheTake
  repeat' first
    | intro _ | with_reducible exact hK | with_reducible assumption | with_reducible exact Keeps.refl _
    | with_reducible apply State.cacheAsk_keeps | with_reducible apply Keeps.ite | split
    | (refine Keeps.of_eq (by assumption) ?_) | (dsimp only; split) | with_reducible apply Keeps.updTop

theorem State.cacheServe_keeps {s₀ : State} {s : State} {r : CacheReq} {l : CacheLine} (hK : Keeps s₀ s) :
    Keeps s₀ (State.cacheServe s r l) := by
  unfold State.cacheServe
  repeat' first
    | intro _ | with_reducible exact hK | with_reducible assumption | with_reducible exact Keeps.refl _
    | with_reducible apply State.cacheAnswer_keeps | with_reducible apply Keeps.ite | split
    | (refine Keeps.of_eq (by assumption) ?_) | (dsimp only; split) | with_reducible apply Keeps.updTop
    | with_reducible apply Keeps.updTopMem

theorem State.cacheAccess_keeps {s₀ : State} {s : State} {k : Fin 4} (hK : Keeps s₀ s) :
    Keeps s₀ (State.cacheAccess s k) := by
  unfold State.cacheAccess
  repeat' first
    | intro _ | with_reducible exact hK | with_reducible assumption | with_reducible exact Keeps.refl _
    | with_reducible apply State.incReg_keeps | with_reducible apply State.countNdet_keeps
    | with_reducible apply State.narrowRead_keeps | with_reducible apply State.writeBack_keeps
    | with_reducible apply State.uncached_keeps | with_reducible apply State.cacheTake_keeps
    | with_reducible apply State.cacheServe_keeps | with_reducible apply Keeps.ite | split
    | (refine Keeps.of_eq (by assumption) ?_) | (dsimp only; split) | with_reducible apply Keeps.updTop
    | with_reducible apply Keeps.updTopMem

theorem State.dropLine_keeps {s₀ : State} {s : State} {a : Nat} (hK : Keeps s₀ s) :
    Keeps s₀ (State.dropLine s a) := by
  unfold State.dropLine
  repeat' first
    | intro _ | with_reducible exact hK | with_reducible assumption | with_reducible exact Keeps.refl _
    | with_reducible apply State.writeBack_keeps | with_reducible apply Keeps.ite | split
    | (refine Keeps.of_eq (by assumption) ?_) | (dsimp only; split) | with_reducible apply Keeps.updTop
    | with_reducible apply Keeps.updTopMem

theorem State.fillData_keeps {s₀ : State} {s : State} {a : Nat} {bs : List Byte} {bad : Bool} (hK : Keeps s₀ s) :
    Keeps s₀ (State.fillData s a bs bad) := by
  unfold State.fillData
  repeat' first
    | intro _ | with_reducible exact hK | with_reducible assumption | with_reducible exact Keeps.refl _
    | with_reducible apply State.cacheAnswer_keeps | with_reducible apply State.cacheServe_keeps
    | with_reducible apply State.dropLine_keeps | with_reducible apply Keeps.ite | with_reducible apply Keeps.ite1
    | with_reducible apply Keeps.foldl | with_reducible apply Keeps.foldl1 | split
    | (refine Keeps.of_eq (by assumption) ?_) | (dsimp only; split) | with_reducible apply Keeps.updTop
    | with_reducible apply Keeps.updTopMem

theorem State.cacheDrain_keeps {s₀ : State} {s : State} {size : Nat} (hK : Keeps s₀ s) : Keeps s₀ (State.cacheDrain s size) :=
  (State.orReg_keeps (State.setReg_keeps (State.cacheEmpty_keeps
    (Keeps.foldl hK (fun _ _ k => State.writeBack_keeps k))))).upd rfl rfl rfl rfl rfl rfl rfl

theorem State.cacheSizeSet_keeps {s₀ : State} {s : State} {size : Nat} (hK : Keeps s₀ s) :
    Keeps s₀ (State.cacheSizeSet s size) := by
  unfold State.cacheSizeSet
  split
  · exact State.orReg_keeps hK
  · split
    · exact (State.setReg_keeps hK).upd rfl rfl rfl rfl rfl rfl rfl
    · exact State.cacheDrain_keeps hK

theorem State.cacheSizeWrite_keeps {s₀ : State} {s : State} {m : Master} {size : Nat} (hK : Keeps s₀ s) :
    Keeps s₀ (State.cacheSizeWrite s m size) := by
  unfold State.cacheSizeWrite
  repeat' first
    | intro _ | with_reducible exact hK | with_reducible assumption | with_reducible exact Keeps.refl _
    | with_reducible apply State.regGate_keeps | with_reducible apply State.cacheSizeSet_keeps

theorem State.drainDone_keeps {s₀ : State} {s : State} (hK : Keeps s₀ s) : Keeps s₀ (State.drainDone s) := by
  unfold State.drainDone
  split
  · exact hK
  · split
    · exact hK
    · dsimp only
      refine (State.setReg_keeps hK).updMem rfl ?_ rfl rfl rfl rfl
      intro h
      split
      · exact h
      · exact MemState.wf_lose _ _ _ h

theorem State.cacheClean_keeps {s₀ : State} {s : State} {m : Master} (hK : Keeps s₀ s) : Keeps s₀ (State.cacheClean s m) :=
  State.regGate_keeps hK (fun _ h =>
    (State.orReg_keeps (Keeps.foldl h (fun _ _ k => State.writeBack_keeps k))).upd rfl rfl rfl rfl rfl rfl rfl)

theorem State.cacheInval_keeps {s₀ : State} {s : State} {m : Master} (hK : Keeps s₀ s) :
    Keeps s₀ (State.cacheInval s m) := by
  unfold State.cacheInval
  repeat' first
    | intro _ | with_reducible exact hK | with_reducible assumption | with_reducible exact Keeps.refl _
    | with_reducible apply State.orReg_keeps | with_reducible apply State.regGate_keeps
    | with_reducible apply State.cacheEmpty_keeps

theorem State.cacheCtrlDone_keeps {s₀ : State} {s : State} (hK : Keeps s₀ s) :
    Keeps s₀ (State.cacheCtrlDone s) := by
  unfold State.cacheCtrlDone
  repeat' first
    | intro _ | with_reducible exact hK | with_reducible assumption | with_reducible exact Keeps.refl _
    | with_reducible apply State.clrReg_keeps | with_reducible apply Keeps.ite | split
    | (refine Keeps.of_eq (by assumption) ?_) | (dsimp only; split)

end Sys2Proof.Machine
end

