-- ==== Sys2Proof/Laws/KeepsPlan.lean ====
section
/-!
SUPPORT. What the operations of Machine/Plan.lean keep (Laws/Keeps.lean).
-/

namespace Sys2Proof.Machine

theorem State.retime_keeps {s₀ : State} {s : State} (hK : Keeps s₀ s) :
    Keeps s₀ (State.retime s) := by
  unfold State.retime
  repeat' first
    | intro _ | with_reducible exact hK | with_reducible assumption | with_reducible exact Keeps.refl _
    | with_reducible apply State.setReg_keeps

theorem State.countReads_keeps {s₀ : State} {s : State} {a n : Nat} (hK : Keeps s₀ s) :
    Keeps s₀ (State.countReads s a n) := by
  unfold State.countReads
  repeat' first
    | intro _ | with_reducible exact hK | with_reducible assumption | with_reducible exact Keeps.refl _
    | with_reducible apply State.readMem_keeps

theorem State.latchAlert_keeps {s₀ : State} {s : State} {c : Nat} (hK : Keeps s₀ s) :
    Keeps s₀ (State.latchAlert s c) := by
  unfold State.latchAlert
  repeat' first
    | intro _ | with_reducible exact hK | with_reducible assumption | with_reducible exact Keeps.refl _
    | with_reducible apply Keeps.updTop | with_reducible apply Keeps.updTopMilk

theorem State.setStep_keeps {s₀ : State} {s : State} {n : Nat} (hK : Keeps s₀ s) :
    Keeps s₀ (State.setStep s n) := by
  unfold State.setStep
  repeat' first
    | intro _ | with_reducible exact hK | with_reducible assumption | with_reducible exact Keeps.refl _
    | with_reducible apply State.modReg_keeps | with_reducible apply State.satReg_keeps
    | with_reducible apply State.bell_keeps | with_reducible apply State.latchAlert_keeps
    | with_reducible apply Keeps.ite | split | (refine Keeps.of_eq (by assumption) ?_) | (dsimp only; split)

theorem State.arm_keeps {s₀ : State} {s : State} {a : Arming} (hK : Keeps s₀ s) :
    Keeps s₀ (State.arm s a) := by
  unfold State.arm
  repeat' first
    | intro _ | with_reducible exact hK | with_reducible assumption | with_reducible exact Keeps.refl _
    | with_reducible apply State.endPlan_keeps | with_reducible apply Keeps.updTop

theorem State.lightOver_keeps {s₀ : State} {s : State} (hK : Keeps s₀ s) :
    Keeps s₀ (State.lightOver s) := by
  unfold State.lightOver
  repeat' first
    | intro _ | with_reducible exact hK | with_reducible assumption | with_reducible exact Keeps.refl _
    | with_reducible apply State.modReg_keeps | with_reducible apply Keeps.updTop

theorem State.stepThree_keeps {s₀ : State} {s : State} (hK : Keeps s₀ s) :
    Keeps s₀ (State.stepThree s) := by
  unfold State.stepThree
  repeat' first
    | intro _ | with_reducible exact hK | with_reducible assumption | with_reducible exact Keeps.refl _
    | with_reducible apply State.setStep_keeps | with_reducible apply State.arm_keeps
    | with_reducible apply State.lightOver_keeps

theorem State.planGo_keeps {s₀ : State} {s : State} {a v : Nat} (hK : Keeps s₀ s) :
    Keeps s₀ (State.planGo s a v).1 := by
  unfold State.planGo
  repeat' first
    | intro _ | with_reducible exact hK | with_reducible assumption | with_reducible exact Keeps.refl _
    | with_reducible apply State.countReads_keeps | with_reducible apply State.arm_keeps
    | with_reducible apply State.lightOver_keeps | with_reducible apply Keeps.ite | with_reducible apply Keeps.ite1
    | split | (refine Keeps.of_eq (by assumption) ?_) | (dsimp only; split)

theorem State.kxPlango_keeps {s₀ : State} {s : State} {k : Fin 4} {rd rs1 rs2 : Fin 32} (hK : Keeps s₀ s) :
    Keeps s₀ (State.kxPlango s k rd rs1 rs2) := by
  unfold State.kxPlango
  repeat' first
    | intro _ | with_reducible exact hK | with_reducible assumption | with_reducible exact Keeps.refl _
    | with_reducible apply State.modCore_keeps | with_reducible apply State.coreTrap_keeps
    | with_reducible apply State.planGo_keeps | with_reducible apply Keeps.ite | split
    | (refine Keeps.of_eq (by assumption) ?_) | (dsimp only; split) | with_reducible apply Keeps.updTop

theorem State.stopAsync_keeps {s₀ : State} {s : State} (hK : Keeps s₀ s) :
    Keeps s₀ (State.stopAsync s) := by
  unfold State.stopAsync
  repeat' first
    | intro _ | with_reducible exact hK | with_reducible assumption | with_reducible exact Keeps.refl _
    | with_reducible apply State.mapTiles_keeps | with_reducible apply Keeps.ite | split
    | (refine Keeps.of_eq (by assumption) ?_) | (dsimp only; split) | with_reducible apply Keeps.updTop

theorem State.engineGo_keeps {s₀ : State} {s : State} {target : Option PlanRun} {seamless : Bool} (hK : Keeps s₀ s) :
    Keeps s₀ (State.engineGo s target seamless) := by
  unfold State.engineGo
  repeat' first
    | intro _ | with_reducible exact hK | with_reducible assumption | with_reducible exact Keeps.refl _
    | with_reducible apply State.cacheDrain_keeps | with_reducible apply State.lightOver_keeps
    | with_reducible apply State.stopAsync_keeps | with_reducible apply Keeps.ite | split
    | (refine Keeps.of_eq (by assumption) ?_) | (dsimp only; split) | with_reducible apply Keeps.updTop
    | with_reducible apply Keeps.updTopMem

theorem State.swapRecord_keeps {s₀ : State} {s : State} {code level a : Nat} (hK : Keeps s₀ s) :
    Keeps s₀ (State.swapRecord s code level a) := by
  unfold State.swapRecord
  repeat' first
    | intro _ | with_reducible exact hK | with_reducible assumption | with_reducible exact Keeps.refl _
    | with_reducible apply State.bell_keeps | with_reducible apply State.post_keeps

theorem State.dropArming_keeps {s₀ : State} {s : State} {a row : Nat} (hK : Keeps s₀ s) :
    Keeps s₀ (State.dropArming s a row) := by
  unfold State.dropArming
  repeat' first
    | intro _ | with_reducible exact hK | with_reducible assumption | with_reducible exact Keeps.refl _
    | with_reducible apply State.endPlan_keeps | with_reducible apply State.stepThree_keeps
    | with_reducible apply State.swapRecord_keeps | with_reducible apply Keeps.ite | split
    | (refine Keeps.of_eq (by assumption) ?_) | (dsimp only; split) | with_reducible apply Keeps.updTop

theorem State.abandon_keeps {s₀ : State} {s : State} {a : Nat} (hK : Keeps s₀ s) :
    Keeps s₀ (State.abandon s a) := by
  unfold State.abandon
  repeat' first
    | intro _ | with_reducible exact hK | with_reducible assumption | with_reducible exact Keeps.refl _
    | with_reducible apply SlotOut.done_keeps | with_reducible apply State.endPlan_keeps
    | with_reducible apply State.swapRecord_keeps | with_reducible apply Keeps.updTop

theorem State.abandonAtStart_keeps {s₀ : State} {s : State} {a : Nat} (hK : Keeps s₀ s) :
    Keeps s₀ (State.abandonAtStart s a) := by
  unfold State.abandonAtStart
  repeat' first
    | intro _ | with_reducible exact hK | with_reducible assumption | with_reducible exact Keeps.refl _
    | with_reducible apply State.countReads_keeps | with_reducible apply State.engineGo_keeps
    | with_reducible apply State.abandon_keeps

theorem State.startArmed_keeps {s₀ : State} {s : State} {a : Arming} {covered : Bool} (hK : Keeps s₀ s) :
    Keeps s₀ (State.startArmed s a covered).1 := by
  unfold State.startArmed
  repeat' first
    | intro _ | with_reducible exact hK | with_reducible assumption | with_reducible exact Keeps.refl _
    | with_reducible apply State.countReads_keeps | with_reducible apply State.engineGo_keeps
    | with_reducible apply State.dropArming_keeps | with_reducible apply State.abandonAtStart_keeps
    | with_reducible apply Keeps.ite | with_reducible apply Keeps.ite1 | split
    | (refine Keeps.of_eq (by assumption) ?_) | (dsimp only; split)

theorem State.startFallback_keeps {s₀ : State} {s : State} (hK : Keeps s₀ s) :
    Keeps s₀ (State.startFallback s) := by
  unfold State.startFallback
  repeat' first
    | intro _ | with_reducible exact hK | with_reducible assumption | with_reducible exact Keeps.refl _
    | with_reducible apply State.countReads_keeps | with_reducible apply State.engineGo_keeps
    | with_reducible apply State.swapRecord_keeps | with_reducible apply State.abandonAtStart_keeps
    | with_reducible apply Keeps.ite | split | (refine Keeps.of_eq (by assumption) ?_) | (dsimp only; split)

theorem State.engineStart_keeps {s₀ : State} {s : State} (hK : Keeps s₀ s) :
    Keeps s₀ (State.engineStart s) := by
  unfold State.engineStart
  repeat' first
    | intro _ | with_reducible exact hK | with_reducible assumption | with_reducible exact Keeps.refl _
    | with_reducible apply State.startArmed_keeps | with_reducible apply State.startFallback_keeps
    | with_reducible apply Keeps.ite | with_reducible apply Keeps.ite1 | split
    | (refine Keeps.of_eq (by assumption) ?_) | (dsimp only; split)

theorem State.writeRw_keeps {s₀ : State} {s : State} {a : Nat} {v : Word} (hK : Keeps s₀ s) :
    Keeps s₀ (State.writeRw s a v) := by
  unfold State.writeRw
  repeat' first
    | intro _ | with_reducible exact hK | with_reducible assumption | with_reducible exact Keeps.refl _
    | with_reducible apply State.modReg_keeps | with_reducible apply Keeps.ite | split
    | (refine Keeps.of_eq (by assumption) ?_) | (dsimp only; split)

theorem State.loaderWrite_keeps {s₀ : State} {s : State} {a : Nat} {v : Word} (hK : Keeps s₀ s) :
    Keeps s₀ (State.loaderWrite s a v) := by
  unfold State.loaderWrite
  repeat' first
    | intro _ | with_reducible exact hK | with_reducible assumption | with_reducible exact Keeps.refl _
    | with_reducible apply State.syncCountWrite_keeps | with_reducible apply State.lsyncWrite_keeps
    | with_reducible apply State.writeRw_keeps | with_reducible apply Keeps.ite | split
    | (refine Keeps.of_eq (by assumption) ?_) | (dsimp only; split)

theorem State.loadReg_keeps {s₀ : State} {s : State} {marks : Word} {target a : Nat} {v : Word} (hK : Keeps s₀ s) :
    ∀ x ∈ State.loadReg s marks target a v, Keeps s₀ x := by
  intro x hx
  unfold State.loadReg at hx
  split at hx
  · cases hx; exact State.loaderWrite_keeps hK
  · cases hx

theorem loadItems_keeps {s₀ : State} {base n : Nat} {f : State → Nat → Option State} {l : List Nat} {s : State}
    (hK : Keeps s₀ s) (hf : ∀ y i, Keeps s₀ y → ∀ x ∈ f y i, Keeps s₀ x) : Keeps s₀ (loadItems base n f l s).1 := by
  induction l generalizing s with
  | nil => exact hK
  | cons i r ih =>
    have h : Keeps s₀ (s.countReads (base + n * i) n) := State.countReads_keeps hK
    unfold loadItems
    dsimp only
    split
    · exact h
    · split
      · rename_i e
        exact ih (hf _ _ h _ e)
      · exact h

theorem State.stageSect_keeps {s₀ : State} {s : State} {c : Sect} {f : Staged → Staged} (hK : Keeps s₀ s) :
    Keeps s₀ (State.stageSect s c f).1 := by
  unfold State.stageSect
  repeat' first
    | intro _ | with_reducible exact hK | with_reducible assumption | with_reducible exact Keeps.refl _
    | with_reducible apply State.countReads_keeps | with_reducible apply Keeps.ite | with_reducible apply Keeps.ite1
    | split | (refine Keeps.of_eq (by assumption) ?_) | (dsimp only; split) | with_reducible apply Keeps.updTop

theorem State.loadSect_keeps {s₀ : State} {s : State} {c : Sect} (hK : Keeps s₀ s) : Keeps s₀ (State.loadSect s c).1 := by
  unfold State.loadSect
  split
  · exact hK
  · split
    · exact loadItems_keeps hK (fun _ _ k x e => by cases e; exact State.modTile_keeps k)
    · exact loadItems_keeps hK (fun _ _ k => State.loadReg_keeps k)
    · exact State.stageSect_keeps hK
    · exact State.stageSect_keeps hK
    · exact State.stageSect_keeps hK
    · exact loadItems_keeps hK (fun _ _ k x e => by cases e; exact State.setHandle_keeps k)
    · exact loadItems_keeps hK (fun _ _ k x e => by cases e; exact State.setHandle_keeps k)
    · exact loadItems_keeps hK (fun _ _ k x e => by cases e; exact k)
    · exact hK

theorem loadSects_keeps {s₀ : State} {l : List Sect} {s : State} (hK : Keeps s₀ s) : Keeps s₀ (loadSects l s).1 := by
  induction l generalizing s with
  | nil => exact hK
  | cons c r ih =>
    unfold loadSects
    split
    · rename_i e
      exact ih (Keeps.of_eq e (State.loadSect_keeps hK))
    · rename_i e
      exact Keeps.of_eq e (State.loadSect_keeps hK)

theorem State.loadPlan_keeps {s₀ : State} {s : State} {p : PlanRun} (hK : Keeps s₀ s) :
    Keeps s₀ (State.loadPlan s p).1 := by
  have h : Keeps s₀ { s with staged := Staged.reset } := Keeps.updTop hK
  unfold State.loadPlan
  dsimp only
  split
  · exact hK
  · split
    · rename_i e
      exact Keeps.of_eq e (loadSects_keeps h)
    · rename_i e
      dsimp only
      exact State.modReg_keeps (State.setReg_keeps (State.setReg_keeps (State.setReg_keeps
        (Keeps.of_eq e (loadSects_keeps h)))))

theorem State.relockTo_keeps {s₀ : State} {s : State} {kHz : Nat} (hK : Keeps s₀ s) :
    Keeps s₀ (State.relockTo s kHz) := by
  unfold State.relockTo
  repeat' first
    | intro _ | with_reducible exact hK | with_reducible assumption | with_reducible exact Keeps.refl _
    | with_reducible apply Keeps.ite | split | (refine Keeps.of_eq (by assumption) ?_) | (dsimp only; split)
    | with_reducible apply Keeps.updTop

theorem State.engineComplete_keeps {s₀ : State} {s : State} (hK : Keeps s₀ s) : Keeps s₀ (State.engineComplete s) := by
  unfold State.engineComplete
  split
  · split
    · exact hK
    · split
      · exact State.relockTo_keeps (hK.upd rfl rfl rfl rfl rfl rfl rfl)
      · split
        · rename_i e
          exact State.relockTo_keeps ((Keeps.of_eq e (State.loadPlan_keeps hK)).upd rfl rfl rfl rfl rfl rfl rfl)
        · rename_i e
          exact State.abandon_keeps (Keeps.of_eq e (State.loadPlan_keeps hK))
  · exact hK

theorem State.relockDone_keeps {s₀ : State} {s : State} (hK : Keeps s₀ s) :
    Keeps s₀ (State.relockDone s) := by
  unfold State.relockDone
  repeat' first
    | intro _ | with_reducible exact hK | with_reducible assumption | with_reducible exact Keeps.refl _
    | with_reducible apply State.setReg_keeps | with_reducible apply State.retime_keeps
    | with_reducible apply Keeps.ite | split | (refine Keeps.of_eq (by assumption) ?_) | (dsimp only; split)
    | with_reducible apply Keeps.updTop

end Sys2Proof.Machine
end

