-- ==== Sys2Proof/Laws/KeepsPower.lean ====
section
/-!
SUPPORT. What the operations of Machine/Power.lean keep (Laws/Keeps.lean).
-/

namespace Sys2Proof.Machine

theorem State.grantLeave_keeps {s₀ : State} {s : State} {r : Nat} {q : LeaveReq} (hK : Keeps s₀ s) :
    Keeps s₀ (State.grantLeave s r q) := by
  unfold State.grantLeave
  repeat' first
    | intro _ | with_reducible exact hK | with_reducible assumption | with_reducible exact Keeps.refl _
    | with_reducible apply State.modTile_keeps | with_reducible apply State.modLad_keeps
    | with_reducible apply State.request_keeps | with_reducible apply Keeps.ite | split
    | (refine Keeps.of_eq (by assumption) ?_) | (dsimp only; split) | with_reducible apply Keeps.updTop

theorem grantInOrder_keeps {s₀ : State} {l : List (Nat × LeaveReq)} : ∀ {s : State}, Keeps s₀ s → Keeps s₀ (grantInOrder l s) := by
  induction l with
  | nil => exact fun h => h
  | cons e r ih =>
    intro s h
    unfold grantInOrder
    split
    · exact ih (State.grantLeave_keeps h)
    · exact h

theorem State.leaveGrantAll_keeps {s₀ : State} {s : State} (hK : Keeps s₀ s) :
    Keeps s₀ (State.leaveGrantAll s) := by
  unfold State.leaveGrantAll
  repeat' first
    | intro _ | with_reducible exact hK | with_reducible assumption | with_reducible exact Keeps.refl _
    | with_reducible apply grantInOrder_keeps | with_reducible apply Keeps.ite | split
    | (refine Keeps.of_eq (by assumption) ?_) | (dsimp only; split)

theorem State.pdCtrlWrite_keeps {s₀ : State} {s : State} {m : Master} {w : Nat} {v : Word} (hK : Keeps s₀ s) :
    Keeps s₀ (State.pdCtrlWrite s m w v) :=
  State.regGate_keeps hK (fun _ h => (State.writeRw_keeps h).upd rfl rfl rfl rfl rfl rfl rfl)

theorem State.pdRefuse_keeps {s₀ : State} {s : State} {d reason : Nat} (hK : Keeps s₀ s) :
    Keeps s₀ (State.pdRefuse s d reason) := by
  unfold State.pdRefuse
  repeat' first
    | intro _ | with_reducible exact hK | with_reducible assumption | with_reducible exact Keeps.refl _
    | with_reducible apply State.setReg_keeps | with_reducible apply State.modReg_keeps
    | with_reducible apply State.regFault_keeps

theorem State.pdStart_keeps {s₀ : State} {s : State} {d : Nat} {on : Bool} (hK : Keeps s₀ s) :
    Keeps s₀ (State.pdStart s d on) := by
  unfold State.pdStart
  repeat' first
    | intro _ | with_reducible exact hK | with_reducible assumption | with_reducible exact Keeps.refl _
    | with_reducible apply Keeps.updTop

theorem State.pdSwitch_keeps {s₀ : State} {s : State} (hK : Keeps s₀ s) :
    Keeps s₀ (State.pdSwitch s) := by
  unfold State.pdSwitch
  repeat' first
    | intro _ | with_reducible exact hK | with_reducible assumption | with_reducible exact Keeps.refl _
    | with_reducible apply State.pdRefuse_keeps | with_reducible apply State.pdStart_keeps
    | with_reducible apply Keeps.ite | split | (refine Keeps.of_eq (by assumption) ?_) | (dsimp only; split)
    | with_reducible apply Keeps.updTop

theorem State.mresp_keeps {s₀ : State} {s : State} {status : Nat} (hK : Keeps s₀ s) :
    Keeps s₀ (State.mresp s status) := by
  unfold State.mresp
  repeat' first
    | intro _ | with_reducible exact hK | with_reducible assumption | with_reducible exact Keeps.refl _
    | with_reducible apply State.setReg_keeps | with_reducible apply State.noteSet_keeps
    | with_reducible apply State.clrReg_keeps | with_reducible apply State.bell_keeps

theorem State.seqEnd_keeps {s₀ : State} {s : State} (hK : Keeps s₀ s) :
    Keeps s₀ (State.seqEnd s) := by
  unfold State.seqEnd
  repeat' first
    | intro _ | with_reducible exact hK | with_reducible assumption | with_reducible exact Keeps.refl _
    | with_reducible apply State.setReg_keeps | with_reducible apply State.mresp_keeps
    | with_reducible apply Keeps.ite | split | (refine Keeps.of_eq (by assumption) ?_) | (dsimp only; split)
    | with_reducible apply Keeps.updTop

theorem State.pdSwitchDone_keeps {s₀ : State} {s : State} (hK : Keeps s₀ s) :
    Keeps s₀ (State.pdSwitchDone s) := by
  unfold State.pdSwitchDone
  repeat' first
    | intro _ | with_reducible exact hK | with_reducible assumption | with_reducible exact Keeps.refl _
    | with_reducible apply State.domainOff_keeps | with_reducible apply State.domainOn_keeps
    | with_reducible apply State.seqEnd_keeps | with_reducible apply Keeps.ite | split
    | (refine Keeps.of_eq (by assumption) ?_) | (dsimp only; split) | with_reducible apply Keeps.updTop

theorem State.mainSequencing_keeps {s₀ : State} {s : State} (hK : Keeps s₀ s) : Keeps s₀ (State.mainSequencing s) := by
  unfold State.mainSequencing
  split
  · exact hK
  · exact Keeps.upd (x := s.setReg rBootStage 2) (State.setReg_keeps hK) rfl rfl rfl rfl rfl rfl rfl

theorem State.mreqGate_keeps {s₀ : State} {s : State} {m : Master} {code : Nat} {k : State → State} (hK : Keeps s₀ s) (hkk : ∀ x0, Keeps s₀ x0 → Keeps s₀ (k x0)) :
    Keeps s₀ (State.mreqGate s m code k) := by
  unfold State.mreqGate
  repeat' first
    | intro _ | with_reducible exact hK | with_reducible assumption | with_reducible exact Keeps.refl _
    | (with_reducible apply hkk) | with_reducible apply State.setReg_keeps | with_reducible apply State.regGate_keeps
    | with_reducible apply Keeps.ite | split | (refine Keeps.of_eq (by assumption) ?_) | (dsimp only; split)

theorem State.fabricSleep_keeps {s₀ : State} {s : State} {m : Master} (hK : Keeps s₀ s) :
    Keeps s₀ (State.fabricSleep s m) := by
  unfold State.fabricSleep
  repeat' first
    | intro _ | with_reducible exact hK | with_reducible assumption | with_reducible exact Keeps.refl _
    | with_reducible apply State.mresp_keeps | with_reducible apply State.mreqGate_keeps
    | with_reducible apply Keeps.ite | split | (refine Keeps.of_eq (by assumption) ?_) | (dsimp only; split)
    | with_reducible apply Keeps.updTop

theorem State.fabricWake_keeps {s₀ : State} {s : State} {m : Master} (hK : Keeps s₀ s) :
    Keeps s₀ (State.fabricWake s m) := by
  unfold State.fabricWake
  repeat' first
    | intro _ | with_reducible exact hK | with_reducible assumption | with_reducible exact Keeps.refl _
    | with_reducible apply State.mresp_keeps | with_reducible apply State.mreqGate_keeps
    | with_reducible apply Keeps.ite | split | (refine Keeps.of_eq (by assumption) ?_) | (dsimp only; split)
    | with_reducible apply Keeps.updTop

theorem State.stepTwo_keeps {s₀ : State} {s : State} (hK : Keeps s₀ s) :
    Keeps s₀ (State.stepTwo s) := by
  unfold State.stepTwo
  repeat' first
    | intro _ | with_reducible exact hK | with_reducible assumption | with_reducible exact Keeps.refl _
    | with_reducible apply State.modReg_keeps | with_reducible apply State.setStep_keeps
    | with_reducible apply State.arm_keeps | with_reducible apply State.stepThree_keeps
    | with_reducible apply Keeps.ite | split | (refine Keeps.of_eq (by assumption) ?_) | (dsimp only; split)
    | with_reducible apply Keeps.updTop

theorem State.thermalSample_keeps {s₀ : State} {s : State} {valid : BitVec 8} {temps : BitVec 64} (hK : Keeps s₀ s) :
    Keeps s₀ (State.thermalSample s valid temps) := by
  unfold State.thermalSample
  repeat' first
    | intro _ | with_reducible exact hK | with_reducible assumption | with_reducible exact Keeps.refl _
    | with_reducible apply State.setReg_keeps | with_reducible apply State.setStep_keeps
    | with_reducible apply State.stepThree_keeps | with_reducible apply State.stepTwo_keeps
    | with_reducible apply Keeps.ite | with_reducible apply Keeps.foldl | split
    | (refine Keeps.of_eq (by assumption) ?_) | (dsimp only; split) | with_reducible apply Keeps.updTop

theorem State.thermalRelease_keeps {s₀ : State} {s : State} {m : Master} (hK : Keeps s₀ s) :
    Keeps s₀ (State.thermalRelease s m) := by
  unfold State.thermalRelease
  repeat' first
    | intro _ | with_reducible exact hK | with_reducible assumption | with_reducible exact Keeps.refl _
    | with_reducible apply State.orReg_keeps | with_reducible apply State.regGate_keeps
    | with_reducible apply State.setStep_keeps | with_reducible apply Keeps.ite | split
    | (refine Keeps.of_eq (by assumption) ?_) | (dsimp only; split)

theorem State.throtChange_keeps {s₀ : State} {s : State} {low : Bool} (hK : Keeps s₀ s) :
    Keeps s₀ (State.throtChange s low) := by
  unfold State.throtChange
  repeat' first
    | intro _ | with_reducible exact hK | with_reducible assumption | with_reducible exact Keeps.refl _
    | with_reducible apply State.setStep_keeps | with_reducible apply Keeps.ite | split
    | (refine Keeps.of_eq (by assumption) ?_) | (dsimp only; split) | with_reducible apply Keeps.updTop

end Sys2Proof.Machine
end

