-- ==== Sys2Proof/Laws/KeepsScan.lean ====
section
/-!
SUPPORT. What the operations of Machine/Scan.lean keep (Laws/Keeps.lean).
-/

namespace Sys2Proof.Machine

theorem State.takeLead_keeps {s₀ : State} {s : State} (hK : Keeps s₀ s) :
    Keeps s₀ (State.takeLead s) := by
  unfold State.takeLead
  repeat' first
    | intro _ | with_reducible exact hK | with_reducible assumption | with_reducible exact Keeps.refl _
    | with_reducible apply Keeps.updTop

theorem State.decideTs_keeps {s₀ : State} {s : State} (hK : Keeps s₀ s) :
    Keeps s₀ (State.decideTs s) := by
  unfold State.decideTs
  repeat' first
    | intro _ | with_reducible exact hK | with_reducible assumption | with_reducible exact Keeps.refl _
    | with_reducible apply State.setReg_keeps | with_reducible apply State.post_keeps
    | with_reducible apply State.tickFlag_keeps | with_reducible apply State.retime_keeps
    | with_reducible apply Keeps.ite | split | (refine Keeps.of_eq (by assumption) ?_) | (dsimp only; split)
    | with_reducible apply Keeps.updTop

theorem State.tgStart_keeps {s₀ : State} {s : State} (hK : Keeps s₀ s) :
    Keeps s₀ (State.tgStart s) := by
  unfold State.tgStart
  repeat' first
    | intro _ | with_reducible exact hK | with_reducible assumption | with_reducible exact Keeps.refl _
    | with_reducible apply State.setReg_keeps | with_reducible apply State.orReg_keeps
    | with_reducible apply State.takeLead_keeps | with_reducible apply Keeps.updTop

theorem State.decideMode_keeps {s₀ : State} {s : State} (hK : Keeps s₀ s) :
    Keeps s₀ (State.decideMode s) := by
  unfold State.decideMode
  repeat' first
    | intro _ | with_reducible exact hK | with_reducible assumption | with_reducible exact Keeps.refl _
    | with_reducible apply State.setReg_keeps | with_reducible apply State.regFault_keeps
    | with_reducible apply State.tgStart_keeps | with_reducible apply Keeps.ite | split
    | (refine Keeps.of_eq (by assumption) ?_) | (dsimp only; split) | with_reducible apply Keeps.updTop

theorem State.tsCommit_keeps {s₀ : State} {s : State} {m : Master} (hK : Keeps s₀ s) :
    Keeps s₀ (State.tsCommit s m) := by
  unfold State.tsCommit
  repeat' first
    | intro _ | with_reducible exact hK | with_reducible assumption | with_reducible exact Keeps.refl _
    | with_reducible apply State.setReg_keeps | with_reducible apply State.regGate_keeps

theorem State.outModeWrite_keeps {s₀ : State} {s : State} {m : Master} {v : Word} (hK : Keeps s₀ s) :
    Keeps s₀ (State.outModeWrite s m v) :=
  State.regGate_keeps hK (fun _ h => (State.writeRw_keeps h).upd rfl rfl rfl rfl rfl rfl rfl)

theorem State.teEdge_keeps {s₀ : State} {s : State} (hK : Keeps s₀ s) :
    Keeps s₀ (State.teEdge s) := by
  unfold State.teEdge
  repeat' first
    | intro _ | with_reducible exact hK | with_reducible assumption | with_reducible exact Keeps.refl _
    | with_reducible apply State.modReg_keeps | with_reducible apply State.incReg_keeps
    | with_reducible apply Keeps.ite | split | (refine Keeps.of_eq (by assumption) ?_) | (dsimp only; split)
    | with_reducible apply Keeps.updTop

theorem State.bandCheck_keeps {s₀ : State} {s : State} {o k n : Nat} (hK : Keeps s₀ s) :
    Keeps s₀ (State.bandCheck s o k n) := by
  unfold State.bandCheck
  repeat' first
    | intro _ | with_reducible exact hK | with_reducible assumption | with_reducible exact Keeps.refl _
    | with_reducible apply State.hwReg_keeps | with_reducible apply Keeps.ite | split
    | (refine Keeps.of_eq (by assumption) ?_) | (dsimp only; split) | with_reducible apply Keeps.updTop

theorem State.fetchNext_keeps {s₀ : State} {s : State} {o k n : Nat} (hK : Keeps s₀ s) :
    Keeps s₀ (State.fetchNext s o k n) := by
  unfold State.fetchNext
  repeat' first
    | intro _ | with_reducible exact hK | with_reducible assumption | with_reducible exact Keeps.refl _
    | with_reducible apply Keeps.updTop

theorem State.freeRead_keeps {s₀ : State} {s : State} {l : CreamLine} {a n : Nat} {urgent : Bool} (hK : Keeps s₀ s) :
    Keeps s₀ (State.freeRead s l a n urgent) := by
  unfold State.freeRead
  repeat' first
    | intro _ | with_reducible exact hK | with_reducible assumption | with_reducible exact Keeps.refl _
    | with_reducible apply State.sendAsync_keeps | with_reducible apply State.request_keeps
    | with_reducible apply Keeps.foldl | with_reducible apply Keeps.foldl1

theorem State.plannedRead_keeps {s₀ : State} {s : State} {l : CreamLine} {a n : Nat} (hK : Keeps s₀ s) :
    Keeps s₀ (State.plannedRead s l a n) := by
  unfold State.plannedRead
  repeat' first
    | intro _ | with_reducible exact hK | with_reducible assumption | with_reducible exact Keeps.refl _
    | with_reducible apply State.sendFrame_keeps | with_reducible apply State.request_keeps

theorem State.sendNext_keeps {s₀ : State} {s : State} {l : CreamLine} (hK : Keeps s₀ s) :
    Keeps s₀ (State.sendNext s l) := by
  unfold State.sendNext
  repeat' first
    | intro _ | with_reducible exact hK | with_reducible assumption | with_reducible exact Keeps.refl _
    | with_reducible apply State.plannedRead_keeps | with_reducible apply Keeps.ite | split
    | (refine Keeps.of_eq (by assumption) ?_) | (dsimp only; split) | with_reducible apply Keeps.updTop

theorem State.fetchStart_keeps {s₀ : State} {s : State} {o k n : Nat} (hK : Keeps s₀ s) :
    Keeps s₀ (State.fetchStart s o k n) := by
  unfold State.fetchStart
  repeat' first
    | intro _ | with_reducible exact hK | with_reducible assumption | with_reducible exact Keeps.refl _
    | with_reducible apply State.satReg_keeps | with_reducible apply State.bandCheck_keeps
    | with_reducible apply State.fetchNext_keeps | with_reducible apply State.freeRead_keeps
    | with_reducible apply State.sendNext_keeps | with_reducible apply Keeps.ite | with_reducible apply Keeps.ite1
    | with_reducible apply Keeps.foldl | with_reducible apply Keeps.foldl1 | split
    | (refine Keeps.of_eq (by assumption) ?_) | (dsimp only; split) | with_reducible apply Keeps.updTop

theorem State.lineFetch_keeps {s₀ : State} {s : State} {o k : Nat} (hK : Keeps s₀ s) :
    Keeps s₀ (State.lineFetch s o k) := by
  unfold State.lineFetch
  repeat' first
    | intro _ | with_reducible exact hK | with_reducible assumption | with_reducible exact Keeps.refl _
    | with_reducible apply State.sendNext_keeps | with_reducible apply State.fetchStart_keeps
    | with_reducible apply Keeps.ite | split | (refine Keeps.of_eq (by assumption) ?_) | (dsimp only; split)

theorem State.creamData_keeps {s₀ : State} {s : State} {id a : Nat} {bs : List Byte} {bad : List Bool} (hK : Keeps s₀ s) :
    Keeps s₀ (State.creamData s id a bs bad) := by
  unfold State.creamData
  repeat' first
    | intro _ | with_reducible exact hK | with_reducible assumption | with_reducible exact Keeps.refl _
    | with_reducible apply Keeps.ite | with_reducible apply Keeps.ite1 | split
    | (refine Keeps.of_eq (by assumption) ?_) | (dsimp only; split) | with_reducible apply Keeps.updTop

theorem State.lineStart_keeps {s₀ : State} {s : State} {o : Nat} {blank : Bool} {n : Nat} (hK : Keeps s₀ s) :
    Keeps s₀ (State.lineStart s o blank n) := by
  unfold State.lineStart
  repeat' first
    | intro _ | with_reducible exact hK | with_reducible assumption | with_reducible exact Keeps.refl _
    | with_reducible apply State.setReg_keeps | with_reducible apply State.satReg_keeps
    | with_reducible apply State.bell_keeps | with_reducible apply Keeps.ite | with_reducible apply Keeps.ite1
    | with_reducible apply Keeps.foldl | with_reducible apply Keeps.foldl1 | split
    | (refine Keeps.of_eq (by assumption) ?_) | (dsimp only; split) | with_reducible apply Keeps.updTop

theorem State.underrun_keeps {s₀ : State} {s : State} {o : Nat} (hK : Keeps s₀ s) :
    Keeps s₀ (State.underrun s o) := by
  unfold State.underrun
  repeat' first
    | intro _ | with_reducible exact hK | with_reducible assumption | with_reducible exact Keeps.refl _
    | with_reducible apply State.bell_keeps | with_reducible apply Keeps.ite | split
    | (refine Keeps.of_eq (by assumption) ?_) | (dsimp only; split) | with_reducible apply Keeps.updTop

theorem State.scanLayer_keeps {s₀ : State} {s : State} {o k n : Nat} (hK : Keeps s₀ s) :
    Keeps s₀ (State.scanLayer s o k n).1 := by
  unfold State.scanLayer
  repeat' first
    | intro _ | with_reducible exact hK | with_reducible assumption | with_reducible exact Keeps.refl _
    | with_reducible apply State.modReg_keeps | with_reducible apply State.satReg_keeps
    | with_reducible apply State.orReg_keeps | with_reducible apply State.bell_keeps
    | with_reducible apply State.bandCheck_keeps | with_reducible apply State.fetchNext_keeps
    | with_reducible apply State.underrun_keeps | with_reducible apply Keeps.ite | with_reducible apply Keeps.ite1
    | with_reducible apply Keeps.foldl | with_reducible apply Keeps.foldl1 | split
    | (refine Keeps.of_eq (by assumption) ?_) | (dsimp only; split) | with_reducible apply Keeps.updTop

theorem State.scanOutput_keeps {s₀ : State} {s : State} {o n : Nat} (hK : Keeps s₀ s) :
    Keeps s₀ (State.scanOutput s o n) := by
  unfold State.scanOutput
  repeat' first
    | intro _ | with_reducible exact hK | with_reducible assumption | with_reducible exact Keeps.refl _
    | with_reducible apply State.emit_keeps | with_reducible apply State.lineStart_keeps
    | with_reducible apply State.scanLayer_keeps | with_reducible apply Keeps.ite | with_reducible apply Keeps.ite1
    | with_reducible apply Keeps.foldl | with_reducible apply Keeps.foldl1 | split
    | (refine Keeps.of_eq (by assumption) ?_) | (dsimp only; split) | with_reducible apply Keeps.updTop

theorem State.scanLine_keeps {s₀ : State} {s : State} (hK : Keeps s₀ s) :
    Keeps s₀ (State.scanLine s) := by
  unfold State.scanLine
  repeat' first
    | intro _ | with_reducible exact hK | with_reducible assumption | with_reducible exact Keeps.refl _
    | with_reducible apply State.setReg_keeps | with_reducible apply State.takeLead_keeps
    | with_reducible apply State.scanOutput_keeps | with_reducible apply Keeps.ite | split
    | (refine Keeps.of_eq (by assumption) ?_) | (dsimp only; split) | with_reducible apply Keeps.updTop

theorem State.blankOut_keeps {s₀ : State} {s : State} {b o : Nat} (hK : Keeps s₀ s) :
    Keeps s₀ (State.blankOut s b o) := by
  unfold State.blankOut
  repeat' first
    | intro _ | with_reducible exact hK | with_reducible assumption | with_reducible exact Keeps.refl _
    | with_reducible apply State.emit_keeps | with_reducible apply Keeps.ite | split
    | (refine Keeps.of_eq (by assumption) ?_) | (dsimp only; split)

theorem State.blankCream_keeps {s₀ : State} {s : State} {o : Nat} (hK : Keeps s₀ s) :
    Keeps s₀ (State.blankCream s o) := by
  unfold State.blankCream
  repeat' first
    | intro _ | with_reducible exact hK | with_reducible assumption | with_reducible exact Keeps.refl _
    | with_reducible apply State.lineStart_keeps | with_reducible apply Keeps.ite | split
    | (refine Keeps.of_eq (by assumption) ?_) | (dsimp only; split)

theorem State.dpTrain_keeps {s₀ : State} {s : State} {m : Master} {o : Nat} (hK : Keeps s₀ s) :
    Keeps s₀ (State.dpTrain s m o) := by
  unfold State.dpTrain
  repeat' first
    | intro _ | with_reducible exact hK | with_reducible assumption | with_reducible exact Keeps.refl _
    | with_reducible apply State.orReg_keeps | with_reducible apply State.regGate_keeps

theorem State.dpTrained_keeps {s₀ : State} {s : State} {o : Nat} {ok : Bool} {rate lanes : Nat} {tps4 async : Bool} (hK : Keeps s₀ s) :
    Keeps s₀ (State.dpTrained s o ok rate lanes tps4 async) := by
  unfold State.dpTrained
  repeat' first
    | intro _ | with_reducible exact hK | with_reducible assumption | with_reducible exact Keeps.refl _
    | with_reducible apply State.hwReg_keeps | with_reducible apply State.orReg_keeps
    | with_reducible apply State.emit_keeps | with_reducible apply State.untrain_keeps
    | with_reducible apply Keeps.ite | split | (refine Keeps.of_eq (by assumption) ?_) | (dsimp only; split)

theorem State.auxCmd_keeps {s₀ : State} {s : State} {m : Master} {o : Nat} {v : Word} (hK : Keeps s₀ s) :
    Keeps s₀ (State.auxCmd s m o v) := by
  unfold State.auxCmd
  repeat' first
    | intro _ | with_reducible exact hK | with_reducible assumption | with_reducible exact Keeps.refl _
    | with_reducible apply State.setReg_keeps | with_reducible apply State.regGate_keeps
    | with_reducible apply Keeps.ite | split | (refine Keeps.of_eq (by assumption) ?_) | (dsimp only; split)

theorem State.auxDone_keeps {s₀ : State} {s : State} {o outcome : Nat} {data : List Byte} (hK : Keeps s₀ s) :
    Keeps s₀ (State.auxDone s o outcome data) := by
  unfold State.auxDone
  repeat' first
    | intro _ | with_reducible exact hK | with_reducible assumption | with_reducible exact Keeps.refl _
    | with_reducible apply State.setReg_keeps | with_reducible apply State.modReg_keeps
    | with_reducible apply State.hwReg_keeps | with_reducible apply State.bell_keeps | with_reducible apply Keeps.ite
    | with_reducible apply Keeps.ite1 | with_reducible apply Keeps.foldl | with_reducible apply Keeps.foldl1 | split
    | (refine Keeps.of_eq (by assumption) ?_) | (dsimp only; split)

theorem State.hpdEvent_keeps {s₀ : State} {s : State} {o kind : Nat} (hK : Keeps s₀ s) :
    Keeps s₀ (State.hpdEvent s o kind) := by
  unfold State.hpdEvent
  repeat' first
    | intro _ | with_reducible exact hK | with_reducible assumption | with_reducible exact Keeps.refl _
    | with_reducible apply State.orReg_keeps | with_reducible apply State.clrReg_keeps
    | with_reducible apply State.bell_keeps | with_reducible apply State.untrain_keeps
    | with_reducible apply Keeps.ite | split | (refine Keeps.of_eq (by assumption) ?_) | (dsimp only; split)

end Sys2Proof.Machine
end

