-- ==== Sys2Proof/Laws/KeepsDeliver.lean ====
section
/-!
SUPPORT. What the operations of Machine/Deliver.lean keep (Laws/Keeps.lean).
-/

namespace Sys2Proof.Machine

theorem State.movePartData_keeps {s₀ : State} {s : State} {t : TileId} {m : Move} {a dst : Nat} {bs : List Byte} {bad : List Bool} (hK : Keeps s₀ s) :
    Keeps s₀ (State.movePartData s t m a dst bs bad).1 := by
  unfold State.movePartData
  repeat' first
    | intro _ | with_reducible exact hK | with_reducible assumption | with_reducible exact Keeps.refl _
    | with_reducible apply State.tileDeliver_keeps | with_reducible apply State.moveFix_keeps

theorem State.moveData_keeps {s₀ : State} {s : State} {f : Flit} {t : TileId} {lane src dst a : Nat} {bs : List Byte} {bad : List Bool} (hK : Keeps s₀ s) :
    Keeps s₀ (State.moveData s f t lane src dst a bs bad) := by
  unfold State.moveData
  repeat' first
    | intro _ | with_reducible exact hK | with_reducible assumption | with_reducible exact Keeps.refl _
    | with_reducible apply State.writeClaimed_keeps | with_reducible apply State.countNdet_keeps
    | with_reducible apply State.writeNarrow_keeps | with_reducible apply State.useWide_keeps
    | with_reducible apply State.tileFault_keeps | with_reducible apply State.dropFlit_keeps
    | with_reducible apply State.moveWritten_keeps | with_reducible apply State.movePartData_keeps
    | with_reducible apply Keeps.ite | split | (refine Keeps.of_eq (by assumption) ?_) | (dsimp only; split)

theorem State.registerData_keeps {s₀ : State} {s : State} {who : Purpose} {t : TileId} {h : Quad} {a : Nat} {bs : List Byte} {bad : List Bool} (hK : Keeps s₀ s) :
    Keeps s₀ (State.registerData s who t h a bs bad) := by
  unfold State.registerData
  repeat' first
    | intro _ | with_reducible exact hK | with_reducible assumption | with_reducible exact Keeps.refl _
    | with_reducible apply State.tileDeliver_keeps | with_reducible apply State.deliver_keeps

theorem State.forTile_keeps {s₀ : State} {s : State} {age t : Nat} {k : State → State} (hK : Keeps s₀ s) (hkk : ∀ x0, Keeps s₀ x0 → Keeps s₀ (k x0)) :
    Keeps s₀ (State.forTile s age t k) := by
  unfold State.forTile
  repeat' first
    | intro _ | with_reducible exact hK | with_reducible assumption | with_reducible exact Keeps.refl _
    | (with_reducible apply hkk) | with_reducible apply State.dropFlit_keeps | with_reducible apply Keeps.ite | split
    | (refine Keeps.of_eq (by assumption) ?_) | (dsimp only; split)

theorem State.readData_keeps {s₀ : State} {s : State} {f : Flit} {a : Nat} {bs : List Byte} {bad : List Bool} {who : Purpose} (hK : Keeps s₀ s) :
    Keeps s₀ (State.readData s f a bs bad who) := by
  unfold State.readData
  repeat' first
    | intro _ | with_reducible exact hK | with_reducible assumption | with_reducible exact Keeps.refl _
    | with_reducible apply State.dropFlit_keeps | with_reducible apply State.writeoutData_keeps
    | with_reducible apply State.copyRead_keeps | with_reducible apply State.copyData_keeps
    | with_reducible apply State.accData_keeps | with_reducible apply State.ibufPiece_keeps
    | with_reducible apply State.kxData_keeps | with_reducible apply State.fillData_keeps
    | with_reducible apply State.creamData_keeps | with_reducible apply State.moveData_keeps
    | with_reducible apply State.registerData_keeps | with_reducible apply State.forTile_keeps
    | with_reducible apply Keeps.ite | split | (refine Keeps.of_eq (by assumption) ?_) | (dsimp only; split)

theorem State.deliverData_keeps {s₀ : State} {s : State} (hK : Keeps s₀ s) :
    Keeps s₀ (State.deliverData s) := by
  unfold State.deliverData
  repeat' first
    | intro _ | with_reducible exact hK | with_reducible assumption | with_reducible exact Keeps.refl _
    | with_reducible apply State.dropFlit_keeps | with_reducible apply State.cacheGot_keeps
    | with_reducible apply State.readData_keeps | with_reducible apply Keeps.ite | split
    | (refine Keeps.of_eq (by assumption) ?_) | (dsimp only; split)

end Sys2Proof.Machine
end

