-- ==== Sys2Proof/Laws/KeepsBundle.lean ====
section
/-!
SUPPORT. What the operations of Machine/Bundle.lean keep (Laws/Keeps.lean).
-/

namespace Sys2Proof.Machine

theorem cOp_keeps {s₀ : State} {op : Nat} {f : SlotFn} (h : cOp op = some f) :
    ∀ x t th y w, Keeps s₀ x → Keeps s₀ (f x t th y w).st := by
  intro x t th y w k
  unfold cOp at h
  split at h <;> cases h <;>
    first
    | with_reducible exact endSlot_keeps k | with_reducible exact brSlot_keeps k | with_reducible exact loopSlot_keeps k
    | with_reducible exact rdcSlot_keeps k | with_reducible exact holdSlot_keeps k | with_reducible exact sigSlot_keeps k
    | with_reducible exact waitSlot_keeps k | with_reducible exact armSlot_keeps k | with_reducible exact lchkSlot_keeps k
    | with_reducible exact creditGrantSlot_keeps k | with_reducible exact hswapSlot_keeps k
    | with_reducible exact saddSlot_keeps k | with_reducible exact ssubSlot_keeps k | with_reducible exact sandSlot_keeps k
    | with_reducible exact sorSlot_keeps k | with_reducible exact sxorSlot_keeps k | with_reducible exact sshlSlot_keeps k
    | with_reducible exact sshrSlot_keeps k | with_reducible exact smulSlot_keeps k | with_reducible exact sliSlot_keeps k
    | with_reducible exact sluiSlot_keeps k | with_reducible exact scmpSlot_keeps k | with_reducible exact plogSlot_keeps k

theorem mOp_keeps {s₀ : State} {op : Nat} {f : SlotFn} (h : mOp op = some f) :
    ∀ x t th y w, Keeps s₀ x → Keeps s₀ (f x t th y w).st := by
  intro x t th y w k
  unfold mOp at h
  split at h <;> cases h <;>
    first
    | with_reducible exact ldSlot_keeps k | with_reducible exact stSlot_keeps k | with_reducible exact rwrSlot_keeps k
    | with_reducible exact gatherSlot_keeps k | with_reducible exact ldbSlot_keeps k | with_reducible exact stbSlot_keeps k
    | with_reducible exact sldSlot_keeps k | with_reducible exact smovSlot_keeps k | with_reducible exact smovxSlot_keeps k

theorem vOp_keeps {s₀ : State} {op : Nat} {f : SlotFn} (h : vOp op = some f) :
    ∀ x t th y w, Keeps s₀ x → Keeps s₀ (f x t th y w).st := by
  intro x t th y w k
  unfold vOp at h
  split at h
  rotate_right
  · split at h
    · cases h; exact vcvtSlot_keeps k
    · cases h
  all_goals
    cases h
    first
    | with_reducible exact vaddSlot_keeps k | with_reducible exact vsubSlot_keeps k | with_reducible exact vmulSlot_keeps k
    | with_reducible exact vmulhSlot_keeps k | with_reducible exact vfmaSlot_keeps k | with_reducible exact vminSlot_keeps k
    | with_reducible exact vmaxSlot_keeps k | with_reducible exact vandSlot_keeps k | with_reducible exact vorSlot_keeps k
    | with_reducible exact vxorSlot_keeps k | with_reducible exact vshlSlot_keeps k | with_reducible exact vshrSlot_keeps k
    | with_reducible exact vcmpSlot_keeps k | with_reducible exact vselSlot_keeps k | with_reducible exact vbcastSlot_keeps k
    | with_reducible exact vabsSlot_keeps k | with_reducible exact vnegSlot_keeps k | with_reducible exact vrsumSlot_keeps k
    | with_reducible exact vrmaxSlot_keeps k | with_reducible exact vrminSlot_keeps k
    | with_reducible exact vrargmaxSlot_keeps k | with_reducible exact vlutSlot_keeps k
    | with_reducible exact lutLoadSlot_keeps k | with_reducible exact vqntSlot_keeps k

theorem tOp_keeps {s₀ : State} {op : Nat} {f : SlotFn} (h : tOp op = some f) :
    ∀ x t th y w, Keeps s₀ x → Keeps s₀ (f x t th y w).st := by
  intro x t th y w k
  unfold tOp at h
  split at h <;> cases h <;>
    first
    | with_reducible exact mmSlot_keeps k | with_reducible exact convSlot_keeps k | with_reducible exact dwSlot_keeps k
    | with_reducible exact accRdSlot_keeps k | with_reducible exact accWrSlot_keeps k | with_reducible exact accClrSlot_keeps k

theorem opOf_keeps {s₀ : State} {k op : Nat} {f : SlotFn} (h : opOf k op = some f) :
    ∀ x t th y w, Keeps s₀ x → Keeps s₀ (f x t th y w).st := by
  unfold opOf at h
  split at h
  · exact cOp_keeps h
  · exact mOp_keeps h
  · exact vOp_keeps h
  · exact tOp_keeps h

theorem State.runSlots_keeps {s₀ : State} {s : State} {t : TileId} {th : ThreadId} {y : Thread} {bs : List BSlot}
    (hK : Keeps s₀ s) : Keeps s₀ (State.runSlots s t th y bs).1 := by
  refine Keeps.foldl1 hK (fun st b h => ?_)
  dsimp only
  split
  · exact h
  · split
    · exact h
    · rename_i e
      have := opOf_keeps e _ t th y b.w h
      split <;> exact this

theorem State.keepGather_keeps {s₀ : State} {s : State} {t : TileId} {th : ThreadId} {bs : List BSlot} (hK : Keeps s₀ s) :
    Keeps s₀ (State.keepGather s t th bs) := by
  unfold State.keepGather
  repeat' first
    | intro _ | with_reducible exact hK | with_reducible assumption | with_reducible exact Keeps.refl _
    | with_reducible apply gatherSlot_keeps | with_reducible apply Keeps.ite | split
    | (refine Keeps.of_eq (by assumption) ?_) | (dsimp only; split)

theorem State.issueSlots_keeps {s₀ : State} {s : State} {t : TileId} {th : ThreadId} {bs : List BSlot} (hK : Keeps s₀ s) :
    Keeps s₀ (State.issueSlots s t th bs).1 := by
  unfold State.issueSlots
  repeat' first
    | intro _ | with_reducible exact hK | with_reducible assumption | with_reducible exact Keeps.refl _
    | with_reducible apply State.slotFault_keeps | with_reducible apply State.runSlots_keeps
    | with_reducible apply State.keepGather_keeps | with_reducible apply Keeps.ite | with_reducible apply Keeps.ite1
    | split | (refine Keeps.of_eq (by assumption) ?_) | (dsimp only; split)

theorem State.bundleIssue_keeps {s₀ : State} {s : State} {t : TileId} {th : ThreadId} (hK : Keeps s₀ s) :
    Keeps s₀ (State.bundleIssue s t th) := by
  unfold State.bundleIssue
  repeat' first
    | intro _ | with_reducible exact hK | with_reducible assumption | with_reducible exact Keeps.refl _
    | with_reducible apply State.satReg_keeps | with_reducible apply State.modThr_keeps
    | with_reducible apply State.tileFault_keeps | with_reducible apply State.slotFault_keeps
    | with_reducible apply State.issueSlots_keeps | with_reducible apply Keeps.ite | split
    | (refine Keeps.of_eq (by assumption) ?_) | (dsimp only; split) | with_reducible apply Keeps.updTop

end Sys2Proof.Machine
end

