-- ==== Sys2Proof/Laws/KeepsLoader.lean ====
section
/-!
SUPPORT. What the operations of Machine/Loader.lean keep (Laws/Keeps.lean).
-/

namespace Sys2Proof.Machine

theorem State.writeImage_keeps {s₀ : State} {s : State} {a : Nat} (hK : Keeps s₀ s) :
    Keeps s₀ (State.writeImage s a) := by
  unfold State.writeImage
  repeat' first
    | intro _ | with_reducible exact hK | with_reducible assumption | with_reducible exact Keeps.refl _
    | with_reducible apply State.writeNarrow_keeps | with_reducible apply Keeps.ite | with_reducible apply Keeps.ite1
    | with_reducible apply Keeps.foldl | with_reducible apply Keeps.foldl1 | split
    | (refine Keeps.of_eq (by assumption) ?_) | (dsimp only; split)

end Sys2Proof.Machine
end

