-- ==== Sys2Proof/Laws/KeepsHostLink.lean ====
section
/-!
SUPPORT. What the operations of Machine/HostLink.lean keep (Laws/Keeps.lean).
-/

namespace Sys2Proof.Machine

theorem State.unsupported_keeps {s₀ : State} {s : State} {posted : Bool} (hK : Keeps s₀ s) :
    Keeps s₀ (State.unsupported s posted) := by
  unfold State.unsupported
  repeat' first
    | intro _ | with_reducible exact hK | with_reducible assumption | with_reducible exact Keeps.refl _
    | with_reducible apply State.emit_keeps | with_reducible apply State.aer_keeps | with_reducible apply Keeps.ite
    | split | (refine Keeps.of_eq (by assumption) ?_) | (dsimp only; split)

theorem State.badRequest_keeps {s₀ : State} {s : State} {kind : Nat} {posted : Bool} (hK : Keeps s₀ s) :
    Keeps s₀ (State.badRequest s kind posted) := by
  unfold State.badRequest
  repeat' first
    | intro _ | with_reducible exact hK | with_reducible assumption | with_reducible exact Keeps.refl _
    | with_reducible apply State.aer_keeps | with_reducible apply State.unsupported_keeps
    | with_reducible apply Keeps.ite | split | (refine Keeps.of_eq (by assumption) ?_) | (dsimp only; split)

theorem State.nextEpoch_keeps {s₀ : State} {s : State} (hK : Keeps s₀ s) :
    Keeps s₀ (State.nextEpoch s) := by
  unfold State.nextEpoch
  repeat' first
    | intro _ | with_reducible exact hK | with_reducible assumption | with_reducible exact Keeps.refl _
    | with_reducible apply State.incReg_keeps | with_reducible apply State.event_keeps

theorem State.clearPending_keeps {s₀ : State} {s : State} (hK : Keeps s₀ s) :
    Keeps s₀ (State.clearPending s) := by
  unfold State.clearPending
  repeat' first
    | intro _ | with_reducible exact hK | with_reducible assumption | with_reducible exact Keeps.refl _
    | with_reducible apply State.setReg_keeps | with_reducible apply State.modReg_keeps

theorem State.dropReads_keeps {s₀ : State} {s : State} (hK : Keeps s₀ s) :
    Keeps s₀ (State.dropReads s) := by
  unfold State.dropReads
  repeat' first
    | intro _ | with_reducible exact hK | with_reducible assumption | with_reducible exact Keeps.refl _
    | with_reducible apply Keeps.ite | split | (refine Keeps.of_eq (by assumption) ?_) | (dsimp only; split)
    | with_reducible apply Keeps.updTop

theorem State.stopCopies_keeps {s₀ : State} {s : State} (hK : Keeps s₀ s) :
    Keeps s₀ (State.stopCopies s) := by
  unfold State.stopCopies
  repeat' first
    | intro _ | with_reducible exact hK | with_reducible assumption | with_reducible exact Keeps.refl _
    | with_reducible apply State.copyEnd_keeps | with_reducible apply Keeps.ite | with_reducible apply Keeps.foldl
    | split | (refine Keeps.of_eq (by assumption) ?_) | (dsimp only; split) | with_reducible apply Keeps.updTop

theorem State.resetHost_keeps {s₀ : State} {s : State} (hK : Keeps s₀ s) :
    Keeps s₀ (State.resetHost s) := by
  unfold State.resetHost
  repeat' first
    | intro _ | with_reducible exact hK | with_reducible assumption | with_reducible exact Keeps.refl _
    | with_reducible apply State.setReg_keeps | with_reducible apply State.resetRegs_keeps
    | with_reducible apply Keeps.foldl | with_reducible apply Keeps.foldl1

theorem State.flrStart_keeps {s₀ : State} {s : State} {sticky : Bool} (hK : Keeps s₀ s) :
    Keeps s₀ (State.flrStart s sticky) := by
  unfold State.flrStart
  repeat' first
    | intro _ | with_reducible exact hK | with_reducible assumption | with_reducible exact Keeps.refl _
    | with_reducible apply State.satReg_keeps | with_reducible apply State.aer_keeps
    | with_reducible apply State.nextEpoch_keeps | with_reducible apply State.dropReads_keeps
    | with_reducible apply State.stopCopies_keeps | with_reducible apply State.resetHost_keeps
    | with_reducible apply Keeps.ite | with_reducible apply Keeps.ite1 | split
    | (refine Keeps.of_eq (by assumption) ?_) | (dsimp only; split) | with_reducible apply Keeps.updTop

theorem State.flr_keeps {s₀ : State} {s : State} (hK : Keeps s₀ s) :
    Keeps s₀ (State.flr s) := by
  unfold State.flr
  repeat' first
    | intro _ | with_reducible exact hK | with_reducible assumption | with_reducible exact Keeps.refl _
    | with_reducible apply State.flrStart_keeps | with_reducible apply Keeps.ite | split
    | (refine Keeps.of_eq (by assumption) ?_) | (dsimp only; split)

theorem State.flrDone_keeps {s₀ : State} {s : State} (hK : Keeps s₀ s) :
    Keeps s₀ (State.flrDone s) := by
  unfold State.flrDone
  repeat' first
    | intro _ | with_reducible exact hK | with_reducible assumption | with_reducible exact Keeps.refl _
    | with_reducible apply State.bell_keeps | with_reducible apply State.flr_keeps | with_reducible apply Keeps.ite
    | split | (refine Keeps.of_eq (by assumption) ?_) | (dsimp only; split) | with_reducible apply Keeps.updTop

theorem State.linkBell_keeps {s₀ : State} {s : State} {was : Bool} (hK : Keeps s₀ s) :
    Keeps s₀ (State.linkBell s was) := by
  unfold State.linkBell
  repeat' first
    | intro _ | with_reducible exact hK | with_reducible assumption | with_reducible exact Keeps.refl _
    | with_reducible apply State.bell_keeps | with_reducible apply Keeps.ite | split
    | (refine Keeps.of_eq (by assumption) ?_) | (dsimp only; split)

theorem State.perstAssert_keeps {s₀ : State} {s : State} (hK : Keeps s₀ s) :
    Keeps s₀ (State.perstAssert s) := by
  unfold State.perstAssert
  repeat' first
    | intro _ | with_reducible exact hK | with_reducible assumption | with_reducible exact Keeps.refl _
    | with_reducible apply State.setReg_keeps | with_reducible apply State.flrStart_keeps
    | with_reducible apply State.flrDone_keeps | with_reducible apply State.linkBell_keeps
    | with_reducible apply Keeps.ite | split | (refine Keeps.of_eq (by assumption) ?_) | (dsimp only; split)
    | with_reducible apply Keeps.updTop

theorem State.linkChange_keeps {s₀ : State} {s : State} {up : Bool} {width rate : Nat} (hK : Keeps s₀ s) :
    Keeps s₀ (State.linkChange s up width rate) := by
  unfold State.linkChange
  repeat' first
    | intro _ | with_reducible exact hK | with_reducible assumption | with_reducible exact Keeps.refl _
    | with_reducible apply State.setReg_keeps | with_reducible apply State.modReg_keeps
    | with_reducible apply State.msixFlush_keeps | with_reducible apply State.linkBell_keeps
    | with_reducible apply Keeps.ite | split | (refine Keeps.of_eq (by assumption) ?_) | (dsimp only; split)
    | with_reducible apply Keeps.updTop

theorem State.mirrorLink_keeps {s₀ : State} {s : State} (hK : Keeps s₀ s) :
    Keeps s₀ (State.mirrorLink s) := by
  unfold State.mirrorLink
  repeat' first
    | intro _ | with_reducible exact hK | with_reducible assumption | with_reducible exact Keeps.refl _
    | with_reducible apply State.modReg_keeps | with_reducible apply State.msixFlush_keeps

theorem State.busMaster_keeps {s₀ : State} {s : State} {on : Bool} (hK : Keeps s₀ s) :
    Keeps s₀ (State.busMaster s on) := by
  unfold State.busMaster
  repeat' first
    | intro _ | with_reducible exact hK | with_reducible assumption | with_reducible exact Keeps.refl _
    | with_reducible apply State.setCfg_keeps | with_reducible apply State.mirrorLink_keeps
    | with_reducible apply Keeps.ite | split | (refine Keeps.of_eq (by assumption) ?_) | (dsimp only; split)

theorem State.powerState_keeps {s₀ : State} {s : State} {d3 : Bool} (hK : Keeps s₀ s) :
    Keeps s₀ (State.powerState s d3) := by
  unfold State.powerState
  repeat' first
    | intro _ | with_reducible exact hK | with_reducible assumption | with_reducible exact Keeps.refl _
    | with_reducible apply State.setCfg_keeps | with_reducible apply State.mirrorLink_keeps
    | with_reducible apply Keeps.ite | split | (refine Keeps.of_eq (by assumption) ?_) | (dsimp only; split)

theorem State.cfgWrite_keeps {s₀ : State} {s : State} {o : Nat} {be : BitVec 4} {v : Word} (hK : Keeps s₀ s) :
    Keeps s₀ (State.cfgWrite s o be v) := by
  unfold State.cfgWrite
  repeat' first
    | intro _ | with_reducible exact hK | with_reducible assumption | with_reducible exact Keeps.refl _
    | with_reducible apply State.setCfg_keeps | with_reducible apply State.flr_keeps
    | with_reducible apply State.mirrorLink_keeps | with_reducible apply Keeps.ite | with_reducible apply Keeps.foldl
    | split | (refine Keeps.of_eq (by assumption) ?_) | (dsimp only; split)

theorem State.cfgRequest_keeps {s₀ : State} {s : State} {wr : Bool} {dw : Nat} {be : BitVec 4} {v : Word} (hK : Keeps s₀ s) :
    Keeps s₀ (State.cfgRequest s wr dw be v) := by
  unfold State.cfgRequest
  repeat' first
    | intro _ | with_reducible exact hK | with_reducible assumption | with_reducible exact Keeps.refl _
    | with_reducible apply State.emit_keeps | with_reducible apply State.flr_keeps
    | with_reducible apply State.cfgWrite_keeps | with_reducible apply Keeps.ite | split
    | (refine Keeps.of_eq (by assumption) ?_) | (dsimp only; split)

theorem State.bar2_keeps {s₀ : State} {s : State} {off n : Nat} {wr : Option (List Byte)} (hK : Keeps s₀ s) :
    Keeps s₀ (State.bar2 s off n wr) := by
  unfold State.bar2
  repeat' first
    | intro _ | with_reducible exact hK | with_reducible assumption | with_reducible exact Keeps.refl _
    | with_reducible apply State.satReg_keeps | with_reducible apply State.hostAnswer_keeps
    | with_reducible apply State.masterRead_keeps | with_reducible apply State.masterWrite_keeps
    | with_reducible apply State.unsupported_keeps | with_reducible apply Keeps.ite | split
    | (refine Keeps.of_eq (by assumption) ?_) | (dsimp only; split)

theorem State.dbError_keeps {s₀ : State} {s : State} {q kind v : Nat} (hK : Keeps s₀ s) :
    Keeps s₀ (State.dbError s q kind v) := by
  unfold State.dbError
  repeat' first
    | intro _ | with_reducible exact hK | with_reducible assumption | with_reducible exact Keeps.refl _
    | with_reducible apply State.setReg_keeps | with_reducible apply State.satReg_keeps
    | with_reducible apply State.event_keeps

theorem State.dbOther_keeps {s₀ : State} {s : State} (hK : Keeps s₀ s) :
    Keeps s₀ (State.dbOther s) := by
  unfold State.dbOther
  repeat' first
    | intro _ | with_reducible exact hK | with_reducible assumption | with_reducible exact Keeps.refl _
    | with_reducible apply State.setReg_keeps | with_reducible apply State.fresh_keeps

theorem State.sqTail_keeps {s₀ : State} {s : State} {q : Nat} {dw : Bool} {v : Word} (hK : Keeps s₀ s) :
    Keeps s₀ (State.sqTail s q dw v) := by
  unfold State.sqTail
  repeat' first
    | intro _ | with_reducible exact hK | with_reducible assumption | with_reducible exact Keeps.refl _
    | with_reducible apply State.modQ_keeps | with_reducible apply State.unsupported_keeps
    | with_reducible apply State.dbError_keeps | with_reducible apply State.dbOther_keeps
    | with_reducible apply Keeps.ite | split | (refine Keeps.of_eq (by assumption) ?_) | (dsimp only; split)
    | with_reducible apply Keeps.updTop

theorem State.cqHead_keeps {s₀ : State} {s : State} {q : Nat} {dw : Bool} {v : Word} (hK : Keeps s₀ s) :
    Keeps s₀ (State.cqHead s q dw v) := by
  unfold State.cqHead
  repeat' first
    | intro _ | with_reducible exact hK | with_reducible assumption | with_reducible exact Keeps.refl _
    | with_reducible apply State.msix_keeps | with_reducible apply State.modQ_keeps
    | with_reducible apply State.arm_keeps | with_reducible apply State.unsupported_keeps
    | with_reducible apply State.dbError_keeps | with_reducible apply State.dbOther_keeps
    | with_reducible apply Keeps.ite | split | (refine Keeps.of_eq (by assumption) ?_) | (dsimp only; split)
    | with_reducible apply Keeps.updTop

theorem State.hostMessage_keeps {s₀ : State} {s : State} {d : Nat} {dw : Bool} {v : Word} (hK : Keeps s₀ s) :
    Keeps s₀ (State.hostMessage s d dw v) := by
  unfold State.hostMessage
  repeat' first
    | intro _ | with_reducible exact hK | with_reducible assumption | with_reducible exact Keeps.refl _
    | with_reducible apply State.setReg_keeps | with_reducible apply State.bell_keeps
    | with_reducible apply State.unsupported_keeps | with_reducible apply State.dbOther_keeps
    | with_reducible apply Keeps.ite | split | (refine Keeps.of_eq (by assumption) ?_) | (dsimp only; split)

theorem State.bar4_keeps {s₀ : State} {s : State} {r : Bar4} {dw : Bool} {v : Word} (hK : Keeps s₀ s) :
    Keeps s₀ (State.bar4 s r dw v) := by
  unfold State.bar4
  repeat' first
    | intro _ | with_reducible exact hK | with_reducible assumption | with_reducible exact Keeps.refl _
    | with_reducible apply State.hostAnswer_keeps | with_reducible apply State.unsupported_keeps
    | with_reducible apply State.dbOther_keeps | with_reducible apply State.hostMessage_keeps
    | with_reducible apply Keeps.ite | split | (refine Keeps.of_eq (by assumption) ?_) | (dsimp only; split)

theorem State.entryArrives_keeps {s₀ : State} {s : State} {q serial : Nat} {done : Option (Nat × Bool × Nat)} (hK : Keeps s₀ s) :
    Keeps s₀ (State.entryArrives s q serial done) := by
  unfold State.entryArrives
  repeat' first
    | intro _ | with_reducible exact hK | with_reducible assumption | with_reducible exact Keeps.refl _
    | with_reducible apply SlotOut.done_keeps | with_reducible apply State.modEntry_keeps
    | with_reducible apply Keeps.updTop

theorem State.sendOne_keeps {s₀ : State} {s : State} (hK : Keeps s₀ s) :
    Keeps s₀ (State.sendOne s) := by
  unfold State.sendOne
  repeat' first
    | intro _ | with_reducible exact hK | with_reducible assumption | with_reducible exact Keeps.refl _
    | with_reducible apply State.setReg_keeps | with_reducible apply State.bell_keeps
    | with_reducible apply State.sramWrite_keeps | with_reducible apply Keeps.ite | split
    | (refine Keeps.of_eq (by assumption) ?_) | (dsimp only; split) | with_reducible apply Keeps.updTop

theorem State.sendAll_keeps {s₀ : State} {s : State} (hK : Keeps s₀ s) :
    Keeps s₀ (State.sendAll s) := by
  unfold State.sendAll
  repeat' first
    | intro _ | with_reducible exact hK | with_reducible assumption | with_reducible exact Keeps.refl _
    | with_reducible apply State.sendOne_keeps | with_reducible apply Keeps.foldl

theorem State.settle_keeps {s₀ : State} {fuel : Nat} {s : State} {q : Nat} (hK : Keeps s₀ s) :
    Keeps s₀ (State.settle fuel s q) := by
  induction fuel generalizing s with
  | zero => exact hK
  | succ n ih =>
    unfold State.settle
    split
    · exact hK
    · split
      · exact ih (State.entryArrives_keeps hK)
      · split
        · refine ih (State.sendAll_keeps (Keeps.updTop ?_))
          exact State.entryArrives_keeps hK
        · exact hK

theorem State.entryFetch_keeps {s₀ : State} {s : State} {q : Nat} {raws : List (BitVec 512)} (hK : Keeps s₀ s) :
    Keeps s₀ (State.entryFetch s q raws) := by
  unfold State.entryFetch
  repeat' first
    | intro _ | with_reducible exact hK | with_reducible assumption | with_reducible exact Keeps.refl _
    | with_reducible apply State.fresh_keeps | with_reducible apply State.emit_keeps
    | with_reducible apply State.hostRead_keeps | with_reducible apply State.modQ_keeps
    | with_reducible apply State.settle_keeps | with_reducible apply Keeps.ite | with_reducible apply Keeps.ite1
    | with_reducible apply Keeps.foldl | with_reducible apply Keeps.foldl1 | split
    | (refine Keeps.of_eq (by assumption) ?_) | (dsimp only; split) | with_reducible apply Keeps.updTop

theorem State.arriveOp_keeps {s₀ : State} {s : State} {q op : Nat} {done : State → State × Option (Nat × Bool × Nat)}
    (hK : Keeps s₀ s) (hkdone : ∀ x, Keeps s₀ x → Keeps s₀ (done x).1) : Keeps s₀ (State.arriveOp s q op done) := by
  unfold State.arriveOp
  split
  · exact hK
  · split
    · exact hK
    · exact State.settle_keeps (State.entryArrives_keeps (hkdone _ hK))

theorem State.entryNop_keeps {s₀ : State} {s : State} {q : Nat} (hK : Keeps s₀ s) :
    Keeps s₀ (State.entryNop s q) := by
  unfold State.entryNop
  repeat' first
    | intro _ | with_reducible exact hK | with_reducible assumption | with_reducible exact Keeps.refl _
    | with_reducible apply State.fresh64_keeps | with_reducible apply State.arriveOp_keeps

theorem State.entryEngine_keeps {s₀ : State} {s : State} {q op : Nat} (hK : Keeps s₀ s) :
    Keeps s₀ (State.entryEngine s q op) := by
  unfold State.entryEngine
  repeat' first
    | intro _ | with_reducible exact hK | with_reducible assumption | with_reducible exact Keeps.refl _
    | with_reducible apply State.arriveOp_keeps

theorem State.completionFrame_keeps {s₀ : State} {s : State} {q : Nat} {e : Entry} (hK : Keeps s₀ s) :
    Keeps s₀ (State.completionFrame s q e).1 := by
  unfold State.completionFrame
  repeat' first
    | intro _ | with_reducible exact hK | with_reducible assumption | with_reducible exact Keeps.refl _
    | with_reducible apply State.fresh_keeps | with_reducible apply Keeps.ite | with_reducible apply Keeps.ite1
    | split | (refine Keeps.of_eq (by assumption) ?_) | (dsimp only; split)

theorem State.completionWrite_keeps {s₀ : State} {s : State} {q : Nat} (hK : Keeps s₀ s) :
    Keeps s₀ (State.completionWrite s q) := by
  unfold State.completionWrite
  repeat' first
    | intro _ | with_reducible exact hK | with_reducible assumption | with_reducible exact Keeps.refl _
    | with_reducible apply State.emit_keeps | with_reducible apply State.hostWrite_keeps
    | with_reducible apply State.msix_keeps | with_reducible apply SlotOut.done_keeps
    | with_reducible apply State.modQ_keeps | with_reducible apply State.arm_keeps
    | with_reducible apply State.completionFrame_keeps | with_reducible apply Keeps.ite | split
    | (refine Keeps.of_eq (by assumption) ?_) | (dsimp only; split) | with_reducible apply Keeps.updTop

theorem State.sentDone_keeps {s₀ : State} {s : State} {q st detail : Nat} (hK : Keeps s₀ s) :
    ∀ x ∈ State.sentDone s q st detail, Keeps s₀ x := by
  intro x hx
  unfold State.sentDone at hx
  split at hx
  · cases hx
  · dsimp only at hx
    split at hx
    · cases hx; exact hK.upd rfl rfl rfl rfl rfl rfl rfl
    · cases hx; exact State.modEntry_keeps (hK.upd rfl rfl rfl rfl rfl rfl rfl)

theorem State.sdone_keeps {s₀ : State} {s : State} {m : Master} {v : Word} (hK : Keeps s₀ s) : Keeps s₀ (State.sdone s m v) := by
  refine State.regGate_keeps hK (fun x h => ?_)
  dsimp only
  split
  · exact State.regRefuse_keeps h
  · split
    · rename_i y e
      exact State.sentDone_keeps h y e
    · exact State.regRefuse_keeps h

theorem State.smsg_keeps {s₀ : State} {s : State} {m : Master} {v : Word} (hK : Keeps s₀ s) :
    Keeps s₀ (State.smsg s m v) := by
  unfold State.smsg
  repeat' first
    | intro _ | with_reducible exact hK | with_reducible assumption | with_reducible exact Keeps.refl _
    | with_reducible apply State.setReg_keeps | with_reducible apply State.regGate_keeps
    | with_reducible apply State.event_keeps

theorem State.startService_keeps {s₀ : State} {s : State} {q : Nat} {e : Entry} (hK : Keeps s₀ s) :
    Keeps s₀ (State.startService s q e) := by
  unfold State.startService
  repeat' first
    | intro _ | with_reducible exact hK | with_reducible assumption | with_reducible exact Keeps.refl _
    | with_reducible apply State.modEntry_keeps | with_reducible apply Keeps.updTop

theorem State.armedFor_keeps {s₀ : State} {s : State} {q k : Nat} (hK : Keeps s₀ s) :
    Keeps s₀ (State.armedFor s q k) := by
  unfold State.armedFor
  repeat' first
    | intro _ | with_reducible exact hK | with_reducible assumption | with_reducible exact Keeps.refl _
    | with_reducible apply Keeps.updTop

theorem State.armEntry_keeps {s₀ : State} {s : State} {q k fw a v : Nat} (hK : Keeps s₀ s) :
    Keeps s₀ (State.armEntry s q k fw a v) := by
  unfold State.armEntry
  dsimp only
  split
  · exact State.armedFor_keeps (State.planGo_keeps hK)
  · split
    · exact State.endPlan_keeps hK
    · split
      · exact State.endPlan_keeps (State.planGo_keeps hK)
      · exact State.armedFor_keeps (State.planGo_keeps hK)

theorem State.placeContainer_keeps {s₀ : State} {s : State} {a : Nat} {data : List Byte} (hK : Keeps s₀ s) :
    Keeps s₀ (State.placeContainer s a data) := by
  unfold State.placeContainer
  repeat' first
    | intro _ | with_reducible exact hK | with_reducible assumption | with_reducible exact Keeps.refl _
    | with_reducible apply State.writeNarrow_keeps | with_reducible apply Keeps.ite | with_reducible apply Keeps.ite1
    | with_reducible apply Keeps.foldl | with_reducible apply Keeps.foldl1 | split
    | (refine Keeps.of_eq (by assumption) ?_) | (dsimp only; split)

theorem State.loadAndArm_keeps {s₀ : State} {s : State} {q k fw a v : Nat} {data : List Byte} (hK : Keeps s₀ s) :
    Keeps s₀ (State.loadAndArm s q k fw a v data) := by
  unfold State.loadAndArm
  repeat' first
    | intro _ | with_reducible exact hK | with_reducible assumption | with_reducible exact Keeps.refl _
    | with_reducible apply State.writeImage_keeps | with_reducible apply State.armEntry_keeps
    | with_reducible apply State.placeContainer_keeps | with_reducible apply Keeps.ite | split
    | (refine Keeps.of_eq (by assumption) ?_) | (dsimp only; split)

theorem State.planEntry_keeps {s₀ : State} {s : State} {action fw : Nat} {data : List Byte} (hK : Keeps s₀ s) :
    Keeps s₀ (State.planEntry s action fw data) := by
  unfold State.planEntry
  repeat' first
    | intro _ | with_reducible exact hK | with_reducible assumption | with_reducible exact Keeps.refl _
    | with_reducible apply State.planGo_keeps | with_reducible apply State.startService_keeps
    | with_reducible apply State.armEntry_keeps | with_reducible apply State.loadAndArm_keeps
    | with_reducible apply Keeps.ite | with_reducible apply Keeps.ite1 | split
    | (refine Keeps.of_eq (by assumption) ?_) | (dsimp only; split)

theorem State.adminEntry_keeps {s₀ : State} {s : State} {command : Nat} {k : State → Entry → Option State}
    (hK : Keeps s₀ s) (hkk : ∀ x e, Keeps s₀ x → ∀ y ∈ k x e, Keeps s₀ y) : Keeps s₀ (State.adminEntry s command k) := by
  have d : ∀ x z q st n, Keeps s₀ x → Keeps s₀ z → Keeps s₀ ((x.sentDone q st n).getD z) := by
    intro x z q st n h hz
    cases e : x.sentDone q st n with
    | none => exact hz
    | some y => exact State.sentDone_keeps h y e
  unfold State.adminEntry
  split
  · exact hK
  · split
    · exact hK
    · split
      · exact d _ _ _ _ _ (State.startService_keeps hK) hK
      · split
        · exact hK
        · have f := State.fresh64_keeps (State.startService_keeps (q := ‹Nat›) (e := ‹Entry›) hK)
          dsimp only
          split
          · rename_i y e
            exact d _ _ _ _ _ (hkk _ _ f y e) (hkk _ _ f y e)
          · exact d _ _ _ _ _ f f

theorem State.identify_keeps {s₀ : State} {s : State} {page : List Byte} (hK : Keeps s₀ s) :
    Keeps s₀ (State.identify s page) :=
  State.adminEntry_keeps hK (fun _ _ h y e => by cases e; exact State.hostWrite_keeps h)

theorem State.faultLog_keeps {s₀ : State} {s : State} (hK : Keeps s₀ s) : Keeps s₀ (State.faultLog s) :=
  State.adminEntry_keeps hK (fun _ _ h y e => by cases e; exact State.hostWrite_keeps h)

theorem State.timingSet_keeps {s₀ : State} {s : State} {data : List Byte} (hK : Keeps s₀ s) :
    Keeps s₀ (State.timingSet s data) := by
  refine State.adminEntry_keeps hK (fun x e h y hy => ?_)
  dsimp only at hy
  split at hy
  · cases hy
  · cases hy
    exact State.tsCommit_keeps (Keeps.foldl h (fun _ _ h => State.writeRw_keeps h))

theorem State.skimTile_keeps {s₀ : State} {s : State} {data : List Byte} {n i : Nat} (hK : Keeps s₀ s) :
    Keeps s₀ (State.skimTile s data n i) := by
  unfold State.skimTile
  repeat' first
    | intro _ | with_reducible exact hK | with_reducible assumption | with_reducible exact Keeps.refl _
    | with_reducible apply State.writeRw_keeps | with_reducible apply Keeps.ite | with_reducible apply Keeps.foldl
    | split | (refine Keeps.of_eq (by assumption) ?_) | (dsimp only; split)

theorem State.skimLayout_keeps {s₀ : State} {s : State} {data : List Byte} (hK : Keeps s₀ s) :
    Keeps s₀ (State.skimLayout s data) := by
  refine State.adminEntry_keeps hK (fun x e h y hy => ?_)
  dsimp only at hy
  split at hy
  · cases hy
  · cases hy
    exact Keeps.foldl (State.writeRw_keeps (State.writeRw_keeps (State.writeRw_keeps h)))
      (fun _ _ h => State.skimTile_keeps h)

theorem State.qctrlSet_keeps {s₀ : State} {s : State} {q : Nat} {v : Word} (hK : Keeps s₀ s) :
    Keeps s₀ (State.qctrlSet s q v) := by
  unfold State.qctrlSet
  repeat' first
    | intro _ | with_reducible exact hK | with_reducible assumption | with_reducible exact Keeps.refl _
    | with_reducible apply State.setReg_keeps | with_reducible apply State.setQ_keeps
    | with_reducible apply State.modQ_keeps | with_reducible apply State.arm_keeps | with_reducible apply Keeps.ite
    | with_reducible apply Keeps.ite1 | split | (refine Keeps.of_eq (by assumption) ?_) | (dsimp only; split)
    | with_reducible apply Keeps.updTop

theorem State.qctrlWrite_keeps {s₀ : State} {s : State} {m : Master} {q : Nat} {v : Word} (hK : Keeps s₀ s) :
    Keeps s₀ (State.qctrlWrite s m q v) := by
  unfold State.qctrlWrite
  repeat' first
    | intro _ | with_reducible exact hK | with_reducible assumption | with_reducible exact Keeps.refl _
    | with_reducible apply State.regGate_keeps | with_reducible apply State.qctrlSet_keeps

end Sys2Proof.Machine
end

