-- ==== Sys2Proof/Laws/KeepsWindow.lean ====
section
/-!
SUPPORT. What the operations of Machine/Window.lean keep (Laws/Keeps.lean).
-/

namespace Sys2Proof.Machine

theorem State.blankAt_keeps {s₀ : State} {s : State} {b : Nat} (hK : Keeps s₀ s) :
    Keeps s₀ (State.blankAt s b) := by
  unfold State.blankAt
  repeat' first
    | intro _ | with_reducible exact hK | with_reducible assumption | with_reducible exact Keeps.refl _
    | with_reducible apply State.setReg_keeps | with_reducible apply State.orReg_keeps
    | with_reducible apply State.clrReg_keeps | with_reducible apply State.takeLead_keeps
    | with_reducible apply State.blankOut_keeps | with_reducible apply State.blankCream_keeps
    | with_reducible apply Keeps.ite | split | (refine Keeps.of_eq (by assumption) ?_) | (dsimp only; split)
    | with_reducible apply Keeps.updTop

theorem State.blankDecide_keeps {s₀ : State} {s : State} (hK : Keeps s₀ s) :
    Keeps s₀ (State.blankDecide s) := by
  unfold State.blankDecide
  repeat' first
    | intro _ | with_reducible exact hK | with_reducible assumption | with_reducible exact Keeps.refl _
    | with_reducible apply State.incReg_keeps | with_reducible apply Keeps.ite | split
    | (refine Keeps.of_eq (by assumption) ?_) | (dsimp only; split) | with_reducible apply Keeps.updTop

theorem State.blankingSample_keeps {s₀ : State} {s : State} (hK : Keeps s₀ s) :
    Keeps s₀ (State.blankingSample s) := by
  unfold State.blankingSample
  repeat' first
    | intro _ | with_reducible exact hK | with_reducible assumption | with_reducible exact Keeps.refl _
    | with_reducible apply State.blankAt_keeps | with_reducible apply Keeps.ite | split
    | (refine Keeps.of_eq (by assumption) ?_) | (dsimp only; split)

theorem State.ndetTick_keeps {s₀ : State} {s : State} (hK : Keeps s₀ s) :
    Keeps s₀ (State.ndetTick s) := by
  unfold State.ndetTick
  repeat' first
    | intro _ | with_reducible exact hK | with_reducible assumption | with_reducible exact Keeps.refl _
    | with_reducible apply State.setReg_keeps | with_reducible apply Keeps.ite | split
    | (refine Keeps.of_eq (by assumption) ?_) | (dsimp only; split) | with_reducible apply Keeps.updTop

theorem State.forcedStart_keeps {s₀ : State} {s : State} (hK : Keeps s₀ s) :
    Keeps s₀ (State.forcedStart s) := by
  unfold State.forcedStart
  repeat' first
    | intro _ | with_reducible exact hK | with_reducible assumption | with_reducible exact Keeps.refl _
    | with_reducible apply State.satReg_keeps | with_reducible apply State.post_keeps
    | with_reducible apply State.tickFlag_keeps | with_reducible apply State.variantLevel_keeps
    | with_reducible apply Keeps.ite | split | (refine Keeps.of_eq (by assumption) ?_) | (dsimp only; split)
    | with_reducible apply Keeps.updTop

theorem State.tickRegs_keeps {s₀ : State} {s : State} {forced : Bool} (hK : Keeps s₀ s) :
    Keeps s₀ (State.tickRegs s forced) := by
  unfold State.tickRegs
  repeat' first
    | intro _ | with_reducible exact hK | with_reducible assumption | with_reducible exact Keeps.refl _
    | with_reducible apply State.setReg_keeps | with_reducible apply State.modReg_keeps
    | with_reducible apply State.incReg_keeps | with_reducible apply State.tickFlag_keeps
    | with_reducible apply State.ndetTick_keeps | with_reducible apply State.forcedStart_keeps
    | with_reducible apply Keeps.ite | split | (refine Keeps.of_eq (by assumption) ?_) | (dsimp only; split)
    | with_reducible apply Keeps.updTop | with_reducible apply Keeps.updTopMilk

theorem State.restartFrame_keeps {s₀ : State} {s : State} {t : TileId} (hK : Keeps s₀ s) :
    Keeps s₀ (State.restartFrame s t) := by
  unfold State.restartFrame
  repeat' first
    | intro _ | with_reducible exact hK | with_reducible assumption | with_reducible exact Keeps.refl _
    | with_reducible apply State.modTile_keeps | with_reducible apply Keeps.ite | split
    | (refine Keeps.of_eq (by assumption) ?_) | (dsimp only; split) | with_reducible apply Keeps.updTop

theorem State.tileTick_keeps {s₀ : State} {s : State} {t : TileId} (hK : Keeps s₀ s) :
    Keeps s₀ (State.tileTick s t) := by
  unfold State.tileTick
  repeat' first
    | intro _ | with_reducible exact hK | with_reducible assumption | with_reducible exact Keeps.refl _
    | with_reducible apply State.setReg_keeps | with_reducible apply State.modReg_keeps
    | with_reducible apply State.modTile_keeps | with_reducible apply Keeps.ite | with_reducible apply Keeps.ite1
    | with_reducible apply Keeps.foldl | with_reducible apply Keeps.foldl1 | split
    | (refine Keeps.of_eq (by assumption) ?_) | (dsimp only; split) | with_reducible apply Keeps.updTop

theorem State.abortPictures_keeps {s₀ : State} {s : State} (hK : Keeps s₀ s) :
    Keeps s₀ (State.abortPictures s) := by
  unfold State.abortPictures
  repeat' first
    | intro _ | with_reducible exact hK | with_reducible assumption | with_reducible exact Keeps.refl _
    | with_reducible apply SlotOut.done_keeps | with_reducible apply Keeps.ite | with_reducible apply Keeps.ite1
    | split | (refine Keeps.of_eq (by assumption) ?_) | (dsimp only; split) | with_reducible apply Keeps.updTop

theorem State.dropBands_keeps {s₀ : State} {s : State} (hK : Keeps s₀ s) :
    Keeps s₀ (State.dropBands s) := by
  unfold State.dropBands
  repeat' first
    | intro _ | with_reducible exact hK | with_reducible assumption | with_reducible exact Keeps.refl _
    | with_reducible apply Keeps.ite | split | (refine Keeps.of_eq (by assumption) ?_) | (dsimp only; split)
    | with_reducible apply Keeps.updTop

theorem State.clearTout_keeps {s₀ : State} {s : State} (hK : Keeps s₀ s) :
    Keeps s₀ (State.clearTout s) := by
  unfold State.clearTout
  repeat' first
    | intro _ | with_reducible exact hK | with_reducible assumption | with_reducible exact Keeps.refl _
    | with_reducible apply State.setReg_keeps

theorem State.planSignal_keeps {s₀ : State} {s : State} (hK : Keeps s₀ s) :
    Keeps s₀ (State.planSignal s) := by
  unfold State.planSignal
  repeat' first
    | intro _ | with_reducible exact hK | with_reducible assumption | with_reducible exact Keeps.refl _
    | with_reducible apply State.bell_keeps | with_reducible apply State.event_keeps

theorem State.frameEnds_keeps {s₀ : State} {s : State} {t : TileId} (hK : Keeps s₀ s) :
    Keeps s₀ (State.frameEnds s t) := by
  unfold State.frameEnds
  repeat' first
    | intro _ | with_reducible exact hK | with_reducible assumption | with_reducible exact Keeps.refl _
    | with_reducible apply State.modTile_keeps | with_reducible apply Keeps.ite | split
    | (refine Keeps.of_eq (by assumption) ?_) | (dsimp only; split) | with_reducible apply Keeps.updTop

theorem State.planOff_keeps {s₀ : State} {s : State} {tout : Bool} (hK : Keeps s₀ s) :
    Keeps s₀ (State.planOff s tout) := by
  unfold State.planOff
  repeat' first
    | intro _ | with_reducible exact hK | with_reducible assumption | with_reducible exact Keeps.refl _
    | with_reducible apply State.modReg_keeps | with_reducible apply State.hwReg_keeps
    | with_reducible apply State.mapTiles_keeps | with_reducible apply SlotOut.done_keeps
    | with_reducible apply State.abortPictures_keeps | with_reducible apply State.dropBands_keeps
    | with_reducible apply State.clearTout_keeps | with_reducible apply State.planSignal_keeps
    | with_reducible apply State.frameEnds_keeps | with_reducible apply Keeps.ite | with_reducible apply Keeps.foldl
    | split | (refine Keeps.of_eq (by assumption) ?_) | (dsimp only; split) | with_reducible apply Keeps.updTop
    | with_reducible apply Keeps.updTopMem

theorem State.stopEffect_keeps {s₀ : State} {s : State} (hK : Keeps s₀ s) :
    Keeps s₀ (State.stopEffect s) := by
  unfold State.stopEffect
  repeat' first
    | intro _ | with_reducible exact hK | with_reducible assumption | with_reducible exact Keeps.refl _
    | with_reducible apply State.setReg_keeps | with_reducible apply State.modTile_keeps
    | with_reducible apply Keeps.ite | with_reducible apply Keeps.foldl | split
    | (refine Keeps.of_eq (by assumption) ?_) | (dsimp only; split)

theorem State.loadStaged_keeps {s₀ : State} {s : State} {p : PlanRun} (hK : Keeps s₀ s) :
    Keeps s₀ (State.loadStaged s p) := by
  unfold State.loadStaged
  repeat' first
    | intro _ | with_reducible exact hK | with_reducible assumption | with_reducible exact Keeps.refl _
    | with_reducible apply State.mapTiles_keeps | with_reducible apply Keeps.ite | with_reducible apply Keeps.ite1
    | split | (refine Keeps.of_eq (by assumption) ?_) | (dsimp only; split) | with_reducible apply Keeps.updTop
    | with_reducible apply Keeps.updTopMem

theorem State.tileEffect_keeps {s₀ : State} {s : State} {p : PlanRun} {t : TileId} (hK : Keeps s₀ s) :
    Keeps s₀ (State.tileEffect s p t) := by
  unfold State.tileEffect
  repeat' first
    | intro _ | with_reducible exact hK | with_reducible assumption | with_reducible exact Keeps.refl _
    | with_reducible apply State.setReg_keeps | with_reducible apply State.modTile_keeps
    | with_reducible apply State.setCfg_keeps | with_reducible apply State.frameEnds_keeps
    | with_reducible apply Keeps.ite | split | (refine Keeps.of_eq (by assumption) ?_) | (dsimp only; split)
    | with_reducible apply Keeps.updTop

theorem State.takeEffect_keeps {s₀ : State} {s : State} {p : PlanRun} {seamless : Bool} (hK : Keeps s₀ s) :
    Keeps s₀ (State.takeEffect s p seamless) := by
  unfold State.takeEffect
  repeat' first
    | intro _ | with_reducible exact hK | with_reducible assumption | with_reducible exact Keeps.refl _
    | with_reducible apply State.setReg_keeps | with_reducible apply State.endPlan_keeps
    | with_reducible apply State.abortPictures_keeps | with_reducible apply State.dropBands_keeps
    | with_reducible apply State.clearTout_keeps | with_reducible apply State.planSignal_keeps
    | with_reducible apply State.loadStaged_keeps | with_reducible apply State.tileEffect_keeps
    | with_reducible apply Keeps.ite | with_reducible apply Keeps.foldl | split
    | (refine Keeps.of_eq (by assumption) ?_) | (dsimp only; split) | with_reducible apply Keeps.updTop

theorem State.stopEntryEnds_keeps {s₀ : State} {s : State} (hK : Keeps s₀ s) : Keeps s₀ (State.stopEntryEnds s) := by
  unfold State.stopEntryEnds
  split
  · exact hK
  · rename_i e _
    have h : Keeps s₀ (s.fresh64.2.endPlan (some e) 0 s.fresh64.1) := State.endPlan_keeps (State.fresh64_keeps hK)
    with_reducible exact Keeps.updTop h

theorem State.planTick_keeps {s₀ : State} {s : State} (hK : Keeps s₀ s) :
    Keeps s₀ (State.planTick s) := by
  unfold State.planTick
  repeat' first
    | intro _ | with_reducible exact hK | with_reducible assumption | with_reducible exact Keeps.refl _
    | with_reducible apply State.incReg_keeps | with_reducible apply SlotOut.done_keeps
    | with_reducible apply State.clearTout_keeps | with_reducible apply State.planOff_keeps
    | with_reducible apply State.stopEffect_keeps | with_reducible apply State.takeEffect_keeps
    | with_reducible apply State.stopEntryEnds_keeps | with_reducible apply Keeps.ite
    | with_reducible apply Keeps.foldl | split | (refine Keeps.of_eq (by assumption) ?_) | (dsimp only; split)
    | with_reducible apply Keeps.updTop

theorem State.tickSet_keeps {s₀ : State} {s : State} {o : Nat} {v : Word} (hK : Keeps s₀ s) :
    Keeps s₀ (State.tickSet s o v) := by
  unfold State.tickSet
  repeat' first
    | intro _ | with_reducible exact hK | with_reducible assumption | with_reducible exact Keeps.refl _
    | with_reducible apply State.putSync_keeps | with_reducible apply Keeps.updTop

theorem State.syncTick_keeps {s₀ : State} {s : State} (hK : Keeps s₀ s) :
    Keeps s₀ (State.syncTick s) := by
  unfold State.syncTick
  repeat' first
    | intro _ | with_reducible exact hK | with_reducible assumption | with_reducible exact Keeps.refl _
    | with_reducible apply State.tickSet_keeps | with_reducible apply Keeps.ite | with_reducible apply Keeps.foldl
    | split | (refine Keeps.of_eq (by assumption) ?_) | (dsimp only; split)

theorem State.deliverTick_keeps {s₀ : State} {s : State} (hK : Keeps s₀ s) :
    Keeps s₀ (State.deliverTick s) := by
  unfold State.deliverTick
  repeat' first
    | intro _ | with_reducible exact hK | with_reducible assumption | with_reducible exact Keeps.refl _
    | with_reducible apply State.modReg_keeps | with_reducible apply State.restartFrame_keeps
    | with_reducible apply State.tileTick_keeps | with_reducible apply State.planTick_keeps
    | with_reducible apply State.syncTick_keeps | with_reducible apply Keeps.ite | with_reducible apply Keeps.foldl
    | split | (refine Keeps.of_eq (by assumption) ?_) | (dsimp only; split) | with_reducible apply Keeps.updTop

theorem State.skimLatch_keeps {s₀ : State} {s : State} (hK : Keeps s₀ s) :
    Keeps s₀ (State.skimLatch s) := by
  unfold State.skimLatch
  repeat' first
    | intro _ | with_reducible exact hK | with_reducible assumption | with_reducible exact Keeps.refl _
    | with_reducible apply State.orReg_keeps | with_reducible apply Keeps.ite | split
    | (refine Keeps.of_eq (by assumption) ?_) | (dsimp only; split) | with_reducible apply Keeps.updTop

theorem State.frameBegin_keeps {s₀ : State} {s : State} {v : Nat} {kept : Bool} (hK : Keeps s₀ s) :
    Keeps s₀ (State.frameBegin s v kept) := by
  unfold State.frameBegin
  repeat' first
    | intro _ | with_reducible exact hK | with_reducible assumption | with_reducible exact Keeps.refl _
    | with_reducible apply State.setReg_keeps | with_reducible apply State.clrReg_keeps
    | with_reducible apply State.takeLead_keeps | with_reducible apply Keeps.ite | with_reducible apply Keeps.ite1
    | with_reducible apply Keeps.foldl | with_reducible apply Keeps.foldl1 | split
    | (refine Keeps.of_eq (by assumption) ?_) | (dsimp only; split) | with_reducible apply Keeps.updTop

theorem State.driveBits_keeps {s₀ : State} {s : State} (hK : Keeps s₀ s) :
    Keeps s₀ (State.driveBits s) := by
  unfold State.driveBits
  repeat' first
    | intro _ | with_reducible exact hK | with_reducible assumption | with_reducible exact Keeps.refl _
    | with_reducible apply State.modReg_keeps

theorem State.scanTick_keeps {s₀ : State} {s : State} (hK : Keeps s₀ s) :
    Keeps s₀ (State.scanTick s) := by
  unfold State.scanTick
  repeat' first
    | intro _ | with_reducible exact hK | with_reducible assumption | with_reducible exact Keeps.refl _
    | with_reducible apply State.decideTs_keeps | with_reducible apply State.decideMode_keeps
    | with_reducible apply State.skimLatch_keeps | with_reducible apply State.frameBegin_keeps
    | with_reducible apply State.driveBits_keeps | with_reducible apply Keeps.ite | split
    | (refine Keeps.of_eq (by assumption) ?_) | (dsimp only; split) | with_reducible apply Keeps.updTop

theorem State.rasterOff_keeps {s₀ : State} {s : State} (hK : Keeps s₀ s) :
    Keeps s₀ (State.rasterOff s) := by
  unfold State.rasterOff
  repeat' first
    | intro _ | with_reducible exact hK | with_reducible assumption | with_reducible exact Keeps.refl _
    | with_reducible apply State.setReg_keeps | with_reducible apply State.clrReg_keeps
    | with_reducible apply Keeps.updTop

theorem State.tgStop_keeps {s₀ : State} {s : State} (hK : Keeps s₀ s) :
    Keeps s₀ (State.tgStop s) := by
  unfold State.tgStop
  repeat' first
    | intro _ | with_reducible exact hK | with_reducible assumption | with_reducible exact Keeps.refl _
    | with_reducible apply State.setReg_keeps | with_reducible apply State.planOff_keeps
    | with_reducible apply State.rasterOff_keeps

theorem State.tickEvent_keeps {s₀ : State} {s : State} (hK : Keeps s₀ s) :
    Keeps s₀ (State.tickEvent s) := by
  unfold State.tickEvent
  repeat' first
    | intro _ | with_reducible exact hK | with_reducible assumption | with_reducible exact Keeps.refl _
    | with_reducible apply State.satReg_keeps | with_reducible apply State.tickRegs_keeps
    | with_reducible apply State.deliverTick_keeps | with_reducible apply State.scanTick_keeps
    | with_reducible apply State.tgStop_keeps | with_reducible apply Keeps.ite | split
    | (refine Keeps.of_eq (by assumption) ?_) | (dsimp only; split)

theorem State.tileBudget_keeps {s₀ : State} {s : State} {t : TileId} (hK : Keeps s₀ s) :
    Keeps s₀ (State.tileBudget s t) := by
  unfold State.tileBudget
  repeat' first
    | intro _ | with_reducible exact hK | with_reducible assumption | with_reducible exact Keeps.refl _
    | with_reducible apply State.tickFlag_keeps | with_reducible apply State.tileFault_keeps
    | with_reducible apply Keeps.ite | split | (refine Keeps.of_eq (by assumption) ?_) | (dsimp only; split)

theorem State.budgetCheck_keeps {s₀ : State} {s : State} (hK : Keeps s₀ s) :
    Keeps s₀ (State.budgetCheck s) := by
  unfold State.budgetCheck
  repeat' first
    | intro _ | with_reducible exact hK | with_reducible assumption | with_reducible exact Keeps.refl _
    | with_reducible apply State.tileBudget_keeps | with_reducible apply Keeps.ite | with_reducible apply Keeps.foldl
    | split | (refine Keeps.of_eq (by assumption) ?_) | (dsimp only; split)

theorem State.leaveAdvance_keeps {s₀ : State} {s : State} (hK : Keeps s₀ s) :
    Keeps s₀ (State.leaveAdvance s) := by
  unfold State.leaveAdvance
  repeat' first
    | intro _ | with_reducible exact hK | with_reducible assumption | with_reducible exact Keeps.refl _
    | with_reducible apply Keeps.ite | split | (refine Keeps.of_eq (by assumption) ?_) | (dsimp only; split)
    | with_reducible apply Keeps.updTop

theorem State.ndetClear_keeps {s₀ : State} {s : State} {m : Master} (hK : Keeps s₀ s) :
    Keeps s₀ (State.ndetClear s m) := by
  unfold State.ndetClear
  repeat' first
    | intro _ | with_reducible exact hK | with_reducible assumption | with_reducible exact Keeps.refl _
    | with_reducible apply State.setReg_keeps | with_reducible apply State.regGate_keeps

theorem State.ndetLoRead_keeps {s₀ : State} {s : State} {m : Master} {k : Fin 6} (hK : Keeps s₀ s) :
    Keeps s₀ (State.ndetLoRead s m k) := by
  unfold State.ndetLoRead
  repeat' first
    | intro _ | with_reducible exact hK | with_reducible assumption | with_reducible exact Keeps.refl _
    | with_reducible apply State.emit_keeps | with_reducible apply Keeps.ite | split
    | (refine Keeps.of_eq (by assumption) ?_) | (dsimp only; split) | with_reducible apply Keeps.updTop

end Sys2Proof.Machine
end

