-- ==== Sys2Proof/Laws/KeepsErrors.lean ====
section
/-!
SUPPORT. What the operations of Machine/Errors.lean keep (Laws/Keeps.lean).
-/

namespace Sys2Proof.Machine

theorem State.logAdd_keeps {s₀ : State} {s : State} {r : ErrRec} {seq : Word} (hK : Keeps s₀ s) :
    Keeps s₀ (State.logAdd s r seq) := by
  unfold State.logAdd
  repeat' first
    | intro _ | with_reducible exact hK | with_reducible assumption | with_reducible exact Keeps.refl _
    | with_reducible apply Keeps.ite | split | (refine Keeps.of_eq (by assumption) ?_) | (dsimp only; split)
    | with_reducible apply Keeps.updTop | with_reducible apply Keeps.updTopMilk

theorem State.ownEvent_keeps {s₀ : State} {s : State} {code addr info : Nat} (hK : Keeps s₀ s) :
    Keeps s₀ (State.ownEvent s code addr info) := by
  unfold State.ownEvent
  repeat' first
    | intro _ | with_reducible exact hK | with_reducible assumption | with_reducible exact Keeps.refl _
    | with_reducible apply State.logAdd_keeps | with_reducible apply Keeps.updTop
    | with_reducible apply Keeps.updTopMilk

theorem State.postRec_keeps {s₀ : State} {s : State} {r : ErrRec} (hK : Keeps s₀ s) :
    Keeps s₀ (State.postRec s r) := by
  unfold State.postRec
  repeat' first
    | intro _ | with_reducible exact hK | with_reducible assumption | with_reducible exact Keeps.refl _
    | with_reducible apply State.bell_keeps | with_reducible apply State.event_keeps
    | with_reducible apply State.latchAlert_keeps | with_reducible apply State.logAdd_keeps
    | with_reducible apply Keeps.ite | split | (refine Keeps.of_eq (by assumption) ?_) | (dsimp only; split)
    | with_reducible apply Keeps.updTop

theorem State.errPost_keeps {s₀ : State} {s : State} (hK : Keeps s₀ s) :
    Keeps s₀ (State.errPost s) := by
  unfold State.errPost
  repeat' first
    | intro _ | with_reducible exact hK | with_reducible assumption | with_reducible exact Keeps.refl _
    | with_reducible apply State.postRec_keeps | with_reducible apply Keeps.ite | split
    | (refine Keeps.of_eq (by assumption) ?_) | (dsimp only; split) | with_reducible apply Keeps.updTop

theorem State.recPop_keeps {s₀ : State} {s : State} {m : Master} (hK : Keeps s₀ s) :
    Keeps s₀ (State.recPop s m) := by
  unfold State.recPop
  repeat' first
    | intro _ | with_reducible exact hK | with_reducible assumption | with_reducible exact Keeps.refl _
    | with_reducible apply State.regGate_keeps | with_reducible apply Keeps.updTop

theorem State.candPop_keeps {s₀ : State} {s : State} {m : Master} (hK : Keeps s₀ s) :
    Keeps s₀ (State.candPop s m) := by
  unfold State.candPop
  repeat' first
    | intro _ | with_reducible exact hK | with_reducible assumption | with_reducible exact Keeps.refl _
    | with_reducible apply State.regGate_keeps | with_reducible apply Keeps.updTop

theorem State.loseLate_keeps {s₀ : State} {s : State} (hK : Keeps s₀ s) :
    Keeps s₀ (State.loseLate s) := by
  unfold State.loseLate
  repeat' first
    | intro _ | with_reducible exact hK | with_reducible assumption | with_reducible exact Keeps.refl _
    | with_reducible apply State.satReg_keeps | with_reducible apply Keeps.updTop

theorem State.ssubSet_keeps {s₀ : State} {s : State} {m : Master} {h : Nat} {v : Word} (hK : Keeps s₀ s) :
    Keeps s₀ (State.ssubSet s m h v) := by
  unfold State.ssubSet
  repeat' first
    | intro _ | with_reducible exact hK | with_reducible assumption | with_reducible exact Keeps.refl _
    | with_reducible apply State.orReg_keeps | with_reducible apply State.regGate_keeps
    | with_reducible apply Keeps.updTop

theorem State.ssubClr_keeps {s₀ : State} {s : State} {m : Master} {h : Nat} {v : Word} (hK : Keeps s₀ s) :
    Keeps s₀ (State.ssubClr s m h v) := by
  unfold State.ssubClr
  repeat' first
    | intro _ | with_reducible exact hK | with_reducible assumption | with_reducible exact Keeps.refl _
    | with_reducible apply State.clrReg_keeps | with_reducible apply State.regGate_keeps

theorem State.ssubPublish_keeps {s₀ : State} {s : State} (hK : Keeps s₀ s) :
    Keeps s₀ (State.ssubPublish s) := by
  unfold State.ssubPublish
  repeat' first
    | intro _ | with_reducible exact hK | with_reducible assumption | with_reducible exact Keeps.refl _
    | with_reducible apply State.narrowWrite_keeps | with_reducible apply Keeps.ite | split
    | (refine Keeps.of_eq (by assumption) ?_) | (dsimp only; split)

theorem State.setFault_keeps {s₀ : State} {s : State} {low : Bool} (hK : Keeps s₀ s) :
    Keeps s₀ (State.setFault s low) := by
  unfold State.setFault
  repeat' first
    | intro _ | with_reducible exact hK | with_reducible assumption | with_reducible exact Keeps.refl _
    | with_reducible apply Keeps.updTop | with_reducible apply Keeps.updTopMilk

theorem State.lowerMain_keeps {s₀ : State} {s : State} (hK : Keeps s₀ s) :
    Keeps s₀ (State.lowerMain s) := by
  unfold State.lowerMain
  repeat' first
    | intro _ | with_reducible exact hK | with_reducible assumption | with_reducible exact Keeps.refl _
    | with_reducible apply Keeps.updTop | with_reducible apply Keeps.updTopMilk

theorem State.abortQueue_keeps {s₀ : State} {s : State} {q : Nat} (hK : Keeps s₀ s) : Keeps s₀ (State.abortQueue s q) := by
  unfold State.abortQueue
  refine State.modQ_keeps ?_
  exact Keeps.foldl (State.modQ_keeps hK) (fun _ _ h => State.completionWrite_keeps h)

theorem State.abandonCopies_keeps {s₀ : State} {s : State} (hK : Keeps s₀ s) :
    Keeps s₀ (State.abandonCopies s) := by
  unfold State.abandonCopies
  repeat' first
    | intro _ | with_reducible exact hK | with_reducible assumption | with_reducible exact Keeps.refl _
    | with_reducible apply Keeps.ite | split | (refine Keeps.of_eq (by assumption) ?_) | (dsimp only; split)
    | with_reducible apply Keeps.updTop

theorem State.abortEpoch_keeps {s₀ : State} {s : State} (hK : Keeps s₀ s) :
    Keeps s₀ (State.abortEpoch s) := by
  unfold State.abortEpoch
  repeat' first
    | intro _ | with_reducible exact hK | with_reducible assumption | with_reducible exact Keeps.refl _
    | with_reducible apply State.clearPending_keeps | with_reducible apply State.dropReads_keeps
    | with_reducible apply State.abortQueue_keeps | with_reducible apply State.abandonCopies_keeps
    | with_reducible apply Keeps.foldl | with_reducible apply Keeps.updTop

theorem State.atStep_keeps {s₀ : State} {s : State} {code k : Nat} (hK : Keeps s₀ s) :
    Keeps s₀ (State.atStep s code k) := by
  unfold State.atStep
  repeat' first
    | intro _ | with_reducible exact hK | with_reducible assumption | with_reducible exact Keeps.refl _
    | with_reducible apply Keeps.updTop | with_reducible apply Keeps.updTopMilk

theorem State.outputsOff_keeps {s₀ : State} {s : State} {code : Nat} (hK : Keeps s₀ s) :
    Keeps s₀ (State.outputsOff s code) := by
  unfold State.outputsOff
  repeat' first
    | intro _ | with_reducible exact hK | with_reducible assumption | with_reducible exact Keeps.refl _
    | with_reducible apply State.clrReg_keeps | with_reducible apply State.untrain_keeps
    | with_reducible apply State.nextEpoch_keeps | with_reducible apply State.planOff_keeps
    | with_reducible apply State.rasterOff_keeps | with_reducible apply State.atStep_keeps
    | with_reducible apply Keeps.updTop

theorem State.resetHostKept_keeps {s₀ : State} {s : State} (hK : Keeps s₀ s) :
    Keeps s₀ (State.resetHostKept s) := by
  unfold State.resetHostKept
  repeat' first
    | intro _ | with_reducible exact hK | with_reducible assumption | with_reducible exact Keeps.refl _
    | with_reducible apply State.setReg_keeps | with_reducible apply State.resetHost_keeps
    | with_reducible apply State.mirrorLink_keeps | with_reducible apply Keeps.foldl
    | with_reducible apply Keeps.foldl1

theorem State.mainDomainsOff_keeps {s₀ : State} {s : State} {keepHost : Bool} (hK : Keeps s₀ s) :
    Keeps s₀ (State.mainDomainsOff s keepHost) := by
  unfold State.mainDomainsOff
  repeat' first
    | intro _ | with_reducible exact hK | with_reducible assumption | with_reducible exact Keeps.refl _
    | with_reducible apply State.domainOff_keeps | with_reducible apply Keeps.ite | with_reducible apply Keeps.foldl
    | split | (refine Keeps.of_eq (by assumption) ?_) | (dsimp only; split)

theorem State.mainReset_keeps {s₀ : State} {s : State} {code : Nat} (hK : Keeps s₀ s) : Keeps s₀ (State.mainReset s code) := by
  have g : ∀ off : Bool,
      Keeps s₀ (if off then (s.mainDomainsOff (!off)).setReg rReadyCfg 0 else (s.mainDomainsOff (!off)).resetHostKept) := by
    intro off
    split
    · exact State.setReg_keeps (State.mainDomainsOff_keeps hK)
    · exact State.resetHostKept_keeps (State.mainDomainsOff_keeps hK)
  unfold State.mainReset
  extract_lets off a b s1 s2 s3 s4 c
  have hc : Keeps s₀ c := Keeps.upd (x := b) (g off) rfl rfl rfl rfl rfl rfl rfl
  clear_value c
  split
  · exact State.setReg_keeps (State.lowerMain_keeps hc)
  · exact Keeps.upd (x := c.setReg rBootStage 1) (State.setReg_keeps hc) rfl rfl rfl rfl rfl rfl rfl

theorem State.deviceFault_keeps {s₀ : State} {s : State} {code unit index : Nat} (hK : Keeps s₀ s) :
    Keeps s₀ (State.deviceFault s code unit index) := by
  unfold State.deviceFault
  repeat' first
    | intro _ | with_reducible exact hK | with_reducible assumption | with_reducible exact Keeps.refl _
    | with_reducible apply State.post_keeps | with_reducible apply State.postRec_keeps
    | with_reducible apply State.lowerMain_keeps | with_reducible apply State.atStep_keeps
    | with_reducible apply State.mainReset_keeps | with_reducible apply Keeps.ite | with_reducible apply Keeps.foldl
    | split | (refine Keeps.of_eq (by assumption) ?_) | (dsimp only; split) | with_reducible apply Keeps.updTop
    | with_reducible apply Keeps.updTopMilk

theorem State.thermalTrip_keeps {s₀ : State} {s : State} (hK : Keeps s₀ s) :
    Keeps s₀ (State.thermalTrip s) := by
  unfold State.thermalTrip
  repeat' first
    | intro _ | with_reducible exact hK | with_reducible assumption | with_reducible exact Keeps.refl _
    | with_reducible apply State.deviceFault_keeps | with_reducible apply Keeps.ite | split
    | (refine Keeps.of_eq (by assumption) ?_) | (dsimp only; split)

theorem State.wdogKick_keeps {s₀ : State} {s : State} {m : Master} {k : Fin 4} (hK : Keeps s₀ s) :
    Keeps s₀ (State.wdogKick s m k) := by
  unfold State.wdogKick
  repeat' first
    | intro _ | with_reducible exact hK | with_reducible assumption | with_reducible exact Keeps.refl _
    | with_reducible apply State.regRefuse_keeps | with_reducible apply State.regGate_keeps
    | with_reducible apply Keeps.ite | split | (refine Keeps.of_eq (by assumption) ?_) | (dsimp only; split)
    | with_reducible apply Keeps.updTop | with_reducible apply Keeps.updTopMilk

theorem State.wdogExpiry_keeps {s₀ : State} {s : State} {k : Fin 4} (hK : Keeps s₀ s) :
    Keeps s₀ (State.wdogExpiry s k) := by
  unfold State.wdogExpiry
  repeat' first
    | intro _ | with_reducible exact hK | with_reducible assumption | with_reducible exact Keeps.refl _
    | with_reducible apply State.deviceFault_keeps | with_reducible apply Keeps.ite | split
    | (refine Keeps.of_eq (by assumption) ?_) | (dsimp only; split)

theorem State.sequencingFails_keeps {s₀ : State} {s : State} {reached : Nat} (hK : Keeps s₀ s) :
    Keeps s₀ (State.sequencingFails s reached) := by
  unfold State.sequencingFails
  repeat' first
    | intro _ | with_reducible exact hK | with_reducible assumption | with_reducible exact Keeps.refl _
    | with_reducible apply State.setReg_keeps | with_reducible apply State.domainOff_keeps
    | with_reducible apply State.ownEvent_keeps | with_reducible apply State.setFault_keeps
    | with_reducible apply State.lowerMain_keeps | with_reducible apply Keeps.ite | with_reducible apply Keeps.foldl
    | split | (refine Keeps.of_eq (by assumption) ?_) | (dsimp only; split) | with_reducible apply Keeps.updTop

theorem State.pgLoss_keeps {s₀ : State} {s : State} {core mem : Bool} (hK : Keeps s₀ s) :
    Keeps s₀ (State.pgLoss s core mem) := by
  unfold State.pgLoss
  repeat' first
    | intro _ | with_reducible exact hK | with_reducible assumption | with_reducible exact Keeps.refl _
    | with_reducible apply State.deviceFault_keeps | with_reducible apply State.sequencingFails_keeps
    | with_reducible apply Keeps.ite | split | (refine Keeps.of_eq (by assumption) ?_) | (dsimp only; split)

theorem State.networkTimeout_keeps {s₀ : State} {s : State} (hK : Keeps s₀ s) :
    Keeps s₀ (State.networkTimeout s) := by
  unfold State.networkTimeout
  repeat' first
    | intro _ | with_reducible exact hK | with_reducible assumption | with_reducible exact Keeps.refl _
    | with_reducible apply State.deviceFault_keeps | with_reducible apply Keeps.ite | split
    | (refine Keeps.of_eq (by assumption) ?_) | (dsimp only; split)

theorem State.pllUnlock_keeps {s₀ : State} {s : State} (hK : Keeps s₀ s) :
    Keeps s₀ (State.pllUnlock s) := by
  unfold State.pllUnlock
  repeat' first
    | intro _ | with_reducible exact hK | with_reducible assumption | with_reducible exact Keeps.refl _
    | with_reducible apply State.deviceFault_keeps | with_reducible apply Keeps.ite | split
    | (refine Keeps.of_eq (by assumption) ?_) | (dsimp only; split)

theorem State.fabricError_keeps {s₀ : State} {s : State} (hK : Keeps s₀ s) :
    Keeps s₀ (State.fabricError s) := by
  unfold State.fabricError
  repeat' first
    | intro _ | with_reducible exact hK | with_reducible assumption | with_reducible exact Keeps.refl _
    | with_reducible apply State.deviceFault_keeps | with_reducible apply Keeps.ite | split
    | (refine Keeps.of_eq (by assumption) ?_) | (dsimp only; split)

theorem State.mreqRecovery_keeps {s₀ : State} {s : State} {m : Master} (hK : Keeps s₀ s) :
    Keeps s₀ (State.mreqRecovery s m) := by
  unfold State.mreqRecovery
  repeat' first
    | intro _ | with_reducible exact hK | with_reducible assumption | with_reducible exact Keeps.refl _
    | with_reducible apply State.mresp_keeps | with_reducible apply State.mreqGate_keeps
    | with_reducible apply State.deviceFault_keeps | with_reducible apply Keeps.ite | split
    | (refine Keeps.of_eq (by assumption) ?_) | (dsimp only; split)

theorem State.recoveryStep_keeps {s₀ : State} {s : State} (hK : Keeps s₀ s) :
    Keeps s₀ (State.recoveryStep s) := by
  unfold State.recoveryStep
  repeat' first
    | intro _ | with_reducible exact hK | with_reducible assumption | with_reducible exact Keeps.refl _
    | with_reducible apply State.setFault_keeps | with_reducible apply State.abortEpoch_keeps
    | with_reducible apply State.atStep_keeps | with_reducible apply State.outputsOff_keeps
    | with_reducible apply State.mainReset_keeps | with_reducible apply Keeps.ite | split
    | (refine Keeps.of_eq (by assumption) ?_) | (dsimp only; split) | with_reducible apply Keeps.updTop
    | with_reducible apply Keeps.updTopMilk

end Sys2Proof.Machine
end

