-- ==== Sys2Proof/Laws/KeepsBoot.lean ====
section
/-!
SUPPORT. What the operations of Machine/Boot.lean keep (Laws/Keeps.lean).
-/

namespace Sys2Proof.Machine

theorem State.flashSet_keeps {s₀ : State} {s : State} {a : Nat} {bs : List Byte} (hK : Keeps s₀ s) :
    Keeps s₀ (State.flashSet s a bs) := by
  have f : ∀ (l : List (Byte × Nat)) m, Sparse.wf (fun _ => Config.flashFill) m = true →
      Sparse.wf (fun _ => Config.flashFill)
        (l.foldl (fun m (p : Byte × Nat) => Sparse.set (fun _ => Config.flashFill) m (a + p.2) p.1) m) = true := by
    intro l
    induction l with
    | nil => exact fun _ h => h
    | cons p r ih => exact fun m h => ih _ (Sparse.wf_set _ _ _ _ h)
  exact hK.trans ⟨rfl, id, id, f _ _, id, id⟩

theorem State.flashProgram_keeps {s₀ : State} {s : State} {a : Nat} {bs : List Byte} (hK : Keeps s₀ s) :
    Keeps s₀ (State.flashProgram s a bs) := by
  unfold State.flashProgram
  repeat' first
    | intro _ | with_reducible exact hK | with_reducible assumption | with_reducible exact Keeps.refl _
    | with_reducible apply State.flashSet_keeps

theorem State.flashEraseN_keeps {s₀ : State} {s : State} {a n : Nat} (hK : Keeps s₀ s) :
    Keeps s₀ (State.flashEraseN s a n) :=
  hK.trans ⟨rfl, id, id, fun h => Sparse.wf_drop _ _ _ _ h, id, id⟩

theorem State.powerOnReset_keeps {s₀ : State} {s : State} {testEn : Bool} {addr : Nat} (hK : Keeps s₀ s) :
    Keeps s₀ (State.powerOnReset s testEn addr) := by
  have r : Keeps s₀ { State.reset with
      pending := s.pending
      out := s.out
      free := s.free
      milk := { State.reset.milk with
        testEn := testEn
        enMain := !testEn
        vddioSb := s.milk.vddioSb
        flash := s.milk.flash
        flashSize := s.milk.flashSize
        dbgFuse := s.milk.dbgFuse } } :=
    hK.trans ⟨rfl, fun _ => rfl, fun _ => rfl, id, id, fun _ _ => rfl⟩
  unfold State.powerOnReset
  dsimp only
  split
  · exact State.orReg_keeps (State.setReg_keeps (State.setReg_keeps r))
  · exact State.setReg_keeps r

theorem State.romStart_keeps {s₀ : State} {s : State} {pg : Bool} (hK : Keeps s₀ s) :
    Keeps s₀ (State.romStart s pg) := by
  unfold State.romStart
  repeat' first
    | intro _ | with_reducible exact hK | with_reducible assumption | with_reducible exact Keeps.refl _
    | with_reducible apply State.setReg_keeps | with_reducible apply State.ownEvent_keeps
    | with_reducible apply State.setFault_keeps | with_reducible apply State.lowerMain_keeps
    | with_reducible apply Keeps.ite | split | (refine Keeps.of_eq (by assumption) ?_) | (dsimp only; split)
    | with_reducible apply Keeps.updTop | with_reducible apply Keeps.updTopMilk

theorem State.pgTimeout_keeps {s₀ : State} {s : State} (hK : Keeps s₀ s) :
    Keeps s₀ (State.pgTimeout s) := by
  unfold State.pgTimeout
  repeat' first
    | intro _ | with_reducible exact hK | with_reducible assumption | with_reducible exact Keeps.refl _
    | with_reducible apply State.sequencingFails_keeps | with_reducible apply Keeps.ite | split
    | (refine Keeps.of_eq (by assumption) ?_) | (dsimp only; split)

theorem State.aonLoss_keeps {s₀ : State} {s : State} (hK : Keeps s₀ s) : Keeps s₀ (State.aonLoss s) :=
  hK.trans ⟨rfl, fun _ => rfl, fun _ => rfl, id, id, fun _ _ => rfl⟩

theorem State.vddioChange_keeps {s₀ : State} {s : State} {up : Bool} (hK : Keeps s₀ s) :
    Keeps s₀ (State.vddioChange s up) := by
  unfold State.vddioChange
  repeat' first
    | intro _ | with_reducible exact hK | with_reducible assumption | with_reducible exact Keeps.refl _
    | with_reducible apply Keeps.ite | split | (refine Keeps.of_eq (by assumption) ?_) | (dsimp only; split)
    | with_reducible apply Keeps.updTop | with_reducible apply Keeps.updTopMilk

theorem State.aonLock_keeps {s₀ : State} {s : State} (hK : Keeps s₀ s) :
    Keeps s₀ (State.aonLock s) := by
  unfold State.aonLock
  repeat' first
    | intro _ | with_reducible exact hK | with_reducible assumption | with_reducible exact Keeps.refl _
    | with_reducible apply Keeps.ite | split | (refine Keeps.of_eq (by assumption) ?_) | (dsimp only; split)
    | with_reducible apply Keeps.updTop | with_reducible apply Keeps.updTopMilk

theorem State.applyRec_keeps {s₀ : State} {s : State} {r : FlashRec} (hK : Keeps s₀ s) :
    Keeps s₀ (State.applyRec s r) := by
  unfold State.applyRec
  repeat' first
    | intro _ | with_reducible exact hK | with_reducible assumption | with_reducible exact Keeps.refl _
    | with_reducible apply State.setReg_keeps | with_reducible apply State.modReg_keeps
    | with_reducible apply State.orReg_keeps | with_reducible apply Keeps.ite | with_reducible apply Keeps.foldl
    | split | (refine Keeps.of_eq (by assumption) ?_) | (dsimp only; split) | with_reducible apply Keeps.updTop
    | with_reducible apply Keeps.updTopMilk

theorem State.walkOne_keeps {s₀ : State} {s : State} {w : WalkSum} {r : FlashRec} (hK : Keeps s₀ s) :
    Keeps s₀ (State.walkOne s w r).1 := by
  unfold State.walkOne
  repeat' first
    | intro _ | with_reducible exact hK | with_reducible assumption | with_reducible exact Keeps.refl _
    | with_reducible apply State.ownEvent_keeps | with_reducible apply State.applyRec_keeps
    | with_reducible apply Keeps.ite | with_reducible apply Keeps.ite1 | split
    | (refine Keeps.of_eq (by assumption) ?_) | (dsimp only; split) | with_reducible apply Keeps.updTop

theorem State.buildShadow_keeps {s₀ : State} {s : State} {l : List FlashRec} (hK : Keeps s₀ s) :
    Keeps s₀ (State.buildShadow s l) := by
  unfold State.buildShadow
  repeat' first
    | intro _ | with_reducible exact hK | with_reducible assumption | with_reducible exact Keeps.refl _
    | with_reducible apply State.setReg_keeps | with_reducible apply Keeps.foldl | with_reducible apply Keeps.updTop
    | with_reducible apply Keeps.updTopMem | with_reducible apply Keeps.updTopMilk
    | with_reducible apply Keeps.updTopBoth

theorem State.writeKey_keeps {s₀ : State} {s : State} (hK : Keeps s₀ s) :
    Keeps s₀ (State.writeKey s) := by
  unfold State.writeKey
  repeat' first
    | intro _ | with_reducible exact hK | with_reducible assumption | with_reducible exact Keeps.refl _
    | with_reducible apply State.setReg_keeps | with_reducible apply State.orReg_keeps
    | with_reducible apply Keeps.ite | with_reducible apply Keeps.foldl | split
    | (refine Keeps.of_eq (by assumption) ?_) | (dsimp only; split) | with_reducible apply Keeps.updTop

theorem State.settingsBegin_keeps {s₀ : State} {s : State} (hK : Keeps s₀ s) :
    Keeps s₀ (State.settingsBegin s) := by
  unfold State.settingsBegin
  repeat' first
    | intro _ | with_reducible exact hK | with_reducible assumption | with_reducible exact Keeps.refl _
    | with_reducible apply State.setReg_keeps | with_reducible apply Keeps.foldl | with_reducible apply Keeps.updTop
    | with_reducible apply Keeps.updTopMilk

theorem State.settingsStage_keeps {s₀ : State} {s : State} {n : Nat} (hK : Keeps s₀ s) :
    Keeps s₀ (State.settingsStage s n) := by
  unfold State.settingsStage
  repeat' first
    | intro _ | with_reducible exact hK | with_reducible assumption | with_reducible exact Keeps.refl _
    | with_reducible apply State.setReg_keeps | with_reducible apply Keeps.ite | split
    | (refine Keeps.of_eq (by assumption) ?_) | (dsimp only; split)

theorem State.settingsRead_keeps {s₀ : State} {s : State} {found : Bool} {log2 mode : Nat} {jedec : BitVec 24} (hK : Keeps s₀ s) :
    Keeps s₀ (State.settingsRead s found log2 mode jedec) := by
  unfold State.settingsRead
  repeat' first
    | intro _ | with_reducible exact hK | with_reducible assumption | with_reducible exact Keeps.refl _
    | with_reducible apply State.setReg_keeps | with_reducible apply State.ownEvent_keeps
    | with_reducible apply State.walkOne_keeps | with_reducible apply State.buildShadow_keeps
    | with_reducible apply State.writeKey_keeps | with_reducible apply State.settingsBegin_keeps
    | with_reducible apply State.settingsStage_keeps | with_reducible apply Keeps.ite
    | with_reducible apply Keeps.ite1 | with_reducible apply Keeps.foldl | with_reducible apply Keeps.foldl1 | split
    | (refine Keeps.of_eq (by assumption) ?_) | (dsimp only; split) | with_reducible apply Keeps.updTop
    | with_reducible apply Keeps.updTopMilk

theorem State.setHash_keeps {s₀ : State} {s : State} {d : List Byte} (hK : Keeps s₀ s) :
    Keeps s₀ (State.setHash s d) := by
  unfold State.setHash
  repeat' first
    | intro _ | with_reducible exact hK | with_reducible assumption | with_reducible exact Keeps.refl _
    | with_reducible apply State.setReg_keeps | with_reducible apply Keeps.foldl

theorem State.trySlot_keeps {s₀ : State} {s : State} {o : Option BootRec} (hK : Keeps s₀ s) :
    Keeps s₀ (State.trySlot s o).1 := by
  unfold State.trySlot
  repeat' first
    | intro _ | with_reducible exact hK | with_reducible assumption | with_reducible exact Keeps.refl _
    | with_reducible apply State.sramWrite_keeps | with_reducible apply State.setHash_keeps
    | with_reducible apply Keeps.ite | with_reducible apply Keeps.ite1 | split
    | (refine Keeps.of_eq (by assumption) ?_) | (dsimp only; split)

theorem State.startStewards_keeps {s₀ : State} {s : State} {b entry : Nat} (hK : Keeps s₀ s) :
    Keeps s₀ (State.startStewards s b entry) := by
  unfold State.startStewards
  repeat' first
    | intro _ | with_reducible exact hK | with_reducible assumption | with_reducible exact Keeps.refl _
    | with_reducible apply State.setReg_keeps | with_reducible apply State.modReg_keeps
    | with_reducible apply Keeps.updTop | with_reducible apply Keeps.updTopMilk

theorem State.slotFailed_keeps {s₀ : State} {s : State} {b : Nat} (hK : Keeps s₀ s) :
    Keeps s₀ (State.slotFailed s b) := by
  unfold State.slotFailed
  repeat' first
    | intro _ | with_reducible exact hK | with_reducible assumption | with_reducible exact Keeps.refl _
    | with_reducible apply State.orReg_keeps | with_reducible apply State.ownEvent_keeps
    | with_reducible apply Keeps.ite | split | (refine Keeps.of_eq (by assumption) ?_) | (dsimp only; split)

theorem State.authenticate_keeps {s₀ : State} {s : State} (hK : Keeps s₀ s) : Keeps s₀ (State.authenticate s) := by
  unfold State.authenticate
  split
  · exact hK
  · dsimp only
    split
    · rename_i e
      exact State.startStewards_keeps (Keeps.of_eq e (State.trySlot_keeps hK))
    · rename_i e
      have h := State.slotFailed_keeps (b := match s.milk.bootSel with | 1 => 0 | 2 => 1 | _ => s.milk.settings.flags % 2)
        (Keeps.of_eq e (State.trySlot_keeps hK))
      split
      · rename_i e
        exact State.startStewards_keeps (Keeps.of_eq e (State.trySlot_keeps h))
      · rename_i e
        refine Keeps.updTopMilk ?_
        exact State.setFault_keeps (State.setReg_keeps (State.slotFailed_keeps (Keeps.of_eq e (State.trySlot_keeps h))))

theorem State.flashReq_keeps {s₀ : State} {s : State} {m : Master} {v : Word} (hK : Keeps s₀ s) :
    Keeps s₀ (State.flashReq s m v) := by
  unfold State.flashReq
  repeat' first
    | intro _ | with_reducible exact hK | with_reducible assumption | with_reducible exact Keeps.refl _
    | with_reducible apply State.setReg_keeps | with_reducible apply State.regGate_keeps

theorem State.copyStatus_keeps {s₀ : State} {s : State} {cause : Nat} (hK : Keeps s₀ s) :
    Keeps s₀ (State.copyStatus s cause) := by
  unfold State.copyStatus
  repeat' first
    | intro _ | with_reducible exact hK | with_reducible assumption | with_reducible exact Keeps.refl _
    | with_reducible apply State.modReg_keeps | with_reducible apply State.orReg_keeps
    | with_reducible apply State.clrReg_keeps | with_reducible apply Keeps.ite | split
    | (refine Keeps.of_eq (by assumption) ?_) | (dsimp only; split)

theorem State.flashCopy_keeps {s₀ : State} {s : State} {m : Master} {v : Word} (hK : Keeps s₀ s) :
    Keeps s₀ (State.flashCopy s m v) := by
  unfold State.flashCopy
  repeat' first
    | intro _ | with_reducible exact hK | with_reducible assumption | with_reducible exact Keeps.refl _
    | with_reducible apply State.setReg_keeps | with_reducible apply State.regGate_keeps
    | with_reducible apply State.copyStatus_keeps | with_reducible apply Keeps.ite | split
    | (refine Keeps.of_eq (by assumption) ?_) | (dsimp only; split)

theorem State.copyPart_keeps {s₀ : State} {s : State} {dir : Bool} {src dst : Nat} (hK : Keeps s₀ s) :
    Keeps s₀ (State.copyPart s dir src dst).1 := by
  unfold State.copyPart
  repeat' first
    | intro _ | with_reducible exact hK | with_reducible assumption | with_reducible exact Keeps.refl _
    | with_reducible apply State.readMem_keeps | with_reducible apply State.sramWrite_keeps
    | with_reducible apply State.writeNarrow_keeps | with_reducible apply State.flashProgram_keeps
    | with_reducible apply Keeps.ite | with_reducible apply Keeps.ite1 | split
    | (refine Keeps.of_eq (by assumption) ?_) | (dsimp only; split)

theorem State.copyParts_keeps {s₀ : State} {dir : Bool} {n : Nat} : ∀ {src dst : Nat} {s : State} {acc : List Byte},
    Keeps s₀ s → Keeps s₀ (State.copyParts dir n src dst s acc).1 := by
  induction n with
  | zero => exact fun h => h
  | succ n ih =>
    intro src dst s acc h
    have c := State.copyPart_keeps (dir := dir) (src := src) (dst := dst) h
    unfold State.copyParts
    split
    · rename_i e
      rw [e] at c
      exact ih c
    · rename_i e
      rw [e] at c
      exact c

theorem State.copyMove_keeps {s₀ : State} {s : State} {n : Nat} (hK : Keeps s₀ s) :
    Keeps s₀ (State.copyMove s n).1 := by
  unfold State.copyMove
  repeat' first
    | intro _ | with_reducible exact hK | with_reducible assumption | with_reducible exact Keeps.refl _
    | with_reducible apply State.setHash_keeps | with_reducible apply State.copyParts_keeps
    | with_reducible apply Keeps.ite | with_reducible apply Keeps.ite1 | split
    | (refine Keeps.of_eq (by assumption) ?_) | (dsimp only; split)

theorem State.flashCopyDone_keeps {s₀ : State} {s : State} {units : Nat} (hK : Keeps s₀ s) :
    Keeps s₀ (State.flashCopyDone s units) := by
  unfold State.flashCopyDone
  repeat' first
    | intro _ | with_reducible exact hK | with_reducible assumption | with_reducible exact Keeps.refl _
    | with_reducible apply State.copyStatus_keeps | with_reducible apply State.copyMove_keeps
    | with_reducible apply Keeps.ite | split | (refine Keeps.of_eq (by assumption) ?_) | (dsimp only; split)

theorem State.flashAbort_keeps {s₀ : State} {s : State} {m : Master} {units : Nat} (hK : Keeps s₀ s) :
    Keeps s₀ (State.flashAbort s m units) := by
  unfold State.flashAbort
  repeat' first
    | intro _ | with_reducible exact hK | with_reducible assumption | with_reducible exact Keeps.refl _
    | with_reducible apply State.setReg_keeps | with_reducible apply State.clrReg_keeps
    | with_reducible apply State.fresh_keeps | with_reducible apply State.regGate_keeps
    | with_reducible apply State.copyMove_keeps | with_reducible apply Keeps.ite | with_reducible apply Keeps.ite1
    | split | (refine Keeps.of_eq (by assumption) ?_) | (dsimp only; split)

theorem State.eraseGo_keeps {s₀ : State} {s : State} {m : Master} {v : Word} (hK : Keeps s₀ s) :
    Keeps s₀ (State.eraseGo s m v) := by
  unfold State.eraseGo
  repeat' first
    | intro _ | with_reducible exact hK | with_reducible assumption | with_reducible exact Keeps.refl _
    | with_reducible apply State.setReg_keeps | with_reducible apply State.regGate_keeps
    | with_reducible apply Keeps.ite | split | (refine Keeps.of_eq (by assumption) ?_) | (dsimp only; split)

theorem State.flashOpDone_keeps {s₀ : State} {s : State} (hK : Keeps s₀ s) :
    Keeps s₀ (State.flashOpDone s) := by
  unfold State.flashOpDone
  repeat' first
    | intro _ | with_reducible exact hK | with_reducible assumption | with_reducible exact Keeps.refl _
    | with_reducible apply State.clrReg_keeps | with_reducible apply State.flashSet_keeps
    | with_reducible apply State.flashEraseN_keeps | with_reducible apply Keeps.ite | split
    | (refine Keeps.of_eq (by assumption) ?_) | (dsimp only; split) | with_reducible apply Keeps.updTop
    | with_reducible apply Keeps.updTopMilk

theorem State.repairAppend_keeps {s₀ : State} {s : State} (hK : Keeps s₀ s) :
    Keeps s₀ (State.repairAppend s) := by
  unfold State.repairAppend
  repeat' first
    | intro _ | with_reducible exact hK | with_reducible assumption | with_reducible exact Keeps.refl _
    | with_reducible apply State.ownEvent_keeps | with_reducible apply State.flashSet_keeps
    | with_reducible apply State.flashProgram_keeps | with_reducible apply Keeps.ite | split
    | (refine Keeps.of_eq (by assumption) ?_) | (dsimp only; split) | with_reducible apply Keeps.updTop
    | with_reducible apply Keeps.updTopMilk

end Sys2Proof.Machine
end

