-- ==== Sys2Proof/Laws/KeepsSideband.lean ====
section
/-!
SUPPORT. What the operations of Machine/Sideband.lean keep (Laws/Keeps.lean).
-/

namespace Sys2Proof.Machine

theorem State.sbAnswer_keeps {s₀ : State} {s : State} {sent resp : List Byte} (hK : Keeps s₀ s) :
    Keeps s₀ (State.sbAnswer s sent resp) := by
  unfold State.sbAnswer
  repeat' first
    | intro _ | with_reducible exact hK | with_reducible assumption | with_reducible exact Keeps.refl _
    | with_reducible apply State.emit_keeps

theorem State.sbSays_keeps {s₀ : State} {s : State} {status : Nat} (hK : Keeps s₀ s) :
    Keeps s₀ (State.sbSays s status).s := by
  unfold State.sbSays
  repeat' first
    | intro _ | with_reducible exact hK | with_reducible assumption | with_reducible exact Keeps.refl _

theorem State.sbGives_keeps {s₀ : State} {s : State} {data : List Byte} (hK : Keeps s₀ s) :
    Keeps s₀ (State.sbGives s data).s := by
  unfold State.sbGives
  repeat' first
    | intro _ | with_reducible exact hK | with_reducible assumption | with_reducible exact Keeps.refl _

theorem State.sbAct_keeps {s₀ : State} {s : State} {f : SbForm} {lens : Nat → Bool} {req : List Byte} {act : State → SbDone} (hK : Keeps s₀ s) (hkact : ∀ x0, Keeps s₀ x0 → Keeps s₀ (act x0).s) :
    Keeps s₀ (State.sbAct s f lens req act).s := by
  unfold State.sbAct
  repeat' first
    | intro _ | with_reducible exact hK | with_reducible assumption | with_reducible exact Keeps.refl _
    | (with_reducible apply hkact) | with_reducible apply State.sbSays_keeps | with_reducible apply Keeps.ite | split
    | (refine Keeps.of_eq (by assumption) ?_) | (dsimp only; split)

theorem State.sbPecError_keeps {s₀ : State} {s : State} (hK : Keeps s₀ s) :
    Keeps s₀ (State.sbPecError s) := by
  unfold State.sbPecError
  repeat' first
    | intro _ | with_reducible exact hK | with_reducible assumption | with_reducible exact Keeps.refl _
    | with_reducible apply State.modReg_keeps | with_reducible apply Keeps.updTop
    | with_reducible apply Keeps.updTopMilk

theorem State.sbRequest_keeps {s₀ : State} {s : State} {f : SbForm} {code : Nat} {lens : Nat → Bool} {req : List Byte} {act : State → SbDone} (hK : Keeps s₀ s) (hkact : ∀ x0, Keeps s₀ x0 → Keeps s₀ (act x0).s) :
    Keeps s₀ (State.sbRequest s f code lens req act) := by
  unfold State.sbRequest
  repeat' first
    | intro _ | with_reducible exact hK | with_reducible assumption | with_reducible exact Keeps.refl _
    | (with_reducible apply hkact) | with_reducible apply State.sbAnswer_keeps
    | with_reducible apply State.sbAct_keeps | with_reducible apply State.sbPecError_keeps
    | with_reducible apply Keeps.ite | split | (refine Keeps.of_eq (by assumption) ?_) | (dsimp only; split)
    | with_reducible apply Keeps.updTop | with_reducible apply Keeps.updTopMilk

theorem State.sbMain_keeps {s₀ : State} {s : State} {act : State → SbDone} (hK : Keeps s₀ s) (hkact : ∀ x0, Keeps s₀ x0 → Keeps s₀ (act x0).s) :
    Keeps s₀ (State.sbMain s act).s := by
  unfold State.sbMain
  repeat' first
    | intro _ | with_reducible exact hK | with_reducible assumption | with_reducible exact Keeps.refl _
    | (with_reducible apply hkact) | with_reducible apply State.sbSays_keeps | with_reducible apply Keeps.ite | split
    | (refine Keeps.of_eq (by assumption) ?_) | (dsimp only; split)

theorem State.blockRead_keeps {s₀ : State} {s : State} {code : Byte} (hK : Keeps s₀ s) :
    Keeps s₀ (State.blockRead s code) := by
  unfold State.blockRead
  repeat' first
    | intro _ | with_reducible exact hK | with_reducible assumption | with_reducible exact Keeps.refl _
    | with_reducible apply State.sbAnswer_keeps | with_reducible apply Keeps.ite | split
    | (refine Keeps.of_eq (by assumption) ?_) | (dsimp only; split)

theorem State.smbusTimeout_keeps {s₀ : State} {s : State} (hK : Keeps s₀ s) :
    Keeps s₀ (State.smbusTimeout s) := by
  unfold State.smbusTimeout
  repeat' first
    | intro _ | with_reducible exact hK | with_reducible assumption | with_reducible exact Keeps.refl _
    | with_reducible apply State.modReg_keeps | with_reducible apply Keeps.ite | split
    | (refine Keeps.of_eq (by assumption) ?_) | (dsimp only; split) | with_reducible apply Keeps.updTop
    | with_reducible apply Keeps.updTopMilk

theorem State.alertForget_keeps {s₀ : State} {s : State} (hK : Keeps s₀ s) :
    Keeps s₀ (State.alertForget s) := by
  unfold State.alertForget
  repeat' first
    | intro _ | with_reducible exact hK | with_reducible assumption | with_reducible exact Keeps.refl _
    | with_reducible apply Keeps.updTop | with_reducible apply Keeps.updTopMilk

theorem State.alertResponse_keeps {s₀ : State} {s : State} (hK : Keeps s₀ s) :
    Keeps s₀ (State.alertResponse s) := by
  unfold State.alertResponse
  repeat' first
    | intro _ | with_reducible exact hK | with_reducible assumption | with_reducible exact Keeps.refl _
    | with_reducible apply State.emit_keeps | with_reducible apply Keeps.ite | split
    | (refine Keeps.of_eq (by assumption) ?_) | (dsimp only; split) | with_reducible apply Keeps.updTop
    | with_reducible apply Keeps.updTopMilk

theorem State.sbStatus_keeps {s₀ : State} {s : State} (hK : Keeps s₀ s) :
    Keeps s₀ (State.sbStatus s).s := by
  unfold State.sbStatus
  repeat' first
    | intro _ | with_reducible exact hK | with_reducible assumption | with_reducible exact Keeps.refl _
    | with_reducible apply State.sbGives_keeps | with_reducible apply State.alertForget_keeps
    | with_reducible apply Keeps.updTop | with_reducible apply Keeps.updTopMilk

theorem State.sbTemp_keeps {s₀ : State} {s : State} (hK : Keeps s₀ s) :
    Keeps s₀ (State.sbTemp s).s := by
  unfold State.sbTemp
  repeat' first
    | intro _ | with_reducible exact hK | with_reducible assumption | with_reducible exact Keeps.refl _
    | with_reducible apply State.sbGives_keeps | with_reducible apply Keeps.ite | split
    | (refine Keeps.of_eq (by assumption) ?_) | (dsimp only; split)

theorem State.sbPower_keeps {s₀ : State} {s : State} (hK : Keeps s₀ s) :
    Keeps s₀ (State.sbPower s).s := by
  unfold State.sbPower
  repeat' first
    | intro _ | with_reducible exact hK | with_reducible assumption | with_reducible exact Keeps.refl _
    | with_reducible apply State.sbGives_keeps | with_reducible apply Keeps.ite | split
    | (refine Keeps.of_eq (by assumption) ?_) | (dsimp only; split)

theorem State.sbPulse_keeps {s₀ : State} {s : State} (hK : Keeps s₀ s) :
    Keeps s₀ (State.sbPulse s).s := by
  unfold State.sbPulse
  repeat' first
    | intro _ | with_reducible exact hK | with_reducible assumption | with_reducible exact Keeps.refl _
    | with_reducible apply State.sbGives_keeps | with_reducible apply Keeps.ite | split
    | (refine Keeps.of_eq (by assumption) ?_) | (dsimp only; split)

theorem State.sbLogRead_keeps {s₀ : State} {s : State} {pos : Nat} (hK : Keeps s₀ s) :
    Keeps s₀ (State.sbLogRead s pos).s := by
  unfold State.sbLogRead
  repeat' first
    | intro _ | with_reducible exact hK | with_reducible assumption | with_reducible exact Keeps.refl _
    | with_reducible apply State.sbGives_keeps | with_reducible apply Keeps.ite | with_reducible apply Keeps.ite1
    | split | (refine Keeps.of_eq (by assumption) ?_) | (dsimp only; split)

theorem State.sbLogClear_keeps {s₀ : State} {s : State} {pos : Nat} (hK : Keeps s₀ s) :
    Keeps s₀ (State.sbLogClear s pos).s := by
  unfold State.sbLogClear
  repeat' first
    | intro _ | with_reducible exact hK | with_reducible assumption | with_reducible exact Keeps.refl _
    | with_reducible apply State.sbGives_keeps | with_reducible apply Keeps.updTop
    | with_reducible apply Keeps.updTopMilk

theorem State.sbReset_keeps {s₀ : State} {s : State} {v : Nat} (hK : Keeps s₀ s) :
    Keeps s₀ (State.sbReset s v).s := by
  unfold State.sbReset
  repeat' first
    | intro _ | with_reducible exact hK | with_reducible assumption | with_reducible exact Keeps.refl _
    | with_reducible apply State.ownEvent_keeps | with_reducible apply State.deviceFault_keeps
    | with_reducible apply State.sbSays_keeps | with_reducible apply State.sbGives_keeps
    | with_reducible apply State.sbMain_keeps | with_reducible apply Keeps.ite | split
    | (refine Keeps.of_eq (by assumption) ?_) | (dsimp only; split)

theorem State.mainPowerOff_keeps {s₀ : State} {s : State} (hK : Keeps s₀ s) :
    Keeps s₀ (State.mainPowerOff s) := by
  unfold State.mainPowerOff
  repeat' first
    | intro _ | with_reducible exact hK | with_reducible assumption | with_reducible exact Keeps.refl _
    | with_reducible apply State.ownEvent_keeps | with_reducible apply State.atStep_keeps
    | with_reducible apply State.mainReset_keeps | with_reducible apply State.deviceFault_keeps
    | with_reducible apply Keeps.ite | split | (refine Keeps.of_eq (by assumption) ?_) | (dsimp only; split)
    | with_reducible apply Keeps.updTop | with_reducible apply Keeps.updTopMilk

theorem State.mainPowerOn_keeps {s₀ : State} {s : State} (hK : Keeps s₀ s) :
    Keeps s₀ (State.mainPowerOn s) := by
  unfold State.mainPowerOn
  repeat' first
    | intro _ | with_reducible exact hK | with_reducible assumption | with_reducible exact Keeps.refl _
    | with_reducible apply State.setReg_keeps | with_reducible apply State.ownEvent_keeps
    | with_reducible apply Keeps.updTop | with_reducible apply Keeps.updTopMilk

theorem State.sbMainPower_keeps {s₀ : State} {s : State} {v : Nat} (hK : Keeps s₀ s) :
    Keeps s₀ (State.sbMainPower s v).s := by
  unfold State.sbMainPower
  repeat' first
    | intro _ | with_reducible exact hK | with_reducible assumption | with_reducible exact Keeps.refl _
    | with_reducible apply State.sbSays_keeps | with_reducible apply State.sbGives_keeps
    | with_reducible apply State.mainPowerOff_keeps | with_reducible apply State.mainPowerOn_keeps
    | with_reducible apply Keeps.ite | split | (refine Keeps.of_eq (by assumption) ?_) | (dsimp only; split)

theorem State.sbBootSelect_keeps {s₀ : State} {s : State} {v : Nat} (hK : Keeps s₀ s) :
    Keeps s₀ (State.sbBootSelect s v).s := by
  unfold State.sbBootSelect
  repeat' first
    | intro _ | with_reducible exact hK | with_reducible assumption | with_reducible exact Keeps.refl _
    | with_reducible apply State.sbSays_keeps | with_reducible apply State.sbGives_keeps
    | with_reducible apply Keeps.ite | split | (refine Keeps.of_eq (by assumption) ?_) | (dsimp only; split)
    | with_reducible apply Keeps.updTop | with_reducible apply Keeps.updTopMilk

theorem State.sbFlashOpen_keeps {s₀ : State} {s : State} (hK : Keeps s₀ s) :
    Keeps s₀ (State.sbFlashOpen s).s := by
  unfold State.sbFlashOpen
  repeat' first
    | intro _ | with_reducible exact hK | with_reducible assumption | with_reducible exact Keeps.refl _
    | with_reducible apply State.sbSays_keeps | with_reducible apply State.sbGives_keeps
    | with_reducible apply Keeps.ite | split | (refine Keeps.of_eq (by assumption) ?_) | (dsimp only; split)
    | with_reducible apply Keeps.updTop | with_reducible apply Keeps.updTopMilk

theorem State.sbFlash_keeps {s₀ : State} {s : State} {act : State → SbDone} (hK : Keeps s₀ s) (hkact : ∀ x0, Keeps s₀ x0 → Keeps s₀ (act x0).s) :
    Keeps s₀ (State.sbFlash s act).s := by
  unfold State.sbFlash
  repeat' first
    | intro _ | with_reducible exact hK | with_reducible assumption | with_reducible exact Keeps.refl _
    | (with_reducible apply hkact) | with_reducible apply State.sbSays_keeps | with_reducible apply Keeps.ite | split
    | (refine Keeps.of_eq (by assumption) ?_) | (dsimp only; split)

theorem State.sbFlashRead_keeps {s₀ : State} {s : State} {off len : Nat} (hK : Keeps s₀ s) :
    Keeps s₀ (State.sbFlashRead s off len).s := by
  unfold State.sbFlashRead
  repeat' first
    | intro _ | with_reducible exact hK | with_reducible assumption | with_reducible exact Keeps.refl _
    | with_reducible apply State.sbSays_keeps | with_reducible apply State.sbGives_keeps
    | with_reducible apply State.sbFlash_keeps | with_reducible apply Keeps.ite | split
    | (refine Keeps.of_eq (by assumption) ?_) | (dsimp only; split)

theorem State.sbStart_keeps {s₀ : State} {s : State} {off : Nat} {bs : List Byte} (hK : Keeps s₀ s) :
    Keeps s₀ (State.sbStart s off bs).s := by
  unfold State.sbStart
  repeat' first
    | intro _ | with_reducible exact hK | with_reducible assumption | with_reducible exact Keeps.refl _
    | with_reducible apply State.sbSays_keeps | with_reducible apply State.sbGives_keeps
    | with_reducible apply Keeps.ite | split | (refine Keeps.of_eq (by assumption) ?_) | (dsimp only; split)
    | with_reducible apply Keeps.updTop | with_reducible apply Keeps.updTopMilk

theorem State.sbFlashWrite_keeps {s₀ : State} {s : State} {off : Nat} {data : List Byte} (hK : Keeps s₀ s) :
    Keeps s₀ (State.sbFlashWrite s off data).s := by
  unfold State.sbFlashWrite
  repeat' first
    | intro _ | with_reducible exact hK | with_reducible assumption | with_reducible exact Keeps.refl _
    | with_reducible apply State.sbSays_keeps | with_reducible apply State.sbFlash_keeps
    | with_reducible apply State.sbStart_keeps | with_reducible apply Keeps.ite | with_reducible apply Keeps.ite1
    | split | (refine Keeps.of_eq (by assumption) ?_) | (dsimp only; split)

theorem State.sbFlashErase_keeps {s₀ : State} {s : State} {off size : Nat} (hK : Keeps s₀ s) :
    Keeps s₀ (State.sbFlashErase s off size).s := by
  unfold State.sbFlashErase
  repeat' first
    | intro _ | with_reducible exact hK | with_reducible assumption | with_reducible exact Keeps.refl _
    | with_reducible apply State.sbSays_keeps | with_reducible apply State.sbFlash_keeps
    | with_reducible apply State.sbStart_keeps | with_reducible apply Keeps.ite | split
    | (refine Keeps.of_eq (by assumption) ?_) | (dsimp only; split)

theorem State.sbFlashClose_keeps {s₀ : State} {s : State} (hK : Keeps s₀ s) :
    Keeps s₀ (State.sbFlashClose s).s := by
  unfold State.sbFlashClose
  repeat' first
    | intro _ | with_reducible exact hK | with_reducible assumption | with_reducible exact Keeps.refl _
    | with_reducible apply State.sbSays_keeps | with_reducible apply State.sbGives_keeps
    | with_reducible apply Keeps.ite | split | (refine Keeps.of_eq (by assumption) ?_) | (dsimp only; split)
    | with_reducible apply Keeps.updTop | with_reducible apply Keeps.updTopMilk

theorem State.flashLapse_keeps {s₀ : State} {s : State} (hK : Keeps s₀ s) :
    Keeps s₀ (State.flashLapse s) := by
  unfold State.flashLapse
  repeat' first
    | intro _ | with_reducible exact hK | with_reducible assumption | with_reducible exact Keeps.refl _
    | with_reducible apply State.ownEvent_keeps | with_reducible apply Keeps.ite | split
    | (refine Keeps.of_eq (by assumption) ?_) | (dsimp only; split) | with_reducible apply Keeps.updTop
    | with_reducible apply Keeps.updTopMilk

theorem State.setAuth_keeps {s₀ : State} {s : State} {scope fail : Nat} (hK : Keeps s₀ s)
    (ha : s.milk.dbgFuse = true → scope = 0 ∨ scope = s.milk.scope) : Keeps s₀ (State.setAuth s scope fail) := by
  have h : Keeps s₀ { s with milk := { s.milk with scope := scope, authFail := fail } } :=
    hK.trans ⟨rfl, id, id, id, id, fun l f => (ha f).elim id (fun e => e.trans (l f))⟩
  unfold State.setAuth
  dsimp only
  split
  · exact State.setReg_keeps h
  · exact h

theorem State.freshWords_keeps {s₀ : State} {n : Nat} : ∀ {s : State}, Keeps s₀ s → Keeps s₀ (State.freshWords s n).1 := by
  induction n with
  | zero => exact fun h => h
  | succ n ih => exact fun h => ih (State.fresh_keeps h)

theorem State.newNonce_keeps {s₀ : State} {s : State} (hK : Keeps s₀ s) :
    Keeps s₀ (State.newNonce s).1 := by
  unfold State.newNonce
  repeat' first
    | intro _ | with_reducible exact hK | with_reducible assumption | with_reducible exact Keeps.refl _
    | with_reducible apply State.freshWords_keeps | with_reducible apply Keeps.updTop
    | with_reducible apply Keeps.updTopMilk

theorem State.authSubmit_keeps {s₀ : State} {s : State} {scope : Byte} {sig : List Byte} (hK : Keeps s₀ s)
    (hd : s.milk.dbgFuse = false) : Keeps s₀ (State.authSubmit s scope sig).1 := by
  have h : Keeps s₀ { s with milk := { s.milk with nonce := none } } := hK.upd rfl rfl rfl rfl rfl rfl rfl
  unfold State.authSubmit
  dsimp only
  split
  · exact State.setAuth_keeps h (fun _ => .inr rfl)
  · split
    · exact h
    · exact State.setAuth_keeps h (fun e => absurd e (by rw [hd]; decide))

theorem State.sbChallenge_keeps {s₀ : State} {s : State} (hK : Keeps s₀ s) :
    Keeps s₀ (State.sbChallenge s).s := by
  unfold State.sbChallenge
  repeat' first
    | intro _ | with_reducible exact hK | with_reducible assumption | with_reducible exact Keeps.refl _
    | with_reducible apply State.sbSays_keeps | with_reducible apply State.sbGives_keeps
    | with_reducible apply State.newNonce_keeps | with_reducible apply Keeps.ite | with_reducible apply Keeps.ite1
    | split | (refine Keeps.of_eq (by assumption) ?_) | (dsimp only; split)

theorem State.sbResponse_keeps {s₀ : State} {s : State} {scope : Byte} {sig : List Byte} (hK : Keeps s₀ s) :
    Keeps s₀ (State.sbResponse s scope sig).s := by
  unfold State.sbResponse
  split
  · exact State.sbSays_keeps hK
  · rename_i hd
    have r := State.authSubmit_keeps (scope := scope) (sig := sig) hK (by simpa [State.dbgDisabled] using hd)
    split
    · rename_i e
      exact State.sbGives_keeps (Keeps.of_eq e r)
    · rename_i e
      exact State.sbSays_keeps (Keeps.of_eq e r)

theorem State.nonceExpire_keeps {s₀ : State} {s : State} (hK : Keeps s₀ s) :
    Keeps s₀ (State.nonceExpire s) := by
  unfold State.nonceExpire
  repeat' first
    | intro _ | with_reducible exact hK | with_reducible assumption | with_reducible exact Keeps.refl _
    | with_reducible apply Keeps.updTop | with_reducible apply Keeps.updTopMilk

theorem State.putMessage_keeps {s₀ : State} {s : State} {msg : List Byte} (hK : Keeps s₀ s) :
    Keeps s₀ (State.putMessage s msg) := by
  unfold State.putMessage
  repeat' first
    | intro _ | with_reducible exact hK | with_reducible assumption | with_reducible exact Keeps.refl _
    | with_reducible apply State.modReg_keeps | with_reducible apply Keeps.foldl

theorem State.sbMboxSend_keeps {s₀ : State} {s : State} {msg : List Byte} (hK : Keeps s₀ s) :
    Keeps s₀ (State.sbMboxSend s msg).s := by
  unfold State.sbMboxSend
  repeat' first
    | intro _ | with_reducible exact hK | with_reducible assumption | with_reducible exact Keeps.refl _
    | with_reducible apply State.setReg_keeps | with_reducible apply State.bell_keeps
    | with_reducible apply State.event_keeps | with_reducible apply State.sbSays_keeps
    | with_reducible apply State.sbGives_keeps | with_reducible apply State.putMessage_keeps
    | with_reducible apply Keeps.ite | split | (refine Keeps.of_eq (by assumption) ?_) | (dsimp only; split)

theorem State.sbMboxRecv_keeps {s₀ : State} {s : State} (hK : Keeps s₀ s) :
    Keeps s₀ (State.sbMboxRecv s).s := by
  unfold State.sbMboxRecv
  repeat' first
    | intro _ | with_reducible exact hK | with_reducible assumption | with_reducible exact Keeps.refl _
    | with_reducible apply State.clrReg_keeps | with_reducible apply State.sbGives_keeps
    | with_reducible apply Keeps.ite | split | (refine Keeps.of_eq (by assumption) ?_) | (dsimp only; split)

theorem State.h2sbGate_keeps {s₀ : State} {s : State} {m : Master} {a : Nat} {k : State → State} (hK : Keeps s₀ s) (hkk : ∀ x0, Keeps s₀ x0 → Keeps s₀ (k x0)) :
    Keeps s₀ (State.h2sbGate s m a k) := by
  unfold State.h2sbGate
  repeat' first
    | intro _ | with_reducible exact hK | with_reducible assumption | with_reducible exact Keeps.refl _
    | (with_reducible apply hkk) | with_reducible apply State.satReg_keeps
    | with_reducible apply State.regRefuse_keeps | with_reducible apply State.regGate_keeps
    | with_reducible apply Keeps.ite | split | (refine Keeps.of_eq (by assumption) ?_) | (dsimp only; split)

theorem State.h2sbSend_keeps {s₀ : State} {s : State} {m : Master} {v : Word} (hK : Keeps s₀ s) :
    Keeps s₀ (State.h2sbSend s m v) := by
  unfold State.h2sbSend
  repeat' first
    | intro _ | with_reducible exact hK | with_reducible assumption | with_reducible exact Keeps.refl _
    | with_reducible apply State.setReg_keeps | with_reducible apply State.latchAlert_keeps
    | with_reducible apply State.h2sbGate_keeps

theorem State.sb2hAck_keeps {s₀ : State} {s : State} {m : Master} (hK : Keeps s₀ s) :
    Keeps s₀ (State.sb2hAck s m) := by
  unfold State.sb2hAck
  repeat' first
    | intro _ | with_reducible exact hK | with_reducible assumption | with_reducible exact Keeps.refl _
    | with_reducible apply State.clrReg_keeps | with_reducible apply State.regGate_keeps

theorem State.sbDoorbell_keeps {s₀ : State} {s : State} {d : Nat} {v : Word} (hK : Keeps s₀ s) :
    Keeps s₀ (State.sbDoorbell s d v).s := by
  unfold State.sbDoorbell
  repeat' first
    | intro _ | with_reducible exact hK | with_reducible assumption | with_reducible exact Keeps.refl _
    | with_reducible apply State.setReg_keeps | with_reducible apply State.bell_keeps
    | with_reducible apply State.sbSays_keeps | with_reducible apply State.sbGives_keeps
    | with_reducible apply Keeps.ite | split | (refine Keeps.of_eq (by assumption) ?_) | (dsimp only; split)

end Sys2Proof.Machine
end

