-- ==== Sys2Proof/Laws/KeepsRegRead.lean ====
section
/-!
SUPPORT. What the operations of Machine/RegRead.lean keep (Laws/Keeps.lean).
-/

namespace Sys2Proof.Machine

theorem State.pairRead_keeps {s₀ : State} {s : State} {m : Master} {a k : Nat} (hK : Keeps s₀ s) :
    Keeps s₀ (State.pairRead s m a k).1 := by
  unfold State.pairRead
  repeat' first
    | intro _ | with_reducible exact hK | with_reducible assumption | with_reducible exact Keeps.refl _
    | with_reducible apply Keeps.ite | with_reducible apply Keeps.ite1 | split
    | (refine Keeps.of_eq (by assumption) ?_) | (dsimp only; split) | with_reducible apply Keeps.updTop

theorem State.regRead_keeps {s₀ : State} {s : State} {m : Master} {a : Nat} (hK : Keeps s₀ s) :
    Keeps s₀ (State.regRead s m a).1 := by
  unfold State.regRead
  repeat' first
    | intro _ | with_reducible exact hK | with_reducible assumption | with_reducible exact Keeps.refl _
    | with_reducible apply State.claimRead_keeps | with_reducible apply State.pairRead_keeps
    | with_reducible apply Keeps.ite | with_reducible apply Keeps.ite1 | split
    | (refine Keeps.of_eq (by assumption) ?_) | (dsimp only; split)

end Sys2Proof.Machine
end

