-- ==== Sys2Proof/Laws/KeepsDebug.lean ====
section
/-!
SUPPORT. What the operations of Machine/Debug.lean keep (Laws/Keeps.lean).
-/

namespace Sys2Proof.Machine

theorem State.woCapture_keeps {s₀ : State} {s : State} {a : Nat} {v : Word} {code : Nat} (hK : Keeps s₀ s) :
    Keeps s₀ (State.woCapture s a v code) := by
  unfold State.woCapture
  repeat' first
    | intro _ | with_reducible exact hK | with_reducible assumption | with_reducible exact Keeps.refl _
    | with_reducible apply State.setReg_keeps

theorem State.woLog_keeps {s₀ : State} {s : State} {m : Master} {a : Nat} {v : Word} (hK : Keeps s₀ s) :
    Keeps s₀ (State.woLog s m a v) := by
  unfold State.woLog
  repeat' first
    | intro _ | with_reducible exact hK | with_reducible assumption | with_reducible exact Keeps.refl _
    | with_reducible apply State.satReg_keeps | with_reducible apply State.noteSet_keeps
    | with_reducible apply State.bell_keeps | with_reducible apply State.post_keeps
    | with_reducible apply State.woCapture_keeps | with_reducible apply Keeps.ite | split
    | (refine Keeps.of_eq (by assumption) ?_) | (dsimp only; split) | with_reducible apply Keeps.updTop

theorem State.woWrite_keeps {s₀ : State} {s : State} {m : Master} {a : Nat} {v : Word} {k : State → State} (hK : Keeps s₀ s) (hkk : ∀ x0, Keeps s₀ x0 → Keeps s₀ (k x0)) :
    Keeps s₀ (State.woWrite s m a v k) := by
  unfold State.woWrite
  repeat' first
    | intro _ | with_reducible exact hK | with_reducible assumption | with_reducible exact Keeps.refl _
    | (with_reducible apply hkk) | with_reducible apply State.orReg_keeps | with_reducible apply State.woLog_keeps
    | with_reducible apply Keeps.ite | split | (refine Keeps.of_eq (by assumption) ?_) | (dsimp only; split)

theorem State.scopeGate_keeps {s₀ : State} {s : State} {m : Master} {a b : Nat} {k : State → State} (hK : Keeps s₀ s) (hkk : ∀ x0, Keeps s₀ x0 → Keeps s₀ (k x0)) :
    Keeps s₀ (State.scopeGate s m a b k) := by
  unfold State.scopeGate
  repeat' first
    | intro _ | with_reducible exact hK | with_reducible assumption | with_reducible exact Keeps.refl _
    | (with_reducible apply hkk) | with_reducible apply State.regRefuse_keeps
    | with_reducible apply State.regGate_keeps | with_reducible apply Keeps.ite | split
    | (refine Keeps.of_eq (by assumption) ?_) | (dsimp only; split)

theorem State.dbgStop_keeps {s₀ : State} {s : State} {m : Master} (hK : Keeps s₀ s) :
    Keeps s₀ (State.dbgStop s m) := by
  unfold State.dbgStop
  repeat' first
    | intro _ | with_reducible exact hK | with_reducible assumption | with_reducible exact Keeps.refl _
    | with_reducible apply State.fireStop_keeps | with_reducible apply State.scopeGate_keeps

theorem State.dbgStopPin_keeps {s₀ : State} {s : State} (hK : Keeps s₀ s) :
    Keeps s₀ (State.dbgStopPin s) := by
  unfold State.dbgStopPin
  repeat' first
    | intro _ | with_reducible exact hK | with_reducible assumption | with_reducible exact Keeps.refl _
    | with_reducible apply State.fireStop_keeps | with_reducible apply Keeps.ite | split
    | (refine Keeps.of_eq (by assumption) ?_) | (dsimp only; split)

theorem State.restartAt_keeps {s₀ : State} {s : State} {n : Nat} (hK : Keeps s₀ s) :
    Keeps s₀ (State.restartAt s n) := by
  unfold State.restartAt
  repeat' first
    | intro _ | with_reducible exact hK | with_reducible assumption | with_reducible exact Keeps.refl _
    | with_reducible apply Keeps.ite | split | (refine Keeps.of_eq (by assumption) ?_) | (dsimp only; split)
    | with_reducible apply Keeps.updTop

theorem State.dbgResume_keeps {s₀ : State} {s : State} {m : Master} (hK : Keeps s₀ s) :
    Keeps s₀ (State.dbgResume s m) := by
  unfold State.dbgResume
  repeat' first
    | intro _ | with_reducible exact hK | with_reducible assumption | with_reducible exact Keeps.refl _
    | with_reducible apply State.scopeGate_keeps | with_reducible apply State.restartAt_keeps

theorem State.dbgStep_keeps {s₀ : State} {s : State} {m : Master} {n : Nat} (hK : Keeps s₀ s) :
    Keeps s₀ (State.dbgStep s m n) := by
  unfold State.dbgStep
  repeat' first
    | intro _ | with_reducible exact hK | with_reducible assumption | with_reducible exact Keeps.refl _
    | with_reducible apply State.scopeGate_keeps | with_reducible apply State.restartAt_keeps
    | with_reducible apply Keeps.ite | split | (refine Keeps.of_eq (by assumption) ?_) | (dsimp only; split)

theorem State.stepEnd_keeps {s₀ : State} {s : State} (hK : Keeps s₀ s) :
    Keeps s₀ (State.stepEnd s) := by
  unfold State.stepEnd
  repeat' first
    | intro _ | with_reducible exact hK | with_reducible assumption | with_reducible exact Keeps.refl _
    | with_reducible apply Keeps.ite | split | (refine Keeps.of_eq (by assumption) ?_) | (dsimp only; split)
    | with_reducible apply Keeps.updTop

theorem State.authRevoke_keeps {s₀ : State} {s : State} {m : Master} (hK : Keeps s₀ s) : Keeps s₀ (State.authRevoke s m) :=
  State.regGate_keeps hK (fun _ h => State.setAuth_keeps h (fun _ => .inl rfl))

theorem State.permaDisable_keeps {s₀ : State} {s : State} {m : Master} {v : Word} (hK : Keeps s₀ s) :
    Keeps s₀ (State.permaDisable s m v) := by
  refine State.regGate_keeps hK (fun x h => State.woWrite_keeps h (fun x h => ?_))
  dsimp only
  split
  · unfold State.setAuth
    dsimp only
    have k : ∀ r : List (Nat × Word), (Sparse.wf regReset x.regs = true → Sparse.wf regReset r = true) →
        Keeps s₀ { x with
          regs := r
          milk := { x.milk with
            dbgFuse := true
            scope := 0
            authFail := x.milk.authFail } } :=
      fun r hr => h.trans ⟨rfl, id, hr, id, fun _ => rfl, fun _ _ => rfl⟩
    split
    · exact State.setReg_keeps (k (Sparse.set regReset x.regs rPermaDisable 1) (fun w => Sparse.wf_set _ _ _ _ w))
    · exact k (Sparse.set regReset x.regs rPermaDisable 1) (fun w => Sparse.wf_set _ _ _ _ w)
  · exact State.setReg_keeps h

theorem State.sctrlGate_keeps {s₀ : State} {s : State} {m : Master} {k : Fin 4} {drain : Bool} {f : Steward → Steward} (hK : Keeps s₀ s) :
    Keeps s₀ (State.sctrlGate s m k drain f) := by
  unfold State.sctrlGate
  repeat' first
    | intro _ | with_reducible exact hK | with_reducible assumption | with_reducible exact Keeps.refl _
    | with_reducible apply State.setReg_keeps | with_reducible apply State.modCore_keeps
    | with_reducible apply State.scopeGate_keeps | with_reducible apply Keeps.ite | split
    | (refine Keeps.of_eq (by assumption) ?_) | (dsimp only; split)

theorem State.coreHalted_keeps {s₀ : State} {s : State} {k : Fin 4} (hK : Keeps s₀ s) :
    Keeps s₀ (State.coreHalted s k) := by
  unfold State.coreHalted
  repeat' first
    | intro _ | with_reducible exact hK | with_reducible assumption | with_reducible exact Keeps.refl _
    | with_reducible apply State.modCore_keeps | with_reducible apply Keeps.ite | split
    | (refine Keeps.of_eq (by assumption) ?_) | (dsimp only; split) | with_reducible apply Keeps.updTop

theorem State.traceEnable_keeps {s₀ : State} {s : State} {m : Master} {v : Word} (hK : Keeps s₀ s) :
    Keeps s₀ (State.traceEnable s m v) := by
  unfold State.traceEnable
  repeat' first
    | intro _ | with_reducible exact hK | with_reducible assumption | with_reducible exact Keeps.refl _
    | with_reducible apply State.setReg_keeps | with_reducible apply State.scopeGate_keeps
    | with_reducible apply Keeps.ite | split | (refine Keeps.of_eq (by assumption) ?_) | (dsimp only; split)
    | with_reducible apply Keeps.updTop

theorem State.traceNotify_keeps {s₀ : State} {s : State} (hK : Keeps s₀ s) :
    Keeps s₀ (State.traceNotify s) := by
  unfold State.traceNotify
  repeat' first
    | intro _ | with_reducible exact hK | with_reducible assumption | with_reducible exact Keeps.refl _
    | with_reducible apply State.sendAsync_keeps | with_reducible apply Keeps.ite | split
    | (refine Keeps.of_eq (by assumption) ?_) | (dsimp only; split)

theorem State.ringWrite_keeps {s₀ : State} {s : State} (hK : Keeps s₀ s) :
    Keeps s₀ (State.ringWrite s) := by
  unfold State.ringWrite
  repeat' first
    | intro _ | with_reducible exact hK | with_reducible assumption | with_reducible exact Keeps.refl _
    | with_reducible apply State.modReg_keeps | with_reducible apply State.trace_keeps
    | with_reducible apply State.narrowWrite_keeps | with_reducible apply State.traceNotify_keeps
    | with_reducible apply Keeps.ite | split | (refine Keeps.of_eq (by assumption) ?_) | (dsimp only; split)
    | with_reducible apply Keeps.updTop

theorem State.traceSend_keeps {s₀ : State} {s : State} {t : TileId} (hK : Keeps s₀ s) :
    Keeps s₀ (State.traceSend s t) := by
  unfold State.traceSend
  repeat' first
    | intro _ | with_reducible exact hK | with_reducible assumption | with_reducible exact Keeps.refl _
    | with_reducible apply State.modTile_keeps | with_reducible apply State.sendAsync_keeps
    | with_reducible apply State.trace_keeps | with_reducible apply Keeps.ite | split
    | (refine Keeps.of_eq (by assumption) ?_) | (dsimp only; split) | with_reducible apply Keeps.updTop

theorem State.traceTake_keeps {s₀ : State} {s : State} (hK : Keeps s₀ s) :
    Keeps s₀ (State.traceTake s) := by
  unfold State.traceTake
  repeat' first
    | intro _ | with_reducible exact hK | with_reducible assumption | with_reducible exact Keeps.refl _
    | with_reducible apply State.satReg_keeps | with_reducible apply Keeps.ite | split
    | (refine Keeps.of_eq (by assumption) ?_) | (dsimp only; split) | with_reducible apply Keeps.updTop

theorem State.chainRead_keeps {s₀ : State} {s : State} {w : Nat} (hK : Keeps s₀ s) :
    Keeps s₀ (State.chainRead s w).1 := by
  unfold State.chainRead
  repeat' first
    | intro _ | with_reducible exact hK | with_reducible assumption | with_reducible exact Keeps.refl _
    | with_reducible apply State.fresh_keeps | with_reducible apply Keeps.ite | with_reducible apply Keeps.ite1
    | split | (refine Keeps.of_eq (by assumption) ?_) | (dsimp only; split)

theorem State.chainWords_keeps {s₀ : State} {n : Nat} : ∀ {s : State} {w : Nat}, Keeps s₀ s →
    Keeps s₀ (State.chainWords s w n).1 := by
  induction n with
  | zero => exact fun h => h
  | succ n ih => exact fun h => ih (State.chainRead_keeps h)

theorem State.sbStateScan_keeps {s₀ : State} {s : State} {first words : Nat} (hK : Keeps s₀ s) :
    Keeps s₀ (State.sbStateScan s first words).s := by
  unfold State.sbStateScan
  repeat' first
    | intro _ | with_reducible exact hK | with_reducible assumption | with_reducible exact Keeps.refl _
    | with_reducible apply State.sbSays_keeps | with_reducible apply State.sbGives_keeps
    | with_reducible apply State.sbMain_keeps | with_reducible apply State.chainWords_keeps
    | with_reducible apply Keeps.ite | with_reducible apply Keeps.ite1 | split
    | (refine Keeps.of_eq (by assumption) ?_) | (dsimp only; split)

theorem State.setIr_keeps {s₀ : State} {s : State} {code : Nat} (hK : Keeps s₀ s) :
    Keeps s₀ (State.setIr s code) := by
  unfold State.setIr
  repeat' first
    | intro _ | with_reducible exact hK | with_reducible assumption | with_reducible exact Keeps.refl _
    | with_reducible apply Keeps.updTop | with_reducible apply Keeps.updTopMilk

theorem State.tap_keeps {s₀ : State} {s : State} {k : State → State} (hK : Keeps s₀ s) (hkk : ∀ x0, Keeps s₀ x0 → Keeps s₀ (k x0)) :
    Keeps s₀ (State.tap s k) := by
  unfold State.tap
  repeat' first
    | intro _ | with_reducible exact hK | with_reducible assumption | with_reducible exact Keeps.refl _
    | (with_reducible apply hkk) | with_reducible apply Keeps.ite | split | (refine Keeps.of_eq (by assumption) ?_)
    | (dsimp only; split)

theorem State.tapReset_keeps {s₀ : State} {s : State} (hK : Keeps s₀ s) :
    Keeps s₀ (State.tapReset s) := by
  unfold State.tapReset
  repeat' first
    | intro _ | with_reducible exact hK | with_reducible assumption | with_reducible exact Keeps.refl _
    | with_reducible apply State.setIr_keeps | with_reducible apply State.tap_keeps

theorem State.captureCells_keeps {s₀ : State} {s : State} {pads : BitVec 89} (hK : Keeps s₀ s) :
    Keeps s₀ (State.captureCells s pads).1 := by
  unfold State.captureCells
  repeat' first
    | intro _ | with_reducible exact hK | with_reducible assumption | with_reducible exact Keeps.refl _
    | with_reducible apply State.freshWords_keeps | with_reducible apply Keeps.ite | with_reducible apply Keeps.ite1
    | split | (refine Keeps.of_eq (by assumption) ?_) | (dsimp only; split)

theorem State.boundary_keeps {s₀ : State} {s : State} {code : Nat} {pads cells : BitVec 89} (hK : Keeps s₀ s) :
    Keeps s₀ (State.boundary s code pads cells) := by
  unfold State.boundary
  repeat' first
    | intro _ | with_reducible exact hK | with_reducible assumption | with_reducible exact Keeps.refl _
    | with_reducible apply State.emit_keeps | with_reducible apply State.setIr_keeps
    | with_reducible apply State.tap_keeps | with_reducible apply State.captureCells_keeps
    | with_reducible apply Keeps.updTop | with_reducible apply Keeps.updTopMilk

theorem State.idcode_keeps {s₀ : State} {s : State} (hK : Keeps s₀ s) :
    Keeps s₀ (State.idcode s) := by
  unfold State.idcode
  repeat' first
    | intro _ | with_reducible exact hK | with_reducible assumption | with_reducible exact Keeps.refl _
    | with_reducible apply State.emit_keeps | with_reducible apply State.setIr_keeps
    | with_reducible apply State.tap_keeps

theorem State.bypass_keeps {s₀ : State} {s : State} {bits : BitVec 32} (hK : Keeps s₀ s) :
    Keeps s₀ (State.bypass s bits) := by
  unfold State.bypass
  repeat' first
    | intro _ | with_reducible exact hK | with_reducible assumption | with_reducible exact Keeps.refl _
    | with_reducible apply State.emit_keeps | with_reducible apply State.setIr_keeps
    | with_reducible apply State.tap_keeps

theorem State.authCapture_keeps {s₀ : State} {s : State} (hK : Keeps s₀ s) :
    Keeps s₀ (State.authCapture s) := by
  unfold State.authCapture
  repeat' first
    | intro _ | with_reducible exact hK | with_reducible assumption | with_reducible exact Keeps.refl _
    | with_reducible apply State.emit_keeps | with_reducible apply Keeps.ite | split
    | (refine Keeps.of_eq (by assumption) ?_) | (dsimp only; split)

theorem State.authScan_keeps {s₀ : State} {s : State} {act : State → State} (hK : Keeps s₀ s)
    (hkact : ∀ x, Keeps s₀ x → x.milk.dbgFuse = false → Keeps s₀ (act x)) : Keeps s₀ (State.authScan s act) := by
  unfold State.authScan
  refine State.tap_keeps hK (fun x h => ?_)
  dsimp only
  split
  · exact State.setIr_keeps h
  · rename_i hd
    have c := State.authCapture_keeps (State.setIr_keeps (code := 0x10) h)
    split
    · have f : x.milk.dbgFuse = false := by simpa [State.dbgDisabled] using hd
      exact hkact _ c f
    · exact c

theorem State.jtagChallenge_keeps {s₀ : State} {s : State} (hK : Keeps s₀ s) : Keeps s₀ (State.jtagChallenge s) :=
  State.authScan_keeps hK (fun _ h _ => State.newNonce_keeps h)

theorem State.jtagResult_keeps {s₀ : State} {s : State} {ok : Bool} (hK : Keeps s₀ s) :
    Keeps s₀ (State.jtagResult s ok) := by
  unfold State.jtagResult
  repeat' first
    | intro _ | with_reducible exact hK | with_reducible assumption | with_reducible exact Keeps.refl _
    | with_reducible apply Keeps.ite | split | (refine Keeps.of_eq (by assumption) ?_) | (dsimp only; split)
    | with_reducible apply Keeps.updTop | with_reducible apply Keeps.updTopMilk

theorem State.jtagSubmit_keeps {s₀ : State} {s : State} {b : List Byte} (hK : Keeps s₀ s) :
    Keeps s₀ (State.jtagSubmit s b) := by
  refine State.authScan_keeps hK (fun x h d => ?_)
  dsimp only
  split
  · exact State.jtagResult_keeps (State.authSubmit_keeps h d)
  · exact State.jtagResult_keeps (State.setAuth_keeps (h.upd rfl rfl rfl rfl rfl rfl rfl) (fun _ => .inr rfl))

theorem State.jtagState_keeps {s₀ : State} {s : State} {first words : Nat} (hK : Keeps s₀ s) :
    Keeps s₀ (State.jtagState s first words) := by
  unfold State.jtagState
  repeat' first
    | intro _ | with_reducible exact hK | with_reducible assumption | with_reducible exact Keeps.refl _
    | with_reducible apply State.emit_keeps | with_reducible apply State.chainWords_keeps
    | with_reducible apply State.setIr_keeps | with_reducible apply State.tap_keeps | with_reducible apply Keeps.ite
    | with_reducible apply Keeps.ite1 | split | (refine Keeps.of_eq (by assumption) ?_) | (dsimp only; split)
    | with_reducible apply Keeps.updTop | with_reducible apply Keeps.updTopMilk

end Sys2Proof.Machine
end

