-- ==== Sys2Proof/Laws/KeepsRegisterAccess.lean ====
section
/-!
SUPPORT. What the operations of Machine/RegisterAccess.lean keep (Laws/Keeps.lean).
-/

namespace Sys2Proof.Machine

theorem State.plainWrite_keeps {s₀ : State} {s : State} {m : Master} {a : Nat} {v : Word} (hK : Keeps s₀ s) :
    Keeps s₀ (State.plainWrite s m a v) := by
  unfold State.plainWrite
  repeat' first
    | intro _ | with_reducible exact hK | with_reducible assumption | with_reducible exact Keeps.refl _
    | with_reducible apply State.modReg_keeps | with_reducible apply Keeps.ite | split
    | (refine Keeps.of_eq (by assumption) ?_) | (dsimp only; split)

theorem State.lockWrite_keeps {s₀ : State} {s : State} {m : Master} {a lock : Nat} {v : Word} (hK : Keeps s₀ s) :
    Keeps s₀ (State.lockWrite s m a lock v) := by
  unfold State.lockWrite
  repeat' first
    | intro _ | with_reducible exact hK | with_reducible assumption | with_reducible exact Keeps.refl _
    | with_reducible apply State.modReg_keeps | with_reducible apply State.woLog_keeps
    | with_reducible apply Keeps.ite | split | (refine Keeps.of_eq (by assumption) ?_) | (dsimp only; split)

theorem State.lockBit_keeps {s₀ : State} {s : State} {m : Master} {a : Nat} {v : Word} (hK : Keeps s₀ s) :
    Keeps s₀ (State.lockBit s m a v) := by
  unfold State.lockBit
  repeat' first
    | intro _ | with_reducible exact hK | with_reducible assumption | with_reducible exact Keeps.refl _
    | with_reducible apply State.setReg_keeps | with_reducible apply State.woLog_keeps
    | with_reducible apply Keeps.ite | split | (refine Keeps.of_eq (by assumption) ?_) | (dsimp only; split)

theorem State.unless_keeps {s₀ : State} {s : State} {m : Master} {a : Nat} {bad : Bool} {k : State → State} (hK : Keeps s₀ s) (hkk : ∀ x0, Keeps s₀ x0 → Keeps s₀ (k x0)) :
    Keeps s₀ (State.unless s m a bad k) := by
  unfold State.unless
  repeat' first
    | intro _ | with_reducible exact hK | with_reducible assumption | with_reducible exact Keeps.refl _
    | (with_reducible apply hkk) | with_reducible apply State.regRefuse_keeps | with_reducible apply Keeps.ite | split
    | (refine Keeps.of_eq (by assumption) ?_) | (dsimp only; split)

theorem State.zeroIsOne_keeps {s₀ : State} {s : State} {a lo n : Nat} (hK : Keeps s₀ s) :
    Keeps s₀ (State.zeroIsOne s a lo n) := by
  unfold State.zeroIsOne
  repeat' first
    | intro _ | with_reducible exact hK | with_reducible assumption | with_reducible exact Keeps.refl _
    | with_reducible apply State.modReg_keeps | with_reducible apply Keeps.ite | split
    | (refine Keeps.of_eq (by assumption) ?_) | (dsimp only; split)

theorem State.topWrite_keeps {s₀ : State} {s : State} {m : Master} {a : Nat} {v : Word} (hK : Keeps s₀ s) :
    Keeps s₀ (State.topWrite s m a v) := by
  unfold State.topWrite
  repeat' first
    | intro _ | with_reducible exact hK | with_reducible assumption | with_reducible exact Keeps.refl _
    | with_reducible apply State.setReg_keeps | with_reducible apply State.woWrite_keeps
    | with_reducible apply State.plainWrite_keeps | with_reducible apply State.lockWrite_keeps
    | with_reducible apply State.lockBit_keeps | with_reducible apply Keeps.ite | split
    | (refine Keeps.of_eq (by assumption) ?_) | (dsimp only; split)

theorem State.tickWrite_keeps {s₀ : State} {s : State} {m : Master} {a : Nat} {v : Word} (hK : Keeps s₀ s) :
    Keeps s₀ (State.tickWrite s m a v) := by
  unfold State.tickWrite
  repeat' first
    | intro _ | with_reducible exact hK | with_reducible assumption | with_reducible exact Keeps.refl _
    | with_reducible apply State.setReg_keeps | with_reducible apply State.ndetClear_keeps
    | with_reducible apply State.plainWrite_keeps | with_reducible apply Keeps.ite | split
    | (refine Keeps.of_eq (by assumption) ?_) | (dsimp only; split)

theorem State.dpCtrlWrite_keeps {s₀ : State} {s : State} {m : Master} {o : Nat} {v : Word} (hK : Keeps s₀ s) :
    Keeps s₀ (State.dpCtrlWrite s m o v) := by
  unfold State.dpCtrlWrite
  repeat' first
    | intro _ | with_reducible exact hK | with_reducible assumption | with_reducible exact Keeps.refl _
    | with_reducible apply State.setReg_keeps | with_reducible apply State.dpTrain_keeps
    | with_reducible apply Keeps.ite | split | (refine Keeps.of_eq (by assumption) ?_) | (dsimp only; split)

theorem State.scanWrite_keeps {s₀ : State} {s : State} {m : Master} {a : Nat} {v : Word} (hK : Keeps s₀ s) :
    Keeps s₀ (State.scanWrite s m a v) := by
  unfold State.scanWrite
  repeat' first
    | intro _ | with_reducible exact hK | with_reducible assumption | with_reducible exact Keeps.refl _
    | with_reducible apply State.setReg_keeps | with_reducible apply State.tsCommit_keeps
    | with_reducible apply State.outModeWrite_keeps | with_reducible apply State.auxCmd_keeps
    | with_reducible apply State.plainWrite_keeps | with_reducible apply State.unless_keeps
    | with_reducible apply State.dpCtrlWrite_keeps | with_reducible apply Keeps.ite | split
    | (refine Keeps.of_eq (by assumption) ?_) | (dsimp only; split)

theorem State.bellWrite_keeps {s₀ : State} {s : State} {m : Master} {a : Nat} {v : Word} (hK : Keeps s₀ s) :
    Keeps s₀ (State.bellWrite s m a v) := by
  unfold State.bellWrite
  repeat' first
    | intro _ | with_reducible exact hK | with_reducible assumption | with_reducible exact Keeps.refl _
    | with_reducible apply State.bellEoi_keeps | with_reducible apply State.gdisWrite_keeps
    | with_reducible apply State.msipWrite_keeps | with_reducible apply State.timerMatch_keeps
    | with_reducible apply State.plainWrite_keeps | with_reducible apply State.zeroIsOne_keeps
    | with_reducible apply Keeps.ite | split | (refine Keeps.of_eq (by assumption) ?_) | (dsimp only; split)

theorem State.leaveWrite_keeps {s₀ : State} {s : State} {m : Master} {a : Nat} {v : Word} (hK : Keeps s₀ s) :
    Keeps s₀ (State.leaveWrite s m a v) := by
  unfold State.leaveWrite
  repeat' first
    | intro _ | with_reducible exact hK | with_reducible assumption | with_reducible exact Keeps.refl _
    | with_reducible apply State.setReg_keeps | with_reducible apply State.pdCtrlWrite_keeps
    | with_reducible apply State.thermalRelease_keeps | with_reducible apply State.woWrite_keeps
    | with_reducible apply State.plainWrite_keeps | with_reducible apply State.unless_keeps
    | with_reducible apply State.zeroIsOne_keeps | with_reducible apply Keeps.ite | split
    | (refine Keeps.of_eq (by assumption) ?_) | (dsimp only; split)

theorem State.syncWrite_keeps {s₀ : State} {s : State} {m : Master} {a : Nat} {v : Word} (hK : Keeps s₀ s) :
    Keeps s₀ (State.syncWrite s m a v) := by
  unfold State.syncWrite
  repeat' first
    | intro _ | with_reducible exact hK | with_reducible assumption | with_reducible exact Keeps.refl _
    | with_reducible apply State.syncCountWrite_keeps | with_reducible apply State.syncAddWrite_keeps
    | with_reducible apply State.paceWrite_keeps | with_reducible apply State.watchCfgWrite_keeps
    | with_reducible apply State.plainWrite_keeps | with_reducible apply State.unless_keeps
    | with_reducible apply Keeps.ite | split | (refine Keeps.of_eq (by assumption) ?_) | (dsimp only; split)

theorem State.ladleWrite_keeps {s₀ : State} {s : State} {m : Master} {a : Nat} {v : Word} (hK : Keeps s₀ s) :
    Keeps s₀ (State.ladleWrite s m a v) := by
  unfold State.ladleWrite
  repeat' first
    | intro _ | with_reducible exact hK | with_reducible assumption | with_reducible exact Keeps.refl _
    | with_reducible apply State.sringTail_keeps | with_reducible apply State.plainWrite_keeps
    | with_reducible apply State.unless_keeps | with_reducible apply State.zeroIsOne_keeps
    | with_reducible apply Keeps.ite | split | (refine Keeps.of_eq (by assumption) ?_) | (dsimp only; split)

theorem State.queueWrite_keeps {s₀ : State} {s : State} {m : Master} {a : Nat} {v : Word} (hK : Keeps s₀ s) :
    Keeps s₀ (State.queueWrite s m a v) := by
  unfold State.queueWrite
  repeat' first
    | intro _ | with_reducible exact hK | with_reducible assumption | with_reducible exact Keeps.refl _
    | with_reducible apply State.setReg_keeps | with_reducible apply State.qctrlWrite_keeps
    | with_reducible apply State.plainWrite_keeps | with_reducible apply State.unless_keeps
    | with_reducible apply Keeps.ite | split | (refine Keeps.of_eq (by assumption) ?_) | (dsimp only; split)

theorem State.hostRegWrite_keeps {s₀ : State} {s : State} {m : Master} {a : Nat} {v : Word} (hK : Keeps s₀ s) :
    Keeps s₀ (State.hostRegWrite s m a v) := by
  unfold State.hostRegWrite
  repeat' first
    | intro _ | with_reducible exact hK | with_reducible assumption | with_reducible exact Keeps.refl _
    | with_reducible apply State.setReg_keeps | with_reducible apply State.regRefuse_keeps
    | with_reducible apply State.msixFlush_keeps | with_reducible apply State.sendAll_keeps
    | with_reducible apply State.sdone_keeps | with_reducible apply State.smsg_keeps
    | with_reducible apply State.woWrite_keeps | with_reducible apply State.plainWrite_keeps
    | with_reducible apply State.queueWrite_keeps | with_reducible apply Keeps.ite | split
    | (refine Keeps.of_eq (by assumption) ?_) | (dsimp only; split)

theorem State.vatcWrite_keeps {s₀ : State} {s : State} {m : Master} {a : Nat} {v : Word} (hK : Keeps s₀ s) :
    Keeps s₀ (State.vatcWrite s m a v) := by
  unfold State.vatcWrite
  repeat' first
    | intro _ | with_reducible exact hK | with_reducible assumption | with_reducible exact Keeps.refl _
    | with_reducible apply State.cacheSizeWrite_keeps | with_reducible apply State.cacheClean_keeps
    | with_reducible apply State.cacheInval_keeps | with_reducible apply State.plainWrite_keeps
    | with_reducible apply State.zeroIsOne_keeps | with_reducible apply Keeps.ite | split
    | (refine Keeps.of_eq (by assumption) ?_) | (dsimp only; split)

theorem State.wdogRestart_keeps {s₀ : State} {s : State} (hK : Keeps s₀ s) :
    Keeps s₀ (State.wdogRestart s) := by
  unfold State.wdogRestart
  repeat' first
    | intro _ | with_reducible exact hK | with_reducible assumption | with_reducible exact Keeps.refl _
    | with_reducible apply Keeps.ite | split | (refine Keeps.of_eq (by assumption) ?_) | (dsimp only; split)
    | with_reducible apply Keeps.updTop | with_reducible apply Keeps.updTopMilk

theorem State.woLogWrite_keeps {s₀ : State} {s : State} {m : Master} {v : Word} (hK : Keeps s₀ s) :
    Keeps s₀ (State.woLogWrite s m v) := by
  unfold State.woLogWrite
  repeat' first
    | intro _ | with_reducible exact hK | with_reducible assumption | with_reducible exact Keeps.refl _
    | with_reducible apply State.noteSet_keeps | with_reducible apply State.woCapture_keeps
    | with_reducible apply State.plainWrite_keeps | with_reducible apply Keeps.ite | split
    | (refine Keeps.of_eq (by assumption) ?_) | (dsimp only; split)

theorem State.errWrite_keeps {s₀ : State} {s : State} {m : Master} {a : Nat} {v : Word} (hK : Keeps s₀ s) :
    Keeps s₀ (State.errWrite s m a v) := by
  unfold State.errWrite
  repeat' first
    | intro _ | with_reducible exact hK | with_reducible assumption | with_reducible exact Keeps.refl _
    | with_reducible apply State.regRefuse_keeps | with_reducible apply State.recPop_keeps
    | with_reducible apply State.candPop_keeps | with_reducible apply State.ssubSet_keeps
    | with_reducible apply State.ssubClr_keeps | with_reducible apply State.wdogKick_keeps
    | with_reducible apply State.plainWrite_keeps | with_reducible apply State.lockWrite_keeps
    | with_reducible apply State.lockBit_keeps | with_reducible apply State.wdogRestart_keeps
    | with_reducible apply State.woLogWrite_keeps | with_reducible apply Keeps.ite | split
    | (refine Keeps.of_eq (by assumption) ?_) | (dsimp only; split)

theorem State.sctrlWrite_keeps {s₀ : State} {s : State} {m : Master} {k : Fin 4} {v : Word} (hK : Keeps s₀ s) :
    Keeps s₀ (State.sctrlWrite s m k v) := by
  unfold State.sctrlWrite
  repeat' first
    | intro _ | with_reducible exact hK | with_reducible assumption | with_reducible exact Keeps.refl _
    | with_reducible apply State.sctrlGate_keeps | with_reducible apply Keeps.ite | split
    | (refine Keeps.of_eq (by assumption) ?_) | (dsimp only; split)

theorem State.scoped_keeps {s₀ : State} {s : State} {m : Master} {a b : Nat} {v : Word} (hK : Keeps s₀ s) :
    Keeps s₀ (State.scoped s m a b v) :=
  State.scopeGate_keeps hK (fun _ h => State.plainWrite_keeps h)

theorem State.dbgWrite_keeps {s₀ : State} {s : State} {m : Master} {a : Nat} {v : Word} (hK : Keeps s₀ s) :
    Keeps s₀ (State.dbgWrite s m a v) := by
  unfold State.dbgWrite
  repeat' first
    | intro _ | with_reducible exact hK | with_reducible assumption | with_reducible exact Keeps.refl _
    | with_reducible apply State.scopeGate_keeps | with_reducible apply State.dbgStop_keeps
    | with_reducible apply State.dbgResume_keeps | with_reducible apply State.dbgStep_keeps
    | with_reducible apply State.authRevoke_keeps | with_reducible apply State.permaDisable_keeps
    | with_reducible apply State.traceEnable_keeps | with_reducible apply State.plainWrite_keeps
    | with_reducible apply State.unless_keeps | with_reducible apply State.sctrlWrite_keeps
    | with_reducible apply State.scoped_keeps | with_reducible apply Keeps.ite | split
    | (refine Keeps.of_eq (by assumption) ?_) | (dsimp only; split)

theorem State.flashWrite_keeps {s₀ : State} {s : State} {m : Master} {a : Nat} {v : Word} (hK : Keeps s₀ s) :
    Keeps s₀ (State.flashWrite s m a v) := by
  unfold State.flashWrite
  repeat' first
    | intro _ | with_reducible exact hK | with_reducible assumption | with_reducible exact Keeps.refl _
    | with_reducible apply State.setReg_keeps | with_reducible apply State.flashReq_keeps
    | with_reducible apply State.flashCopy_keeps | with_reducible apply State.flashAbort_keeps
    | with_reducible apply State.eraseGo_keeps | with_reducible apply State.plainWrite_keeps
    | with_reducible apply Keeps.ite | split | (refine Keeps.of_eq (by assumption) ?_) | (dsimp only; split)

theorem State.mreqWrite_keeps {s₀ : State} {s : State} {m : Master} {v : Word} (hK : Keeps s₀ s) :
    Keeps s₀ (State.mreqWrite s m v) := by
  unfold State.mreqWrite
  repeat' first
    | intro _ | with_reducible exact hK | with_reducible assumption | with_reducible exact Keeps.refl _
    | with_reducible apply State.setReg_keeps | with_reducible apply State.mresp_keeps
    | with_reducible apply State.mreqGate_keeps | with_reducible apply State.fabricSleep_keeps
    | with_reducible apply State.fabricWake_keeps | with_reducible apply State.mreqRecovery_keeps
    | with_reducible apply Keeps.ite | split | (refine Keeps.of_eq (by assumption) ?_) | (dsimp only; split)

theorem State.mhcWrite_keeps {s₀ : State} {s : State} {m : Master} {a : Nat} {v : Word} (hK : Keeps s₀ s) :
    Keeps s₀ (State.mhcWrite s m a v) := by
  unfold State.mhcWrite
  repeat' first
    | intro _ | with_reducible exact hK | with_reducible assumption | with_reducible exact Keeps.refl _
    | with_reducible apply State.modReg_keeps | with_reducible apply State.bellEoi_keeps
    | with_reducible apply State.h2sbGate_keeps | with_reducible apply State.h2sbSend_keeps
    | with_reducible apply State.sb2hAck_keeps | with_reducible apply State.plainWrite_keeps
    | with_reducible apply State.mreqWrite_keeps | with_reducible apply Keeps.ite | split
    | (refine Keeps.of_eq (by assumption) ?_) | (dsimp only; split)

theorem State.tileCfgWrite_keeps {s₀ : State} {s : State} {m : Master} {t : TileId} {v : Word} (hK : Keeps s₀ s) :
    Keeps s₀ (State.tileCfgWrite s m t v) := by
  unfold State.tileCfgWrite
  repeat' first
    | intro _ | with_reducible exact hK | with_reducible assumption | with_reducible exact Keeps.refl _
    | with_reducible apply State.plainWrite_keeps | with_reducible apply State.unless_keeps

theorem State.haltWrite_keeps {s₀ : State} {s : State} {m : Master} {t : TileId} {v : Word} (hK : Keeps s₀ s) :
    Keeps s₀ (State.haltWrite s m t v) := by
  unfold State.haltWrite
  repeat' first
    | intro _ | with_reducible exact hK | with_reducible assumption | with_reducible exact Keeps.refl _
    | with_reducible apply State.tileHalt_keeps | with_reducible apply State.tileForcedHalt_keeps
    | with_reducible apply State.haltRelease_keeps | with_reducible apply Keeps.ite | split
    | (refine Keeps.of_eq (by assumption) ?_) | (dsimp only; split)

theorem State.threadCtrlWrite_keeps {s₀ : State} {s : State} {m : Master} {t : TileId} {v : Word} (hK : Keeps s₀ s) :
    Keeps s₀ (State.threadCtrlWrite s m t v) := by
  unfold State.threadCtrlWrite
  repeat' first
    | intro _ | with_reducible exact hK | with_reducible assumption | with_reducible exact Keeps.refl _
    | with_reducible apply State.threadStart_keeps | with_reducible apply State.threadStop_keeps
    | with_reducible apply Keeps.ite | with_reducible apply Keeps.foldl | split
    | (refine Keeps.of_eq (by assumption) ?_) | (dsimp only; split)

theorem State.tileWrite_keeps {s₀ : State} {s : State} {m : Master} {t : TileId} {a : Nat} {v : Word} (hK : Keeps s₀ s) :
    Keeps s₀ (State.tileWrite s m t a v) := by
  unfold State.tileWrite
  repeat' first
    | intro _ | with_reducible exact hK | with_reducible assumption | with_reducible exact Keeps.refl _
    | with_reducible apply State.lsyncWrite_keeps | with_reducible apply State.faultClear_keeps
    | with_reducible apply State.ibufStart_keeps | with_reducible apply State.plainWrite_keeps
    | with_reducible apply State.unless_keeps | with_reducible apply State.scoped_keeps
    | with_reducible apply State.tileCfgWrite_keeps | with_reducible apply State.haltWrite_keeps
    | with_reducible apply State.threadCtrlWrite_keeps | with_reducible apply Keeps.ite | split
    | (refine Keeps.of_eq (by assumption) ?_) | (dsimp only; split)

theorem State.regEffect_keeps {s₀ : State} {s : State} {m : Master} {a : Nat} {v : Word} (hK : Keeps s₀ s) :
    Keeps s₀ (State.regEffect s m a v) := by
  unfold State.regEffect
  repeat' first
    | intro _ | with_reducible exact hK | with_reducible assumption | with_reducible exact Keeps.refl _
    | with_reducible apply State.unnote_keeps | with_reducible apply State.topWrite_keeps
    | with_reducible apply State.tickWrite_keeps | with_reducible apply State.scanWrite_keeps
    | with_reducible apply State.bellWrite_keeps | with_reducible apply State.leaveWrite_keeps
    | with_reducible apply State.syncWrite_keeps | with_reducible apply State.ladleWrite_keeps
    | with_reducible apply State.hostRegWrite_keeps | with_reducible apply State.vatcWrite_keeps
    | with_reducible apply State.errWrite_keeps | with_reducible apply State.dbgWrite_keeps
    | with_reducible apply State.flashWrite_keeps | with_reducible apply State.mhcWrite_keeps
    | with_reducible apply State.tileWrite_keeps | with_reducible apply Keeps.ite | split
    | (refine Keeps.of_eq (by assumption) ?_) | (dsimp only; split)

theorem State.regWrite_keeps {s₀ : State} {s : State} {m : Master} {a : Nat} {v : Word} (hK : Keeps s₀ s) :
    Keeps s₀ (State.regWrite s m a v) := by
  unfold State.regWrite
  repeat' first
    | intro _ | with_reducible exact hK | with_reducible assumption | with_reducible exact Keeps.refl _
    | with_reducible apply State.regGate_keeps | with_reducible apply State.regEffect_keeps

theorem State.regStore_keeps {s₀ : State} {s : State} {m : Master} {a n : Nat} {v : Dword} (hK : Keeps s₀ s) :
    Keeps s₀ (State.regStore s m a n v) := by
  unfold State.regStore
  repeat' first
    | intro _ | with_reducible exact hK | with_reducible assumption | with_reducible exact Keeps.refl _
    | with_reducible apply State.regRefuse_keeps | with_reducible apply State.regGate_keeps
    | with_reducible apply State.regWrite_keeps | with_reducible apply Keeps.ite | split
    | (refine Keeps.of_eq (by assumption) ?_) | (dsimp only; split)

theorem State.registerWrite_keeps {s₀ : State} {s : State} {m : Master} {a n : Nat} {v : Dword} (hK : Keeps s₀ s) :
    Keeps s₀ (State.registerWrite s m a n v) := by
  unfold State.registerWrite
  repeat' first
    | intro _ | with_reducible exact hK | with_reducible assumption | with_reducible exact Keeps.refl _
    | with_reducible apply State.refuseWrite_keeps | with_reducible apply State.noAddress_keeps
    | with_reducible apply State.unsupported_keeps | with_reducible apply State.regStore_keeps
    | with_reducible apply Keeps.ite | split | (refine Keeps.of_eq (by assumption) ?_) | (dsimp only; split)

theorem State.regLoad_keeps {s₀ : State} {s : State} {m : Master} {a n : Nat} (hK : Keeps s₀ s) :
    Keeps s₀ (State.regLoad s m a n).1 := by
  unfold State.regLoad
  repeat' first
    | intro _ | with_reducible exact hK | with_reducible assumption | with_reducible exact Keeps.refl _
    | with_reducible apply State.regRead_keeps | with_reducible apply Keeps.ite | with_reducible apply Keeps.ite1
    | split | (refine Keeps.of_eq (by assumption) ?_) | (dsimp only; split)

theorem State.wideLoad_keeps {s₀ : State} {s : State} {a n : Nat} (hK : Keeps s₀ s) :
    Keeps s₀ (State.wideLoad s a n).1 := by
  unfold State.wideLoad
  repeat' first
    | intro _ | with_reducible exact hK | with_reducible assumption | with_reducible exact Keeps.refl _
    | with_reducible apply State.regFault_keeps | with_reducible apply State.regLoad_keeps
    | with_reducible apply Keeps.ite | with_reducible apply Keeps.ite1 | split
    | (refine Keeps.of_eq (by assumption) ?_) | (dsimp only; split)

theorem State.registerRead_keeps {s₀ : State} {s : State} {m : Master} {a n : Nat} (hK : Keeps s₀ s) :
    Keeps s₀ (State.registerRead s m a n) := by
  unfold State.registerRead
  repeat' first
    | intro _ | with_reducible exact hK | with_reducible assumption | with_reducible exact Keeps.refl _
    | with_reducible apply State.answerRead_keeps | with_reducible apply State.noAddress_keeps
    | with_reducible apply State.unsupported_keeps | with_reducible apply State.regLoad_keeps
    | with_reducible apply State.wideLoad_keeps | with_reducible apply Keeps.ite | with_reducible apply Keeps.ite1
    | split | (refine Keeps.of_eq (by assumption) ?_) | (dsimp only; split)

theorem State.registerAccess_keeps {s₀ : State} {s : State} {m : Master} {a n : Nat} {w : Option Dword} (hK : Keeps s₀ s) :
    Keeps s₀ (State.registerAccess s m a n w) := by
  unfold State.registerAccess
  repeat' first
    | intro _ | with_reducible exact hK | with_reducible assumption | with_reducible exact Keeps.refl _
    | with_reducible apply State.registerWrite_keeps | with_reducible apply State.registerRead_keeps
    | with_reducible apply Keeps.ite | split | (refine Keeps.of_eq (by assumption) ?_) | (dsimp only; split)

theorem State.stewLoad_keeps {s₀ : State} {s : State} {k : Fin 4} {rd : Nat} {sgn : Bool} {a : Nat} {bs : List Byte} (hK : Keeps s₀ s) :
    Keeps s₀ (State.stewLoad s k rd sgn a bs) := by
  unfold State.stewLoad
  repeat' first
    | intro _ | with_reducible exact hK | with_reducible assumption | with_reducible exact Keeps.refl _
    | with_reducible apply State.answerRead_keeps

theorem State.sramAccess_keeps {s₀ : State} {s : State} {k : Fin 4} {kind : StewKind} {a n rd : Nat} {v : Dword} (hK : Keeps s₀ s) :
    Keeps s₀ (State.sramAccess s k kind a n rd v) := by
  unfold State.sramAccess
  repeat' first
    | intro _ | with_reducible exact hK | with_reducible assumption | with_reducible exact Keeps.refl _
    | with_reducible apply State.readMem_keeps | with_reducible apply State.sramWrite_keeps
    | with_reducible apply State.emit_keeps | with_reducible apply State.load_keeps
    | with_reducible apply State.modCore_keeps | with_reducible apply State.coreTrap_keeps
    | with_reducible apply State.stewLoad_keeps | with_reducible apply Keeps.ite | with_reducible apply Keeps.ite1
    | split | (refine Keeps.of_eq (by assumption) ?_) | (dsimp only; split) | with_reducible apply Keeps.updTop

theorem State.vatAccess_keeps {s₀ : State} {s : State} {k : Fin 4} {kind : StewKind} {a n rd : Nat} {v : Dword} (hK : Keeps s₀ s) :
    Keeps s₀ (State.vatAccess s k kind a n rd v) := by
  unfold State.vatAccess
  repeat' first
    | intro _ | with_reducible exact hK | with_reducible assumption | with_reducible exact Keeps.refl _
    | with_reducible apply State.load_keeps | with_reducible apply State.modCore_keeps
    | with_reducible apply State.coreTrap_keeps | with_reducible apply State.masterRead_keeps
    | with_reducible apply State.masterWrite_keeps | with_reducible apply State.cacheAsk_keeps
    | with_reducible apply Keeps.ite | split | (refine Keeps.of_eq (by assumption) ?_) | (dsimp only; split)

theorem State.regAccess_keeps {s₀ : State} {s : State} {k : Fin 4} {kind : StewKind} {a n rd : Nat} {v : Dword} (hK : Keeps s₀ s) :
    Keeps s₀ (State.regAccess s k kind a n rd v) := by
  unfold State.regAccess
  repeat' first
    | intro _ | with_reducible exact hK | with_reducible assumption | with_reducible exact Keeps.refl _
    | with_reducible apply State.emit_keeps | with_reducible apply State.load_keeps
    | with_reducible apply State.modCore_keeps | with_reducible apply State.coreTrap_keeps
    | with_reducible apply State.regStore_keeps | with_reducible apply State.regLoad_keeps
    | with_reducible apply State.stewLoad_keeps | with_reducible apply Keeps.ite | with_reducible apply Keeps.ite1
    | split | (refine Keeps.of_eq (by assumption) ?_) | (dsimp only; split)

theorem State.stewAccess_keeps {s₀ : State} {s : State} {k : Fin 4} {kind : StewKind} {a n rd : Nat} {v : Dword} (hK : Keeps s₀ s) :
    Keeps s₀ (State.stewAccess s k kind a n rd v) := by
  unfold State.stewAccess
  repeat' first
    | intro _ | with_reducible exact hK | with_reducible assumption | with_reducible exact Keeps.refl _
    | with_reducible apply State.modCore_keeps | with_reducible apply State.coreTrap_keeps
    | with_reducible apply State.bpTaken_keeps | with_reducible apply State.sramAccess_keeps
    | with_reducible apply State.vatAccess_keeps | with_reducible apply State.regAccess_keeps
    | with_reducible apply Keeps.ite | split | (refine Keeps.of_eq (by assumption) ?_) | (dsimp only; split)
    | with_reducible apply Keeps.updTop

theorem State.debugRead_keeps {s₀ : State} {s : State} {a : Nat} (hK : Keeps s₀ s) :
    Keeps s₀ (State.debugRead s a) := by
  unfold State.debugRead
  repeat' first
    | intro _ | with_reducible exact hK | with_reducible assumption | with_reducible exact Keeps.refl _
    | with_reducible apply State.readMem_keeps | with_reducible apply State.emit_keeps
    | with_reducible apply State.debugDone_keeps | with_reducible apply State.answerRead_keeps
    | with_reducible apply State.masterRead_keeps | with_reducible apply State.regRead_keeps
    | with_reducible apply Keeps.ite | with_reducible apply Keeps.ite1 | split
    | (refine Keeps.of_eq (by assumption) ?_) | (dsimp only; split)

theorem State.debugWrite_keeps {s₀ : State} {s : State} {a : Nat} {v : Word} (hK : Keeps s₀ s) :
    Keeps s₀ (State.debugWrite s a v) := by
  unfold State.debugWrite
  repeat' first
    | intro _ | with_reducible exact hK | with_reducible assumption | with_reducible exact Keeps.refl _
    | with_reducible apply State.sramWrite_keeps | with_reducible apply State.debugDone_keeps
    | with_reducible apply State.masterWrite_keeps | with_reducible apply State.regStore_keeps
    | with_reducible apply Keeps.ite | split | (refine Keeps.of_eq (by assumption) ?_) | (dsimp only; split)

theorem State.dbgAcc_keeps {s₀ : State} {s : State} {a : Nat} {v : Word} {wr : Bool} (hK : Keeps s₀ s) :
    Keeps s₀ (State.dbgAcc s a v wr) := by
  unfold State.dbgAcc
  repeat' first
    | intro _ | with_reducible exact hK | with_reducible assumption | with_reducible exact Keeps.refl _
    | with_reducible apply State.setIr_keeps | with_reducible apply State.tap_keeps
    | with_reducible apply State.debugRead_keeps | with_reducible apply State.debugWrite_keeps
    | with_reducible apply Keeps.ite | split | (refine Keeps.of_eq (by assumption) ?_) | (dsimp only; split)

end Sys2Proof.Machine
end

