-- ==== Sys2Proof/Laws/KeepsIdle.lean ====
section
/-!
SUPPORT. What the operations of Machine/Idle.lean keep (Laws/Keeps.lean).
-/

namespace Sys2Proof.Machine

theorem State.latchSubst_keeps {s₀ : State} {s : State} (hK : Keeps s₀ s) :
    Keeps s₀ (State.latchSubst s) := by
  unfold State.latchSubst
  repeat' first
    | intro _ | with_reducible exact hK | with_reducible assumption | with_reducible exact Keeps.refl _
    | with_reducible apply Keeps.ite | with_reducible apply Keeps.ite1 | split
    | (refine Keeps.of_eq (by assumption) ?_) | (dsimp only; split) | with_reducible apply Keeps.updTop

theorem State.countLeaveWaits_keeps {s₀ : State} {s : State} (hK : Keeps s₀ s) :
    Keeps s₀ (State.countLeaveWaits s) := by
  unfold State.countLeaveWaits
  repeat' first
    | intro _ | with_reducible exact hK | with_reducible assumption | with_reducible exact Keeps.refl _
    | with_reducible apply State.countNdet_keeps | with_reducible apply Keeps.ite | split
    | (refine Keeps.of_eq (by assumption) ?_) | (dsimp only; split)

theorem State.releaseGrants_keeps {s₀ : State} {s : State} (hK : Keeps s₀ s) :
    Keeps s₀ (State.releaseGrants s) := by
  unfold State.releaseGrants
  repeat' first
    | intro _ | with_reducible exact hK | with_reducible assumption | with_reducible exact Keeps.refl _
    | with_reducible apply State.mapTiles_keeps | with_reducible apply Keeps.updTop

theorem State.markWaits_keeps {s₀ : State} {s : State} (hK : Keeps s₀ s) :
    Keeps s₀ (State.markWaits s) := by
  unfold State.markWaits
  repeat' first
    | intro _ | with_reducible exact hK | with_reducible assumption | with_reducible exact Keeps.refl _
    | with_reducible apply Keeps.ite | with_reducible apply Keeps.ite1 | split
    | (refine Keeps.of_eq (by assumption) ?_) | (dsimp only; split) | with_reducible apply Keeps.updTop
    | with_reducible apply Keeps.updTopMem

theorem State.bellPend_keeps {s₀ : State} {s : State} (hK : Keeps s₀ s) :
    Keeps s₀ (State.bellPend s) := by
  unfold State.bellPend
  repeat' first
    | intro _ | with_reducible exact hK | with_reducible assumption | with_reducible exact Keeps.refl _
    | with_reducible apply State.fresh_keeps | with_reducible apply Keeps.updTop

theorem State.cfgNext_keeps {s₀ : State} {s : State} (hK : Keeps s₀ s) :
    Keeps s₀ (State.cfgNext s) := by
  unfold State.cfgNext
  repeat' first
    | intro _ | with_reducible exact hK | with_reducible assumption | with_reducible exact Keeps.refl _
    | with_reducible apply State.modTile_keeps | with_reducible apply State.setCfg_keeps
    | with_reducible apply Keeps.ite | with_reducible apply Keeps.ite1 | with_reducible apply Keeps.foldl
    | with_reducible apply Keeps.foldl1 | split | (refine Keeps.of_eq (by assumption) ?_) | (dsimp only; split)

theorem State.endUses_keeps {s₀ : State} {s : State} (hK : Keeps s₀ s) :
    Keeps s₀ (State.endUses s) := by
  unfold State.endUses
  repeat' first
    | intro _ | with_reducible exact hK | with_reducible assumption | with_reducible exact Keeps.refl _
    | with_reducible apply State.mapTiles_keeps | with_reducible apply Keeps.updTop
    | with_reducible apply Keeps.updTopMem

theorem State.stepCount_keeps {s₀ : State} {s : State} (hK : Keeps s₀ s) :
    Keeps s₀ (State.stepCount s) := by
  unfold State.stepCount
  repeat' first
    | intro _ | with_reducible exact hK | with_reducible assumption | with_reducible exact Keeps.refl _
    | with_reducible apply State.stepEnd_keeps | with_reducible apply Keeps.ite | split
    | (refine Keeps.of_eq (by assumption) ?_) | (dsimp only; split) | with_reducible apply Keeps.updTop

theorem State.stopNext_keeps {s₀ : State} {s : State} (hK : Keeps s₀ s) :
    Keeps s₀ (State.stopNext s) := by
  unfold State.stopNext
  repeat' first
    | intro _ | with_reducible exact hK | with_reducible assumption | with_reducible exact Keeps.refl _
    | with_reducible apply State.setReg_keeps | with_reducible apply State.modReg_keeps
    | with_reducible apply Keeps.ite | split | (refine Keeps.of_eq (by assumption) ?_) | (dsimp only; split)
    | with_reducible apply Keeps.updTop

theorem State.endCk_keeps {s₀ : State} {s : State} (hK : Keeps s₀ s) : Keeps s₀ (State.endCk s) := by
  have a : ∀ x : State, Keeps s₀ x → Keeps s₀ (if x.now.sample then x.blankDecide else x) :=
    fun _ h => Keeps.ite (State.blankDecide_keeps h) h
  have b : ∀ x : State, Keeps s₀ x → Keeps s₀ (if x.now.te && x.pdOn 3 then x.orReg rTeLine 0x10000 else x) :=
    fun _ h => Keeps.ite (State.orReg_keeps h) h
  have c : ∀ x : State, Keeps s₀ x → Keeps s₀ x.cfgNext.evalWatches.evalWatchers.latchSubst.countLeaveWaits.releaseGrants :=
    fun _ h => State.releaseGrants_keeps (State.countLeaveWaits_keeps (State.latchSubst_keeps (State.evalWatchers_keeps
      (State.evalWatches_keeps (State.cfgNext_keeps h)))))
  have d : ∀ x : State, Keeps s₀ x → Keeps s₀ ((List.range 64).foldl State.countHold x).noteEligible :=
    fun _ h => State.noteEligible_keeps (Keeps.foldl h (fun _ _ k => State.countHold_keeps k))
  have e : ∀ x : State, Keeps s₀ x →
      Keeps s₀ (if x.frameActs then allTiles.foldl State.moveWaits x.markWaits else x).tellLevels.bellPend.nextLines :=
    fun _ h => State.nextLines_keeps (State.bellPend_keeps (State.tellLevels_keeps
      (Keeps.ite (Keeps.foldl (State.markWaits_keeps h) (fun _ _ k => State.moveWaits_keeps k)) h)))
  have f : ∀ x : State, Keeps s₀ x →
      Keeps s₀ (if x.scan.videoOk && !x.videoHolds then { x with scan := { x.scan with videoOk := false } } else x) :=
    fun _ h => Keeps.ite (Keeps.updTop h) h
  unfold State.endCk
  with_reducible exact State.stopNext_keeps (State.stepCount_keeps (State.alertForget_keeps (State.loseLate_keeps
    (State.endUses_keeps (f _ (e _ (d _ (c _ (b _ (a _ hK))))))))))

theorem State.aonTime_keeps {s₀ : State} {s : State} (hK : Keeps s₀ s) :
    Keeps s₀ (State.aonTime s) := by
  unfold State.aonTime
  repeat' first
    | intro _ | with_reducible exact hK | with_reducible assumption | with_reducible exact Keeps.refl _
    | with_reducible apply Keeps.updTop

theorem State.coreCycles_keeps {s₀ : State} {s : State} (hK : Keeps s₀ s) :
    Keeps s₀ (State.coreCycles s) := by
  unfold State.coreCycles
  repeat' first
    | intro _ | with_reducible exact hK | with_reducible assumption | with_reducible exact Keeps.refl _
    | with_reducible apply Keeps.updTop

theorem State.nextCk_keeps {s₀ : State} {s : State} (hK : Keeps s₀ s) :
    Keeps s₀ (State.nextCk s) := by
  unfold State.nextCk
  repeat' first
    | intro _ | with_reducible exact hK | with_reducible assumption | with_reducible exact Keeps.refl _
    | with_reducible apply State.satReg_keeps | with_reducible apply State.holdoffLate_keeps
    | with_reducible apply State.timerMatch_keeps | with_reducible apply State.aonTime_keeps
    | with_reducible apply State.coreCycles_keeps | with_reducible apply Keeps.ite | with_reducible apply Keeps.foldl
    | split | (refine Keeps.of_eq (by assumption) ?_) | (dsimp only; split) | with_reducible apply Keeps.updTop

theorem State.faultArrives_keeps {s₀ : State} {s : State} {t : Nat} (hK : Keeps s₀ s) :
    Keeps s₀ (State.faultArrives s t) := by
  unfold State.faultArrives
  repeat' first
    | intro _ | with_reducible exact hK | with_reducible assumption | with_reducible exact Keeps.refl _
    | with_reducible apply State.orReg_keeps | with_reducible apply State.frameEnds_keeps
    | with_reducible apply Keeps.foldl | with_reducible apply Keeps.updTop

theorem State.faultsArrive_keeps {s₀ : State} {s : State} (hK : Keeps s₀ s) :
    Keeps s₀ (State.faultsArrive s) := by
  unfold State.faultsArrive
  repeat' first
    | intro _ | with_reducible exact hK | with_reducible assumption | with_reducible exact Keeps.refl _
    | with_reducible apply State.faultArrives_keeps | with_reducible apply Keeps.foldl
    | with_reducible apply Keeps.updTop

theorem State.askLeave_keeps {s₀ : State} {s : State} {t : TileId} (hK : Keeps s₀ s) :
    Keeps s₀ (State.askLeave s t) := by
  unfold State.askLeave
  repeat' first
    | intro _ | with_reducible exact hK | with_reducible assumption | with_reducible exact Keeps.refl _
    | with_reducible apply State.modTile_keeps | with_reducible apply State.request_keeps
    | with_reducible apply Keeps.ite | split | (refine Keeps.of_eq (by assumption) ?_) | (dsimp only; split)
    | with_reducible apply Keeps.updTop

theorem State.jobsNow_keeps {s₀ : State} {s : State} {t : TileId} (hK : Keeps s₀ s) : Keeps s₀ (State.jobsNow s t) := by
  unfold State.jobsNow
  with_reducible refine State.modTile_keeps (Keeps.foldl (Keeps.foldl hK ?_) ?_)
  · exact fun _ _ h => State.jobWrite_keeps (State.jobRead_keeps h)
  · exact fun _ _ h => State.jobFinish_keeps h

theorem State.tileNow_keeps {s₀ : State} {s : State} {t : TileId} (hK : Keeps s₀ s) :
    Keeps s₀ (State.tileNow s t) := by
  unfold State.tileNow
  repeat' first
    | intro _ | with_reducible exact hK | with_reducible assumption | with_reducible exact Keeps.refl _
    | with_reducible apply State.macroRead_keeps | with_reducible apply State.moveDueNow_keeps
    | with_reducible apply State.evalWaits_keeps | with_reducible apply State.threadsNow_keeps
    | with_reducible apply State.traceSend_keeps | with_reducible apply State.askLeave_keeps
    | with_reducible apply State.jobsNow_keeps | with_reducible apply Keeps.ite | split
    | (refine Keeps.of_eq (by assumption) ?_) | (dsimp only; split)

theorem State.scanPending_keeps {s₀ : State} {s : State} (hK : Keeps s₀ s) :
    Keeps s₀ (State.scanPending s) := by
  unfold State.scanPending
  repeat' first
    | intro _ | with_reducible exact hK | with_reducible assumption | with_reducible exact Keeps.refl _
    | with_reducible apply State.decideTs_keeps | with_reducible apply State.decideMode_keeps
    | with_reducible apply Keeps.ite | split | (refine Keeps.of_eq (by assumption) ?_) | (dsimp only; split)

theorem State.throtHolds_keeps {s₀ : State} {s : State} (hK : Keeps s₀ s) :
    Keeps s₀ (State.throtHolds s) := by
  unfold State.throtHolds
  repeat' first
    | intro _ | with_reducible exact hK | with_reducible assumption | with_reducible exact Keeps.refl _
    | with_reducible apply State.setStep_keeps | with_reducible apply Keeps.ite | split
    | (refine Keeps.of_eq (by assumption) ?_) | (dsimp only; split)

theorem State.beginCk_keeps {s₀ : State} {s : State} (hK : Keeps s₀ s) :
    Keeps s₀ (State.beginCk s) := by
  unfold State.beginCk
  repeat' first
    | intro _ | with_reducible exact hK | with_reducible assumption | with_reducible exact Keeps.refl _
    | with_reducible apply State.copyLeft_keeps | with_reducible apply State.injectAll_keeps
    | with_reducible apply State.traceTake_keeps | with_reducible apply State.faultsArrive_keeps
    | with_reducible apply State.tileNow_keeps | with_reducible apply State.scanPending_keeps
    | with_reducible apply State.throtHolds_keeps | with_reducible apply Keeps.ite | with_reducible apply Keeps.foldl
    | split | (refine Keeps.of_eq (by assumption) ?_) | (dsimp only; split)

theorem State.passCk_keeps {s₀ : State} {s : State} (hK : Keeps s₀ s) :
    Keeps s₀ (State.passCk s) := by
  unfold State.passCk
  repeat' first
    | intro _ | with_reducible exact hK | with_reducible assumption | with_reducible exact Keeps.refl _
    | with_reducible apply State.endCk_keeps | with_reducible apply State.nextCk_keeps
    | with_reducible apply State.beginCk_keeps | with_reducible apply Keeps.ite | split
    | (refine Keeps.of_eq (by assumption) ?_) | (dsimp only; split)

end Sys2Proof.Machine
end

