-- ==== Sys2Proof/Laws/KeepsExec.lean ====
section
/-!
SUPPORT. What the effect of each command keeps, where it answers a next state (Laws/Keeps.lean).
-/

namespace Sys2Proof.Machine

theorem cCommand_keeps {f : SlotFn} {t : TileId} {th : ThreadId} {w : SlotWord} {s x : State}
    (hkf : ∀ x0 x1 x2 x3 x4, Keeps s x0 → Keeps s (f x0 x1 x2 x3 x4).st) (h : cCommand f t th w s = .next x) : Keeps s x := by
  cases h; exact State.modThr_keeps (slotCommand_keeps (Keeps.refl s) hkf)

theorem mCommand_keeps {f : SlotFn} {t : TileId} {th : ThreadId} {w : SlotWord} {s x : State}
    (hkf : ∀ x0 x1 x2 x3 x4, Keeps s x0 → Keeps s (f x0 x1 x2 x3 x4).st) (h : mCommand f t th w s = .next x) : Keeps s x := by
  cases h; exact slotCommand_keeps (Keeps.refl s) hkf

theorem vCommand_keeps {f : SlotFn} {t : TileId} {th : ThreadId} {w : SlotWord} {s x : State}
    (hkf : ∀ x0 x1 x2 x3 x4, Keeps s x0 → Keeps s (f x0 x1 x2 x3 x4).st) (h : vCommand f t th w s = .next x) : Keeps s x := by
  cases h; exact slotCommand_keeps (Keeps.refl s) hkf

theorem tCommand_keeps {f : SlotFn} {t : TileId} {th : ThreadId} {w : SlotWord} {s x : State}
    (hkf : ∀ x0 x1 x2 x3 x4, Keeps s x0 → Keeps s (f x0 x1 x2 x3 x4).st) (h : tCommand f t th w s = .next x) : Keeps s x := by
  cases h; exact slotCommand_keeps (Keeps.refl s) hkf

theorem sb_keeps {f : SbForm} {code : Nat} {lens : Nat → Bool} {req : List Byte} {act : State → SbDone} {s x : State}
    (hkact : ∀ x0, Keeps s x0 → Keeps s (act x0).s) (h : s.sb f code lens req act = .next x) : Keeps s x := by
  unfold State.sb at h
  split at h
  · cases h
    exact State.sbRequest_keeps (Keeps.refl s) hkact
  · cases h

theorem execVadd_keeps {t : TileId} {th : ThreadId} {w : SlotWord} {s : State} {x : State} (h : execVadd t th w s = .next x) : Keeps s x :=
  vCommand_keeps (fun _ _ _ _ _ h => vaddSlot_keeps h) h

theorem execVsub_keeps {t : TileId} {th : ThreadId} {w : SlotWord} {s : State} {x : State} (h : execVsub t th w s = .next x) : Keeps s x :=
  vCommand_keeps (fun _ _ _ _ _ h => vsubSlot_keeps h) h

theorem execVmul_keeps {t : TileId} {th : ThreadId} {w : SlotWord} {s : State} {x : State} (h : execVmul t th w s = .next x) : Keeps s x :=
  vCommand_keeps (fun _ _ _ _ _ h => vmulSlot_keeps h) h

theorem execVmulh_keeps {t : TileId} {th : ThreadId} {w : SlotWord} {s : State} {x : State} (h : execVmulh t th w s = .next x) : Keeps s x :=
  vCommand_keeps (fun _ _ _ _ _ h => vmulhSlot_keeps h) h

theorem execVfma_keeps {t : TileId} {th : ThreadId} {w : SlotWord} {s : State} {x : State} (h : execVfma t th w s = .next x) : Keeps s x :=
  vCommand_keeps (fun _ _ _ _ _ h => vfmaSlot_keeps h) h

theorem execVmin_keeps {t : TileId} {th : ThreadId} {w : SlotWord} {s : State} {x : State} (h : execVmin t th w s = .next x) : Keeps s x :=
  vCommand_keeps (fun _ _ _ _ _ h => vminSlot_keeps h) h

theorem execVmax_keeps {t : TileId} {th : ThreadId} {w : SlotWord} {s : State} {x : State} (h : execVmax t th w s = .next x) : Keeps s x :=
  vCommand_keeps (fun _ _ _ _ _ h => vmaxSlot_keeps h) h

theorem execVand_keeps {t : TileId} {th : ThreadId} {w : SlotWord} {s : State} {x : State} (h : execVand t th w s = .next x) : Keeps s x :=
  vCommand_keeps (fun _ _ _ _ _ h => vandSlot_keeps h) h

theorem execVor_keeps {t : TileId} {th : ThreadId} {w : SlotWord} {s : State} {x : State} (h : execVor t th w s = .next x) : Keeps s x :=
  vCommand_keeps (fun _ _ _ _ _ h => vorSlot_keeps h) h

theorem execVxor_keeps {t : TileId} {th : ThreadId} {w : SlotWord} {s : State} {x : State} (h : execVxor t th w s = .next x) : Keeps s x :=
  vCommand_keeps (fun _ _ _ _ _ h => vxorSlot_keeps h) h

theorem execVshl_keeps {t : TileId} {th : ThreadId} {w : SlotWord} {s : State} {x : State} (h : execVshl t th w s = .next x) : Keeps s x :=
  vCommand_keeps (fun _ _ _ _ _ h => vshlSlot_keeps h) h

theorem execVshr_keeps {t : TileId} {th : ThreadId} {w : SlotWord} {s : State} {x : State} (h : execVshr t th w s = .next x) : Keeps s x :=
  vCommand_keeps (fun _ _ _ _ _ h => vshrSlot_keeps h) h

theorem execVcmp_keeps {t : TileId} {th : ThreadId} {w : SlotWord} {s : State} {x : State} (h : execVcmp t th w s = .next x) : Keeps s x :=
  vCommand_keeps (fun _ _ _ _ _ h => vcmpSlot_keeps h) h

theorem execVsel_keeps {t : TileId} {th : ThreadId} {w : SlotWord} {s : State} {x : State} (h : execVsel t th w s = .next x) : Keeps s x :=
  vCommand_keeps (fun _ _ _ _ _ h => vselSlot_keeps h) h

theorem execVbcast_keeps {t : TileId} {th : ThreadId} {w : SlotWord} {s : State} {x : State} (h : execVbcast t th w s = .next x) : Keeps s x :=
  vCommand_keeps (fun _ _ _ _ _ h => vbcastSlot_keeps h) h

theorem execVabs_keeps {t : TileId} {th : ThreadId} {w : SlotWord} {s : State} {x : State} (h : execVabs t th w s = .next x) : Keeps s x :=
  vCommand_keeps (fun _ _ _ _ _ h => vabsSlot_keeps h) h

theorem execVneg_keeps {t : TileId} {th : ThreadId} {w : SlotWord} {s : State} {x : State} (h : execVneg t th w s = .next x) : Keeps s x :=
  vCommand_keeps (fun _ _ _ _ _ h => vnegSlot_keeps h) h

theorem execVrsum_keeps {t : TileId} {th : ThreadId} {w : SlotWord} {s : State} {x : State} (h : execVrsum t th w s = .next x) : Keeps s x :=
  vCommand_keeps (fun _ _ _ _ _ h => vrsumSlot_keeps h) h

theorem execVrmax_keeps {t : TileId} {th : ThreadId} {w : SlotWord} {s : State} {x : State} (h : execVrmax t th w s = .next x) : Keeps s x :=
  vCommand_keeps (fun _ _ _ _ _ h => vrmaxSlot_keeps h) h

theorem execVrmin_keeps {t : TileId} {th : ThreadId} {w : SlotWord} {s : State} {x : State} (h : execVrmin t th w s = .next x) : Keeps s x :=
  vCommand_keeps (fun _ _ _ _ _ h => vrminSlot_keeps h) h

theorem execVrargmax_keeps {t : TileId} {th : ThreadId} {w : SlotWord} {s : State} {x : State} (h : execVrargmax t th w s = .next x) : Keeps s x :=
  vCommand_keeps (fun _ _ _ _ _ h => vrargmaxSlot_keeps h) h

theorem execVlut_keeps {t : TileId} {th : ThreadId} {w : SlotWord} {s : State} {x : State} (h : execVlut t th w s = .next x) : Keeps s x :=
  vCommand_keeps (fun _ _ _ _ _ h => slotUnless_keeps h (fun _ _ _ _ _ k => vlutSlot_keeps k)) h

theorem execVqnt_keeps {t : TileId} {th : ThreadId} {w : SlotWord} {s : State} {x : State} (h : execVqnt t th w s = .next x) : Keeps s x :=
  vCommand_keeps (fun _ _ _ _ _ h => vqntSlot_keeps h) h

theorem execVcvt_keeps {t : TileId} {th : ThreadId} {sub : Fin 8} {w : SlotWord} {s : State} {x : State} (h : execVcvt t th sub w s = .next x) : Keeps s x :=
  vCommand_keeps (fun _ _ _ _ _ h => vcvtSlot_keeps h) h

theorem execMm_keeps {t : TileId} {th : ThreadId} {w : SlotWord} {s : State} {x : State} (h : execMm t th w s = .next x) : Keeps s x :=
  tCommand_keeps (fun _ _ _ _ _ h => slotUnless_keeps h (fun _ _ _ _ _ k => mmSlot_keeps k)) h

theorem execConv_keeps {t : TileId} {th : ThreadId} {w : SlotWord} {s : State} {x : State} (h : execConv t th w s = .next x) : Keeps s x :=
  tCommand_keeps (fun _ _ _ _ _ h => slotUnless_keeps h (fun _ _ _ _ _ k => convSlot_keeps k)) h

theorem execDw_keeps {t : TileId} {th : ThreadId} {w : SlotWord} {s : State} {x : State} (h : execDw t th w s = .next x) : Keeps s x :=
  tCommand_keeps (fun _ _ _ _ _ h => slotUnless_keeps h (fun _ _ _ _ _ k => dwSlot_keeps k)) h

theorem execAccRd_keeps {t : TileId} {th : ThreadId} {w : SlotWord} {s : State} {x : State} (h : execAccRd t th w s = .next x) : Keeps s x :=
  tCommand_keeps (fun _ _ _ _ _ h => slotUnless_keeps h (fun _ _ _ _ _ k => accRdSlot_keeps k)) h

theorem execAccWr_keeps {t : TileId} {th : ThreadId} {w : SlotWord} {s : State} {x : State} (h : execAccWr t th w s = .next x) : Keeps s x :=
  tCommand_keeps (fun _ _ _ _ _ h => slotUnless_keeps h (fun _ _ _ _ _ k => accWrSlot_keeps k)) h

theorem execAccClr_keeps {t : TileId} {th : ThreadId} {w : SlotWord} {s : State} {x : State} (h : execAccClr t th w s = .next x) : Keeps s x :=
  tCommand_keeps (fun _ _ _ _ _ h => slotUnless_keeps h (fun _ _ _ _ _ k => accClrSlot_keeps k)) h

theorem execLutLoad_keeps {t : TileId} {th : ThreadId} {w : SlotWord} {s : State} {x : State} (h : execLutLoad t th w s = .next x) : Keeps s x :=
  vCommand_keeps (fun _ _ _ _ _ h => slotUnless_keeps h (fun _ _ _ _ _ k => lutLoadSlot_keeps k)) h

theorem execMacroOpStart_keeps {t : TileId} {s : State} {x : State} (h : execMacroOpStart t s = .next x) : Keeps s x := by
  cases h
  repeat' first
    | intro _ | with_reducible exact Keeps.refl _ | with_reducible assumption
    | with_reducible apply State.macroStart_keeps

theorem execMacroOpEnd_keeps {t : TileId} {s : State} {x : State} (h : execMacroOpEnd t s = .next x) : Keeps s x := by
  cases h
  repeat' first
    | intro _ | with_reducible exact Keeps.refl _ | with_reducible assumption
    | with_reducible apply State.macroEnd_keeps

theorem execLutLoadComplete_keeps {t : TileId} {s : State} {x : State} (h : execLutLoadComplete t s = .next x) : Keeps s x := by
  cases h
  repeat' first
    | intro _ | with_reducible exact Keeps.refl _ | with_reducible assumption
    | with_reducible apply State.lutComplete_keeps

theorem execLd_keeps {t : TileId} {th : ThreadId} {w : SlotWord} {s : State} {x : State} (h : execLd t th w s = .next x) : Keeps s x :=
  mCommand_keeps (fun _ _ _ _ _ h => ldSlot_keeps h) h

theorem execSt_keeps {t : TileId} {th : ThreadId} {w : SlotWord} {s : State} {x : State} (h : execSt t th w s = .next x) : Keeps s x :=
  mCommand_keeps (fun _ _ _ _ _ h => stSlot_keeps h) h

theorem execSld_keeps {t : TileId} {th : ThreadId} {w : SlotWord} {s : State} {x : State} (h : execSld t th w s = .next x) : Keeps s x :=
  mCommand_keeps (fun _ _ _ _ _ h => sldSlot_keeps h) h

theorem execRwr_keeps {t : TileId} {th : ThreadId} {w : SlotWord} {s : State} {x : State} (h : execRwr t th w s = .next x) : Keeps s x :=
  mCommand_keeps (fun _ _ _ _ _ h => rwrSlot_keeps h) h

theorem execGather_keeps {t : TileId} {th : ThreadId} {w : SlotWord} {s : State} {x : State} (h : execGather t th w s = .next x) : Keeps s x :=
  mCommand_keeps (fun _ _ _ _ _ h => gatherSlot_keeps h) h

theorem execLdb_keeps {t : TileId} {th : ThreadId} {w : SlotWord} {s : State} {x : State} (h : execLdb t th w s = .next x) : Keeps s x :=
  mCommand_keeps (fun _ _ _ _ _ h => slotUnless_keeps h (fun _ _ _ _ _ k => ldbSlot_keeps k)) h

theorem execStb_keeps {t : TileId} {th : ThreadId} {w : SlotWord} {s : State} {x : State} (h : execStb t th w s = .next x) : Keeps s x :=
  mCommand_keeps (fun _ _ _ _ _ h => slotUnless_keeps h (fun _ _ _ _ _ k => stbSlot_keeps k)) h

theorem execSmov_keeps {t : TileId} {th : ThreadId} {w : SlotWord} {s : State} {x : State} (h : execSmov t th w s = .next x) : Keeps s x :=
  mCommand_keeps (fun _ _ _ _ _ h => smovSlot_keeps h) h

theorem execSmovx_keeps {t : TileId} {th : ThreadId} {w : SlotWord} {s : State} {x : State} (h : execSmovx t th w s = .next x) : Keeps s x :=
  mCommand_keeps (fun _ _ _ _ _ h => smovxSlot_keeps h) h

theorem execMoveStep_keeps {t : TileId} {lane : MoveLane} {s : State} {x : State} (h : execMoveStep t lane s = .next x) : Keeps s x := by
  cases h
  repeat' first
    | intro _ | with_reducible exact Keeps.refl _ | with_reducible assumption
    | with_reducible apply State.moveStep_keeps

theorem execMoveEnd_keeps {t : TileId} {lane : MoveLane} {s : State} {x : State} (h : execMoveEnd t lane s = .next x) : Keeps s x := by
  cases h
  repeat' first
    | intro _ | with_reducible exact Keeps.refl _ | with_reducible assumption
    | with_reducible apply State.moveEnd_keeps

theorem execSyncUpdateArrival_keeps {s : State} {x : State} (h : execSyncUpdateArrival s = .next x) : Keeps s x := by
  cases h
  repeat' first
    | intro _ | with_reducible exact Keeps.refl _ | with_reducible assumption
    | with_reducible apply State.syncArrive_keeps

theorem execSyncAck_keeps {t : TileId} {th : ThreadId} {s : State} {x : State} (h : execSyncAck t th s = .next x) : Keeps s x := by
  cases h
  repeat' first
    | intro _ | with_reducible exact Keeps.refl _ | with_reducible assumption
    | with_reducible apply State.syncAcked_keeps

theorem execWatchWordArrival_keeps {s : State} {x : State} (h : execWatchWordArrival s = .next x) : Keeps s x := by
  cases h
  repeat' first
    | intro _ | with_reducible exact Keeps.refl _ | with_reducible assumption
    | with_reducible apply State.watchArrive_keeps

theorem execReleaseInject_keeps {half : Fin 2} {t : TileId} {th : ThreadId} {s : State} {x : State} (h : execReleaseInject half t th s = .next x) : Keeps s x := by
  cases h
  repeat' first
    | intro _ | with_reducible exact Keeps.refl _ | with_reducible assumption
    | with_reducible apply State.releaseInject_keeps

theorem execWatchLapse_keeps {half : Fin 2} {t : TileId} {th : ThreadId} {s : State} {x : State} (h : execWatchLapse half t th s = .next x) : Keeps s x := by
  cases h
  repeat' first
    | intro _ | with_reducible exact Keeps.refl _ | with_reducible assumption
    | with_reducible apply State.watchLapse_keeps

theorem execReleaseArrival_keeps {t : TileId} {s : State} {x : State} (h : execReleaseArrival t s = .next x) : Keeps s x := by
  cases h
  repeat' first
    | intro _ | with_reducible exact Keeps.refl _ | with_reducible assumption
    | with_reducible apply State.releaseArrive_keeps

theorem execPace_keeps {m : Master} {v : BitVec 32} {s : State} {x : State} (h : execPace m v s = .next x) : Keeps s x := by
  cases h
  repeat' first
    | intro _ | with_reducible exact Keeps.refl _ | with_reducible assumption
    | with_reducible apply State.paceWrite_keeps

theorem execSyncCountWrite_keeps {m : Master} {n : Fin 2048} {v : BitVec 32} {s : State} {x : State} (h : execSyncCountWrite m n v s = .next x) : Keeps s x := by
  cases h
  repeat' first
    | intro _ | with_reducible exact Keeps.refl _ | with_reducible assumption
    | with_reducible apply State.syncCountWrite_keeps

theorem execSyncAddWrite_keeps {m : Master} {n : Fin 2048} {v : BitVec 32} {s : State} {x : State} (h : execSyncAddWrite m n v s = .next x) : Keeps s x := by
  cases h
  repeat' first
    | intro _ | with_reducible exact Keeps.refl _ | with_reducible assumption
    | with_reducible apply State.syncAddWrite_keeps

theorem execLsyncWrite_keeps {m : Master} {t : TileId} {k : Fin 32} {v : BitVec 32} {s : State} {x : State} (h : execLsyncWrite m t k v s = .next x) : Keeps s x := by
  cases h
  repeat' first
    | intro _ | with_reducible exact Keeps.refl _ | with_reducible assumption
    | with_reducible apply State.lsyncWrite_keeps

theorem execWatchCfgWrite_keeps {m : Master} {w : Fin 32} {target : Bool} {v : BitVec 32} {s : State} {x : State} (h : execWatchCfgWrite m w target v s = .next x) : Keeps s x := by
  cases h
  repeat' first
    | intro _ | with_reducible exact Keeps.refl _ | with_reducible assumption
    | with_reducible apply State.watchCfgWrite_keeps

theorem execEndMark_keeps {t : TileId} {th : ThreadId} {w : SlotWord} {s : State} {x : State} (h : execEndMark t th w s = .next x) : Keeps s x :=
  cCommand_keeps (fun _ _ _ _ _ h => endSlot_keeps h) h

theorem execBr_keeps {t : TileId} {th : ThreadId} {w : SlotWord} {s : State} {x : State} (h : execBr t th w s = .next x) : Keeps s x :=
  cCommand_keeps (fun _ _ _ _ _ h => brSlot_keeps h) h

theorem execLoopOp_keeps {t : TileId} {th : ThreadId} {w : SlotWord} {s : State} {x : State} (h : execLoopOp t th w s = .next x) : Keeps s x :=
  cCommand_keeps (fun _ _ _ _ _ h => loopSlot_keeps h) h

theorem execRdc_keeps {t : TileId} {th : ThreadId} {w : SlotWord} {s : State} {x : State} (h : execRdc t th w s = .next x) : Keeps s x :=
  cCommand_keeps (fun _ _ _ _ _ h => rdcSlot_keeps h) h

theorem execHold_keeps {t : TileId} {th : ThreadId} {w : SlotWord} {s : State} {x : State} (h : execHold t th w s = .next x) : Keeps s x :=
  cCommand_keeps (fun _ _ _ _ _ h => holdSlot_keeps h) h

theorem execSig_keeps {t : TileId} {th : ThreadId} {w : SlotWord} {s : State} {x : State} (h : execSig t th w s = .next x) : Keeps s x :=
  cCommand_keeps (fun _ _ _ _ _ h => sigSlot_keeps h) h

theorem execWait_keeps {t : TileId} {th : ThreadId} {w : SlotWord} {s : State} {x : State} (h : execWait t th w s = .next x) : Keeps s x :=
  cCommand_keeps (fun _ _ _ _ _ h => waitSlot_keeps h) h

theorem execArm_keeps {t : TileId} {th : ThreadId} {w : SlotWord} {s : State} {x : State} (h : execArm t th w s = .next x) : Keeps s x :=
  cCommand_keeps (fun _ _ _ _ _ h => armSlot_keeps h) h

theorem execLchk_keeps {t : TileId} {th : ThreadId} {w : SlotWord} {s : State} {x : State} (h : execLchk t th w s = .next x) : Keeps s x :=
  cCommand_keeps (fun _ _ _ _ _ h => lchkSlot_keeps h) h

theorem execCreditGrant_keeps {t : TileId} {th : ThreadId} {w : SlotWord} {s : State} {x : State} (h : execCreditGrant t th w s = .next x) : Keeps s x :=
  cCommand_keeps (fun _ _ _ _ _ h => creditGrantSlot_keeps h) h

theorem execHswap_keeps {t : TileId} {th : ThreadId} {w : SlotWord} {s : State} {x : State} (h : execHswap t th w s = .next x) : Keeps s x :=
  cCommand_keeps (fun _ _ _ _ _ h => hswapSlot_keeps h) h

theorem execSadd_keeps {t : TileId} {th : ThreadId} {w : SlotWord} {s : State} {x : State} (h : execSadd t th w s = .next x) : Keeps s x :=
  cCommand_keeps (fun _ _ _ _ _ h => saddSlot_keeps h) h

theorem execSsub_keeps {t : TileId} {th : ThreadId} {w : SlotWord} {s : State} {x : State} (h : execSsub t th w s = .next x) : Keeps s x :=
  cCommand_keeps (fun _ _ _ _ _ h => ssubSlot_keeps h) h

theorem execSand_keeps {t : TileId} {th : ThreadId} {w : SlotWord} {s : State} {x : State} (h : execSand t th w s = .next x) : Keeps s x :=
  cCommand_keeps (fun _ _ _ _ _ h => sandSlot_keeps h) h

theorem execSor_keeps {t : TileId} {th : ThreadId} {w : SlotWord} {s : State} {x : State} (h : execSor t th w s = .next x) : Keeps s x :=
  cCommand_keeps (fun _ _ _ _ _ h => sorSlot_keeps h) h

theorem execSxor_keeps {t : TileId} {th : ThreadId} {w : SlotWord} {s : State} {x : State} (h : execSxor t th w s = .next x) : Keeps s x :=
  cCommand_keeps (fun _ _ _ _ _ h => sxorSlot_keeps h) h

theorem execSshl_keeps {t : TileId} {th : ThreadId} {w : SlotWord} {s : State} {x : State} (h : execSshl t th w s = .next x) : Keeps s x :=
  cCommand_keeps (fun _ _ _ _ _ h => sshlSlot_keeps h) h

theorem execSshr_keeps {t : TileId} {th : ThreadId} {w : SlotWord} {s : State} {x : State} (h : execSshr t th w s = .next x) : Keeps s x :=
  cCommand_keeps (fun _ _ _ _ _ h => sshrSlot_keeps h) h

theorem execSmul_keeps {t : TileId} {th : ThreadId} {w : SlotWord} {s : State} {x : State} (h : execSmul t th w s = .next x) : Keeps s x :=
  cCommand_keeps (fun _ _ _ _ _ h => smulSlot_keeps h) h

theorem execSli_keeps {t : TileId} {th : ThreadId} {w : SlotWord} {s : State} {x : State} (h : execSli t th w s = .next x) : Keeps s x :=
  cCommand_keeps (fun _ _ _ _ _ h => sliSlot_keeps h) h

theorem execSlui_keeps {t : TileId} {th : ThreadId} {w : SlotWord} {s : State} {x : State} (h : execSlui t th w s = .next x) : Keeps s x :=
  cCommand_keeps (fun _ _ _ _ _ h => sluiSlot_keeps h) h

theorem execScmp_keeps {t : TileId} {th : ThreadId} {w : SlotWord} {s : State} {x : State} (h : execScmp t th w s = .next x) : Keeps s x :=
  cCommand_keeps (fun _ _ _ _ _ h => scmpSlot_keeps h) h

theorem execPlog_keeps {t : TileId} {th : ThreadId} {w : SlotWord} {s : State} {x : State} (h : execPlog t th w s = .next x) : Keeps s x :=
  cCommand_keeps (fun _ _ _ _ _ h => plogSlot_keeps h) h

theorem execWaitComplete_keeps {t : TileId} {th : ThreadId} {s : State} {x : State} (h : execWaitComplete t th s = .next x) : Keeps s x := by
  cases h
  repeat' first
    | intro _ | with_reducible exact Keeps.refl _ | with_reducible assumption
    | with_reducible apply State.waitComplete_keeps

theorem execSlip_keeps {t : TileId} {th : ThreadId} {s : State} {x : State} (h : execSlip t th s = .next x) : Keeps s x := by
  cases h
  repeat' first
    | intro _ | with_reducible exact Keeps.refl _ | with_reducible assumption
    | with_reducible apply State.slipNow_keeps

theorem execMeshAsyncForward_keeps {r : TileId} {out : Fin 6} {lane : MeshLane} {s : State} {x : State} (h : execMeshAsyncForward r out lane s = .next x) : Keeps s x := by
  cases h
  repeat' first
    | intro _ | with_reducible exact Keeps.refl _ | with_reducible assumption
    | with_reducible apply State.meshForward_keeps

theorem execRemoteWriteArrival_keeps {t : TileId} {s : State} {x : State} (h : execRemoteWriteArrival t s = .next x) : Keeps s x := by
  cases h
  repeat' first
    | intro _ | with_reducible exact Keeps.refl _ | with_reducible assumption
    | with_reducible apply State.remoteArrive_keeps

theorem execCreditGrantArrival_keeps {t : TileId} {s : State} {x : State} (h : execCreditGrantArrival t s = .next x) : Keeps s x := by
  cases h
  repeat' first
    | intro _ | with_reducible exact Keeps.refl _ | with_reducible assumption
    | with_reducible apply State.grantArrive_keeps

theorem execBandIssue_keeps {l : Fin 16} {b : Nat} {s : State} {x : State} (h : execBandIssue l b s = .next x) : Keeps s x := by
  cases h
  repeat' first
    | intro _ | with_reducible exact Keeps.refl _ | with_reducible assumption
    | with_reducible apply State.bandIssue_keeps

theorem execHostReadIssue_keeps {l : Fin 16} {copy : Bool} {s : State} {x : State} (h : execHostReadIssue l copy s = .next x) : Keeps s x := by
  cases h
  repeat' first
    | intro _ | with_reducible exact Keeps.refl _ | with_reducible assumption
    | with_reducible apply State.hostReadIssue_keeps

theorem execHostReadCompletion_keeps {tag : Fin 768} {ok : Bool} {data : List (BitVec 8)} {s : State} {x : State} (h : execHostReadCompletion tag ok data s = .next x) : Keeps s x := by
  cases h
  repeat' first
    | intro _ | with_reducible exact Keeps.refl _ | with_reducible assumption
    | with_reducible apply State.completionAer_keeps | with_reducible apply State.readEnd_keeps

theorem execHostReadTimeout_keeps {tag : Fin 768} {s : State} {x : State} (h : execHostReadTimeout tag s = .next x) : Keeps s x := by
  cases h
  repeat' first
    | intro _ | with_reducible exact Keeps.refl _ | with_reducible assumption
    | with_reducible apply State.readTimeout_keeps

theorem execLandingWriteSlot_keeps {l : Fin 16} {s : State} {x : State} (h : execLandingWriteSlot l s = .next x) : Keeps s x := by
  cases h
  repeat' first
    | intro _ | with_reducible exact Keeps.refl _ | with_reducible assumption
    | with_reducible apply State.landingSlot_keeps

theorem execBandCommit_keeps {l : Fin 16} {s : State} {x : State} (h : execBandCommit l s = .next x) : Keeps s x := by
  cases h
  repeat' first
    | intro _ | with_reducible exact Keeps.refl _ | with_reducible assumption
    | with_reducible apply State.bandCommit_keeps

theorem execWriteoutReadSlot_keeps {l : Fin 16} {s : State} {x : State} (h : execWriteoutReadSlot l s = .next x) : Keeps s x := by
  cases h
  repeat' first
    | intro _ | with_reducible exact Keeps.refl _ | with_reducible assumption
    | with_reducible apply State.writeoutSlot_keeps

theorem execHostWriteIssue_keeps {l : Fin 16} {copy : Bool} {s : State} {x : State} (h : execHostWriteIssue l copy s = .next x) : Keeps s x := by
  cases h
  repeat' first
    | intro _ | with_reducible exact Keeps.refl _ | with_reducible assumption
    | with_reducible apply State.hostWriteIssue_keeps

theorem execDegradeNote_keeps {s : State} {x : State} (h : execDegradeNote s = .next x) : Keeps s x := by
  cases h
  repeat' first
    | intro _ | with_reducible exact Keeps.refl _ | with_reducible assumption
    | with_reducible apply State.degradeArrive_keeps

theorem execLateNote_keeps {s : State} {x : State} (h : execLateNote s = .next x) : Keeps s x := by
  cases h
  repeat' first
    | intro _ | with_reducible exact Keeps.refl _ | with_reducible assumption
    | with_reducible apply State.lateArrive_keeps

theorem execFenceWord_keeps {t : TileId} {s : State} {x : State} (h : execFenceWord t s = .next x) : Keeps s x := by
  cases h
  repeat' first
    | intro _ | with_reducible exact Keeps.refl _ | with_reducible assumption
    | with_reducible apply State.fenceArrive_keeps

theorem execFenceAck_keeps {s : State} {x : State} (h : execFenceAck s = .next x) : Keeps s x := by
  cases h
  repeat' first
    | intro _ | with_reducible exact Keeps.refl _ | with_reducible assumption
    | with_reducible apply State.fenceAcked_keeps

theorem execCompletionPost_keeps {q : Fin 132} {s : State} {x : State} (h : execCompletionPost q s = .next x) : Keeps s x := by
  cases h
  repeat' first
    | intro _ | with_reducible exact Keeps.refl _ | with_reducible assumption
    | with_reducible apply State.completionPost_keeps

theorem execCopyGrant_keeps {l : Fin 16} {s : State} {x : State} (h : execCopyGrant l s = .next x) : Keeps s x := by
  cases h
  repeat' first
    | intro _ | with_reducible exact Keeps.refl _ | with_reducible assumption
    | with_reducible apply State.copyGrant_keeps

theorem execCopyComplete_keeps {l : Fin 16} {s : State} {x : State} (h : execCopyComplete l s = .next x) : Keeps s x := by
  cases h
  repeat' first
    | intro _ | with_reducible exact Keeps.refl _ | with_reducible assumption
    | with_reducible apply State.copyComplete_keeps

theorem execSringTail_keeps {m : Master} {k : Fin 4} {v : BitVec 32} {s : State} {x : State} (h : execSringTail m k v s = .next x) : Keeps s x := by
  cases h
  repeat' first
    | intro _ | with_reducible exact Keeps.refl _ | with_reducible assumption
    | with_reducible apply State.sringTail_keeps

theorem execVatReadRequest_keeps {n : Fin 8} {s : State} {x : State} (h : execVatReadRequest n s = .next x) : Keeps s x := by
  cases h
  repeat' first
    | intro _ | with_reducible exact Keeps.refl _ | with_reducible assumption
    | with_reducible apply State.vatReadRequest_keeps

theorem execVatWriteFlit_keeps {n : Fin 8} {s : State} {x : State} (h : execVatWriteFlit n s = .next x) : Keeps s x := by
  cases h
  repeat' first
    | intro _ | with_reducible exact Keeps.refl _ | with_reducible assumption
    | with_reducible apply State.vatWriteFlit_keeps

theorem execNarrowAccessPerform_keeps {p : Fin 72} {s : State} {x : State} (h : execNarrowAccessPerform p s = .next x) : Keeps s x := by
  cases h
  repeat' first
    | intro _ | with_reducible exact Keeps.refl _ | with_reducible assumption
    | with_reducible apply State.narrowPerform_keeps

theorem execAsyncPailAccess_keeps {t : TileId} {th : ThreadId} {s : State} {x : State} (h : execAsyncPailAccess t th s = .next x) : Keeps s x := by
  cases h
  repeat' first
    | intro _ | with_reducible exact Keeps.refl _ | with_reducible assumption
    | with_reducible apply State.asyncPailDo_keeps

theorem execEccInjectArm_keeps {m : Master} {mem : Fin 72} {double : Bool} {s : State} {x : State} (h : execEccInjectArm m mem double s = .next x) : Keeps s x := by
  cases h
  repeat' first
    | intro _ | with_reducible exact Keeps.refl _ | with_reducible assumption
    | with_reducible apply State.eccArm_keeps

theorem execThreadStart_keeps {m : Master} {t : TileId} {th : ThreadId} {s : State} {x : State} (h : execThreadStart m t th s = .next x) : Keeps s x := by
  cases h
  repeat' first
    | intro _ | with_reducible exact Keeps.refl _ | with_reducible assumption
    | with_reducible apply State.threadStart_keeps

theorem execThreadStop_keeps {m : Master} {t : TileId} {th : ThreadId} {s : State} {x : State} (h : execThreadStop m t th s = .next x) : Keeps s x := by
  cases h
  repeat' first
    | intro _ | with_reducible exact Keeps.refl _ | with_reducible assumption
    | with_reducible apply State.threadStop_keeps

theorem execTileHalt_keeps {m : Master} {t : TileId} {s : State} {x : State} (h : execTileHalt m t s = .next x) : Keeps s x := by
  cases h
  repeat' first
    | intro _ | with_reducible exact Keeps.refl _ | with_reducible assumption
    | with_reducible apply State.tileHalt_keeps

theorem execTileForcedHalt_keeps {m : Master} {t : TileId} {s : State} {x : State} (h : execTileForcedHalt m t s = .next x) : Keeps s x := by
  cases h
  repeat' first
    | intro _ | with_reducible exact Keeps.refl _ | with_reducible assumption
    | with_reducible apply State.tileForcedHalt_keeps

theorem execTileHaltRelease_keeps {m : Master} {t : TileId} {s : State} {x : State} (h : execTileHaltRelease m t s = .next x) : Keeps s x := by
  cases h
  repeat' first
    | intro _ | with_reducible exact Keeps.refl _ | with_reducible assumption
    | with_reducible apply State.haltRelease_keeps

theorem execTileHaltComplete_keeps {t : TileId} {s : State} {x : State} (h : execTileHaltComplete t s = .next x) : Keeps s x := by
  cases h
  repeat' first
    | intro _ | with_reducible exact Keeps.refl _ | with_reducible assumption
    | with_reducible apply State.haltComplete_keeps

theorem execFaultClr_keeps {m : Master} {t : TileId} {s : State} {x : State} (h : execFaultClr m t s = .next x) : Keeps s x := by
  cases h
  repeat' first
    | intro _ | with_reducible exact Keeps.refl _ | with_reducible assumption
    | with_reducible apply State.faultClear_keeps

theorem execIbufLoad_keeps {m : Master} {t : TileId} {s : State} {x : State} (h : execIbufLoad m t s = .next x) : Keeps s x := by
  cases h
  repeat' first
    | intro _ | with_reducible exact Keeps.refl _ | with_reducible assumption
    | with_reducible apply State.ibufStart_keeps

theorem execIbufLoadComplete_keeps {t : TileId} {s : State} {x : State} (h : execIbufLoadComplete t s = .next x) : Keeps s x := by
  cases h
  repeat' first
    | intro _ | with_reducible exact Keeps.refl _ | with_reducible assumption
    | with_reducible apply State.ibufDone_keeps

theorem execTileRecovery_keeps {t : TileId} {s : State} {x : State} (h : execTileRecovery t s = .next x) : Keeps s x := by
  cases h
  repeat' first
    | intro _ | with_reducible exact Keeps.refl _ | with_reducible assumption
    | with_reducible apply State.tileRecover_keeps

theorem execTileRecoveryComplete_keeps {t : TileId} {s : State} {x : State} (h : execTileRecoveryComplete t s = .next x) : Keeps s x := by
  cases h
  repeat' first
    | intro _ | with_reducible exact Keeps.refl _ | with_reducible assumption
    | with_reducible apply State.tileRecovered_keeps

theorem execBellSourceRequest_keeps {n : Fin 512} {s : State} {x : State} (h : execBellSourceRequest n s = .next x) : Keeps s x := by
  cases h
  repeat' first
    | intro _ | with_reducible exact Keeps.refl _ | with_reducible assumption
    | with_reducible apply State.sourceRequest_keeps

theorem execWiredInputChange_keeps {i : Fin 32} {high : Bool} {s : State} {x : State} (h : execWiredInputChange i high s = .next x) : Keeps s x := by
  cases h
  repeat' first
    | intro _ | with_reducible exact Keeps.refl _ | with_reducible assumption
    | with_reducible apply State.wiredChange_keeps

theorem execBellClaim_keeps {m : Master} {t : Fin 5} {s : State} {x : State} (h : execBellClaim m t s = .next x) : Keeps s x := by
  cases h
  repeat' first
    | intro _ | with_reducible exact Keeps.refl _ | with_reducible assumption
    | with_reducible apply State.bellClaim_keeps

theorem execBellEoi_keeps {m : Master} {t : Fin 5} {v : BitVec 9} {s : State} {x : State} (h : execBellEoi m t v s = .next x) : Keeps s x := by
  cases h
  repeat' first
    | intro _ | with_reducible exact Keeps.refl _ | with_reducible assumption
    | with_reducible apply State.bellEoi_keeps

theorem execHoldoffExpiry_keeps {g : Fin 32} {s : State} {x : State} (h : execHoldoffExpiry g s = .next x) : Keeps s x := by
  cases h
  repeat' first
    | intro _ | with_reducible exact Keeps.refl _ | with_reducible assumption
    | with_reducible apply State.holdoffExpire_keeps

theorem execGdisWrite_keeps {m : Master} {v : Bool} {s : State} {x : State} (h : execGdisWrite m v s = .next x) : Keeps s x := by
  cases h
  repeat' first
    | intro _ | with_reducible exact Keeps.refl _ | with_reducible assumption
    | with_reducible apply State.gdisWrite_keeps

theorem execMsipWrite_keeps {m : Master} {k : Fin 4} {v : Bool} {s : State} {x : State} (h : execMsipWrite m k v s = .next x) : Keeps s x := by
  cases h
  repeat' first
    | intro _ | with_reducible exact Keeps.refl _ | with_reducible assumption
    | with_reducible apply State.msipWrite_keeps

theorem execMtimecmpMatch_keeps {k : Fin 4} {s : State} {x : State} (h : execMtimecmpMatch k s = .next x) : Keeps s x := by
  cases h
  repeat' first
    | intro _ | with_reducible exact Keeps.refl _ | with_reducible assumption
    | with_reducible apply State.timerMatch_keeps

theorem execKxCopy_keeps {k : Fin 4} {rd rs1 rs2 : Fin 32} {s : State} {x : State} (h : execKxCopy k rd rs1 rs2 s = .next x) : Keeps s x := by
  cases h
  repeat' first
    | intro _ | with_reducible exact Keeps.refl _ | with_reducible assumption
    | with_reducible apply State.kxLong_keeps

theorem execKxFill_keeps {k : Fin 4} {rd rs1 rs2 : Fin 32} {s : State} {x : State} (h : execKxFill k rd rs1 rs2 s = .next x) : Keeps s x := by
  cases h
  repeat' first
    | intro _ | with_reducible exact Keeps.refl _ | with_reducible assumption
    | with_reducible apply State.kxLong_keeps

theorem execKxCrc32c_keeps {k : Fin 4} {rd rs1 rs2 : Fin 32} {s : State} {x : State} (h : execKxCrc32c k rd rs1 rs2 s = .next x) : Keeps s x := by
  cases h
  repeat' first
    | intro _ | with_reducible exact Keeps.refl _ | with_reducible assumption
    | with_reducible apply State.kxLong_keeps

theorem execKxHset_keeps {k : Fin 4} {rd rs1 rs2 : Fin 32} {s : State} {x : State} (h : execKxHset k rd rs1 rs2 s = .next x) : Keeps s x := by
  cases h
  repeat' first
    | intro _ | with_reducible exact Keeps.refl _ | with_reducible assumption
    | with_reducible apply State.kxLong_keeps

theorem execKxHswap_keeps {k : Fin 4} {rd rs1 : Fin 32} {s : State} {x : State} (h : execKxHswap k rd rs1 s = .next x) : Keeps s x := by
  cases h
  repeat' first
    | intro _ | with_reducible exact Keeps.refl _ | with_reducible assumption
    | with_reducible apply State.kxHswap_keeps

theorem execStewardInterrupt_keeps {k : Fin 4} {s : State} {x : State} (h : execStewardInterrupt k s = .next x) : Keeps s x := by
  cases h
  repeat' first
    | intro _ | with_reducible exact Keeps.refl _ | with_reducible assumption
    | with_reducible apply State.coreInterrupt_keeps

theorem execCacheAccess_keeps {k : Fin 4} {s : State} {x : State} (h : execCacheAccess k s = .next x) : Keeps s x := by
  cases h
  repeat' first
    | intro _ | with_reducible exact Keeps.refl _ | with_reducible assumption
    | with_reducible apply State.cacheAccess_keeps

theorem execCacheSizeWrite_keeps {m : Master} {size : Fin 4} {s : State} {x : State} (h : execCacheSizeWrite m size s = .next x) : Keeps s x := by
  cases h
  repeat' first
    | intro _ | with_reducible exact Keeps.refl _ | with_reducible assumption
    | with_reducible apply State.cacheSizeWrite_keeps

theorem execCacheDrainComplete_keeps {s : State} {x : State} (h : execCacheDrainComplete s = .next x) : Keeps s x := by
  cases h
  repeat' first
    | intro _ | with_reducible exact Keeps.refl _ | with_reducible assumption
    | with_reducible apply State.drainDone_keeps

theorem execCacheClean_keeps {m : Master} {s : State} {x : State} (h : execCacheClean m s = .next x) : Keeps s x := by
  cases h
  repeat' first
    | intro _ | with_reducible exact Keeps.refl _ | with_reducible assumption
    | with_reducible apply State.cacheClean_keeps

theorem execCacheInval_keeps {m : Master} {s : State} {x : State} (h : execCacheInval m s = .next x) : Keeps s x := by
  cases h
  repeat' first
    | intro _ | with_reducible exact Keeps.refl _ | with_reducible assumption
    | with_reducible apply State.cacheInval_keeps

theorem execCacheCtrlComplete_keeps {s : State} {x : State} (h : execCacheCtrlComplete s = .next x) : Keeps s x := by
  cases h
  repeat' first
    | intro _ | with_reducible exact Keeps.refl _ | with_reducible assumption
    | with_reducible apply State.cacheCtrlDone_keeps

theorem execKxPlango_keeps {k : Fin 4} {rd rs1 rs2 : Fin 32} {s : State} {x : State} (h : execKxPlango k rd rs1 rs2 s = .next x) : Keeps s x := by
  cases h
  repeat' first
    | intro _ | with_reducible exact Keeps.refl _ | with_reducible assumption
    | with_reducible apply State.kxPlango_keeps

theorem execSwapEngineStart_keeps {s : State} {x : State} (h : execSwapEngineStart s = .next x) : Keeps s x := by
  cases h
  repeat' first
    | intro _ | with_reducible exact Keeps.refl _ | with_reducible assumption
    | with_reducible apply State.engineStart_keeps

theorem execSwapEngineComplete_keeps {s : State} {x : State} (h : execSwapEngineComplete s = .next x) : Keeps s x := by
  cases h
  repeat' first
    | intro _ | with_reducible exact Keeps.refl _ | with_reducible assumption
    | with_reducible apply State.engineComplete_keeps

theorem execRelockComplete_keeps {s : State} {x : State} (h : execRelockComplete s = .next x) : Keeps s x := by
  cases h
  repeat' first
    | intro _ | with_reducible exact Keeps.refl _ | with_reducible assumption
    | with_reducible apply State.relockDone_keeps

theorem execLeaveGrant_keeps {s : State} {x : State} (h : execLeaveGrant s = .next x) : Keeps s x := by
  cases h
  repeat' first
    | intro _ | with_reducible exact Keeps.refl _ | with_reducible assumption
    | with_reducible apply State.leaveGrantAll_keeps

theorem execPdCtrlWrite_keeps {m : Master} {w : Fin 3} {v : BitVec 32} {s : State} {x : State} (h : execPdCtrlWrite m w v s = .next x) : Keeps s x := by
  cases h
  repeat' first
    | intro _ | with_reducible exact Keeps.refl _ | with_reducible assumption
    | with_reducible apply State.pdCtrlWrite_keeps

theorem execPdSwitch_keeps {s : State} {x : State} (h : execPdSwitch s = .next x) : Keeps s x := by
  cases h
  repeat' first
    | intro _ | with_reducible exact Keeps.refl _ | with_reducible assumption
    | with_reducible apply State.pdSwitch_keeps

theorem execPdSwitchComplete_keeps {s : State} {x : State} (h : execPdSwitchComplete s = .next x) : Keeps s x := by
  cases h
  repeat' first
    | intro _ | with_reducible exact Keeps.refl _ | with_reducible assumption
    | with_reducible apply State.pdSwitchDone_keeps

theorem execMainSequencing_keeps {s : State} {x : State} (h : execMainSequencing s = .next x) : Keeps s x := by
  cases h
  repeat' first
    | intro _ | with_reducible exact Keeps.refl _ | with_reducible assumption
    | with_reducible apply State.mainSequencing_keeps

theorem execFabricSleep_keeps {m : Master} {s : State} {x : State} (h : execFabricSleep m s = .next x) : Keeps s x := by
  cases h
  repeat' first
    | intro _ | with_reducible exact Keeps.refl _ | with_reducible assumption
    | with_reducible apply State.fabricSleep_keeps

theorem execFabricWake_keeps {m : Master} {s : State} {x : State} (h : execFabricWake m s = .next x) : Keeps s x := by
  cases h
  repeat' first
    | intro _ | with_reducible exact Keeps.refl _ | with_reducible assumption
    | with_reducible apply State.fabricWake_keeps

theorem execThermalSample_keeps {valid : BitVec 8} {temps : BitVec 64} {s : State} {x : State} (h : execThermalSample valid temps s = .next x) : Keeps s x := by
  cases h
  repeat' first
    | intro _ | with_reducible exact Keeps.refl _ | with_reducible assumption
    | with_reducible apply State.thermalSample_keeps

theorem execThermalRelease_keeps {m : Master} {s : State} {x : State} (h : execThermalRelease m s = .next x) : Keeps s x := by
  cases h
  repeat' first
    | intro _ | with_reducible exact Keeps.refl _ | with_reducible assumption
    | with_reducible apply State.thermalRelease_keeps

theorem execPwrThrotChange_keeps {low : Bool} {s : State} {x : State} (h : execPwrThrotChange low s = .next x) : Keeps s x := by
  cases h
  repeat' first
    | intro _ | with_reducible exact Keeps.refl _ | with_reducible assumption
    | with_reducible apply State.throtChange_keeps

theorem execTsCommit_keeps {m : Master} {s : State} {x : State} (h : execTsCommit m s = .next x) : Keeps s x := by
  cases h
  repeat' first
    | intro _ | with_reducible exact Keeps.refl _ | with_reducible assumption
    | with_reducible apply State.tsCommit_keeps

theorem execOutMode_keeps {m : Master} {v : BitVec 32} {s : State} {x : State} (h : execOutMode m v s = .next x) : Keeps s x := by
  cases h
  repeat' first
    | intro _ | with_reducible exact Keeps.refl _ | with_reducible assumption
    | with_reducible apply State.outModeWrite_keeps

theorem execTeEdge_keeps {s : State} {x : State} (h : execTeEdge s = .next x) : Keeps s x := by
  cases h
  repeat' first
    | intro _ | with_reducible exact Keeps.refl _ | with_reducible assumption
    | with_reducible apply State.teEdge_keeps

theorem execLineFetch_keeps {o : Fin 2} {layer : Fin 5} {s : State} {x : State} (h : execLineFetch o layer s = .next x) : Keeps s x := by
  cases h
  repeat' first
    | intro _ | with_reducible exact Keeps.refl _ | with_reducible assumption
    | with_reducible apply State.lineFetch_keeps

theorem execScanLine_keeps {s : State} {x : State} (h : execScanLine s = .next x) : Keeps s x := by
  cases h
  repeat' first
    | intro _ | with_reducible exact Keeps.refl _ | with_reducible assumption
    | with_reducible apply State.scanLine_keeps

theorem execDpTrain_keeps {m : Master} {o : Fin 2} {s : State} {x : State} (h : execDpTrain m o s = .next x) : Keeps s x := by
  cases h
  repeat' first
    | intro _ | with_reducible exact Keeps.refl _ | with_reducible assumption
    | with_reducible apply State.dpTrain_keeps

theorem execDpTrainComplete_keeps {o : Fin 2} {ok : Bool} {rate : Fin 4} {lanes : Fin 5} {tps4 async : Bool} {s : State} {x : State} (h : execDpTrainComplete o ok rate lanes tps4 async s = .next x) : Keeps s x := by
  cases h
  repeat' first
    | intro _ | with_reducible exact Keeps.refl _ | with_reducible assumption
    | with_reducible apply State.dpTrained_keeps

theorem execAuxCmd_keeps {m : Master} {o : Fin 2} {v : BitVec 32} {s : State} {x : State} (h : execAuxCmd m o v s = .next x) : Keeps s x := by
  cases h
  repeat' first
    | intro _ | with_reducible exact Keeps.refl _ | with_reducible assumption
    | with_reducible apply State.auxCmd_keeps

theorem execAuxDone_keeps {o : Fin 2} {outcome : Fin 4} {data : List (BitVec 8)} {s : State} {x : State} (h : execAuxDone o outcome data s = .next x) : Keeps s x := by
  cases h
  repeat' first
    | intro _ | with_reducible exact Keeps.refl _ | with_reducible assumption
    | with_reducible apply State.auxDone_keeps

theorem execHpdEvent_keeps {o : Fin 2} {kind : Fin 3} {s : State} {x : State} (h : execHpdEvent o kind s = .next x) : Keeps s x := by
  cases h
  repeat' first
    | intro _ | with_reducible exact Keeps.refl _ | with_reducible assumption
    | with_reducible apply State.hpdEvent_keeps

theorem execVatReadData_keeps {s : State} {x : State} (h : execVatReadData s = .next x) : Keeps s x := by
  cases h
  repeat' first
    | intro _ | with_reducible exact Keeps.refl _ | with_reducible assumption
    | with_reducible apply State.deliverData_keeps

theorem execBundleIssue_keeps {t : TileId} {th : ThreadId} {s : State} {x : State} (h : execBundleIssue t th s = .next x) : Keeps s x := by
  cases h
  repeat' first
    | intro _ | with_reducible exact Keeps.refl _ | with_reducible assumption
    | with_reducible apply State.bundleIssue_keeps

theorem execNop_keeps {_t : TileId} {_th : ThreadId} {_slot : SlotKind} {_w : SlotWord} {s : State} {x : State} (h : execNop _t _th _slot _w s = .next x) : Keeps s x := by
  cases h
  repeat' first
    | intro _ | with_reducible exact Keeps.refl _ | with_reducible assumption

theorem execConfigurationRequest_keeps {wr : Bool} {dw : Fin 1024} {be : BitVec 4} {v : BitVec 32} {s : State} {x : State} (h : execConfigurationRequest wr dw be v s = .next x) : Keeps s x := by
  cases h
  repeat' first
    | intro _ | with_reducible exact Keeps.refl _ | with_reducible assumption
    | with_reducible apply State.cfgRequest_keeps

theorem execBar2Access_keeps {off : BitVec 28} {n : Nat} {wr : Option (List (BitVec 8))} {s : State} {x : State} (h : execBar2Access off n wr s = .next x) : Keeps s x := by
  cases h
  repeat' first
    | intro _ | with_reducible exact Keeps.refl _ | with_reducible assumption | with_reducible apply State.bar2_keeps

theorem execSqTailDoorbell_keeps {q : Fin 132} {dw : Bool} {v : BitVec 32} {s : State} {x : State} (h : execSqTailDoorbell q dw v s = .next x) : Keeps s x := by
  cases h
  repeat' first
    | intro _ | with_reducible exact Keeps.refl _ | with_reducible assumption
    | with_reducible apply State.sqTail_keeps

theorem execCqHeadDoorbell_keeps {q : Fin 132} {dw : Bool} {v : BitVec 32} {s : State} {x : State} (h : execCqHeadDoorbell q dw v s = .next x) : Keeps s x := by
  cases h
  repeat' first
    | intro _ | with_reducible exact Keeps.refl _ | with_reducible assumption
    | with_reducible apply State.cqHead_keeps

theorem execHostMessageDoorbell_keeps {r : Bar4} {dw : Bool} {v : BitVec 32} {s : State} {x : State} (h : execHostMessageDoorbell r dw v s = .next x) : Keeps s x := by
  cases h
  repeat' first
    | intro _ | with_reducible exact Keeps.refl _ | with_reducible assumption | with_reducible apply State.bar4_keeps

theorem execEntryFetch_keeps {q : Fin 132} {raws : List (BitVec 512)} {s : State} {x : State} (h : execEntryFetch q raws s = .next x) : Keeps s x := by
  cases h
  repeat' first
    | intro _ | with_reducible exact Keeps.refl _ | with_reducible assumption
    | with_reducible apply State.entryFetch_keeps

theorem execEntryNop_keeps {q : Fin 132} {s : State} {x : State} (h : execEntryNop q s = .next x) : Keeps s x := by
  cases h
  repeat' first
    | intro _ | with_reducible exact Keeps.refl _ | with_reducible assumption
    | with_reducible apply State.entryNop_keeps

theorem execPicture_keeps {q : Fin 132} {s : State} {x : State} (h : execPicture q s = .next x) : Keeps s x := by
  cases h
  repeat' first
    | intro _ | with_reducible exact Keeps.refl _ | with_reducible assumption
    | with_reducible apply State.entryEngine_keeps

theorem execCopy_keeps {q : Fin 132} {s : State} {x : State} (h : execCopy q s = .next x) : Keeps s x := by
  cases h
  repeat' first
    | intro _ | with_reducible exact Keeps.refl _ | with_reducible assumption
    | with_reducible apply State.entryEngine_keeps

theorem execPlanLoadAndArm_keeps {fw : Fin 16} {data : List (BitVec 8)} {s : State} {x : State} (h : execPlanLoadAndArm fw data s = .next x) : Keeps s x := by
  cases h
  repeat' first
    | intro _ | with_reducible exact Keeps.refl _ | with_reducible assumption
    | with_reducible apply State.planEntry_keeps

theorem execPlanArm_keeps {fw : Fin 16} {s : State} {x : State} (h : execPlanArm fw s = .next x) : Keeps s x := by
  cases h
  repeat' first
    | intro _ | with_reducible exact Keeps.refl _ | with_reducible assumption
    | with_reducible apply State.planEntry_keeps

theorem execPlanStop_keeps {s : State} {x : State} (h : execPlanStop s = .next x) : Keeps s x := by
  cases h
  repeat' first
    | intro _ | with_reducible exact Keeps.refl _ | with_reducible assumption
    | with_reducible apply State.planEntry_keeps

theorem execIdentify_keeps {page : List (BitVec 8)} {s : State} {x : State} (h : execIdentify page s = .next x) : Keeps s x := by
  cases h
  repeat' first
    | intro _ | with_reducible exact Keeps.refl _ | with_reducible assumption
    | with_reducible apply State.identify_keeps

theorem execFaultLog_keeps {s : State} {x : State} (h : execFaultLog s = .next x) : Keeps s x := by
  cases h
  repeat' first
    | intro _ | with_reducible exact Keeps.refl _ | with_reducible assumption
    | with_reducible apply State.faultLog_keeps

theorem execTimingSet_keeps {data : List (BitVec 8)} {s : State} {x : State} (h : execTimingSet data s = .next x) : Keeps s x := by
  cases h
  repeat' first
    | intro _ | with_reducible exact Keeps.refl _ | with_reducible assumption
    | with_reducible apply State.timingSet_keeps

theorem execSkimLayout_keeps {data : List (BitVec 8)} {s : State} {x : State} (h : execSkimLayout data s = .next x) : Keeps s x := by
  cases h
  repeat' first
    | intro _ | with_reducible exact Keeps.refl _ | with_reducible assumption
    | with_reducible apply State.skimLayout_keeps

theorem execCompletionWrite_keeps {q : Fin 132} {s : State} {x : State} (h : execCompletionWrite q s = .next x) : Keeps s x := by
  cases h
  repeat' first
    | intro _ | with_reducible exact Keeps.refl _ | with_reducible assumption
    | with_reducible apply State.completionWrite_keeps

theorem execSdone_keeps {m : Master} {v : BitVec 32} {s : State} {x : State} (h : execSdone m v s = .next x) : Keeps s x := by
  cases h
  repeat' first
    | intro _ | with_reducible exact Keeps.refl _ | with_reducible assumption | with_reducible apply State.sdone_keeps

theorem execHostSmsg_keeps {m : Master} {v : BitVec 32} {s : State} {x : State} (h : execHostSmsg m v s = .next x) : Keeps s x := by
  cases h
  repeat' first
    | intro _ | with_reducible exact Keeps.refl _ | with_reducible assumption | with_reducible apply State.smsg_keeps

theorem execQueueEnable_keeps {m : Master} {q : Fin 132} {v : BitVec 32} {s : State} {x : State} (h : execQueueEnable m q v s = .next x) : Keeps s x := by
  cases h
  repeat' first
    | intro _ | with_reducible exact Keeps.refl _ | with_reducible assumption
    | with_reducible apply State.qctrlWrite_keeps

theorem execQueueDisable_keeps {m : Master} {q : Fin 132} {v : BitVec 32} {s : State} {x : State} (h : execQueueDisable m q v s = .next x) : Keeps s x := by
  cases h
  repeat' first
    | intro _ | with_reducible exact Keeps.refl _ | with_reducible assumption
    | with_reducible apply State.qctrlWrite_keeps

theorem execFlr_keeps {s : State} {x : State} (h : execFlr s = .next x) : Keeps s x := by
  cases h
  repeat' first
    | intro _ | with_reducible exact Keeps.refl _ | with_reducible assumption | with_reducible apply State.flr_keeps

theorem execFlrComplete_keeps {s : State} {x : State} (h : execFlrComplete s = .next x) : Keeps s x := by
  cases h
  repeat' first
    | intro _ | with_reducible exact Keeps.refl _ | with_reducible assumption
    | with_reducible apply State.flrDone_keeps

theorem execPerst_keeps {s : State} {x : State} (h : execPerst s = .next x) : Keeps s x := by
  cases h
  repeat' first
    | intro _ | with_reducible exact Keeps.refl _ | with_reducible assumption
    | with_reducible apply State.perstAssert_keeps

theorem execLinkStateChange_keeps {up : Bool} {width : Fin 16} {rate : Fin 8} {s : State} {x : State} (h : execLinkStateChange up width rate s = .next x) : Keeps s x := by
  cases h
  repeat' first
    | intro _ | with_reducible exact Keeps.refl _ | with_reducible assumption
    | with_reducible apply State.linkChange_keeps

theorem execBusMasterEnable_keeps {on : Bool} {s : State} {x : State} (h : execBusMasterEnable on s = .next x) : Keeps s x := by
  cases h
  repeat' first
    | intro _ | with_reducible exact Keeps.refl _ | with_reducible assumption
    | with_reducible apply State.busMaster_keeps

theorem execPowerStateChange_keeps {d3 : Bool} {s : State} {x : State} (h : execPowerStateChange d3 s = .next x) : Keeps s x := by
  cases h
  repeat' first
    | intro _ | with_reducible exact Keeps.refl _ | with_reducible assumption
    | with_reducible apply State.powerState_keeps

theorem execUnsupportedRequest_keeps {kind : Fin 4} {posted : Bool} {s : State} {x : State} (h : execUnsupportedRequest kind posted s = .next x) : Keeps s x := by
  cases h
  repeat' first
    | intro _ | with_reducible exact Keeps.refl _ | with_reducible assumption
    | with_reducible apply State.badRequest_keeps

theorem execTick_keeps {s : State} {x : State} (h : execTick s = .next x) : Keeps s x := by
  cases h
  repeat' first
    | intro _ | with_reducible exact Keeps.refl _ | with_reducible assumption
    | with_reducible apply State.tickEvent_keeps

theorem execBlankingLineSample_keeps {s : State} {x : State} (h : execBlankingLineSample s = .next x) : Keeps s x := by
  cases h
  repeat' first
    | intro _ | with_reducible exact Keeps.refl _ | with_reducible assumption
    | with_reducible apply State.blankingSample_keeps

theorem execBudgetCheck_keeps {s : State} {x : State} (h : execBudgetCheck s = .next x) : Keeps s x := by
  cases h
  repeat' first
    | intro _ | with_reducible exact Keeps.refl _ | with_reducible assumption
    | with_reducible apply State.budgetCheck_keeps

theorem execLeaveWindowAdvance_keeps {s : State} {x : State} (h : execLeaveWindowAdvance s = .next x) : Keeps s x := by
  cases h
  repeat' first
    | intro _ | with_reducible exact Keeps.refl _ | with_reducible assumption
    | with_reducible apply State.leaveAdvance_keeps

theorem execNdetClear_keeps {m : Master} {s : State} {x : State} (h : execNdetClear m s = .next x) : Keeps s x := by
  cases h
  repeat' first
    | intro _ | with_reducible exact Keeps.refl _ | with_reducible assumption
    | with_reducible apply State.ndetClear_keeps

theorem execNdetLoRead_keeps {m : Master} {k : Fin 6} {s : State} {x : State} (h : execNdetLoRead m k s = .next x) : Keeps s x := by
  cases h
  repeat' first
    | intro _ | with_reducible exact Keeps.refl _ | with_reducible assumption
    | with_reducible apply State.ndetLoRead_keeps

theorem execErrRecordPost_keeps {s : State} {x : State} (h : execErrRecordPost s = .next x) : Keeps s x := by
  cases h
  repeat' first
    | intro _ | with_reducible exact Keeps.refl _ | with_reducible assumption
    | with_reducible apply State.errPost_keeps

theorem execRecPop_keeps {m : Master} {s : State} {x : State} (h : execRecPop m s = .next x) : Keeps s x := by
  cases h
  repeat' first
    | intro _ | with_reducible exact Keeps.refl _ | with_reducible assumption
    | with_reducible apply State.recPop_keeps

theorem execSsubSet_keeps {m : Master} {h : Fin 2} {v : BitVec 32} {s : State} {x : State} (h : execSsubSet m h v s = .next x) : Keeps s x := by
  cases h
  repeat' first
    | intro _ | with_reducible exact Keeps.refl _ | with_reducible assumption
    | with_reducible apply State.ssubSet_keeps

theorem execSsubClr_keeps {m : Master} {h : Fin 2} {v : BitVec 32} {s : State} {x : State} (h : execSsubClr m h v s = .next x) : Keeps s x := by
  cases h
  repeat' first
    | intro _ | with_reducible exact Keeps.refl _ | with_reducible assumption
    | with_reducible apply State.ssubClr_keeps

theorem execSsubPublish_keeps {s : State} {x : State} (h : execSsubPublish s = .next x) : Keeps s x := by
  cases h
  repeat' first
    | intro _ | with_reducible exact Keeps.refl _ | with_reducible assumption
    | with_reducible apply State.ssubPublish_keeps

theorem execCandPop_keeps {m : Master} {s : State} {x : State} (h : execCandPop m s = .next x) : Keeps s x := by
  cases h
  repeat' first
    | intro _ | with_reducible exact Keeps.refl _ | with_reducible assumption
    | with_reducible apply State.candPop_keeps

theorem execWdogKick_keeps {m : Master} {k : Fin 4} {s : State} {x : State} (h : execWdogKick m k s = .next x) : Keeps s x := by
  cases h
  repeat' first
    | intro _ | with_reducible exact Keeps.refl _ | with_reducible assumption
    | with_reducible apply State.wdogKick_keeps

theorem execWatchdogExpiry_keeps {k : Fin 4} {s : State} {x : State} (h : execWatchdogExpiry k s = .next x) : Keeps s x := by
  cases h
  repeat' first
    | intro _ | with_reducible exact Keeps.refl _ | with_reducible assumption
    | with_reducible apply State.wdogExpiry_keeps

theorem execThermalTrip_keeps {s : State} {x : State} (h : execThermalTrip s = .next x) : Keeps s x := by
  cases h
  repeat' first
    | intro _ | with_reducible exact Keeps.refl _ | with_reducible assumption
    | with_reducible apply State.thermalTrip_keeps

theorem execPgLoss_keeps {core mem : Bool} {s : State} {x : State} (h : execPgLoss core mem s = .next x) : Keeps s x := by
  cases h
  repeat' first
    | intro _ | with_reducible exact Keeps.refl _ | with_reducible assumption
    | with_reducible apply State.pgLoss_keeps

theorem execRegisterNetworkTimeout_keeps {s : State} {x : State} (h : execRegisterNetworkTimeout s = .next x) : Keeps s x := by
  cases h
  repeat' first
    | intro _ | with_reducible exact Keeps.refl _ | with_reducible assumption
    | with_reducible apply State.networkTimeout_keeps

theorem execCorePllUnlock_keeps {s : State} {x : State} (h : execCorePllUnlock s = .next x) : Keeps s x := by
  cases h
  repeat' first
    | intro _ | with_reducible exact Keeps.refl _ | with_reducible assumption
    | with_reducible apply State.pllUnlock_keeps

theorem execFabricUncorrectable_keeps {s : State} {x : State} (h : execFabricUncorrectable s = .next x) : Keeps s x := by
  cases h
  repeat' first
    | intro _ | with_reducible exact Keeps.refl _ | with_reducible assumption
    | with_reducible apply State.fabricError_keeps

theorem execMreqDeviceRecovery_keeps {m : Master} {s : State} {x : State} (h : execMreqDeviceRecovery m s = .next x) : Keeps s x := by
  cases h
  repeat' first
    | intro _ | with_reducible exact Keeps.refl _ | with_reducible assumption
    | with_reducible apply State.mreqRecovery_keeps

theorem execDeviceRecovery_keeps {s : State} {x : State} (h : execDeviceRecovery s = .next x) : Keeps s x := by
  cases h
  repeat' first
    | intro _ | with_reducible exact Keeps.refl _ | with_reducible assumption
    | with_reducible apply State.recoveryStep_keeps

theorem execPowerOnReset_keeps {testEn : Bool} {addr : Fin 4} {s : State} {x : State} (h : execPowerOnReset testEn addr s = .next x) : Keeps s x := by
  cases h
  repeat' first
    | intro _ | with_reducible exact Keeps.refl _ | with_reducible assumption
    | with_reducible apply State.powerOnReset_keeps

theorem execRomStart_keeps {pg : Bool} {s : State} {x : State} (h : execRomStart pg s = .next x) : Keeps s x := by
  cases h
  repeat' first
    | intro _ | with_reducible exact Keeps.refl _ | with_reducible assumption
    | with_reducible apply State.romStart_keeps

theorem execPowerGoodTimeout_keeps {s : State} {x : State} (h : execPowerGoodTimeout s = .next x) : Keeps s x := by
  cases h
  repeat' first
    | intro _ | with_reducible exact Keeps.refl _ | with_reducible assumption
    | with_reducible apply State.pgTimeout_keeps

theorem execVddAonLoss_keeps {s : State} {x : State} (h : execVddAonLoss s = .next x) : Keeps s x := by
  cases h
  repeat' first
    | intro _ | with_reducible exact Keeps.refl _ | with_reducible assumption
    | with_reducible apply State.aonLoss_keeps

theorem execVddioSbChange_keeps {up : Bool} {s : State} {x : State} (h : execVddioSbChange up s = .next x) : Keeps s x := by
  cases h
  repeat' first
    | intro _ | with_reducible exact Keeps.refl _ | with_reducible assumption
    | with_reducible apply State.vddioChange_keeps

theorem execAonPllLock_keeps {s : State} {x : State} (h : execAonPllLock s = .next x) : Keeps s x := by
  cases h
  repeat' first
    | intro _ | with_reducible exact Keeps.refl _ | with_reducible assumption
    | with_reducible apply State.aonLock_keeps

theorem execSettingsRead_keeps {found : Bool} {log2 : Fin 32} {mode : Fin 3} {jedec : BitVec 24} {s : State} {x : State} (h : execSettingsRead found log2 mode jedec s = .next x) : Keeps s x := by
  cases h
  repeat' first
    | intro _ | with_reducible exact Keeps.refl _ | with_reducible assumption
    | with_reducible apply State.settingsRead_keeps

theorem execStewardImageAuthenticate_keeps {s : State} {x : State} (h : execStewardImageAuthenticate s = .next x) : Keeps s x := by
  cases h
  repeat' first
    | intro _ | with_reducible exact Keeps.refl _ | with_reducible assumption
    | with_reducible apply State.authenticate_keeps

theorem execFlashReq_keeps {m : Master} {v : BitVec 32} {s : State} {x : State} (h : execFlashReq m v s = .next x) : Keeps s x := by
  cases h
  repeat' first
    | intro _ | with_reducible exact Keeps.refl _ | with_reducible assumption
    | with_reducible apply State.flashReq_keeps

theorem execFlashCopy_keeps {m : Master} {v : BitVec 32} {s : State} {x : State} (h : execFlashCopy m v s = .next x) : Keeps s x := by
  cases h
  repeat' first
    | intro _ | with_reducible exact Keeps.refl _ | with_reducible assumption
    | with_reducible apply State.flashCopy_keeps

theorem execFlashCopyAbort_keeps {m : Master} {units : Nat} {s : State} {x : State} (h : execFlashCopyAbort m units s = .next x) : Keeps s x := by
  cases h
  repeat' first
    | intro _ | with_reducible exact Keeps.refl _ | with_reducible assumption
    | with_reducible apply State.flashAbort_keeps

theorem execFlashCopyComplete_keeps {units : Nat} {s : State} {x : State} (h : execFlashCopyComplete units s = .next x) : Keeps s x := by
  cases h
  repeat' first
    | intro _ | with_reducible exact Keeps.refl _ | with_reducible assumption
    | with_reducible apply State.flashCopyDone_keeps

theorem execFlashErGo_keeps {m : Master} {v : BitVec 32} {s : State} {x : State} (h : execFlashErGo m v s = .next x) : Keeps s x := by
  cases h
  repeat' first
    | intro _ | with_reducible exact Keeps.refl _ | with_reducible assumption
    | with_reducible apply State.eraseGo_keeps

theorem execFlashOpComplete_keeps {s : State} {x : State} (h : execFlashOpComplete s = .next x) : Keeps s x := by
  cases h
  repeat' first
    | intro _ | with_reducible exact Keeps.refl _ | with_reducible assumption
    | with_reducible apply State.flashOpDone_keeps

theorem execRepairRecordAppend_keeps {s : State} {x : State} (h : execRepairRecordAppend s = .next x) : Keeps s x := by
  cases h
  repeat' first
    | intro _ | with_reducible exact Keeps.refl _ | with_reducible assumption
    | with_reducible apply State.repairAppend_keeps

theorem execStatus_keeps {f : SbForm} {s : State} {x : State} (h : execStatus f s = .next x) : Keeps s x := by
  refine sb_keeps ?_ h
  repeat' first
    | intro _ | with_reducible exact Keeps.refl _ | with_reducible assumption
    | with_reducible apply State.sbStatus_keeps

theorem execTemp_keeps {f : SbForm} {s : State} {x : State} (h : execTemp f s = .next x) : Keeps s x := by
  refine sb_keeps ?_ h
  repeat' first
    | intro _ | with_reducible exact Keeps.refl _ | with_reducible assumption
    | with_reducible apply State.sbTemp_keeps

theorem execPower_keeps {f : SbForm} {s : State} {x : State} (h : execPower f s = .next x) : Keeps s x := by
  refine sb_keeps ?_ h
  repeat' first
    | intro _ | with_reducible exact Keeps.refl _ | with_reducible assumption
    | with_reducible apply State.sbMain_keeps | with_reducible apply State.sbPower_keeps

theorem execPulse_keeps {f : SbForm} {s : State} {x : State} (h : execPulse f s = .next x) : Keeps s x := by
  refine sb_keeps ?_ h
  repeat' first
    | intro _ | with_reducible exact Keeps.refl _ | with_reducible assumption
    | with_reducible apply State.sbPulse_keeps

theorem execLogRead_keeps {f : SbForm} {pos : BitVec 32} {s : State} {x : State} (h : execLogRead f pos s = .next x) : Keeps s x := by
  refine sb_keeps ?_ h
  repeat' first
    | intro _ | with_reducible exact Keeps.refl _ | with_reducible assumption
    | with_reducible apply State.sbLogRead_keeps

theorem execLogClear_keeps {f : SbForm} {pos : BitVec 32} {s : State} {x : State} (h : execLogClear f pos s = .next x) : Keeps s x := by
  refine sb_keeps ?_ h
  repeat' first
    | intro _ | with_reducible exact Keeps.refl _ | with_reducible assumption
    | with_reducible apply State.sbLogClear_keeps

theorem execResetReq_keeps {f : SbForm} {v : BitVec 8} {s : State} {x : State} (h : execResetReq f v s = .next x) : Keeps s x := by
  refine sb_keeps ?_ h
  repeat' first
    | intro _ | with_reducible exact Keeps.refl _ | with_reducible assumption
    | with_reducible apply State.sbReset_keeps

theorem execMainPower_keeps {f : SbForm} {v : BitVec 8} {s : State} {x : State} (h : execMainPower f v s = .next x) : Keeps s x := by
  refine sb_keeps ?_ h
  repeat' first
    | intro _ | with_reducible exact Keeps.refl _ | with_reducible assumption
    | with_reducible apply State.sbMainPower_keeps

theorem execBootSelect_keeps {f : SbForm} {v : BitVec 8} {s : State} {x : State} (h : execBootSelect f v s = .next x) : Keeps s x := by
  refine sb_keeps ?_ h
  repeat' first
    | intro _ | with_reducible exact Keeps.refl _ | with_reducible assumption
    | with_reducible apply State.sbBootSelect_keeps

theorem execFlashOpen_keeps {f : SbForm} {s : State} {x : State} (h : execFlashOpen f s = .next x) : Keeps s x := by
  refine sb_keeps ?_ h
  repeat' first
    | intro _ | with_reducible exact Keeps.refl _ | with_reducible assumption
    | with_reducible apply State.sbFlashOpen_keeps

theorem execFlashRead_keeps {f : SbForm} {off : BitVec 32} {len : BitVec 8} {s : State} {x : State} (h : execFlashRead f off len s = .next x) : Keeps s x := by
  refine sb_keeps ?_ h
  repeat' first
    | intro _ | with_reducible exact Keeps.refl _ | with_reducible assumption
    | with_reducible apply State.sbFlashRead_keeps

theorem execFlashWrite_keeps {f : SbForm} {off : BitVec 32} {data : List (BitVec 8)} {s : State} {x : State} (h : execFlashWrite f off data s = .next x) : Keeps s x := by
  refine sb_keeps ?_ h
  repeat' first
    | intro _ | with_reducible exact Keeps.refl _ | with_reducible assumption
    | with_reducible apply State.sbFlashWrite_keeps

theorem execFlashErase_keeps {f : SbForm} {off : BitVec 32} {size : BitVec 8} {s : State} {x : State} (h : execFlashErase f off size s = .next x) : Keeps s x := by
  refine sb_keeps ?_ h
  repeat' first
    | intro _ | with_reducible exact Keeps.refl _ | with_reducible assumption
    | with_reducible apply State.sbFlashErase_keeps

theorem execFlashClose_keeps {f : SbForm} {s : State} {x : State} (h : execFlashClose f s = .next x) : Keeps s x := by
  refine sb_keeps ?_ h
  repeat' first
    | intro _ | with_reducible exact Keeps.refl _ | with_reducible assumption
    | with_reducible apply State.sbFlashClose_keeps

theorem execFlashOwnershipTimeout_keeps {s : State} {x : State} (h : execFlashOwnershipTimeout s = .next x) : Keeps s x := by
  cases h
  repeat' first
    | intro _ | with_reducible exact Keeps.refl _ | with_reducible assumption
    | with_reducible apply State.flashLapse_keeps

theorem execDbgChallenge_keeps {f : SbForm} {s : State} {x : State} (h : execDbgChallenge f s = .next x) : Keeps s x := by
  refine sb_keeps ?_ h
  repeat' first
    | intro _ | with_reducible exact Keeps.refl _ | with_reducible assumption
    | with_reducible apply State.sbChallenge_keeps

theorem execDbgResponse_keeps {f : SbForm} {scope : BitVec 8} {sig : Vector (BitVec 8) 96} {s : State} {x : State} (h : execDbgResponse f scope sig s = .next x) : Keeps s x := by
  refine sb_keeps ?_ h
  repeat' first
    | intro _ | with_reducible exact Keeps.refl _ | with_reducible assumption
    | with_reducible apply State.sbResponse_keeps

theorem execMboxSend_keeps {f : SbForm} {msg : List (BitVec 8)} {s : State} {x : State} (h : execMboxSend f msg s = .next x) : Keeps s x := by
  refine sb_keeps ?_ h
  repeat' first
    | intro _ | with_reducible exact Keeps.refl _ | with_reducible assumption
    | with_reducible apply State.sbMboxSend_keeps

theorem execMboxRecv_keeps {f : SbForm} {s : State} {x : State} (h : execMboxRecv f s = .next x) : Keeps s x := by
  refine sb_keeps ?_ h
  repeat' first
    | intro _ | with_reducible exact Keeps.refl _ | with_reducible assumption
    | with_reducible apply State.sbMboxRecv_keeps

theorem execDoorbell_keeps {f : SbForm} {d : BitVec 8} {v : BitVec 32} {s : State} {x : State} (h : execDoorbell f d v s = .next x) : Keeps s x := by
  refine sb_keeps ?_ h
  repeat' first
    | intro _ | with_reducible exact Keeps.refl _ | with_reducible assumption
    | with_reducible apply State.sbDoorbell_keeps

theorem execBlockReadResponse_keeps {code : BitVec 8} {s : State} {x : State} (h : execBlockReadResponse code s = .next x) : Keeps s x := by
  cases h
  repeat' first
    | intro _ | with_reducible exact Keeps.refl _ | with_reducible assumption
    | with_reducible apply State.blockRead_keeps

theorem execAlertResponse_keeps {s : State} {x : State} (h : execAlertResponse s = .next x) : Keeps s x := by
  cases h
  repeat' first
    | intro _ | with_reducible exact Keeps.refl _ | with_reducible assumption
    | with_reducible apply State.alertResponse_keeps

theorem execSmbusBusTimeout_keeps {s : State} {x : State} (h : execSmbusBusTimeout s = .next x) : Keeps s x := by
  cases h
  repeat' first
    | intro _ | with_reducible exact Keeps.refl _ | with_reducible assumption
    | with_reducible apply State.smbusTimeout_keeps

theorem execH2sbSend_keeps {m : Master} {v : BitVec 32} {s : State} {x : State} (h : execH2sbSend m v s = .next x) : Keeps s x := by
  cases h
  repeat' first
    | intro _ | with_reducible exact Keeps.refl _ | with_reducible assumption
    | with_reducible apply State.h2sbSend_keeps

theorem execSb2hAck_keeps {m : Master} {s : State} {x : State} (h : execSb2hAck m s = .next x) : Keeps s x := by
  cases h
  repeat' first
    | intro _ | with_reducible exact Keeps.refl _ | with_reducible assumption
    | with_reducible apply State.sb2hAck_keeps

theorem execNonceExpiry_keeps {s : State} {x : State} (h : execNonceExpiry s = .next x) : Keeps s x := by
  cases h
  repeat' first
    | intro _ | with_reducible exact Keeps.refl _ | with_reducible assumption
    | with_reducible apply State.nonceExpire_keeps

theorem execStateScan_keeps {f : SbForm} {first : BitVec 32} {words : BitVec 8} {s : State} {x : State} (h : execStateScan f first words s = .next x) : Keeps s x := by
  refine sb_keeps ?_ h
  repeat' first
    | intro _ | with_reducible exact Keeps.refl _ | with_reducible assumption
    | with_reducible apply State.sbStateScan_keeps

theorem execDbgStop_keeps {m : Master} {s : State} {x : State} (h : execDbgStop m s = .next x) : Keeps s x := by
  cases h
  repeat' first
    | intro _ | with_reducible exact Keeps.refl _ | with_reducible assumption
    | with_reducible apply State.dbgStop_keeps

theorem execDbgStopN_keeps {s : State} {x : State} (h : execDbgStopN s = .next x) : Keeps s x := by
  cases h
  repeat' first
    | intro _ | with_reducible exact Keeps.refl _ | with_reducible assumption
    | with_reducible apply State.dbgStopPin_keeps

theorem execDbgResume_keeps {m : Master} {s : State} {x : State} (h : execDbgResume m s = .next x) : Keeps s x := by
  cases h
  repeat' first
    | intro _ | with_reducible exact Keeps.refl _ | with_reducible assumption
    | with_reducible apply State.dbgResume_keeps

theorem execDbgStep_keeps {m : Master} {n : BitVec 16} {s : State} {x : State} (h : execDbgStep m n s = .next x) : Keeps s x := by
  cases h
  repeat' first
    | intro _ | with_reducible exact Keeps.refl _ | with_reducible assumption
    | with_reducible apply State.dbgStep_keeps

theorem execStepEnd_keeps {s : State} {x : State} (h : execStepEnd s = .next x) : Keeps s x := by
  cases h
  repeat' first
    | intro _ | with_reducible exact Keeps.refl _ | with_reducible assumption
    | with_reducible apply State.stepEnd_keeps

theorem execAuthRevoke_keeps {m : Master} {s : State} {x : State} (h : execAuthRevoke m s = .next x) : Keeps s x := by
  cases h
  repeat' first
    | intro _ | with_reducible exact Keeps.refl _ | with_reducible assumption
    | with_reducible apply State.authRevoke_keeps

theorem execPermaDisable_keeps {m : Master} {v : BitVec 32} {s : State} {x : State} (h : execPermaDisable m v s = .next x) : Keeps s x := by
  cases h
  repeat' first
    | intro _ | with_reducible exact Keeps.refl _ | with_reducible assumption
    | with_reducible apply State.permaDisable_keeps

theorem execStewardHalt_keeps {m : Master} {k : Fin 4} {drain : Bool} {s : State} {x : State} (h : execStewardHalt m k drain s = .next x) : Keeps s x := by
  cases h
  repeat' first
    | intro _ | with_reducible exact Keeps.refl _ | with_reducible assumption
    | with_reducible apply State.sctrlGate_keeps

theorem execStewardHalted_keeps {k : Fin 4} {s : State} {x : State} (h : execStewardHalted k s = .next x) : Keeps s x := by
  cases h
  repeat' first
    | intro _ | with_reducible exact Keeps.refl _ | with_reducible assumption
    | with_reducible apply State.coreHalted_keeps

theorem execStewardResume_keeps {m : Master} {k : Fin 4} {drain : Bool} {s : State} {x : State} (h : execStewardResume m k drain s = .next x) : Keeps s x := by
  cases h
  repeat' first
    | intro _ | with_reducible exact Keeps.refl _ | with_reducible assumption
    | with_reducible apply State.sctrlGate_keeps

theorem execStewardStep_keeps {m : Master} {k : Fin 4} {drain : Bool} {s : State} {x : State} (h : execStewardStep m k drain s = .next x) : Keeps s x := by
  cases h
  repeat' first
    | intro _ | with_reducible exact Keeps.refl _ | with_reducible assumption
    | with_reducible apply State.sctrlGate_keeps

theorem execTraceEnable_keeps {m : Master} {v : BitVec 32} {s : State} {x : State} (h : execTraceEnable m v s = .next x) : Keeps s x := by
  cases h
  repeat' first
    | intro _ | with_reducible exact Keeps.refl _ | with_reducible assumption
    | with_reducible apply State.traceEnable_keeps

theorem execTraceRingWrite_keeps {s : State} {x : State} (h : execTraceRingWrite s = .next x) : Keeps s x := by
  cases h
  repeat' first
    | intro _ | with_reducible exact Keeps.refl _ | with_reducible assumption
    | with_reducible apply State.ringWrite_keeps

theorem execTapReset_keeps {s : State} {x : State} (h : execTapReset s = .next x) : Keeps s x := by
  cases h
  repeat' first
    | intro _ | with_reducible exact Keeps.refl _ | with_reducible assumption
    | with_reducible apply State.tapReset_keeps

theorem execExtest_keeps {pads cells : BitVec 89} {s : State} {x : State} (h : execExtest pads cells s = .next x) : Keeps s x := by
  cases h
  repeat' first
    | intro _ | with_reducible exact Keeps.refl _ | with_reducible assumption
    | with_reducible apply State.boundary_keeps

theorem execSamplePreload_keeps {pads cells : BitVec 89} {s : State} {x : State} (h : execSamplePreload pads cells s = .next x) : Keeps s x := by
  cases h
  repeat' first
    | intro _ | with_reducible exact Keeps.refl _ | with_reducible assumption
    | with_reducible apply State.boundary_keeps

theorem execIdcode_keeps {s : State} {x : State} (h : execIdcode s = .next x) : Keeps s x := by
  cases h
  repeat' first
    | intro _ | with_reducible exact Keeps.refl _ | with_reducible assumption
    | with_reducible apply State.idcode_keeps

theorem execBypass_keeps {bits : BitVec 32} {s : State} {x : State} (h : execBypass bits s = .next x) : Keeps s x := by
  cases h
  repeat' first
    | intro _ | with_reducible exact Keeps.refl _ | with_reducible assumption
    | with_reducible apply State.bypass_keeps

theorem execJtagAuthChallenge_keeps {s : State} {x : State} (h : execJtagAuthChallenge s = .next x) : Keeps s x := by
  cases h
  repeat' first
    | intro _ | with_reducible exact Keeps.refl _ | with_reducible assumption
    | with_reducible apply State.jtagChallenge_keeps

theorem execJtagAuthSubmit_keeps {bytes : Vector (BitVec 8) 103} {s : State} {x : State} (h : execJtagAuthSubmit bytes s = .next x) : Keeps s x := by
  cases h
  repeat' first
    | intro _ | with_reducible exact Keeps.refl _ | with_reducible assumption
    | with_reducible apply State.jtagSubmit_keeps

theorem execJtagState_keeps {first : BitVec 32} {words : BitVec 8} {s : State} {x : State} (h : execJtagState first words s = .next x) : Keeps s x := by
  cases h
  repeat' first
    | intro _ | with_reducible exact Keeps.refl _ | with_reducible assumption
    | with_reducible apply State.jtagState_keeps

theorem execRegisterWrite_keeps {m : Master} {addr : BitVec 32} {size : Nat} {data : Option (BitVec 64)} {s : State} {x : State} (h : execRegisterWrite m addr size data s = .next x) : Keeps s x := by
  cases h
  repeat' first
    | intro _ | with_reducible exact Keeps.refl _ | with_reducible assumption
    | with_reducible apply State.registerAccess_keeps

theorem execStewardMemoryAccess_keeps {k : Fin 4} {kind : StewKind} {addr : BitVec 64} {size : Fin 4} {rd : Fin 32} {data : BitVec 64} {s : State} {x : State} (h : execStewardMemoryAccess k kind addr size rd data s = .next x) : Keeps s x := by
  cases h
  repeat' first
    | intro _ | with_reducible exact Keeps.refl _ | with_reducible assumption
    | with_reducible apply State.stewAccess_keeps

theorem execDbgacc_keeps {addr data : BitVec 32} {wr : Bool} {s : State} {x : State} (h : execDbgacc addr data wr s = .next x) : Keeps s x := by
  cases h
  repeat' first
    | intro _ | with_reducible exact Keeps.refl _ | with_reducible assumption
    | with_reducible apply State.dbgAcc_keeps

end Sys2Proof.Machine
end

