-- ==== Sys2Proof/Laws/PerInstr.lean ====
section
/-!
SUPPORT. What holds of every command as syntax, one lemma for each constructor.
-/

namespace Sys2Proof.Laws.Shape

/-- A command is well formed whatever its operands, unless it is a sideband request: of a request, its form and the
number of its operand bytes alone decide it (R556, R559, notes/assumptions/5.md). -/
def Statement (i : Instr) : Prop :=
  i.wellFormed = true ∨ ∃ (f : SbForm) (lens : Nat → Bool) (n : Nat), i.wellFormed = sbForm f lens n

theorem tick : Statement (.tick) := .inl rfl
theorem blankingLineSample : Statement (.blankingLineSample) := .inl rfl
theorem budgetCheck : Statement (.budgetCheck) := .inl rfl
theorem leaveWindowAdvance : Statement (.leaveWindowAdvance) := .inl rfl
theorem ndetClear (m : Master) : Statement (.ndetClear m) := .inl rfl
theorem ndetLoRead (m : Master) (k : Fin 6) : Statement (.ndetLoRead m k) := .inl rfl
theorem registerWrite (m : Master) (addr : BitVec 32) (size : Nat) (data : Option (BitVec 64)) : Statement (.registerWrite m addr size data) := .inl rfl
theorem bundleIssue (t : TileId) (th : ThreadId) : Statement (.bundleIssue t th) := .inl rfl
theorem nop (t : TileId) (th : ThreadId) (slot : SlotKind) (w : SlotWord) : Statement (.nop t th slot w) := .inl rfl
theorem mm (t : TileId) (th : ThreadId) (w : SlotWord) : Statement (.mm t th w) := .inl rfl
theorem conv (t : TileId) (th : ThreadId) (w : SlotWord) : Statement (.conv t th w) := .inl rfl
theorem dw (t : TileId) (th : ThreadId) (w : SlotWord) : Statement (.dw t th w) := .inl rfl
theorem macroOpStart (t : TileId) : Statement (.macroOpStart t) := .inl rfl
theorem macroOpEnd (t : TileId) : Statement (.macroOpEnd t) := .inl rfl
theorem accRd (t : TileId) (th : ThreadId) (w : SlotWord) : Statement (.accRd t th w) := .inl rfl
theorem accWr (t : TileId) (th : ThreadId) (w : SlotWord) : Statement (.accWr t th w) := .inl rfl
theorem accClr (t : TileId) (th : ThreadId) (w : SlotWord) : Statement (.accClr t th w) := .inl rfl
theorem vadd (t : TileId) (th : ThreadId) (w : SlotWord) : Statement (.vadd t th w) := .inl rfl
theorem vsub (t : TileId) (th : ThreadId) (w : SlotWord) : Statement (.vsub t th w) := .inl rfl
theorem vmul (t : TileId) (th : ThreadId) (w : SlotWord) : Statement (.vmul t th w) := .inl rfl
theorem vmulh (t : TileId) (th : ThreadId) (w : SlotWord) : Statement (.vmulh t th w) := .inl rfl
theorem vfma (t : TileId) (th : ThreadId) (w : SlotWord) : Statement (.vfma t th w) := .inl rfl
theorem vmin (t : TileId) (th : ThreadId) (w : SlotWord) : Statement (.vmin t th w) := .inl rfl
theorem vmax (t : TileId) (th : ThreadId) (w : SlotWord) : Statement (.vmax t th w) := .inl rfl
theorem vand (t : TileId) (th : ThreadId) (w : SlotWord) : Statement (.vand t th w) := .inl rfl
theorem vor (t : TileId) (th : ThreadId) (w : SlotWord) : Statement (.vor t th w) := .inl rfl
theorem vxor (t : TileId) (th : ThreadId) (w : SlotWord) : Statement (.vxor t th w) := .inl rfl
theorem vshl (t : TileId) (th : ThreadId) (w : SlotWord) : Statement (.vshl t th w) := .inl rfl
theorem vshr (t : TileId) (th : ThreadId) (w : SlotWord) : Statement (.vshr t th w) := .inl rfl
theorem vcmp (t : TileId) (th : ThreadId) (w : SlotWord) : Statement (.vcmp t th w) := .inl rfl
theorem vsel (t : TileId) (th : ThreadId) (w : SlotWord) : Statement (.vsel t th w) := .inl rfl
theorem vbcast (t : TileId) (th : ThreadId) (w : SlotWord) : Statement (.vbcast t th w) := .inl rfl
theorem vabs (t : TileId) (th : ThreadId) (w : SlotWord) : Statement (.vabs t th w) := .inl rfl
theorem vneg (t : TileId) (th : ThreadId) (w : SlotWord) : Statement (.vneg t th w) := .inl rfl
theorem vrsum (t : TileId) (th : ThreadId) (w : SlotWord) : Statement (.vrsum t th w) := .inl rfl
theorem vrmax (t : TileId) (th : ThreadId) (w : SlotWord) : Statement (.vrmax t th w) := .inl rfl
theorem vrmin (t : TileId) (th : ThreadId) (w : SlotWord) : Statement (.vrmin t th w) := .inl rfl
theorem vrargmax (t : TileId) (th : ThreadId) (w : SlotWord) : Statement (.vrargmax t th w) := .inl rfl
theorem vlut (t : TileId) (th : ThreadId) (w : SlotWord) : Statement (.vlut t th w) := .inl rfl
theorem lutLoad (t : TileId) (th : ThreadId) (w : SlotWord) : Statement (.lutLoad t th w) := .inl rfl
theorem lutLoadComplete (t : TileId) : Statement (.lutLoadComplete t) := .inl rfl
theorem vqnt (t : TileId) (th : ThreadId) (w : SlotWord) : Statement (.vqnt t th w) := .inl rfl
theorem vcvt (t : TileId) (th : ThreadId) (sub : Fin 8) (w : SlotWord) : Statement (.vcvt t th sub w) := .inl rfl
theorem ld (t : TileId) (th : ThreadId) (w : SlotWord) : Statement (.ld t th w) := .inl rfl
theorem st (t : TileId) (th : ThreadId) (w : SlotWord) : Statement (.st t th w) := .inl rfl
theorem sld (t : TileId) (th : ThreadId) (w : SlotWord) : Statement (.sld t th w) := .inl rfl
theorem rwr (t : TileId) (th : ThreadId) (w : SlotWord) : Statement (.rwr t th w) := .inl rfl
theorem gather (t : TileId) (th : ThreadId) (w : SlotWord) : Statement (.gather t th w) := .inl rfl
theorem ldb (t : TileId) (th : ThreadId) (w : SlotWord) : Statement (.ldb t th w) := .inl rfl
theorem stb (t : TileId) (th : ThreadId) (w : SlotWord) : Statement (.stb t th w) := .inl rfl
theorem smov (t : TileId) (th : ThreadId) (w : SlotWord) : Statement (.smov t th w) := .inl rfl
theorem smovx (t : TileId) (th : ThreadId) (w : SlotWord) : Statement (.smovx t th w) := .inl rfl
theorem moveStep (t : TileId) (lane : MoveLane) : Statement (.moveStep t lane) := .inl rfl
theorem moveEnd (t : TileId) (lane : MoveLane) : Statement (.moveEnd t lane) := .inl rfl
theorem endMark (t : TileId) (th : ThreadId) (w : SlotWord) : Statement (.endMark t th w) := .inl rfl
theorem br (t : TileId) (th : ThreadId) (w : SlotWord) : Statement (.br t th w) := .inl rfl
theorem loopOp (t : TileId) (th : ThreadId) (w : SlotWord) : Statement (.loopOp t th w) := .inl rfl
theorem rdc (t : TileId) (th : ThreadId) (w : SlotWord) : Statement (.rdc t th w) := .inl rfl
theorem hold (t : TileId) (th : ThreadId) (w : SlotWord) : Statement (.hold t th w) := .inl rfl
theorem sig (t : TileId) (th : ThreadId) (w : SlotWord) : Statement (.sig t th w) := .inl rfl
theorem wait (t : TileId) (th : ThreadId) (w : SlotWord) : Statement (.wait t th w) := .inl rfl
theorem waitComplete (t : TileId) (th : ThreadId) : Statement (.waitComplete t th) := .inl rfl
theorem slip (t : TileId) (th : ThreadId) : Statement (.slip t th) := .inl rfl
theorem arm (t : TileId) (th : ThreadId) (w : SlotWord) : Statement (.arm t th w) := .inl rfl
theorem lchk (t : TileId) (th : ThreadId) (w : SlotWord) : Statement (.lchk t th w) := .inl rfl
theorem creditGrant (t : TileId) (th : ThreadId) (w : SlotWord) : Statement (.creditGrant t th w) := .inl rfl
theorem hswap (t : TileId) (th : ThreadId) (w : SlotWord) : Statement (.hswap t th w) := .inl rfl
theorem sadd (t : TileId) (th : ThreadId) (w : SlotWord) : Statement (.sadd t th w) := .inl rfl
theorem ssub (t : TileId) (th : ThreadId) (w : SlotWord) : Statement (.ssub t th w) := .inl rfl
theorem sand (t : TileId) (th : ThreadId) (w : SlotWord) : Statement (.sand t th w) := .inl rfl
theorem sor (t : TileId) (th : ThreadId) (w : SlotWord) : Statement (.sor t th w) := .inl rfl
theorem sxor (t : TileId) (th : ThreadId) (w : SlotWord) : Statement (.sxor t th w) := .inl rfl
theorem sshl (t : TileId) (th : ThreadId) (w : SlotWord) : Statement (.sshl t th w) := .inl rfl
theorem sshr (t : TileId) (th : ThreadId) (w : SlotWord) : Statement (.sshr t th w) := .inl rfl
theorem smul (t : TileId) (th : ThreadId) (w : SlotWord) : Statement (.smul t th w) := .inl rfl
theorem sli (t : TileId) (th : ThreadId) (w : SlotWord) : Statement (.sli t th w) := .inl rfl
theorem slui (t : TileId) (th : ThreadId) (w : SlotWord) : Statement (.slui t th w) := .inl rfl
theorem scmp (t : TileId) (th : ThreadId) (w : SlotWord) : Statement (.scmp t th w) := .inl rfl
theorem plog (t : TileId) (th : ThreadId) (w : SlotWord) : Statement (.plog t th w) := .inl rfl
theorem meshAsyncForward (r : TileId) (out : Fin 6) (lane : MeshLane) : Statement (.meshAsyncForward r out lane) := .inl rfl
theorem vatReadRequest (n : Fin 8) : Statement (.vatReadRequest n) := .inl rfl
theorem vatReadData : Statement (.vatReadData) := .inl rfl
theorem vatWriteFlit (n : Fin 8) : Statement (.vatWriteFlit n) := .inl rfl
theorem narrowAccessPerform (p : Fin 72) : Statement (.narrowAccessPerform p) := .inl rfl
theorem asyncPailAccess (t : TileId) (th : ThreadId) : Statement (.asyncPailAccess t th) := .inl rfl
theorem cacheAccess (k : Fin 4) : Statement (.cacheAccess k) := .inl rfl
theorem remoteWriteArrival (t : TileId) : Statement (.remoteWriteArrival t) := .inl rfl
theorem creditGrantArrival (t : TileId) : Statement (.creditGrantArrival t) := .inl rfl
theorem syncUpdateArrival : Statement (.syncUpdateArrival) := .inl rfl
theorem syncAck (t : TileId) (th : ThreadId) : Statement (.syncAck t th) := .inl rfl
theorem watchWordArrival : Statement (.watchWordArrival) := .inl rfl
theorem releaseInject (half : Fin 2) (t : TileId) (th : ThreadId) : Statement (.releaseInject half t th) := .inl rfl
theorem watchLapse (half : Fin 2) (t : TileId) (th : ThreadId) : Statement (.watchLapse half t th) := .inl rfl
theorem releaseArrival (t : TileId) : Statement (.releaseArrival t) := .inl rfl
theorem pace (m : Master) (v : BitVec 32) : Statement (.pace m v) := .inl rfl
theorem syncCountWrite (m : Master) (n : Fin 2048) (v : BitVec 32) : Statement (.syncCountWrite m n v) := .inl rfl
theorem syncAddWrite (m : Master) (n : Fin 2048) (v : BitVec 32) : Statement (.syncAddWrite m n v) := .inl rfl
theorem lsyncWrite (m : Master) (t : TileId) (k : Fin 32) (v : BitVec 32) : Statement (.lsyncWrite m t k v) := .inl rfl
theorem watchCfgWrite (m : Master) (w : Fin 32) (target : Bool) (v : BitVec 32) : Statement (.watchCfgWrite m w target v) := .inl rfl
theorem eccInjectArm (m : Master) (mem : Fin 72) (double : Bool) : Statement (.eccInjectArm m mem double) := .inl rfl
theorem cacheSizeWrite (m : Master) (size : Fin 4) : Statement (.cacheSizeWrite m size) := .inl rfl
theorem cacheDrainComplete : Statement (.cacheDrainComplete) := .inl rfl
theorem cacheClean (m : Master) : Statement (.cacheClean m) := .inl rfl
theorem cacheInval (m : Master) : Statement (.cacheInval m) := .inl rfl
theorem cacheCtrlComplete : Statement (.cacheCtrlComplete) := .inl rfl
theorem threadStart (m : Master) (t : TileId) (th : ThreadId) : Statement (.threadStart m t th) := .inl rfl
theorem threadStop (m : Master) (t : TileId) (th : ThreadId) : Statement (.threadStop m t th) := .inl rfl
theorem tileHalt (m : Master) (t : TileId) : Statement (.tileHalt m t) := .inl rfl
theorem tileForcedHalt (m : Master) (t : TileId) : Statement (.tileForcedHalt m t) := .inl rfl
theorem tileHaltRelease (m : Master) (t : TileId) : Statement (.tileHaltRelease m t) := .inl rfl
theorem tileHaltComplete (t : TileId) : Statement (.tileHaltComplete t) := .inl rfl
theorem faultClr (m : Master) (t : TileId) : Statement (.faultClr m t) := .inl rfl
theorem ibufLoad (m : Master) (t : TileId) : Statement (.ibufLoad m t) := .inl rfl
theorem ibufLoadComplete (t : TileId) : Statement (.ibufLoadComplete t) := .inl rfl
theorem tileRecovery (t : TileId) : Statement (.tileRecovery t) := .inl rfl
theorem tileRecoveryComplete (t : TileId) : Statement (.tileRecoveryComplete t) := .inl rfl
theorem bandIssue (l : Fin 16) (b : Nat) : Statement (.bandIssue l b) := .inl rfl
theorem hostReadIssue (l : Fin 16) (copy : Bool) : Statement (.hostReadIssue l copy) := .inl rfl
theorem hostReadCompletion (tag : Fin 768) (ok : Bool) (data : List (BitVec 8)) : Statement (.hostReadCompletion tag ok data) := .inl rfl
theorem hostReadTimeout (tag : Fin 768) : Statement (.hostReadTimeout tag) := .inl rfl
theorem landingWriteSlot (l : Fin 16) : Statement (.landingWriteSlot l) := .inl rfl
theorem bandCommit (l : Fin 16) : Statement (.bandCommit l) := .inl rfl
theorem writeoutReadSlot (l : Fin 16) : Statement (.writeoutReadSlot l) := .inl rfl
theorem hostWriteIssue (l : Fin 16) (copy : Bool) : Statement (.hostWriteIssue l copy) := .inl rfl
theorem degradeNote : Statement (.degradeNote) := .inl rfl
theorem lateNote : Statement (.lateNote) := .inl rfl
theorem fenceWord (t : TileId) : Statement (.fenceWord t) := .inl rfl
theorem fenceAck : Statement (.fenceAck) := .inl rfl
theorem completionPost (q : Fin 132) : Statement (.completionPost q) := .inl rfl
theorem copyGrant (l : Fin 16) : Statement (.copyGrant l) := .inl rfl
theorem copyComplete (l : Fin 16) : Statement (.copyComplete l) := .inl rfl
theorem sringTail (m : Master) (k : Fin 4) (v : BitVec 32) : Statement (.sringTail m k v) := .inl rfl
theorem leaveGrant : Statement (.leaveGrant) := .inl rfl
theorem kxPlango (k : Fin 4) (rd rs1 rs2 : Fin 32) : Statement (.kxPlango k rd rs1 rs2) := .inl rfl
theorem swapEngineStart : Statement (.swapEngineStart) := .inl rfl
theorem swapEngineComplete : Statement (.swapEngineComplete) := .inl rfl
theorem relockComplete : Statement (.relockComplete) := .inl rfl
theorem configurationRequest (wr : Bool) (dw : Fin 1024) (be : BitVec 4) (v : BitVec 32) : Statement (.configurationRequest wr dw be v) := .inl rfl
theorem bar2Access (off : BitVec 28) (n : Nat) (wr : Option (List (BitVec 8))) : Statement (.bar2Access off n wr) := .inl rfl
theorem sqTailDoorbell (q : Fin 132) (dw : Bool) (v : BitVec 32) : Statement (.sqTailDoorbell q dw v) := .inl rfl
theorem cqHeadDoorbell (q : Fin 132) (dw : Bool) (v : BitVec 32) : Statement (.cqHeadDoorbell q dw v) := .inl rfl
theorem hostMessageDoorbell (r : Bar4) (dw : Bool) (v : BitVec 32) : Statement (.hostMessageDoorbell r dw v) := .inl rfl
theorem entryFetch (q : Fin 132) (raws : List (BitVec 512)) : Statement (.entryFetch q raws) := .inl rfl
theorem entryNop (q : Fin 132) : Statement (.entryNop q) := .inl rfl
theorem picture (q : Fin 132) : Statement (.picture q) := .inl rfl
theorem copy (q : Fin 132) : Statement (.copy q) := .inl rfl
theorem planLoadAndArm (fw : Fin 16) (data : List (BitVec 8)) : Statement (.planLoadAndArm fw data) := .inl rfl
theorem planArm (fw : Fin 16) : Statement (.planArm fw) := .inl rfl
theorem planStop : Statement (.planStop) := .inl rfl
theorem identify (page : List (BitVec 8)) : Statement (.identify page) := .inl rfl
theorem faultLog : Statement (.faultLog) := .inl rfl
theorem timingSet (data : List (BitVec 8)) : Statement (.timingSet data) := .inl rfl
theorem skimLayout (data : List (BitVec 8)) : Statement (.skimLayout data) := .inl rfl
theorem completionWrite (q : Fin 132) : Statement (.completionWrite q) := .inl rfl
theorem sdone (m : Master) (v : BitVec 32) : Statement (.sdone m v) := .inl rfl
theorem hostSmsg (m : Master) (v : BitVec 32) : Statement (.hostSmsg m v) := .inl rfl
theorem queueEnable (m : Master) (q : Fin 132) (v : BitVec 32) : Statement (.queueEnable m q v) := .inl rfl
theorem queueDisable (m : Master) (q : Fin 132) (v : BitVec 32) : Statement (.queueDisable m q v) := .inl rfl
theorem flr : Statement (.flr) := .inl rfl
theorem flrComplete : Statement (.flrComplete) := .inl rfl
theorem perst : Statement (.perst) := .inl rfl
theorem linkStateChange (up : Bool) (width : Fin 16) (rate : Fin 8) : Statement (.linkStateChange up width rate) := .inl rfl
theorem busMasterEnable (on : Bool) : Statement (.busMasterEnable on) := .inl rfl
theorem powerStateChange (d3 : Bool) : Statement (.powerStateChange d3) := .inl rfl
theorem tsCommit (m : Master) : Statement (.tsCommit m) := .inl rfl
theorem outMode (m : Master) (v : BitVec 32) : Statement (.outMode m v) := .inl rfl
theorem teEdge : Statement (.teEdge) := .inl rfl
theorem lineFetch (o : Fin 2) (layer : Fin 5) : Statement (.lineFetch o layer) := .inl rfl
theorem scanLine : Statement (.scanLine) := .inl rfl
theorem dpTrain (m : Master) (o : Fin 2) : Statement (.dpTrain m o) := .inl rfl
theorem dpTrainComplete (o : Fin 2) (ok : Bool) (rate : Fin 4) (lanes : Fin 5) (tps4 async : Bool) : Statement (.dpTrainComplete o ok rate lanes tps4 async) := .inl rfl
theorem auxCmd (m : Master) (o : Fin 2) (v : BitVec 32) : Statement (.auxCmd m o v) := .inl rfl
theorem auxDone (o : Fin 2) (outcome : Fin 4) (data : List (BitVec 8)) : Statement (.auxDone o outcome data) := .inl rfl
theorem hpdEvent (o : Fin 2) (kind : Fin 3) : Statement (.hpdEvent o kind) := .inl rfl
theorem kxCopy (k : Fin 4) (rd rs1 rs2 : Fin 32) : Statement (.kxCopy k rd rs1 rs2) := .inl rfl
theorem kxFill (k : Fin 4) (rd rs1 rs2 : Fin 32) : Statement (.kxFill k rd rs1 rs2) := .inl rfl
theorem kxCrc32c (k : Fin 4) (rd rs1 rs2 : Fin 32) : Statement (.kxCrc32c k rd rs1 rs2) := .inl rfl
theorem kxHset (k : Fin 4) (rd rs1 rs2 : Fin 32) : Statement (.kxHset k rd rs1 rs2) := .inl rfl
theorem kxHswap (k : Fin 4) (rd rs1 : Fin 32) : Statement (.kxHswap k rd rs1) := .inl rfl
theorem stewardMemoryAccess (k : Fin 4) (kind : StewKind) (addr : BitVec 64) (size : Fin 4) (rd : Fin 32) (data : BitVec 64) : Statement (.stewardMemoryAccess k kind addr size rd data) := .inl rfl
theorem stewardInterrupt (k : Fin 4) : Statement (.stewardInterrupt k) := .inl rfl
theorem bellSourceRequest (n : Fin 512) : Statement (.bellSourceRequest n) := .inl rfl
theorem wiredInputChange (wire : Fin 32) (high : Bool) : Statement (.wiredInputChange wire high) := .inl rfl
theorem bellClaim (m : Master) (t : Fin 5) : Statement (.bellClaim m t) := .inl rfl
theorem bellEoi (m : Master) (t : Fin 5) (v : BitVec 9) : Statement (.bellEoi m t v) := .inl rfl
theorem holdoffExpiry (g : Fin 32) : Statement (.holdoffExpiry g) := .inl rfl
theorem gdisWrite (m : Master) (v : Bool) : Statement (.gdisWrite m v) := .inl rfl
theorem msipWrite (m : Master) (k : Fin 4) (v : Bool) : Statement (.msipWrite m k v) := .inl rfl
theorem mtimecmpMatch (k : Fin 4) : Statement (.mtimecmpMatch k) := .inl rfl
theorem pdCtrlWrite (m : Master) (w : Fin 3) (v : BitVec 32) : Statement (.pdCtrlWrite m w v) := .inl rfl
theorem pdSwitch : Statement (.pdSwitch) := .inl rfl
theorem pdSwitchComplete : Statement (.pdSwitchComplete) := .inl rfl
theorem mainSequencing : Statement (.mainSequencing) := .inl rfl
theorem fabricSleep (m : Master) : Statement (.fabricSleep m) := .inl rfl
theorem fabricWake (m : Master) : Statement (.fabricWake m) := .inl rfl
theorem mreqDeviceRecovery (m : Master) : Statement (.mreqDeviceRecovery m) := .inl rfl
theorem thermalSample (valid : BitVec 8) (temps : BitVec 64) : Statement (.thermalSample valid temps) := .inl rfl
theorem thermalRelease (m : Master) : Statement (.thermalRelease m) := .inl rfl
theorem thermalTrip : Statement (.thermalTrip) := .inl rfl
theorem pwrThrotChange (low : Bool) : Statement (.pwrThrotChange low) := .inl rfl
theorem errRecordPost : Statement (.errRecordPost) := .inl rfl
theorem recPop (m : Master) : Statement (.recPop m) := .inl rfl
theorem ssubSet (m : Master) (h : Fin 2) (v : BitVec 32) : Statement (.ssubSet m h v) := .inl rfl
theorem ssubClr (m : Master) (h : Fin 2) (v : BitVec 32) : Statement (.ssubClr m h v) := .inl rfl
theorem ssubPublish : Statement (.ssubPublish) := .inl rfl
theorem candPop (m : Master) : Statement (.candPop m) := .inl rfl
theorem wdogKick (m : Master) (k : Fin 4) : Statement (.wdogKick m k) := .inl rfl
theorem watchdogExpiry (k : Fin 4) : Statement (.watchdogExpiry k) := .inl rfl
theorem pgLoss (core mem : Bool) : Statement (.pgLoss core mem) := .inl rfl
theorem registerNetworkTimeout : Statement (.registerNetworkTimeout) := .inl rfl
theorem corePllUnlock : Statement (.corePllUnlock) := .inl rfl
theorem fabricUncorrectable : Statement (.fabricUncorrectable) := .inl rfl
theorem deviceRecovery : Statement (.deviceRecovery) := .inl rfl
theorem powerOnReset (testEn : Bool) (addr : Fin 4) : Statement (.powerOnReset testEn addr) := .inl rfl
theorem romStart (pg : Bool) : Statement (.romStart pg) := .inl rfl
theorem settingsRead (found : Bool) (log2 : Fin 32) (mode : Fin 3) (jedec : BitVec 24) : Statement (.settingsRead found log2 mode jedec) := .inl rfl
theorem stewardImageAuthenticate : Statement (.stewardImageAuthenticate) := .inl rfl
theorem flashReq (m : Master) (v : BitVec 32) : Statement (.flashReq m v) := .inl rfl
theorem flashCopy (m : Master) (v : BitVec 32) : Statement (.flashCopy m v) := .inl rfl
theorem flashCopyAbort (m : Master) (units : Nat) : Statement (.flashCopyAbort m units) := .inl rfl
theorem flashCopyComplete (units : Nat) : Statement (.flashCopyComplete units) := .inl rfl
theorem flashErGo (m : Master) (v : BitVec 32) : Statement (.flashErGo m v) := .inl rfl
theorem flashOpComplete : Statement (.flashOpComplete) := .inl rfl
theorem status (f : SbForm) : Statement (.status f) := .inr ⟨f, fixed 0, 0, rfl⟩
theorem temp (f : SbForm) : Statement (.temp f) := .inr ⟨f, fixed 0, 0, rfl⟩
theorem power (f : SbForm) : Statement (.power f) := .inr ⟨f, fixed 0, 0, rfl⟩
theorem pulse (f : SbForm) : Statement (.pulse f) := .inr ⟨f, fixed 0, 0, rfl⟩
theorem logRead (f : SbForm) (pos : BitVec 32) : Statement (.logRead f pos) := .inr ⟨f, fixed 4, 4, rfl⟩
theorem logClear (f : SbForm) (pos : BitVec 32) : Statement (.logClear f pos) := .inr ⟨f, fixed 4, 4, rfl⟩
theorem resetReq (f : SbForm) (v : BitVec 8) : Statement (.resetReq f v) := .inr ⟨f, fixed 1, 1, rfl⟩
theorem mainPower (f : SbForm) (v : BitVec 8) : Statement (.mainPower f v) := .inr ⟨f, fixed 1, 1, rfl⟩
theorem bootSelect (f : SbForm) (v : BitVec 8) : Statement (.bootSelect f v) := .inr ⟨f, fixed 1, 1, rfl⟩
theorem flashOpen (f : SbForm) : Statement (.flashOpen f) := .inr ⟨f, fixed 0, 0, rfl⟩
theorem flashRead (f : SbForm) (off : BitVec 32) (len : BitVec 8) : Statement (.flashRead f off len) := .inr ⟨f, fixed 5, 5, rfl⟩
theorem flashWrite (f : SbForm) (off : BitVec 32) (data : List (BitVec 8)) : Statement (.flashWrite f off data) := .inr ⟨f, fun n => decide (5 ≤ n) && decide (n ≤ 132), 4 + data.length, rfl⟩
theorem flashErase (f : SbForm) (off : BitVec 32) (size : BitVec 8) : Statement (.flashErase f off size) := .inr ⟨f, fixed 5, 5, rfl⟩
theorem flashClose (f : SbForm) : Statement (.flashClose f) := .inr ⟨f, fixed 0, 0, rfl⟩
theorem flashOwnershipTimeout : Statement (.flashOwnershipTimeout) := .inl rfl
theorem dbgChallenge (f : SbForm) : Statement (.dbgChallenge f) := .inr ⟨f, fixed 0, 0, rfl⟩
theorem dbgResponse (f : SbForm) (scope : BitVec 8) (sig : Vector (BitVec 8) 96) : Statement (.dbgResponse f scope sig) := .inr ⟨f, fixed 97, 97, rfl⟩
theorem stateScan (f : SbForm) (first : BitVec 32) (words : BitVec 8) : Statement (.stateScan f first words) := .inr ⟨f, fixed 5, 5, rfl⟩
theorem mboxSend (f : SbForm) (msg : List (BitVec 8)) : Statement (.mboxSend f msg) := .inr ⟨f, fun n => decide (1 ≤ n) && decide (n ≤ 64), msg.length, rfl⟩
theorem mboxRecv (f : SbForm) : Statement (.mboxRecv f) := .inr ⟨f, fixed 0, 0, rfl⟩
theorem doorbell (f : SbForm) (d : BitVec 8) (v : BitVec 32) : Statement (.doorbell f d v) := .inr ⟨f, fixed 5, 5, rfl⟩
theorem blockReadResponse (code : BitVec 8) : Statement (.blockReadResponse code) := .inl rfl
theorem alertResponse : Statement (.alertResponse) := .inl rfl
theorem smbusBusTimeout : Statement (.smbusBusTimeout) := .inl rfl
theorem h2sbSend (m : Master) (v : BitVec 32) : Statement (.h2sbSend m v) := .inl rfl
theorem sb2hAck (m : Master) : Statement (.sb2hAck m) := .inl rfl
theorem repairRecordAppend : Statement (.repairRecordAppend) := .inl rfl
theorem dbgStop (m : Master) : Statement (.dbgStop m) := .inl rfl
theorem dbgStopN : Statement (.dbgStopN) := .inl rfl
theorem dbgResume (m : Master) : Statement (.dbgResume m) := .inl rfl
theorem dbgStep (m : Master) (n : BitVec 16) : Statement (.dbgStep m n) := .inl rfl
theorem stepEnd : Statement (.stepEnd) := .inl rfl
theorem authRevoke (m : Master) : Statement (.authRevoke m) := .inl rfl
theorem permaDisable (m : Master) (v : BitVec 32) : Statement (.permaDisable m v) := .inl rfl
theorem stewardHalt (m : Master) (k : Fin 4) (drain : Bool) : Statement (.stewardHalt m k drain) := .inl rfl
theorem stewardHalted (k : Fin 4) : Statement (.stewardHalted k) := .inl rfl
theorem stewardResume (m : Master) (k : Fin 4) (drain : Bool) : Statement (.stewardResume m k drain) := .inl rfl
theorem stewardStep (m : Master) (k : Fin 4) (drain : Bool) : Statement (.stewardStep m k drain) := .inl rfl
theorem traceEnable (m : Master) (v : BitVec 32) : Statement (.traceEnable m v) := .inl rfl
theorem traceRingWrite : Statement (.traceRingWrite) := .inl rfl
theorem tapReset : Statement (.tapReset) := .inl rfl
theorem extest (pads cells : BitVec 89) : Statement (.extest pads cells) := .inl rfl
theorem samplePreload (pads cells : BitVec 89) : Statement (.samplePreload pads cells) := .inl rfl
theorem idcode : Statement (.idcode) := .inl rfl
theorem bypass (bits : BitVec 32) : Statement (.bypass bits) := .inl rfl
theorem jtagAuthChallenge : Statement (.jtagAuthChallenge) := .inl rfl
theorem jtagAuthSubmit (bytes : Vector (BitVec 8) 103) : Statement (.jtagAuthSubmit bytes) := .inl rfl
theorem jtagState (first : BitVec 32) (words : BitVec 8) : Statement (.jtagState first words) := .inl rfl
theorem dbgacc (addr data : BitVec 32) (wr : Bool) : Statement (.dbgacc addr data wr) := .inl rfl
theorem unsupportedRequest (kind : Fin 4) (posted : Bool) : Statement (.unsupportedRequest kind posted) := .inl rfl
theorem powerGoodTimeout : Statement (.powerGoodTimeout) := .inl rfl
theorem vddAonLoss : Statement (.vddAonLoss) := .inl rfl
theorem vddioSbChange (up : Bool) : Statement (.vddioSbChange up) := .inl rfl
theorem aonPllLock : Statement (.aonPllLock) := .inl rfl
theorem nonceExpiry : Statement (.nonceExpiry) := .inl rfl

end Sys2Proof.Laws.Shape
end

