-- ==== Sys2Proof/Laws/State.lean ====
section
/-!
SUPPORT. Laws of the state's updates: what each named operation leaves as it was, field by field, and what a read of
the thing updated gives.
-/

namespace Sys2Proof.Machine

/-! ### State.setReg changes `regs` alone -/

@[simp] theorem State.setReg_pending (s : State) (a : Nat) (v : Word) : (s.setReg a v).pending = s.pending := rfl
@[simp] theorem State.setReg_ck (s : State) (a : Nat) (v : Word) : (s.setReg a v).ck = s.ck := rfl
@[simp] theorem State.setReg_fck (s : State) (a : Nat) (v : Word) : (s.setReg a v).fck = s.fck := rfl
@[simp] theorem State.setReg_tickF (s : State) (a : Nat) (v : Word) : (s.setReg a v).tickF = s.tickF := rfl
@[simp] theorem State.setReg_frameF (s : State) (a : Nat) (v : Word) : (s.setReg a v).frameF = s.frameF := rfl
@[simp] theorem State.setReg_round (s : State) (a : Nat) (v : Word) : (s.setReg a v).round = s.round := rfl
@[simp] theorem State.setReg_free (s : State) (a : Nat) (v : Word) : (s.setReg a v).free = s.free := rfl
@[simp] theorem State.setReg_out (s : State) (a : Nat) (v : Word) : (s.setReg a v).out = s.out := rfl
@[simp] theorem State.setReg_mesh (s : State) (a : Nat) (v : Word) : (s.setReg a v).mesh = s.mesh := rfl
@[simp] theorem State.setReg_sync (s : State) (a : Nat) (v : Word) : (s.setReg a v).sync = s.sync := rfl
@[simp] theorem State.setReg_tiles (s : State) (a : Nat) (v : Word) : (s.setReg a v).tiles = s.tiles := rfl
@[simp] theorem State.setReg_tick (s : State) (a : Nat) (v : Word) : (s.setReg a v).tick = s.tick := rfl
@[simp] theorem State.setReg_plan (s : State) (a : Nat) (v : Word) : (s.setReg a v).plan = s.plan := rfl
@[simp] theorem State.setReg_staged (s : State) (a : Nat) (v : Word) : (s.setReg a v).staged = s.staged := rfl
@[simp] theorem State.setReg_errs (s : State) (a : Nat) (v : Word) : (s.setReg a v).errs = s.errs := rfl
@[simp] theorem State.setReg_bellMsgs (s : State) (a : Nat) (v : Word) : (s.setReg a v).bellMsgs = s.bellMsgs := rfl
@[simp] theorem State.setReg_faultSeen (s : State) (a : Nat) (v : Word) : (s.setReg a v).faultSeen = s.faultSeen := rfl
@[simp] theorem State.setReg_faultedWindow (s : State) (a : Nat) (v : Word) : (s.setReg a v).faultedWindow = s.faultedWindow := rfl
@[simp] theorem State.setReg_variantFault (s : State) (a : Nat) (v : Word) : (s.setReg a v).variantFault = s.variantFault := rfl
@[simp] theorem State.setReg_err (s : State) (a : Nat) (v : Word) : (s.setReg a v).err = s.err := rfl
@[simp] theorem State.setReg_host (s : State) (a : Nat) (v : Word) : (s.setReg a v).host = s.host := rfl
@[simp] theorem State.setReg_ladle (s : State) (a : Nat) (v : Word) : (s.setReg a v).ladle = s.ladle := rfl
@[simp] theorem State.setReg_accs (s : State) (a : Nat) (v : Word) : (s.setReg a v).accs = s.accs := rfl
@[simp] theorem State.setReg_cacheWork (s : State) (a : Nat) (v : Word) : (s.setReg a v).cacheWork = s.cacheWork := rfl
@[simp] theorem State.setReg_stew (s : State) (a : Nat) (v : Word) : (s.setReg a v).stew = s.stew := rfl
@[simp] theorem State.setReg_bells (s : State) (a : Nat) (v : Word) : (s.setReg a v).bells = s.bells := rfl
@[simp] theorem State.setReg_dbg (s : State) (a : Nat) (v : Word) : (s.setReg a v).dbg = s.dbg := rfl
@[simp] theorem State.setReg_milk (s : State) (a : Nat) (v : Word) : (s.setReg a v).milk = s.milk := rfl
@[simp] theorem State.setReg_power (s : State) (a : Nat) (v : Word) : (s.setReg a v).power = s.power := rfl
@[simp] theorem State.setReg_scan (s : State) (a : Nat) (v : Word) : (s.setReg a v).scan = s.scan := rfl
@[simp] theorem State.setReg_now (s : State) (a : Nat) (v : Word) : (s.setReg a v).now = s.now := rfl

/-! ### State.modReg changes `regs` alone -/

@[simp] theorem State.modReg_pending (s : State) (a : Nat) (f : Word → Word) : (s.modReg a f).pending = s.pending := rfl
@[simp] theorem State.modReg_ck (s : State) (a : Nat) (f : Word → Word) : (s.modReg a f).ck = s.ck := rfl
@[simp] theorem State.modReg_fck (s : State) (a : Nat) (f : Word → Word) : (s.modReg a f).fck = s.fck := rfl
@[simp] theorem State.modReg_tickF (s : State) (a : Nat) (f : Word → Word) : (s.modReg a f).tickF = s.tickF := rfl
@[simp] theorem State.modReg_frameF (s : State) (a : Nat) (f : Word → Word) : (s.modReg a f).frameF = s.frameF := rfl
@[simp] theorem State.modReg_round (s : State) (a : Nat) (f : Word → Word) : (s.modReg a f).round = s.round := rfl
@[simp] theorem State.modReg_free (s : State) (a : Nat) (f : Word → Word) : (s.modReg a f).free = s.free := rfl
@[simp] theorem State.modReg_out (s : State) (a : Nat) (f : Word → Word) : (s.modReg a f).out = s.out := rfl
@[simp] theorem State.modReg_mem (s : State) (a : Nat) (f : Word → Word) : (s.modReg a f).mem = s.mem := rfl
@[simp] theorem State.modReg_mesh (s : State) (a : Nat) (f : Word → Word) : (s.modReg a f).mesh = s.mesh := rfl
@[simp] theorem State.modReg_sync (s : State) (a : Nat) (f : Word → Word) : (s.modReg a f).sync = s.sync := rfl
@[simp] theorem State.modReg_tiles (s : State) (a : Nat) (f : Word → Word) : (s.modReg a f).tiles = s.tiles := rfl
@[simp] theorem State.modReg_tick (s : State) (a : Nat) (f : Word → Word) : (s.modReg a f).tick = s.tick := rfl
@[simp] theorem State.modReg_plan (s : State) (a : Nat) (f : Word → Word) : (s.modReg a f).plan = s.plan := rfl
@[simp] theorem State.modReg_staged (s : State) (a : Nat) (f : Word → Word) : (s.modReg a f).staged = s.staged := rfl
@[simp] theorem State.modReg_errs (s : State) (a : Nat) (f : Word → Word) : (s.modReg a f).errs = s.errs := rfl
@[simp] theorem State.modReg_bellMsgs (s : State) (a : Nat) (f : Word → Word) : (s.modReg a f).bellMsgs = s.bellMsgs := rfl
@[simp] theorem State.modReg_faultSeen (s : State) (a : Nat) (f : Word → Word) : (s.modReg a f).faultSeen = s.faultSeen := rfl
@[simp] theorem State.modReg_faultedWindow (s : State) (a : Nat) (f : Word → Word) : (s.modReg a f).faultedWindow = s.faultedWindow := rfl
@[simp] theorem State.modReg_variantFault (s : State) (a : Nat) (f : Word → Word) : (s.modReg a f).variantFault = s.variantFault := rfl
@[simp] theorem State.modReg_err (s : State) (a : Nat) (f : Word → Word) : (s.modReg a f).err = s.err := rfl
@[simp] theorem State.modReg_host (s : State) (a : Nat) (f : Word → Word) : (s.modReg a f).host = s.host := rfl
@[simp] theorem State.modReg_ladle (s : State) (a : Nat) (f : Word → Word) : (s.modReg a f).ladle = s.ladle := rfl
@[simp] theorem State.modReg_accs (s : State) (a : Nat) (f : Word → Word) : (s.modReg a f).accs = s.accs := rfl
@[simp] theorem State.modReg_cacheWork (s : State) (a : Nat) (f : Word → Word) : (s.modReg a f).cacheWork = s.cacheWork := rfl
@[simp] theorem State.modReg_stew (s : State) (a : Nat) (f : Word → Word) : (s.modReg a f).stew = s.stew := rfl
@[simp] theorem State.modReg_bells (s : State) (a : Nat) (f : Word → Word) : (s.modReg a f).bells = s.bells := rfl
@[simp] theorem State.modReg_dbg (s : State) (a : Nat) (f : Word → Word) : (s.modReg a f).dbg = s.dbg := rfl
@[simp] theorem State.modReg_milk (s : State) (a : Nat) (f : Word → Word) : (s.modReg a f).milk = s.milk := rfl
@[simp] theorem State.modReg_power (s : State) (a : Nat) (f : Word → Word) : (s.modReg a f).power = s.power := rfl
@[simp] theorem State.modReg_scan (s : State) (a : Nat) (f : Word → Word) : (s.modReg a f).scan = s.scan := rfl
@[simp] theorem State.modReg_now (s : State) (a : Nat) (f : Word → Word) : (s.modReg a f).now = s.now := rfl

/-! ### State.satReg changes `regs` alone -/

@[simp] theorem State.satReg_pending (s : State) (a n : Nat) : (s.satReg a n).pending = s.pending := rfl
@[simp] theorem State.satReg_ck (s : State) (a n : Nat) : (s.satReg a n).ck = s.ck := rfl
@[simp] theorem State.satReg_fck (s : State) (a n : Nat) : (s.satReg a n).fck = s.fck := rfl
@[simp] theorem State.satReg_tickF (s : State) (a n : Nat) : (s.satReg a n).tickF = s.tickF := rfl
@[simp] theorem State.satReg_frameF (s : State) (a n : Nat) : (s.satReg a n).frameF = s.frameF := rfl
@[simp] theorem State.satReg_round (s : State) (a n : Nat) : (s.satReg a n).round = s.round := rfl
@[simp] theorem State.satReg_free (s : State) (a n : Nat) : (s.satReg a n).free = s.free := rfl
@[simp] theorem State.satReg_out (s : State) (a n : Nat) : (s.satReg a n).out = s.out := rfl
@[simp] theorem State.satReg_mem (s : State) (a n : Nat) : (s.satReg a n).mem = s.mem := rfl
@[simp] theorem State.satReg_mesh (s : State) (a n : Nat) : (s.satReg a n).mesh = s.mesh := rfl
@[simp] theorem State.satReg_sync (s : State) (a n : Nat) : (s.satReg a n).sync = s.sync := rfl
@[simp] theorem State.satReg_tiles (s : State) (a n : Nat) : (s.satReg a n).tiles = s.tiles := rfl
@[simp] theorem State.satReg_tick (s : State) (a n : Nat) : (s.satReg a n).tick = s.tick := rfl
@[simp] theorem State.satReg_plan (s : State) (a n : Nat) : (s.satReg a n).plan = s.plan := rfl
@[simp] theorem State.satReg_staged (s : State) (a n : Nat) : (s.satReg a n).staged = s.staged := rfl
@[simp] theorem State.satReg_errs (s : State) (a n : Nat) : (s.satReg a n).errs = s.errs := rfl
@[simp] theorem State.satReg_bellMsgs (s : State) (a n : Nat) : (s.satReg a n).bellMsgs = s.bellMsgs := rfl
@[simp] theorem State.satReg_faultSeen (s : State) (a n : Nat) : (s.satReg a n).faultSeen = s.faultSeen := rfl
@[simp] theorem State.satReg_faultedWindow (s : State) (a n : Nat) : (s.satReg a n).faultedWindow = s.faultedWindow := rfl
@[simp] theorem State.satReg_variantFault (s : State) (a n : Nat) : (s.satReg a n).variantFault = s.variantFault := rfl
@[simp] theorem State.satReg_err (s : State) (a n : Nat) : (s.satReg a n).err = s.err := rfl
@[simp] theorem State.satReg_host (s : State) (a n : Nat) : (s.satReg a n).host = s.host := rfl
@[simp] theorem State.satReg_ladle (s : State) (a n : Nat) : (s.satReg a n).ladle = s.ladle := rfl
@[simp] theorem State.satReg_accs (s : State) (a n : Nat) : (s.satReg a n).accs = s.accs := rfl
@[simp] theorem State.satReg_cacheWork (s : State) (a n : Nat) : (s.satReg a n).cacheWork = s.cacheWork := rfl
@[simp] theorem State.satReg_stew (s : State) (a n : Nat) : (s.satReg a n).stew = s.stew := rfl
@[simp] theorem State.satReg_bells (s : State) (a n : Nat) : (s.satReg a n).bells = s.bells := rfl
@[simp] theorem State.satReg_dbg (s : State) (a n : Nat) : (s.satReg a n).dbg = s.dbg := rfl
@[simp] theorem State.satReg_milk (s : State) (a n : Nat) : (s.satReg a n).milk = s.milk := rfl
@[simp] theorem State.satReg_power (s : State) (a n : Nat) : (s.satReg a n).power = s.power := rfl
@[simp] theorem State.satReg_scan (s : State) (a n : Nat) : (s.satReg a n).scan = s.scan := rfl
@[simp] theorem State.satReg_now (s : State) (a n : Nat) : (s.satReg a n).now = s.now := rfl

/-! ### State.incReg changes `regs` alone -/

@[simp] theorem State.incReg_pending (s : State) (a n : Nat) : (s.incReg a n).pending = s.pending := rfl
@[simp] theorem State.incReg_ck (s : State) (a n : Nat) : (s.incReg a n).ck = s.ck := rfl
@[simp] theorem State.incReg_fck (s : State) (a n : Nat) : (s.incReg a n).fck = s.fck := rfl
@[simp] theorem State.incReg_tickF (s : State) (a n : Nat) : (s.incReg a n).tickF = s.tickF := rfl
@[simp] theorem State.incReg_frameF (s : State) (a n : Nat) : (s.incReg a n).frameF = s.frameF := rfl
@[simp] theorem State.incReg_round (s : State) (a n : Nat) : (s.incReg a n).round = s.round := rfl
@[simp] theorem State.incReg_free (s : State) (a n : Nat) : (s.incReg a n).free = s.free := rfl
@[simp] theorem State.incReg_out (s : State) (a n : Nat) : (s.incReg a n).out = s.out := rfl
@[simp] theorem State.incReg_mem (s : State) (a n : Nat) : (s.incReg a n).mem = s.mem := rfl
@[simp] theorem State.incReg_mesh (s : State) (a n : Nat) : (s.incReg a n).mesh = s.mesh := rfl
@[simp] theorem State.incReg_sync (s : State) (a n : Nat) : (s.incReg a n).sync = s.sync := rfl
@[simp] theorem State.incReg_tiles (s : State) (a n : Nat) : (s.incReg a n).tiles = s.tiles := rfl
@[simp] theorem State.incReg_tick (s : State) (a n : Nat) : (s.incReg a n).tick = s.tick := rfl
@[simp] theorem State.incReg_plan (s : State) (a n : Nat) : (s.incReg a n).plan = s.plan := rfl
@[simp] theorem State.incReg_staged (s : State) (a n : Nat) : (s.incReg a n).staged = s.staged := rfl
@[simp] theorem State.incReg_errs (s : State) (a n : Nat) : (s.incReg a n).errs = s.errs := rfl
@[simp] theorem State.incReg_bellMsgs (s : State) (a n : Nat) : (s.incReg a n).bellMsgs = s.bellMsgs := rfl
@[simp] theorem State.incReg_faultSeen (s : State) (a n : Nat) : (s.incReg a n).faultSeen = s.faultSeen := rfl
@[simp] theorem State.incReg_faultedWindow (s : State) (a n : Nat) : (s.incReg a n).faultedWindow = s.faultedWindow := rfl
@[simp] theorem State.incReg_variantFault (s : State) (a n : Nat) : (s.incReg a n).variantFault = s.variantFault := rfl
@[simp] theorem State.incReg_err (s : State) (a n : Nat) : (s.incReg a n).err = s.err := rfl
@[simp] theorem State.incReg_host (s : State) (a n : Nat) : (s.incReg a n).host = s.host := rfl
@[simp] theorem State.incReg_ladle (s : State) (a n : Nat) : (s.incReg a n).ladle = s.ladle := rfl
@[simp] theorem State.incReg_accs (s : State) (a n : Nat) : (s.incReg a n).accs = s.accs := rfl
@[simp] theorem State.incReg_cacheWork (s : State) (a n : Nat) : (s.incReg a n).cacheWork = s.cacheWork := rfl
@[simp] theorem State.incReg_stew (s : State) (a n : Nat) : (s.incReg a n).stew = s.stew := rfl
@[simp] theorem State.incReg_bells (s : State) (a n : Nat) : (s.incReg a n).bells = s.bells := rfl
@[simp] theorem State.incReg_dbg (s : State) (a n : Nat) : (s.incReg a n).dbg = s.dbg := rfl
@[simp] theorem State.incReg_milk (s : State) (a n : Nat) : (s.incReg a n).milk = s.milk := rfl
@[simp] theorem State.incReg_power (s : State) (a n : Nat) : (s.incReg a n).power = s.power := rfl
@[simp] theorem State.incReg_scan (s : State) (a n : Nat) : (s.incReg a n).scan = s.scan := rfl
@[simp] theorem State.incReg_now (s : State) (a n : Nat) : (s.incReg a n).now = s.now := rfl

/-! ### State.orReg changes `regs` and `now` -/

@[simp] theorem State.orReg_pending (s : State) (a : Nat) (m : Word) : (s.orReg a m).pending = s.pending := rfl
@[simp] theorem State.orReg_ck (s : State) (a : Nat) (m : Word) : (s.orReg a m).ck = s.ck := rfl
@[simp] theorem State.orReg_fck (s : State) (a : Nat) (m : Word) : (s.orReg a m).fck = s.fck := rfl
@[simp] theorem State.orReg_tickF (s : State) (a : Nat) (m : Word) : (s.orReg a m).tickF = s.tickF := rfl
@[simp] theorem State.orReg_frameF (s : State) (a : Nat) (m : Word) : (s.orReg a m).frameF = s.frameF := rfl
@[simp] theorem State.orReg_round (s : State) (a : Nat) (m : Word) : (s.orReg a m).round = s.round := rfl
@[simp] theorem State.orReg_free (s : State) (a : Nat) (m : Word) : (s.orReg a m).free = s.free := rfl
@[simp] theorem State.orReg_out (s : State) (a : Nat) (m : Word) : (s.orReg a m).out = s.out := rfl
@[simp] theorem State.orReg_mem (s : State) (a : Nat) (m : Word) : (s.orReg a m).mem = s.mem := rfl
@[simp] theorem State.orReg_mesh (s : State) (a : Nat) (m : Word) : (s.orReg a m).mesh = s.mesh := rfl
@[simp] theorem State.orReg_sync (s : State) (a : Nat) (m : Word) : (s.orReg a m).sync = s.sync := rfl
@[simp] theorem State.orReg_tiles (s : State) (a : Nat) (m : Word) : (s.orReg a m).tiles = s.tiles := rfl
@[simp] theorem State.orReg_tick (s : State) (a : Nat) (m : Word) : (s.orReg a m).tick = s.tick := rfl
@[simp] theorem State.orReg_plan (s : State) (a : Nat) (m : Word) : (s.orReg a m).plan = s.plan := rfl
@[simp] theorem State.orReg_staged (s : State) (a : Nat) (m : Word) : (s.orReg a m).staged = s.staged := rfl
@[simp] theorem State.orReg_errs (s : State) (a : Nat) (m : Word) : (s.orReg a m).errs = s.errs := rfl
@[simp] theorem State.orReg_bellMsgs (s : State) (a : Nat) (m : Word) : (s.orReg a m).bellMsgs = s.bellMsgs := rfl
@[simp] theorem State.orReg_faultSeen (s : State) (a : Nat) (m : Word) : (s.orReg a m).faultSeen = s.faultSeen := rfl
@[simp] theorem State.orReg_faultedWindow (s : State) (a : Nat) (m : Word) : (s.orReg a m).faultedWindow = s.faultedWindow := rfl
@[simp] theorem State.orReg_variantFault (s : State) (a : Nat) (m : Word) : (s.orReg a m).variantFault = s.variantFault := rfl
@[simp] theorem State.orReg_err (s : State) (a : Nat) (m : Word) : (s.orReg a m).err = s.err := rfl
@[simp] theorem State.orReg_host (s : State) (a : Nat) (m : Word) : (s.orReg a m).host = s.host := rfl
@[simp] theorem State.orReg_ladle (s : State) (a : Nat) (m : Word) : (s.orReg a m).ladle = s.ladle := rfl
@[simp] theorem State.orReg_accs (s : State) (a : Nat) (m : Word) : (s.orReg a m).accs = s.accs := rfl
@[simp] theorem State.orReg_cacheWork (s : State) (a : Nat) (m : Word) : (s.orReg a m).cacheWork = s.cacheWork := rfl
@[simp] theorem State.orReg_stew (s : State) (a : Nat) (m : Word) : (s.orReg a m).stew = s.stew := rfl
@[simp] theorem State.orReg_bells (s : State) (a : Nat) (m : Word) : (s.orReg a m).bells = s.bells := rfl
@[simp] theorem State.orReg_dbg (s : State) (a : Nat) (m : Word) : (s.orReg a m).dbg = s.dbg := rfl
@[simp] theorem State.orReg_milk (s : State) (a : Nat) (m : Word) : (s.orReg a m).milk = s.milk := rfl
@[simp] theorem State.orReg_power (s : State) (a : Nat) (m : Word) : (s.orReg a m).power = s.power := rfl
@[simp] theorem State.orReg_scan (s : State) (a : Nat) (m : Word) : (s.orReg a m).scan = s.scan := rfl

/-! ### State.clrReg changes `regs` alone -/

@[simp] theorem State.clrReg_pending (s : State) (a : Nat) (m : Word) : (s.clrReg a m).pending = s.pending := rfl
@[simp] theorem State.clrReg_ck (s : State) (a : Nat) (m : Word) : (s.clrReg a m).ck = s.ck := rfl
@[simp] theorem State.clrReg_fck (s : State) (a : Nat) (m : Word) : (s.clrReg a m).fck = s.fck := rfl
@[simp] theorem State.clrReg_tickF (s : State) (a : Nat) (m : Word) : (s.clrReg a m).tickF = s.tickF := rfl
@[simp] theorem State.clrReg_frameF (s : State) (a : Nat) (m : Word) : (s.clrReg a m).frameF = s.frameF := rfl
@[simp] theorem State.clrReg_round (s : State) (a : Nat) (m : Word) : (s.clrReg a m).round = s.round := rfl
@[simp] theorem State.clrReg_free (s : State) (a : Nat) (m : Word) : (s.clrReg a m).free = s.free := rfl
@[simp] theorem State.clrReg_out (s : State) (a : Nat) (m : Word) : (s.clrReg a m).out = s.out := rfl
@[simp] theorem State.clrReg_mem (s : State) (a : Nat) (m : Word) : (s.clrReg a m).mem = s.mem := rfl
@[simp] theorem State.clrReg_mesh (s : State) (a : Nat) (m : Word) : (s.clrReg a m).mesh = s.mesh := rfl
@[simp] theorem State.clrReg_sync (s : State) (a : Nat) (m : Word) : (s.clrReg a m).sync = s.sync := rfl
@[simp] theorem State.clrReg_tiles (s : State) (a : Nat) (m : Word) : (s.clrReg a m).tiles = s.tiles := rfl
@[simp] theorem State.clrReg_tick (s : State) (a : Nat) (m : Word) : (s.clrReg a m).tick = s.tick := rfl
@[simp] theorem State.clrReg_plan (s : State) (a : Nat) (m : Word) : (s.clrReg a m).plan = s.plan := rfl
@[simp] theorem State.clrReg_staged (s : State) (a : Nat) (m : Word) : (s.clrReg a m).staged = s.staged := rfl
@[simp] theorem State.clrReg_errs (s : State) (a : Nat) (m : Word) : (s.clrReg a m).errs = s.errs := rfl
@[simp] theorem State.clrReg_bellMsgs (s : State) (a : Nat) (m : Word) : (s.clrReg a m).bellMsgs = s.bellMsgs := rfl
@[simp] theorem State.clrReg_faultSeen (s : State) (a : Nat) (m : Word) : (s.clrReg a m).faultSeen = s.faultSeen := rfl
@[simp] theorem State.clrReg_faultedWindow (s : State) (a : Nat) (m : Word) : (s.clrReg a m).faultedWindow = s.faultedWindow := rfl
@[simp] theorem State.clrReg_variantFault (s : State) (a : Nat) (m : Word) : (s.clrReg a m).variantFault = s.variantFault := rfl
@[simp] theorem State.clrReg_err (s : State) (a : Nat) (m : Word) : (s.clrReg a m).err = s.err := rfl
@[simp] theorem State.clrReg_host (s : State) (a : Nat) (m : Word) : (s.clrReg a m).host = s.host := rfl
@[simp] theorem State.clrReg_ladle (s : State) (a : Nat) (m : Word) : (s.clrReg a m).ladle = s.ladle := rfl
@[simp] theorem State.clrReg_accs (s : State) (a : Nat) (m : Word) : (s.clrReg a m).accs = s.accs := rfl
@[simp] theorem State.clrReg_cacheWork (s : State) (a : Nat) (m : Word) : (s.clrReg a m).cacheWork = s.cacheWork := rfl
@[simp] theorem State.clrReg_stew (s : State) (a : Nat) (m : Word) : (s.clrReg a m).stew = s.stew := rfl
@[simp] theorem State.clrReg_bells (s : State) (a : Nat) (m : Word) : (s.clrReg a m).bells = s.bells := rfl
@[simp] theorem State.clrReg_dbg (s : State) (a : Nat) (m : Word) : (s.clrReg a m).dbg = s.dbg := rfl
@[simp] theorem State.clrReg_milk (s : State) (a : Nat) (m : Word) : (s.clrReg a m).milk = s.milk := rfl
@[simp] theorem State.clrReg_power (s : State) (a : Nat) (m : Word) : (s.clrReg a m).power = s.power := rfl
@[simp] theorem State.clrReg_scan (s : State) (a : Nat) (m : Word) : (s.clrReg a m).scan = s.scan := rfl
@[simp] theorem State.clrReg_now (s : State) (a : Nat) (m : Word) : (s.clrReg a m).now = s.now := rfl

/-! ### State.setTile changes `tiles` alone -/

@[simp] theorem State.setTile_pending (s : State) (t : TileId) (x : Tile) : (s.setTile t x).pending = s.pending := rfl
@[simp] theorem State.setTile_ck (s : State) (t : TileId) (x : Tile) : (s.setTile t x).ck = s.ck := rfl
@[simp] theorem State.setTile_fck (s : State) (t : TileId) (x : Tile) : (s.setTile t x).fck = s.fck := rfl
@[simp] theorem State.setTile_tickF (s : State) (t : TileId) (x : Tile) : (s.setTile t x).tickF = s.tickF := rfl
@[simp] theorem State.setTile_frameF (s : State) (t : TileId) (x : Tile) : (s.setTile t x).frameF = s.frameF := rfl
@[simp] theorem State.setTile_round (s : State) (t : TileId) (x : Tile) : (s.setTile t x).round = s.round := rfl
@[simp] theorem State.setTile_free (s : State) (t : TileId) (x : Tile) : (s.setTile t x).free = s.free := rfl
@[simp] theorem State.setTile_out (s : State) (t : TileId) (x : Tile) : (s.setTile t x).out = s.out := rfl
@[simp] theorem State.setTile_regs (s : State) (t : TileId) (x : Tile) : (s.setTile t x).regs = s.regs := rfl
@[simp] theorem State.setTile_mem (s : State) (t : TileId) (x : Tile) : (s.setTile t x).mem = s.mem := rfl
@[simp] theorem State.setTile_mesh (s : State) (t : TileId) (x : Tile) : (s.setTile t x).mesh = s.mesh := rfl
@[simp] theorem State.setTile_sync (s : State) (t : TileId) (x : Tile) : (s.setTile t x).sync = s.sync := rfl
@[simp] theorem State.setTile_tick (s : State) (t : TileId) (x : Tile) : (s.setTile t x).tick = s.tick := rfl
@[simp] theorem State.setTile_plan (s : State) (t : TileId) (x : Tile) : (s.setTile t x).plan = s.plan := rfl
@[simp] theorem State.setTile_staged (s : State) (t : TileId) (x : Tile) : (s.setTile t x).staged = s.staged := rfl
@[simp] theorem State.setTile_errs (s : State) (t : TileId) (x : Tile) : (s.setTile t x).errs = s.errs := rfl
@[simp] theorem State.setTile_bellMsgs (s : State) (t : TileId) (x : Tile) : (s.setTile t x).bellMsgs = s.bellMsgs := rfl
@[simp] theorem State.setTile_faultSeen (s : State) (t : TileId) (x : Tile) : (s.setTile t x).faultSeen = s.faultSeen := rfl
@[simp] theorem State.setTile_faultedWindow (s : State) (t : TileId) (x : Tile) : (s.setTile t x).faultedWindow = s.faultedWindow := rfl
@[simp] theorem State.setTile_variantFault (s : State) (t : TileId) (x : Tile) : (s.setTile t x).variantFault = s.variantFault := rfl
@[simp] theorem State.setTile_err (s : State) (t : TileId) (x : Tile) : (s.setTile t x).err = s.err := rfl
@[simp] theorem State.setTile_host (s : State) (t : TileId) (x : Tile) : (s.setTile t x).host = s.host := rfl
@[simp] theorem State.setTile_ladle (s : State) (t : TileId) (x : Tile) : (s.setTile t x).ladle = s.ladle := rfl
@[simp] theorem State.setTile_accs (s : State) (t : TileId) (x : Tile) : (s.setTile t x).accs = s.accs := rfl
@[simp] theorem State.setTile_cacheWork (s : State) (t : TileId) (x : Tile) : (s.setTile t x).cacheWork = s.cacheWork := rfl
@[simp] theorem State.setTile_stew (s : State) (t : TileId) (x : Tile) : (s.setTile t x).stew = s.stew := rfl
@[simp] theorem State.setTile_bells (s : State) (t : TileId) (x : Tile) : (s.setTile t x).bells = s.bells := rfl
@[simp] theorem State.setTile_dbg (s : State) (t : TileId) (x : Tile) : (s.setTile t x).dbg = s.dbg := rfl
@[simp] theorem State.setTile_milk (s : State) (t : TileId) (x : Tile) : (s.setTile t x).milk = s.milk := rfl
@[simp] theorem State.setTile_power (s : State) (t : TileId) (x : Tile) : (s.setTile t x).power = s.power := rfl
@[simp] theorem State.setTile_scan (s : State) (t : TileId) (x : Tile) : (s.setTile t x).scan = s.scan := rfl
@[simp] theorem State.setTile_now (s : State) (t : TileId) (x : Tile) : (s.setTile t x).now = s.now := rfl

/-! ### State.modTile changes `tiles` alone -/

@[simp] theorem State.modTile_pending (s : State) (t : TileId) (f : Tile → Tile) : (s.modTile t f).pending = s.pending := rfl
@[simp] theorem State.modTile_ck (s : State) (t : TileId) (f : Tile → Tile) : (s.modTile t f).ck = s.ck := rfl
@[simp] theorem State.modTile_fck (s : State) (t : TileId) (f : Tile → Tile) : (s.modTile t f).fck = s.fck := rfl
@[simp] theorem State.modTile_tickF (s : State) (t : TileId) (f : Tile → Tile) : (s.modTile t f).tickF = s.tickF := rfl
@[simp] theorem State.modTile_frameF (s : State) (t : TileId) (f : Tile → Tile) : (s.modTile t f).frameF = s.frameF := rfl
@[simp] theorem State.modTile_round (s : State) (t : TileId) (f : Tile → Tile) : (s.modTile t f).round = s.round := rfl
@[simp] theorem State.modTile_free (s : State) (t : TileId) (f : Tile → Tile) : (s.modTile t f).free = s.free := rfl
@[simp] theorem State.modTile_out (s : State) (t : TileId) (f : Tile → Tile) : (s.modTile t f).out = s.out := rfl
@[simp] theorem State.modTile_regs (s : State) (t : TileId) (f : Tile → Tile) : (s.modTile t f).regs = s.regs := rfl
@[simp] theorem State.modTile_mem (s : State) (t : TileId) (f : Tile → Tile) : (s.modTile t f).mem = s.mem := rfl
@[simp] theorem State.modTile_mesh (s : State) (t : TileId) (f : Tile → Tile) : (s.modTile t f).mesh = s.mesh := rfl
@[simp] theorem State.modTile_sync (s : State) (t : TileId) (f : Tile → Tile) : (s.modTile t f).sync = s.sync := rfl
@[simp] theorem State.modTile_tick (s : State) (t : TileId) (f : Tile → Tile) : (s.modTile t f).tick = s.tick := rfl
@[simp] theorem State.modTile_plan (s : State) (t : TileId) (f : Tile → Tile) : (s.modTile t f).plan = s.plan := rfl
@[simp] theorem State.modTile_staged (s : State) (t : TileId) (f : Tile → Tile) : (s.modTile t f).staged = s.staged := rfl
@[simp] theorem State.modTile_errs (s : State) (t : TileId) (f : Tile → Tile) : (s.modTile t f).errs = s.errs := rfl
@[simp] theorem State.modTile_bellMsgs (s : State) (t : TileId) (f : Tile → Tile) : (s.modTile t f).bellMsgs = s.bellMsgs := rfl
@[simp] theorem State.modTile_faultSeen (s : State) (t : TileId) (f : Tile → Tile) : (s.modTile t f).faultSeen = s.faultSeen := rfl
@[simp] theorem State.modTile_faultedWindow (s : State) (t : TileId) (f : Tile → Tile) : (s.modTile t f).faultedWindow = s.faultedWindow := rfl
@[simp] theorem State.modTile_variantFault (s : State) (t : TileId) (f : Tile → Tile) : (s.modTile t f).variantFault = s.variantFault := rfl
@[simp] theorem State.modTile_err (s : State) (t : TileId) (f : Tile → Tile) : (s.modTile t f).err = s.err := rfl
@[simp] theorem State.modTile_host (s : State) (t : TileId) (f : Tile → Tile) : (s.modTile t f).host = s.host := rfl
@[simp] theorem State.modTile_ladle (s : State) (t : TileId) (f : Tile → Tile) : (s.modTile t f).ladle = s.ladle := rfl
@[simp] theorem State.modTile_accs (s : State) (t : TileId) (f : Tile → Tile) : (s.modTile t f).accs = s.accs := rfl
@[simp] theorem State.modTile_cacheWork (s : State) (t : TileId) (f : Tile → Tile) : (s.modTile t f).cacheWork = s.cacheWork := rfl
@[simp] theorem State.modTile_stew (s : State) (t : TileId) (f : Tile → Tile) : (s.modTile t f).stew = s.stew := rfl
@[simp] theorem State.modTile_bells (s : State) (t : TileId) (f : Tile → Tile) : (s.modTile t f).bells = s.bells := rfl
@[simp] theorem State.modTile_dbg (s : State) (t : TileId) (f : Tile → Tile) : (s.modTile t f).dbg = s.dbg := rfl
@[simp] theorem State.modTile_milk (s : State) (t : TileId) (f : Tile → Tile) : (s.modTile t f).milk = s.milk := rfl
@[simp] theorem State.modTile_power (s : State) (t : TileId) (f : Tile → Tile) : (s.modTile t f).power = s.power := rfl
@[simp] theorem State.modTile_scan (s : State) (t : TileId) (f : Tile → Tile) : (s.modTile t f).scan = s.scan := rfl
@[simp] theorem State.modTile_now (s : State) (t : TileId) (f : Tile → Tile) : (s.modTile t f).now = s.now := rfl

/-! ### State.modThr changes `tiles` alone -/

@[simp] theorem State.modThr_pending (s : State) (t : TileId) (th : ThreadId) (f : Thread → Thread) : (s.modThr t th f).pending = s.pending := rfl
@[simp] theorem State.modThr_ck (s : State) (t : TileId) (th : ThreadId) (f : Thread → Thread) : (s.modThr t th f).ck = s.ck := rfl
@[simp] theorem State.modThr_fck (s : State) (t : TileId) (th : ThreadId) (f : Thread → Thread) : (s.modThr t th f).fck = s.fck := rfl
@[simp] theorem State.modThr_tickF (s : State) (t : TileId) (th : ThreadId) (f : Thread → Thread) : (s.modThr t th f).tickF = s.tickF := rfl
@[simp] theorem State.modThr_frameF (s : State) (t : TileId) (th : ThreadId) (f : Thread → Thread) : (s.modThr t th f).frameF = s.frameF := rfl
@[simp] theorem State.modThr_round (s : State) (t : TileId) (th : ThreadId) (f : Thread → Thread) : (s.modThr t th f).round = s.round := rfl
@[simp] theorem State.modThr_free (s : State) (t : TileId) (th : ThreadId) (f : Thread → Thread) : (s.modThr t th f).free = s.free := rfl
@[simp] theorem State.modThr_out (s : State) (t : TileId) (th : ThreadId) (f : Thread → Thread) : (s.modThr t th f).out = s.out := rfl
@[simp] theorem State.modThr_regs (s : State) (t : TileId) (th : ThreadId) (f : Thread → Thread) : (s.modThr t th f).regs = s.regs := rfl
@[simp] theorem State.modThr_mem (s : State) (t : TileId) (th : ThreadId) (f : Thread → Thread) : (s.modThr t th f).mem = s.mem := rfl
@[simp] theorem State.modThr_mesh (s : State) (t : TileId) (th : ThreadId) (f : Thread → Thread) : (s.modThr t th f).mesh = s.mesh := rfl
@[simp] theorem State.modThr_sync (s : State) (t : TileId) (th : ThreadId) (f : Thread → Thread) : (s.modThr t th f).sync = s.sync := rfl
@[simp] theorem State.modThr_tick (s : State) (t : TileId) (th : ThreadId) (f : Thread → Thread) : (s.modThr t th f).tick = s.tick := rfl
@[simp] theorem State.modThr_plan (s : State) (t : TileId) (th : ThreadId) (f : Thread → Thread) : (s.modThr t th f).plan = s.plan := rfl
@[simp] theorem State.modThr_staged (s : State) (t : TileId) (th : ThreadId) (f : Thread → Thread) : (s.modThr t th f).staged = s.staged := rfl
@[simp] theorem State.modThr_errs (s : State) (t : TileId) (th : ThreadId) (f : Thread → Thread) : (s.modThr t th f).errs = s.errs := rfl
@[simp] theorem State.modThr_bellMsgs (s : State) (t : TileId) (th : ThreadId) (f : Thread → Thread) : (s.modThr t th f).bellMsgs = s.bellMsgs := rfl
@[simp] theorem State.modThr_faultSeen (s : State) (t : TileId) (th : ThreadId) (f : Thread → Thread) : (s.modThr t th f).faultSeen = s.faultSeen := rfl
@[simp] theorem State.modThr_faultedWindow (s : State) (t : TileId) (th : ThreadId) (f : Thread → Thread) : (s.modThr t th f).faultedWindow = s.faultedWindow := rfl
@[simp] theorem State.modThr_variantFault (s : State) (t : TileId) (th : ThreadId) (f : Thread → Thread) : (s.modThr t th f).variantFault = s.variantFault := rfl
@[simp] theorem State.modThr_err (s : State) (t : TileId) (th : ThreadId) (f : Thread → Thread) : (s.modThr t th f).err = s.err := rfl
@[simp] theorem State.modThr_host (s : State) (t : TileId) (th : ThreadId) (f : Thread → Thread) : (s.modThr t th f).host = s.host := rfl
@[simp] theorem State.modThr_ladle (s : State) (t : TileId) (th : ThreadId) (f : Thread → Thread) : (s.modThr t th f).ladle = s.ladle := rfl
@[simp] theorem State.modThr_accs (s : State) (t : TileId) (th : ThreadId) (f : Thread → Thread) : (s.modThr t th f).accs = s.accs := rfl
@[simp] theorem State.modThr_cacheWork (s : State) (t : TileId) (th : ThreadId) (f : Thread → Thread) : (s.modThr t th f).cacheWork = s.cacheWork := rfl
@[simp] theorem State.modThr_stew (s : State) (t : TileId) (th : ThreadId) (f : Thread → Thread) : (s.modThr t th f).stew = s.stew := rfl
@[simp] theorem State.modThr_bells (s : State) (t : TileId) (th : ThreadId) (f : Thread → Thread) : (s.modThr t th f).bells = s.bells := rfl
@[simp] theorem State.modThr_dbg (s : State) (t : TileId) (th : ThreadId) (f : Thread → Thread) : (s.modThr t th f).dbg = s.dbg := rfl
@[simp] theorem State.modThr_milk (s : State) (t : TileId) (th : ThreadId) (f : Thread → Thread) : (s.modThr t th f).milk = s.milk := rfl
@[simp] theorem State.modThr_power (s : State) (t : TileId) (th : ThreadId) (f : Thread → Thread) : (s.modThr t th f).power = s.power := rfl
@[simp] theorem State.modThr_scan (s : State) (t : TileId) (th : ThreadId) (f : Thread → Thread) : (s.modThr t th f).scan = s.scan := rfl
@[simp] theorem State.modThr_now (s : State) (t : TileId) (th : ThreadId) (f : Thread → Thread) : (s.modThr t th f).now = s.now := rfl

/-! ### State.mapTiles changes `tiles` alone -/

@[simp] theorem State.mapTiles_pending (s : State) (f : TileId → Tile → Tile) : (s.mapTiles f).pending = s.pending := by simp only [State.mapTiles]
@[simp] theorem State.mapTiles_ck (s : State) (f : TileId → Tile → Tile) : (s.mapTiles f).ck = s.ck := by simp only [State.mapTiles]
@[simp] theorem State.mapTiles_fck (s : State) (f : TileId → Tile → Tile) : (s.mapTiles f).fck = s.fck := by simp only [State.mapTiles]
@[simp] theorem State.mapTiles_tickF (s : State) (f : TileId → Tile → Tile) : (s.mapTiles f).tickF = s.tickF := by simp only [State.mapTiles]
@[simp] theorem State.mapTiles_frameF (s : State) (f : TileId → Tile → Tile) : (s.mapTiles f).frameF = s.frameF := by simp only [State.mapTiles]
@[simp] theorem State.mapTiles_round (s : State) (f : TileId → Tile → Tile) : (s.mapTiles f).round = s.round := by simp only [State.mapTiles]
@[simp] theorem State.mapTiles_free (s : State) (f : TileId → Tile → Tile) : (s.mapTiles f).free = s.free := by simp only [State.mapTiles]
@[simp] theorem State.mapTiles_out (s : State) (f : TileId → Tile → Tile) : (s.mapTiles f).out = s.out := by simp only [State.mapTiles]
@[simp] theorem State.mapTiles_regs (s : State) (f : TileId → Tile → Tile) : (s.mapTiles f).regs = s.regs := by simp only [State.mapTiles]
@[simp] theorem State.mapTiles_mem (s : State) (f : TileId → Tile → Tile) : (s.mapTiles f).mem = s.mem := by simp only [State.mapTiles]
@[simp] theorem State.mapTiles_mesh (s : State) (f : TileId → Tile → Tile) : (s.mapTiles f).mesh = s.mesh := by simp only [State.mapTiles]
@[simp] theorem State.mapTiles_sync (s : State) (f : TileId → Tile → Tile) : (s.mapTiles f).sync = s.sync := by simp only [State.mapTiles]
@[simp] theorem State.mapTiles_tick (s : State) (f : TileId → Tile → Tile) : (s.mapTiles f).tick = s.tick := by simp only [State.mapTiles]
@[simp] theorem State.mapTiles_plan (s : State) (f : TileId → Tile → Tile) : (s.mapTiles f).plan = s.plan := by simp only [State.mapTiles]
@[simp] theorem State.mapTiles_staged (s : State) (f : TileId → Tile → Tile) : (s.mapTiles f).staged = s.staged := by simp only [State.mapTiles]
@[simp] theorem State.mapTiles_errs (s : State) (f : TileId → Tile → Tile) : (s.mapTiles f).errs = s.errs := by simp only [State.mapTiles]
@[simp] theorem State.mapTiles_bellMsgs (s : State) (f : TileId → Tile → Tile) : (s.mapTiles f).bellMsgs = s.bellMsgs := by simp only [State.mapTiles]
@[simp] theorem State.mapTiles_faultSeen (s : State) (f : TileId → Tile → Tile) : (s.mapTiles f).faultSeen = s.faultSeen := by simp only [State.mapTiles]
@[simp] theorem State.mapTiles_faultedWindow (s : State) (f : TileId → Tile → Tile) : (s.mapTiles f).faultedWindow = s.faultedWindow := by simp only [State.mapTiles]
@[simp] theorem State.mapTiles_variantFault (s : State) (f : TileId → Tile → Tile) : (s.mapTiles f).variantFault = s.variantFault := by simp only [State.mapTiles]
@[simp] theorem State.mapTiles_err (s : State) (f : TileId → Tile → Tile) : (s.mapTiles f).err = s.err := by simp only [State.mapTiles]
@[simp] theorem State.mapTiles_host (s : State) (f : TileId → Tile → Tile) : (s.mapTiles f).host = s.host := by simp only [State.mapTiles]
@[simp] theorem State.mapTiles_ladle (s : State) (f : TileId → Tile → Tile) : (s.mapTiles f).ladle = s.ladle := by simp only [State.mapTiles]
@[simp] theorem State.mapTiles_accs (s : State) (f : TileId → Tile → Tile) : (s.mapTiles f).accs = s.accs := by simp only [State.mapTiles]
@[simp] theorem State.mapTiles_cacheWork (s : State) (f : TileId → Tile → Tile) : (s.mapTiles f).cacheWork = s.cacheWork := by simp only [State.mapTiles]
@[simp] theorem State.mapTiles_stew (s : State) (f : TileId → Tile → Tile) : (s.mapTiles f).stew = s.stew := by simp only [State.mapTiles]
@[simp] theorem State.mapTiles_bells (s : State) (f : TileId → Tile → Tile) : (s.mapTiles f).bells = s.bells := by simp only [State.mapTiles]
@[simp] theorem State.mapTiles_dbg (s : State) (f : TileId → Tile → Tile) : (s.mapTiles f).dbg = s.dbg := by simp only [State.mapTiles]
@[simp] theorem State.mapTiles_milk (s : State) (f : TileId → Tile → Tile) : (s.mapTiles f).milk = s.milk := by simp only [State.mapTiles]
@[simp] theorem State.mapTiles_power (s : State) (f : TileId → Tile → Tile) : (s.mapTiles f).power = s.power := by simp only [State.mapTiles]
@[simp] theorem State.mapTiles_scan (s : State) (f : TileId → Tile → Tile) : (s.mapTiles f).scan = s.scan := by simp only [State.mapTiles]
@[simp] theorem State.mapTiles_now (s : State) (f : TileId → Tile → Tile) : (s.mapTiles f).now = s.now := by simp only [State.mapTiles]

/-! ### State.emit changes `out` alone -/

@[simp] theorem State.emit_pending (s : State) (o : Out) : (s.emit o).pending = s.pending := rfl
@[simp] theorem State.emit_ck (s : State) (o : Out) : (s.emit o).ck = s.ck := rfl
@[simp] theorem State.emit_fck (s : State) (o : Out) : (s.emit o).fck = s.fck := rfl
@[simp] theorem State.emit_tickF (s : State) (o : Out) : (s.emit o).tickF = s.tickF := rfl
@[simp] theorem State.emit_frameF (s : State) (o : Out) : (s.emit o).frameF = s.frameF := rfl
@[simp] theorem State.emit_round (s : State) (o : Out) : (s.emit o).round = s.round := rfl
@[simp] theorem State.emit_free (s : State) (o : Out) : (s.emit o).free = s.free := rfl
@[simp] theorem State.emit_regs (s : State) (o : Out) : (s.emit o).regs = s.regs := rfl
@[simp] theorem State.emit_mem (s : State) (o : Out) : (s.emit o).mem = s.mem := rfl
@[simp] theorem State.emit_mesh (s : State) (o : Out) : (s.emit o).mesh = s.mesh := rfl
@[simp] theorem State.emit_sync (s : State) (o : Out) : (s.emit o).sync = s.sync := rfl
@[simp] theorem State.emit_tiles (s : State) (o : Out) : (s.emit o).tiles = s.tiles := rfl
@[simp] theorem State.emit_tick (s : State) (o : Out) : (s.emit o).tick = s.tick := rfl
@[simp] theorem State.emit_plan (s : State) (o : Out) : (s.emit o).plan = s.plan := rfl
@[simp] theorem State.emit_staged (s : State) (o : Out) : (s.emit o).staged = s.staged := rfl
@[simp] theorem State.emit_errs (s : State) (o : Out) : (s.emit o).errs = s.errs := rfl
@[simp] theorem State.emit_bellMsgs (s : State) (o : Out) : (s.emit o).bellMsgs = s.bellMsgs := rfl
@[simp] theorem State.emit_faultSeen (s : State) (o : Out) : (s.emit o).faultSeen = s.faultSeen := rfl
@[simp] theorem State.emit_faultedWindow (s : State) (o : Out) : (s.emit o).faultedWindow = s.faultedWindow := rfl
@[simp] theorem State.emit_variantFault (s : State) (o : Out) : (s.emit o).variantFault = s.variantFault := rfl
@[simp] theorem State.emit_err (s : State) (o : Out) : (s.emit o).err = s.err := rfl
@[simp] theorem State.emit_host (s : State) (o : Out) : (s.emit o).host = s.host := rfl
@[simp] theorem State.emit_ladle (s : State) (o : Out) : (s.emit o).ladle = s.ladle := rfl
@[simp] theorem State.emit_accs (s : State) (o : Out) : (s.emit o).accs = s.accs := rfl
@[simp] theorem State.emit_cacheWork (s : State) (o : Out) : (s.emit o).cacheWork = s.cacheWork := rfl
@[simp] theorem State.emit_stew (s : State) (o : Out) : (s.emit o).stew = s.stew := rfl
@[simp] theorem State.emit_bells (s : State) (o : Out) : (s.emit o).bells = s.bells := rfl
@[simp] theorem State.emit_dbg (s : State) (o : Out) : (s.emit o).dbg = s.dbg := rfl
@[simp] theorem State.emit_milk (s : State) (o : Out) : (s.emit o).milk = s.milk := rfl
@[simp] theorem State.emit_power (s : State) (o : Out) : (s.emit o).power = s.power := rfl
@[simp] theorem State.emit_scan (s : State) (o : Out) : (s.emit o).scan = s.scan := rfl
@[simp] theorem State.emit_now (s : State) (o : Out) : (s.emit o).now = s.now := rfl

/-! ### State.bell changes `bellMsgs` and `mesh` -/

theorem State.bell_cases (s : State) (n : Nat) : s.bell n = s.bellWire n ∨ ∃ f : Flit, s.bell n = s.addFlit f := by
  unfold State.bell State.bellVia State.sendAsync
  split
  · split
    · exact Or.inr ⟨_, rfl⟩
    · exact Or.inl rfl
  · exact Or.inl rfl

@[simp] theorem State.bell_pending (s : State) (n : Nat) : (s.bell n).pending = s.pending := by
  obtain h | ⟨f, h⟩ := s.bell_cases n <;> rw [h] <;> rfl
@[simp] theorem State.bell_ck (s : State) (n : Nat) : (s.bell n).ck = s.ck := by
  obtain h | ⟨f, h⟩ := s.bell_cases n <;> rw [h] <;> rfl
@[simp] theorem State.bell_fck (s : State) (n : Nat) : (s.bell n).fck = s.fck := by
  obtain h | ⟨f, h⟩ := s.bell_cases n <;> rw [h] <;> rfl
@[simp] theorem State.bell_tickF (s : State) (n : Nat) : (s.bell n).tickF = s.tickF := by
  obtain h | ⟨f, h⟩ := s.bell_cases n <;> rw [h] <;> rfl
@[simp] theorem State.bell_frameF (s : State) (n : Nat) : (s.bell n).frameF = s.frameF := by
  obtain h | ⟨f, h⟩ := s.bell_cases n <;> rw [h] <;> rfl
@[simp] theorem State.bell_round (s : State) (n : Nat) : (s.bell n).round = s.round := by
  obtain h | ⟨f, h⟩ := s.bell_cases n <;> rw [h] <;> rfl
@[simp] theorem State.bell_free (s : State) (n : Nat) : (s.bell n).free = s.free := by
  obtain h | ⟨f, h⟩ := s.bell_cases n <;> rw [h] <;> rfl
@[simp] theorem State.bell_out (s : State) (n : Nat) : (s.bell n).out = s.out := by
  obtain h | ⟨f, h⟩ := s.bell_cases n <;> rw [h] <;> rfl
@[simp] theorem State.bell_regs (s : State) (n : Nat) : (s.bell n).regs = s.regs := by
  obtain h | ⟨f, h⟩ := s.bell_cases n <;> rw [h] <;> rfl
@[simp] theorem State.bell_mem (s : State) (n : Nat) : (s.bell n).mem = s.mem := by
  obtain h | ⟨f, h⟩ := s.bell_cases n <;> rw [h] <;> rfl
@[simp] theorem State.bell_sync (s : State) (n : Nat) : (s.bell n).sync = s.sync := by
  obtain h | ⟨f, h⟩ := s.bell_cases n <;> rw [h] <;> rfl
@[simp] theorem State.bell_tiles (s : State) (n : Nat) : (s.bell n).tiles = s.tiles := by
  obtain h | ⟨f, h⟩ := s.bell_cases n <;> rw [h] <;> rfl
@[simp] theorem State.bell_tick (s : State) (n : Nat) : (s.bell n).tick = s.tick := by
  obtain h | ⟨f, h⟩ := s.bell_cases n <;> rw [h] <;> rfl
@[simp] theorem State.bell_plan (s : State) (n : Nat) : (s.bell n).plan = s.plan := by
  obtain h | ⟨f, h⟩ := s.bell_cases n <;> rw [h] <;> rfl
@[simp] theorem State.bell_staged (s : State) (n : Nat) : (s.bell n).staged = s.staged := by
  obtain h | ⟨f, h⟩ := s.bell_cases n <;> rw [h] <;> rfl
@[simp] theorem State.bell_errs (s : State) (n : Nat) : (s.bell n).errs = s.errs := by
  obtain h | ⟨f, h⟩ := s.bell_cases n <;> rw [h] <;> rfl
@[simp] theorem State.bell_faultSeen (s : State) (n : Nat) : (s.bell n).faultSeen = s.faultSeen := by
  obtain h | ⟨f, h⟩ := s.bell_cases n <;> rw [h] <;> rfl
@[simp] theorem State.bell_faultedWindow (s : State) (n : Nat) : (s.bell n).faultedWindow = s.faultedWindow := by
  obtain h | ⟨f, h⟩ := s.bell_cases n <;> rw [h] <;> rfl
@[simp] theorem State.bell_variantFault (s : State) (n : Nat) : (s.bell n).variantFault = s.variantFault := by
  obtain h | ⟨f, h⟩ := s.bell_cases n <;> rw [h] <;> rfl
@[simp] theorem State.bell_err (s : State) (n : Nat) : (s.bell n).err = s.err := by
  obtain h | ⟨f, h⟩ := s.bell_cases n <;> rw [h] <;> rfl
@[simp] theorem State.bell_host (s : State) (n : Nat) : (s.bell n).host = s.host := by
  obtain h | ⟨f, h⟩ := s.bell_cases n <;> rw [h] <;> rfl
@[simp] theorem State.bell_ladle (s : State) (n : Nat) : (s.bell n).ladle = s.ladle := by
  obtain h | ⟨f, h⟩ := s.bell_cases n <;> rw [h] <;> rfl
@[simp] theorem State.bell_accs (s : State) (n : Nat) : (s.bell n).accs = s.accs := by
  obtain h | ⟨f, h⟩ := s.bell_cases n <;> rw [h] <;> rfl
@[simp] theorem State.bell_cacheWork (s : State) (n : Nat) : (s.bell n).cacheWork = s.cacheWork := by
  obtain h | ⟨f, h⟩ := s.bell_cases n <;> rw [h] <;> rfl
@[simp] theorem State.bell_stew (s : State) (n : Nat) : (s.bell n).stew = s.stew := by
  obtain h | ⟨f, h⟩ := s.bell_cases n <;> rw [h] <;> rfl
@[simp] theorem State.bell_bells (s : State) (n : Nat) : (s.bell n).bells = s.bells := by
  obtain h | ⟨f, h⟩ := s.bell_cases n <;> rw [h] <;> rfl
@[simp] theorem State.bell_dbg (s : State) (n : Nat) : (s.bell n).dbg = s.dbg := by
  obtain h | ⟨f, h⟩ := s.bell_cases n <;> rw [h] <;> rfl
@[simp] theorem State.bell_milk (s : State) (n : Nat) : (s.bell n).milk = s.milk := by
  obtain h | ⟨f, h⟩ := s.bell_cases n <;> rw [h] <;> rfl
@[simp] theorem State.bell_power (s : State) (n : Nat) : (s.bell n).power = s.power := by
  obtain h | ⟨f, h⟩ := s.bell_cases n <;> rw [h] <;> rfl
@[simp] theorem State.bell_scan (s : State) (n : Nat) : (s.bell n).scan = s.scan := by
  obtain h | ⟨f, h⟩ := s.bell_cases n <;> rw [h] <;> rfl
@[simp] theorem State.bell_now (s : State) (n : Nat) : (s.bell n).now = s.now := by
  obtain h | ⟨f, h⟩ := s.bell_cases n <;> rw [h] <;> rfl

/-! ### State.post changes `errs` alone -/

@[simp] theorem State.post_pending (s : State) (c l u i : Nat) (a w : Word) : (s.post c l u i a w).pending = s.pending := rfl
@[simp] theorem State.post_ck (s : State) (c l u i : Nat) (a w : Word) : (s.post c l u i a w).ck = s.ck := rfl
@[simp] theorem State.post_fck (s : State) (c l u i : Nat) (a w : Word) : (s.post c l u i a w).fck = s.fck := rfl
@[simp] theorem State.post_tickF (s : State) (c l u i : Nat) (a w : Word) : (s.post c l u i a w).tickF = s.tickF := rfl
@[simp] theorem State.post_frameF (s : State) (c l u i : Nat) (a w : Word) : (s.post c l u i a w).frameF = s.frameF := rfl
@[simp] theorem State.post_round (s : State) (c l u i : Nat) (a w : Word) : (s.post c l u i a w).round = s.round := rfl
@[simp] theorem State.post_free (s : State) (c l u i : Nat) (a w : Word) : (s.post c l u i a w).free = s.free := rfl
@[simp] theorem State.post_out (s : State) (c l u i : Nat) (a w : Word) : (s.post c l u i a w).out = s.out := rfl
@[simp] theorem State.post_regs (s : State) (c l u i : Nat) (a w : Word) : (s.post c l u i a w).regs = s.regs := rfl
@[simp] theorem State.post_mem (s : State) (c l u i : Nat) (a w : Word) : (s.post c l u i a w).mem = s.mem := rfl
@[simp] theorem State.post_mesh (s : State) (c l u i : Nat) (a w : Word) : (s.post c l u i a w).mesh = s.mesh := rfl
@[simp] theorem State.post_sync (s : State) (c l u i : Nat) (a w : Word) : (s.post c l u i a w).sync = s.sync := rfl
@[simp] theorem State.post_tiles (s : State) (c l u i : Nat) (a w : Word) : (s.post c l u i a w).tiles = s.tiles := rfl
@[simp] theorem State.post_tick (s : State) (c l u i : Nat) (a w : Word) : (s.post c l u i a w).tick = s.tick := rfl
@[simp] theorem State.post_plan (s : State) (c l u i : Nat) (a w : Word) : (s.post c l u i a w).plan = s.plan := rfl
@[simp] theorem State.post_staged (s : State) (c l u i : Nat) (a w : Word) : (s.post c l u i a w).staged = s.staged := rfl
@[simp] theorem State.post_bellMsgs (s : State) (c l u i : Nat) (a w : Word) : (s.post c l u i a w).bellMsgs = s.bellMsgs := rfl
@[simp] theorem State.post_faultSeen (s : State) (c l u i : Nat) (a w : Word) : (s.post c l u i a w).faultSeen = s.faultSeen := rfl
@[simp] theorem State.post_faultedWindow (s : State) (c l u i : Nat) (a w : Word) : (s.post c l u i a w).faultedWindow = s.faultedWindow := rfl
@[simp] theorem State.post_variantFault (s : State) (c l u i : Nat) (a w : Word) : (s.post c l u i a w).variantFault = s.variantFault := rfl
@[simp] theorem State.post_err (s : State) (c l u i : Nat) (a w : Word) : (s.post c l u i a w).err = s.err := rfl
@[simp] theorem State.post_host (s : State) (c l u i : Nat) (a w : Word) : (s.post c l u i a w).host = s.host := rfl
@[simp] theorem State.post_ladle (s : State) (c l u i : Nat) (a w : Word) : (s.post c l u i a w).ladle = s.ladle := rfl
@[simp] theorem State.post_accs (s : State) (c l u i : Nat) (a w : Word) : (s.post c l u i a w).accs = s.accs := rfl
@[simp] theorem State.post_cacheWork (s : State) (c l u i : Nat) (a w : Word) : (s.post c l u i a w).cacheWork = s.cacheWork := rfl
@[simp] theorem State.post_stew (s : State) (c l u i : Nat) (a w : Word) : (s.post c l u i a w).stew = s.stew := rfl
@[simp] theorem State.post_bells (s : State) (c l u i : Nat) (a w : Word) : (s.post c l u i a w).bells = s.bells := rfl
@[simp] theorem State.post_dbg (s : State) (c l u i : Nat) (a w : Word) : (s.post c l u i a w).dbg = s.dbg := rfl
@[simp] theorem State.post_milk (s : State) (c l u i : Nat) (a w : Word) : (s.post c l u i a w).milk = s.milk := rfl
@[simp] theorem State.post_power (s : State) (c l u i : Nat) (a w : Word) : (s.post c l u i a w).power = s.power := rfl
@[simp] theorem State.post_scan (s : State) (c l u i : Nat) (a w : Word) : (s.post c l u i a w).scan = s.scan := rfl
@[simp] theorem State.post_now (s : State) (c l u i : Nat) (a w : Word) : (s.post c l u i a w).now = s.now := rfl

/-! ### State.regFault changes `errs` alone -/

@[simp] theorem State.regFault_pending (s : State) (m : Master) (a : Nat) : (s.regFault m a).pending = s.pending := rfl
@[simp] theorem State.regFault_ck (s : State) (m : Master) (a : Nat) : (s.regFault m a).ck = s.ck := rfl
@[simp] theorem State.regFault_fck (s : State) (m : Master) (a : Nat) : (s.regFault m a).fck = s.fck := rfl
@[simp] theorem State.regFault_tickF (s : State) (m : Master) (a : Nat) : (s.regFault m a).tickF = s.tickF := rfl
@[simp] theorem State.regFault_frameF (s : State) (m : Master) (a : Nat) : (s.regFault m a).frameF = s.frameF := rfl
@[simp] theorem State.regFault_round (s : State) (m : Master) (a : Nat) : (s.regFault m a).round = s.round := rfl
@[simp] theorem State.regFault_free (s : State) (m : Master) (a : Nat) : (s.regFault m a).free = s.free := rfl
@[simp] theorem State.regFault_out (s : State) (m : Master) (a : Nat) : (s.regFault m a).out = s.out := rfl
@[simp] theorem State.regFault_regs (s : State) (m : Master) (a : Nat) : (s.regFault m a).regs = s.regs := rfl
@[simp] theorem State.regFault_mem (s : State) (m : Master) (a : Nat) : (s.regFault m a).mem = s.mem := rfl
@[simp] theorem State.regFault_mesh (s : State) (m : Master) (a : Nat) : (s.regFault m a).mesh = s.mesh := rfl
@[simp] theorem State.regFault_sync (s : State) (m : Master) (a : Nat) : (s.regFault m a).sync = s.sync := rfl
@[simp] theorem State.regFault_tiles (s : State) (m : Master) (a : Nat) : (s.regFault m a).tiles = s.tiles := rfl
@[simp] theorem State.regFault_tick (s : State) (m : Master) (a : Nat) : (s.regFault m a).tick = s.tick := rfl
@[simp] theorem State.regFault_plan (s : State) (m : Master) (a : Nat) : (s.regFault m a).plan = s.plan := rfl
@[simp] theorem State.regFault_staged (s : State) (m : Master) (a : Nat) : (s.regFault m a).staged = s.staged := rfl
@[simp] theorem State.regFault_bellMsgs (s : State) (m : Master) (a : Nat) : (s.regFault m a).bellMsgs = s.bellMsgs := rfl
@[simp] theorem State.regFault_faultSeen (s : State) (m : Master) (a : Nat) : (s.regFault m a).faultSeen = s.faultSeen := rfl
@[simp] theorem State.regFault_faultedWindow (s : State) (m : Master) (a : Nat) : (s.regFault m a).faultedWindow = s.faultedWindow := rfl
@[simp] theorem State.regFault_variantFault (s : State) (m : Master) (a : Nat) : (s.regFault m a).variantFault = s.variantFault := rfl
@[simp] theorem State.regFault_err (s : State) (m : Master) (a : Nat) : (s.regFault m a).err = s.err := rfl
@[simp] theorem State.regFault_host (s : State) (m : Master) (a : Nat) : (s.regFault m a).host = s.host := rfl
@[simp] theorem State.regFault_ladle (s : State) (m : Master) (a : Nat) : (s.regFault m a).ladle = s.ladle := rfl
@[simp] theorem State.regFault_accs (s : State) (m : Master) (a : Nat) : (s.regFault m a).accs = s.accs := rfl
@[simp] theorem State.regFault_cacheWork (s : State) (m : Master) (a : Nat) : (s.regFault m a).cacheWork = s.cacheWork := rfl
@[simp] theorem State.regFault_stew (s : State) (m : Master) (a : Nat) : (s.regFault m a).stew = s.stew := rfl
@[simp] theorem State.regFault_bells (s : State) (m : Master) (a : Nat) : (s.regFault m a).bells = s.bells := rfl
@[simp] theorem State.regFault_dbg (s : State) (m : Master) (a : Nat) : (s.regFault m a).dbg = s.dbg := rfl
@[simp] theorem State.regFault_milk (s : State) (m : Master) (a : Nat) : (s.regFault m a).milk = s.milk := rfl
@[simp] theorem State.regFault_power (s : State) (m : Master) (a : Nat) : (s.regFault m a).power = s.power := rfl
@[simp] theorem State.regFault_scan (s : State) (m : Master) (a : Nat) : (s.regFault m a).scan = s.scan := rfl
@[simp] theorem State.regFault_now (s : State) (m : Master) (a : Nat) : (s.regFault m a).now = s.now := rfl

/-! ### State.countNdet changes `tick` and `now` -/

@[simp] theorem State.countNdet_pending (s : State) (k : Fin 5) (n : Nat) : (s.countNdet k n).pending = s.pending := rfl
@[simp] theorem State.countNdet_ck (s : State) (k : Fin 5) (n : Nat) : (s.countNdet k n).ck = s.ck := rfl
@[simp] theorem State.countNdet_fck (s : State) (k : Fin 5) (n : Nat) : (s.countNdet k n).fck = s.fck := rfl
@[simp] theorem State.countNdet_tickF (s : State) (k : Fin 5) (n : Nat) : (s.countNdet k n).tickF = s.tickF := rfl
@[simp] theorem State.countNdet_frameF (s : State) (k : Fin 5) (n : Nat) : (s.countNdet k n).frameF = s.frameF := rfl
@[simp] theorem State.countNdet_round (s : State) (k : Fin 5) (n : Nat) : (s.countNdet k n).round = s.round := rfl
@[simp] theorem State.countNdet_free (s : State) (k : Fin 5) (n : Nat) : (s.countNdet k n).free = s.free := rfl
@[simp] theorem State.countNdet_out (s : State) (k : Fin 5) (n : Nat) : (s.countNdet k n).out = s.out := rfl
@[simp] theorem State.countNdet_regs (s : State) (k : Fin 5) (n : Nat) : (s.countNdet k n).regs = s.regs := rfl
@[simp] theorem State.countNdet_mem (s : State) (k : Fin 5) (n : Nat) : (s.countNdet k n).mem = s.mem := rfl
@[simp] theorem State.countNdet_mesh (s : State) (k : Fin 5) (n : Nat) : (s.countNdet k n).mesh = s.mesh := rfl
@[simp] theorem State.countNdet_sync (s : State) (k : Fin 5) (n : Nat) : (s.countNdet k n).sync = s.sync := rfl
@[simp] theorem State.countNdet_tiles (s : State) (k : Fin 5) (n : Nat) : (s.countNdet k n).tiles = s.tiles := rfl
@[simp] theorem State.countNdet_plan (s : State) (k : Fin 5) (n : Nat) : (s.countNdet k n).plan = s.plan := rfl
@[simp] theorem State.countNdet_staged (s : State) (k : Fin 5) (n : Nat) : (s.countNdet k n).staged = s.staged := rfl
@[simp] theorem State.countNdet_errs (s : State) (k : Fin 5) (n : Nat) : (s.countNdet k n).errs = s.errs := rfl
@[simp] theorem State.countNdet_bellMsgs (s : State) (k : Fin 5) (n : Nat) : (s.countNdet k n).bellMsgs = s.bellMsgs := rfl
@[simp] theorem State.countNdet_faultSeen (s : State) (k : Fin 5) (n : Nat) : (s.countNdet k n).faultSeen = s.faultSeen := rfl
@[simp] theorem State.countNdet_faultedWindow (s : State) (k : Fin 5) (n : Nat) : (s.countNdet k n).faultedWindow = s.faultedWindow := rfl
@[simp] theorem State.countNdet_variantFault (s : State) (k : Fin 5) (n : Nat) : (s.countNdet k n).variantFault = s.variantFault := rfl
@[simp] theorem State.countNdet_err (s : State) (k : Fin 5) (n : Nat) : (s.countNdet k n).err = s.err := rfl
@[simp] theorem State.countNdet_host (s : State) (k : Fin 5) (n : Nat) : (s.countNdet k n).host = s.host := rfl
@[simp] theorem State.countNdet_ladle (s : State) (k : Fin 5) (n : Nat) : (s.countNdet k n).ladle = s.ladle := rfl
@[simp] theorem State.countNdet_accs (s : State) (k : Fin 5) (n : Nat) : (s.countNdet k n).accs = s.accs := rfl
@[simp] theorem State.countNdet_cacheWork (s : State) (k : Fin 5) (n : Nat) : (s.countNdet k n).cacheWork = s.cacheWork := rfl
@[simp] theorem State.countNdet_stew (s : State) (k : Fin 5) (n : Nat) : (s.countNdet k n).stew = s.stew := rfl
@[simp] theorem State.countNdet_bells (s : State) (k : Fin 5) (n : Nat) : (s.countNdet k n).bells = s.bells := rfl
@[simp] theorem State.countNdet_dbg (s : State) (k : Fin 5) (n : Nat) : (s.countNdet k n).dbg = s.dbg := rfl
@[simp] theorem State.countNdet_milk (s : State) (k : Fin 5) (n : Nat) : (s.countNdet k n).milk = s.milk := rfl
@[simp] theorem State.countNdet_power (s : State) (k : Fin 5) (n : Nat) : (s.countNdet k n).power = s.power := rfl
@[simp] theorem State.countNdet_scan (s : State) (k : Fin 5) (n : Nat) : (s.countNdet k n).scan = s.scan := rfl

/-! ### State.addFlit changes `mesh` alone -/

@[simp] theorem State.addFlit_pending (s : State) (f : Flit) : (s.addFlit f).pending = s.pending := rfl
@[simp] theorem State.addFlit_ck (s : State) (f : Flit) : (s.addFlit f).ck = s.ck := rfl
@[simp] theorem State.addFlit_fck (s : State) (f : Flit) : (s.addFlit f).fck = s.fck := rfl
@[simp] theorem State.addFlit_tickF (s : State) (f : Flit) : (s.addFlit f).tickF = s.tickF := rfl
@[simp] theorem State.addFlit_frameF (s : State) (f : Flit) : (s.addFlit f).frameF = s.frameF := rfl
@[simp] theorem State.addFlit_round (s : State) (f : Flit) : (s.addFlit f).round = s.round := rfl
@[simp] theorem State.addFlit_free (s : State) (f : Flit) : (s.addFlit f).free = s.free := rfl
@[simp] theorem State.addFlit_out (s : State) (f : Flit) : (s.addFlit f).out = s.out := rfl
@[simp] theorem State.addFlit_regs (s : State) (f : Flit) : (s.addFlit f).regs = s.regs := rfl
@[simp] theorem State.addFlit_mem (s : State) (f : Flit) : (s.addFlit f).mem = s.mem := rfl
@[simp] theorem State.addFlit_sync (s : State) (f : Flit) : (s.addFlit f).sync = s.sync := rfl
@[simp] theorem State.addFlit_tiles (s : State) (f : Flit) : (s.addFlit f).tiles = s.tiles := rfl
@[simp] theorem State.addFlit_tick (s : State) (f : Flit) : (s.addFlit f).tick = s.tick := rfl
@[simp] theorem State.addFlit_plan (s : State) (f : Flit) : (s.addFlit f).plan = s.plan := rfl
@[simp] theorem State.addFlit_staged (s : State) (f : Flit) : (s.addFlit f).staged = s.staged := rfl
@[simp] theorem State.addFlit_errs (s : State) (f : Flit) : (s.addFlit f).errs = s.errs := rfl
@[simp] theorem State.addFlit_bellMsgs (s : State) (f : Flit) : (s.addFlit f).bellMsgs = s.bellMsgs := rfl
@[simp] theorem State.addFlit_faultSeen (s : State) (f : Flit) : (s.addFlit f).faultSeen = s.faultSeen := rfl
@[simp] theorem State.addFlit_faultedWindow (s : State) (f : Flit) : (s.addFlit f).faultedWindow = s.faultedWindow := rfl
@[simp] theorem State.addFlit_variantFault (s : State) (f : Flit) : (s.addFlit f).variantFault = s.variantFault := rfl
@[simp] theorem State.addFlit_err (s : State) (f : Flit) : (s.addFlit f).err = s.err := rfl
@[simp] theorem State.addFlit_host (s : State) (f : Flit) : (s.addFlit f).host = s.host := rfl
@[simp] theorem State.addFlit_ladle (s : State) (f : Flit) : (s.addFlit f).ladle = s.ladle := rfl
@[simp] theorem State.addFlit_accs (s : State) (f : Flit) : (s.addFlit f).accs = s.accs := rfl
@[simp] theorem State.addFlit_cacheWork (s : State) (f : Flit) : (s.addFlit f).cacheWork = s.cacheWork := rfl
@[simp] theorem State.addFlit_stew (s : State) (f : Flit) : (s.addFlit f).stew = s.stew := rfl
@[simp] theorem State.addFlit_bells (s : State) (f : Flit) : (s.addFlit f).bells = s.bells := rfl
@[simp] theorem State.addFlit_dbg (s : State) (f : Flit) : (s.addFlit f).dbg = s.dbg := rfl
@[simp] theorem State.addFlit_milk (s : State) (f : Flit) : (s.addFlit f).milk = s.milk := rfl
@[simp] theorem State.addFlit_power (s : State) (f : Flit) : (s.addFlit f).power = s.power := rfl
@[simp] theorem State.addFlit_scan (s : State) (f : Flit) : (s.addFlit f).scan = s.scan := rfl
@[simp] theorem State.addFlit_now (s : State) (f : Flit) : (s.addFlit f).now = s.now := rfl

/-! ### State.dropFlit changes `mesh` alone -/

@[simp] theorem State.dropFlit_pending (s : State) (g : Nat) : (s.dropFlit g).pending = s.pending := rfl
@[simp] theorem State.dropFlit_ck (s : State) (g : Nat) : (s.dropFlit g).ck = s.ck := rfl
@[simp] theorem State.dropFlit_fck (s : State) (g : Nat) : (s.dropFlit g).fck = s.fck := rfl
@[simp] theorem State.dropFlit_tickF (s : State) (g : Nat) : (s.dropFlit g).tickF = s.tickF := rfl
@[simp] theorem State.dropFlit_frameF (s : State) (g : Nat) : (s.dropFlit g).frameF = s.frameF := rfl
@[simp] theorem State.dropFlit_round (s : State) (g : Nat) : (s.dropFlit g).round = s.round := rfl
@[simp] theorem State.dropFlit_free (s : State) (g : Nat) : (s.dropFlit g).free = s.free := rfl
@[simp] theorem State.dropFlit_out (s : State) (g : Nat) : (s.dropFlit g).out = s.out := rfl
@[simp] theorem State.dropFlit_regs (s : State) (g : Nat) : (s.dropFlit g).regs = s.regs := rfl
@[simp] theorem State.dropFlit_mem (s : State) (g : Nat) : (s.dropFlit g).mem = s.mem := rfl
@[simp] theorem State.dropFlit_sync (s : State) (g : Nat) : (s.dropFlit g).sync = s.sync := rfl
@[simp] theorem State.dropFlit_tiles (s : State) (g : Nat) : (s.dropFlit g).tiles = s.tiles := rfl
@[simp] theorem State.dropFlit_tick (s : State) (g : Nat) : (s.dropFlit g).tick = s.tick := rfl
@[simp] theorem State.dropFlit_plan (s : State) (g : Nat) : (s.dropFlit g).plan = s.plan := rfl
@[simp] theorem State.dropFlit_staged (s : State) (g : Nat) : (s.dropFlit g).staged = s.staged := rfl
@[simp] theorem State.dropFlit_errs (s : State) (g : Nat) : (s.dropFlit g).errs = s.errs := rfl
@[simp] theorem State.dropFlit_bellMsgs (s : State) (g : Nat) : (s.dropFlit g).bellMsgs = s.bellMsgs := rfl
@[simp] theorem State.dropFlit_faultSeen (s : State) (g : Nat) : (s.dropFlit g).faultSeen = s.faultSeen := rfl
@[simp] theorem State.dropFlit_faultedWindow (s : State) (g : Nat) : (s.dropFlit g).faultedWindow = s.faultedWindow := rfl
@[simp] theorem State.dropFlit_variantFault (s : State) (g : Nat) : (s.dropFlit g).variantFault = s.variantFault := rfl
@[simp] theorem State.dropFlit_err (s : State) (g : Nat) : (s.dropFlit g).err = s.err := rfl
@[simp] theorem State.dropFlit_host (s : State) (g : Nat) : (s.dropFlit g).host = s.host := rfl
@[simp] theorem State.dropFlit_ladle (s : State) (g : Nat) : (s.dropFlit g).ladle = s.ladle := rfl
@[simp] theorem State.dropFlit_accs (s : State) (g : Nat) : (s.dropFlit g).accs = s.accs := rfl
@[simp] theorem State.dropFlit_cacheWork (s : State) (g : Nat) : (s.dropFlit g).cacheWork = s.cacheWork := rfl
@[simp] theorem State.dropFlit_stew (s : State) (g : Nat) : (s.dropFlit g).stew = s.stew := rfl
@[simp] theorem State.dropFlit_bells (s : State) (g : Nat) : (s.dropFlit g).bells = s.bells := rfl
@[simp] theorem State.dropFlit_dbg (s : State) (g : Nat) : (s.dropFlit g).dbg = s.dbg := rfl
@[simp] theorem State.dropFlit_milk (s : State) (g : Nat) : (s.dropFlit g).milk = s.milk := rfl
@[simp] theorem State.dropFlit_power (s : State) (g : Nat) : (s.dropFlit g).power = s.power := rfl
@[simp] theorem State.dropFlit_scan (s : State) (g : Nat) : (s.dropFlit g).scan = s.scan := rfl
@[simp] theorem State.dropFlit_now (s : State) (g : Nat) : (s.dropFlit g).now = s.now := rfl

/-! ### State.modCore changes `stew` alone -/

@[simp] theorem State.modCore_pending (s : State) (k : Fin 4) (f : Steward → Steward) : (s.modCore k f).pending = s.pending := rfl
@[simp] theorem State.modCore_ck (s : State) (k : Fin 4) (f : Steward → Steward) : (s.modCore k f).ck = s.ck := rfl
@[simp] theorem State.modCore_fck (s : State) (k : Fin 4) (f : Steward → Steward) : (s.modCore k f).fck = s.fck := rfl
@[simp] theorem State.modCore_tickF (s : State) (k : Fin 4) (f : Steward → Steward) : (s.modCore k f).tickF = s.tickF := rfl
@[simp] theorem State.modCore_frameF (s : State) (k : Fin 4) (f : Steward → Steward) : (s.modCore k f).frameF = s.frameF := rfl
@[simp] theorem State.modCore_round (s : State) (k : Fin 4) (f : Steward → Steward) : (s.modCore k f).round = s.round := rfl
@[simp] theorem State.modCore_free (s : State) (k : Fin 4) (f : Steward → Steward) : (s.modCore k f).free = s.free := rfl
@[simp] theorem State.modCore_out (s : State) (k : Fin 4) (f : Steward → Steward) : (s.modCore k f).out = s.out := rfl
@[simp] theorem State.modCore_regs (s : State) (k : Fin 4) (f : Steward → Steward) : (s.modCore k f).regs = s.regs := rfl
@[simp] theorem State.modCore_mem (s : State) (k : Fin 4) (f : Steward → Steward) : (s.modCore k f).mem = s.mem := rfl
@[simp] theorem State.modCore_mesh (s : State) (k : Fin 4) (f : Steward → Steward) : (s.modCore k f).mesh = s.mesh := rfl
@[simp] theorem State.modCore_sync (s : State) (k : Fin 4) (f : Steward → Steward) : (s.modCore k f).sync = s.sync := rfl
@[simp] theorem State.modCore_tiles (s : State) (k : Fin 4) (f : Steward → Steward) : (s.modCore k f).tiles = s.tiles := rfl
@[simp] theorem State.modCore_tick (s : State) (k : Fin 4) (f : Steward → Steward) : (s.modCore k f).tick = s.tick := rfl
@[simp] theorem State.modCore_plan (s : State) (k : Fin 4) (f : Steward → Steward) : (s.modCore k f).plan = s.plan := rfl
@[simp] theorem State.modCore_staged (s : State) (k : Fin 4) (f : Steward → Steward) : (s.modCore k f).staged = s.staged := rfl
@[simp] theorem State.modCore_errs (s : State) (k : Fin 4) (f : Steward → Steward) : (s.modCore k f).errs = s.errs := rfl
@[simp] theorem State.modCore_bellMsgs (s : State) (k : Fin 4) (f : Steward → Steward) : (s.modCore k f).bellMsgs = s.bellMsgs := rfl
@[simp] theorem State.modCore_faultSeen (s : State) (k : Fin 4) (f : Steward → Steward) : (s.modCore k f).faultSeen = s.faultSeen := rfl
@[simp] theorem State.modCore_faultedWindow (s : State) (k : Fin 4) (f : Steward → Steward) : (s.modCore k f).faultedWindow = s.faultedWindow := rfl
@[simp] theorem State.modCore_variantFault (s : State) (k : Fin 4) (f : Steward → Steward) : (s.modCore k f).variantFault = s.variantFault := rfl
@[simp] theorem State.modCore_err (s : State) (k : Fin 4) (f : Steward → Steward) : (s.modCore k f).err = s.err := rfl
@[simp] theorem State.modCore_host (s : State) (k : Fin 4) (f : Steward → Steward) : (s.modCore k f).host = s.host := rfl
@[simp] theorem State.modCore_ladle (s : State) (k : Fin 4) (f : Steward → Steward) : (s.modCore k f).ladle = s.ladle := rfl
@[simp] theorem State.modCore_accs (s : State) (k : Fin 4) (f : Steward → Steward) : (s.modCore k f).accs = s.accs := rfl
@[simp] theorem State.modCore_cacheWork (s : State) (k : Fin 4) (f : Steward → Steward) : (s.modCore k f).cacheWork = s.cacheWork := rfl
@[simp] theorem State.modCore_bells (s : State) (k : Fin 4) (f : Steward → Steward) : (s.modCore k f).bells = s.bells := rfl
@[simp] theorem State.modCore_dbg (s : State) (k : Fin 4) (f : Steward → Steward) : (s.modCore k f).dbg = s.dbg := rfl
@[simp] theorem State.modCore_milk (s : State) (k : Fin 4) (f : Steward → Steward) : (s.modCore k f).milk = s.milk := rfl
@[simp] theorem State.modCore_power (s : State) (k : Fin 4) (f : Steward → Steward) : (s.modCore k f).power = s.power := rfl
@[simp] theorem State.modCore_scan (s : State) (k : Fin 4) (f : Steward → Steward) : (s.modCore k f).scan = s.scan := rfl
@[simp] theorem State.modCore_now (s : State) (k : Fin 4) (f : Steward → Steward) : (s.modCore k f).now = s.now := rfl

/-! ### State.modLad changes `ladle` alone -/

@[simp] theorem State.modLad_pending (s : State) (l : Fin 16) (f : Ladle → Ladle) : (s.modLad l f).pending = s.pending := rfl
@[simp] theorem State.modLad_ck (s : State) (l : Fin 16) (f : Ladle → Ladle) : (s.modLad l f).ck = s.ck := rfl
@[simp] theorem State.modLad_fck (s : State) (l : Fin 16) (f : Ladle → Ladle) : (s.modLad l f).fck = s.fck := rfl
@[simp] theorem State.modLad_tickF (s : State) (l : Fin 16) (f : Ladle → Ladle) : (s.modLad l f).tickF = s.tickF := rfl
@[simp] theorem State.modLad_frameF (s : State) (l : Fin 16) (f : Ladle → Ladle) : (s.modLad l f).frameF = s.frameF := rfl
@[simp] theorem State.modLad_round (s : State) (l : Fin 16) (f : Ladle → Ladle) : (s.modLad l f).round = s.round := rfl
@[simp] theorem State.modLad_free (s : State) (l : Fin 16) (f : Ladle → Ladle) : (s.modLad l f).free = s.free := rfl
@[simp] theorem State.modLad_out (s : State) (l : Fin 16) (f : Ladle → Ladle) : (s.modLad l f).out = s.out := rfl
@[simp] theorem State.modLad_regs (s : State) (l : Fin 16) (f : Ladle → Ladle) : (s.modLad l f).regs = s.regs := rfl
@[simp] theorem State.modLad_mem (s : State) (l : Fin 16) (f : Ladle → Ladle) : (s.modLad l f).mem = s.mem := rfl
@[simp] theorem State.modLad_mesh (s : State) (l : Fin 16) (f : Ladle → Ladle) : (s.modLad l f).mesh = s.mesh := rfl
@[simp] theorem State.modLad_sync (s : State) (l : Fin 16) (f : Ladle → Ladle) : (s.modLad l f).sync = s.sync := rfl
@[simp] theorem State.modLad_tiles (s : State) (l : Fin 16) (f : Ladle → Ladle) : (s.modLad l f).tiles = s.tiles := rfl
@[simp] theorem State.modLad_tick (s : State) (l : Fin 16) (f : Ladle → Ladle) : (s.modLad l f).tick = s.tick := rfl
@[simp] theorem State.modLad_plan (s : State) (l : Fin 16) (f : Ladle → Ladle) : (s.modLad l f).plan = s.plan := rfl
@[simp] theorem State.modLad_staged (s : State) (l : Fin 16) (f : Ladle → Ladle) : (s.modLad l f).staged = s.staged := rfl
@[simp] theorem State.modLad_errs (s : State) (l : Fin 16) (f : Ladle → Ladle) : (s.modLad l f).errs = s.errs := rfl
@[simp] theorem State.modLad_bellMsgs (s : State) (l : Fin 16) (f : Ladle → Ladle) : (s.modLad l f).bellMsgs = s.bellMsgs := rfl
@[simp] theorem State.modLad_faultSeen (s : State) (l : Fin 16) (f : Ladle → Ladle) : (s.modLad l f).faultSeen = s.faultSeen := rfl
@[simp] theorem State.modLad_faultedWindow (s : State) (l : Fin 16) (f : Ladle → Ladle) : (s.modLad l f).faultedWindow = s.faultedWindow := rfl
@[simp] theorem State.modLad_variantFault (s : State) (l : Fin 16) (f : Ladle → Ladle) : (s.modLad l f).variantFault = s.variantFault := rfl
@[simp] theorem State.modLad_err (s : State) (l : Fin 16) (f : Ladle → Ladle) : (s.modLad l f).err = s.err := rfl
@[simp] theorem State.modLad_host (s : State) (l : Fin 16) (f : Ladle → Ladle) : (s.modLad l f).host = s.host := rfl
@[simp] theorem State.modLad_accs (s : State) (l : Fin 16) (f : Ladle → Ladle) : (s.modLad l f).accs = s.accs := rfl
@[simp] theorem State.modLad_cacheWork (s : State) (l : Fin 16) (f : Ladle → Ladle) : (s.modLad l f).cacheWork = s.cacheWork := rfl
@[simp] theorem State.modLad_stew (s : State) (l : Fin 16) (f : Ladle → Ladle) : (s.modLad l f).stew = s.stew := rfl
@[simp] theorem State.modLad_bells (s : State) (l : Fin 16) (f : Ladle → Ladle) : (s.modLad l f).bells = s.bells := rfl
@[simp] theorem State.modLad_dbg (s : State) (l : Fin 16) (f : Ladle → Ladle) : (s.modLad l f).dbg = s.dbg := rfl
@[simp] theorem State.modLad_milk (s : State) (l : Fin 16) (f : Ladle → Ladle) : (s.modLad l f).milk = s.milk := rfl
@[simp] theorem State.modLad_power (s : State) (l : Fin 16) (f : Ladle → Ladle) : (s.modLad l f).power = s.power := rfl
@[simp] theorem State.modLad_scan (s : State) (l : Fin 16) (f : Ladle → Ladle) : (s.modLad l f).scan = s.scan := rfl
@[simp] theorem State.modLad_now (s : State) (l : Fin 16) (f : Ladle → Ladle) : (s.modLad l f).now = s.now := rfl

/-! ### State.setQ changes `host` alone -/

@[simp] theorem State.setQ_pending (s : State) (q : Nat) (x : Queue) : (s.setQ q x).pending = s.pending := rfl
@[simp] theorem State.setQ_ck (s : State) (q : Nat) (x : Queue) : (s.setQ q x).ck = s.ck := rfl
@[simp] theorem State.setQ_fck (s : State) (q : Nat) (x : Queue) : (s.setQ q x).fck = s.fck := rfl
@[simp] theorem State.setQ_tickF (s : State) (q : Nat) (x : Queue) : (s.setQ q x).tickF = s.tickF := rfl
@[simp] theorem State.setQ_frameF (s : State) (q : Nat) (x : Queue) : (s.setQ q x).frameF = s.frameF := rfl
@[simp] theorem State.setQ_round (s : State) (q : Nat) (x : Queue) : (s.setQ q x).round = s.round := rfl
@[simp] theorem State.setQ_free (s : State) (q : Nat) (x : Queue) : (s.setQ q x).free = s.free := rfl
@[simp] theorem State.setQ_out (s : State) (q : Nat) (x : Queue) : (s.setQ q x).out = s.out := rfl
@[simp] theorem State.setQ_regs (s : State) (q : Nat) (x : Queue) : (s.setQ q x).regs = s.regs := rfl
@[simp] theorem State.setQ_mem (s : State) (q : Nat) (x : Queue) : (s.setQ q x).mem = s.mem := rfl
@[simp] theorem State.setQ_mesh (s : State) (q : Nat) (x : Queue) : (s.setQ q x).mesh = s.mesh := rfl
@[simp] theorem State.setQ_sync (s : State) (q : Nat) (x : Queue) : (s.setQ q x).sync = s.sync := rfl
@[simp] theorem State.setQ_tiles (s : State) (q : Nat) (x : Queue) : (s.setQ q x).tiles = s.tiles := rfl
@[simp] theorem State.setQ_tick (s : State) (q : Nat) (x : Queue) : (s.setQ q x).tick = s.tick := rfl
@[simp] theorem State.setQ_plan (s : State) (q : Nat) (x : Queue) : (s.setQ q x).plan = s.plan := rfl
@[simp] theorem State.setQ_staged (s : State) (q : Nat) (x : Queue) : (s.setQ q x).staged = s.staged := rfl
@[simp] theorem State.setQ_errs (s : State) (q : Nat) (x : Queue) : (s.setQ q x).errs = s.errs := rfl
@[simp] theorem State.setQ_bellMsgs (s : State) (q : Nat) (x : Queue) : (s.setQ q x).bellMsgs = s.bellMsgs := rfl
@[simp] theorem State.setQ_faultSeen (s : State) (q : Nat) (x : Queue) : (s.setQ q x).faultSeen = s.faultSeen := rfl
@[simp] theorem State.setQ_faultedWindow (s : State) (q : Nat) (x : Queue) : (s.setQ q x).faultedWindow = s.faultedWindow := rfl
@[simp] theorem State.setQ_variantFault (s : State) (q : Nat) (x : Queue) : (s.setQ q x).variantFault = s.variantFault := rfl
@[simp] theorem State.setQ_err (s : State) (q : Nat) (x : Queue) : (s.setQ q x).err = s.err := rfl
@[simp] theorem State.setQ_ladle (s : State) (q : Nat) (x : Queue) : (s.setQ q x).ladle = s.ladle := rfl
@[simp] theorem State.setQ_accs (s : State) (q : Nat) (x : Queue) : (s.setQ q x).accs = s.accs := rfl
@[simp] theorem State.setQ_cacheWork (s : State) (q : Nat) (x : Queue) : (s.setQ q x).cacheWork = s.cacheWork := rfl
@[simp] theorem State.setQ_stew (s : State) (q : Nat) (x : Queue) : (s.setQ q x).stew = s.stew := rfl
@[simp] theorem State.setQ_bells (s : State) (q : Nat) (x : Queue) : (s.setQ q x).bells = s.bells := rfl
@[simp] theorem State.setQ_dbg (s : State) (q : Nat) (x : Queue) : (s.setQ q x).dbg = s.dbg := rfl
@[simp] theorem State.setQ_milk (s : State) (q : Nat) (x : Queue) : (s.setQ q x).milk = s.milk := rfl
@[simp] theorem State.setQ_power (s : State) (q : Nat) (x : Queue) : (s.setQ q x).power = s.power := rfl
@[simp] theorem State.setQ_scan (s : State) (q : Nat) (x : Queue) : (s.setQ q x).scan = s.scan := rfl
@[simp] theorem State.setQ_now (s : State) (q : Nat) (x : Queue) : (s.setQ q x).now = s.now := rfl

/-! ### State.useBank changes `mem` alone -/

@[simp] theorem State.useBank_pending (s : State) (m b : Nat) : (s.useBank m b).pending = s.pending := rfl
@[simp] theorem State.useBank_ck (s : State) (m b : Nat) : (s.useBank m b).ck = s.ck := rfl
@[simp] theorem State.useBank_fck (s : State) (m b : Nat) : (s.useBank m b).fck = s.fck := rfl
@[simp] theorem State.useBank_tickF (s : State) (m b : Nat) : (s.useBank m b).tickF = s.tickF := rfl
@[simp] theorem State.useBank_frameF (s : State) (m b : Nat) : (s.useBank m b).frameF = s.frameF := rfl
@[simp] theorem State.useBank_round (s : State) (m b : Nat) : (s.useBank m b).round = s.round := rfl
@[simp] theorem State.useBank_free (s : State) (m b : Nat) : (s.useBank m b).free = s.free := rfl
@[simp] theorem State.useBank_out (s : State) (m b : Nat) : (s.useBank m b).out = s.out := rfl
@[simp] theorem State.useBank_regs (s : State) (m b : Nat) : (s.useBank m b).regs = s.regs := rfl
@[simp] theorem State.useBank_mesh (s : State) (m b : Nat) : (s.useBank m b).mesh = s.mesh := rfl
@[simp] theorem State.useBank_sync (s : State) (m b : Nat) : (s.useBank m b).sync = s.sync := rfl
@[simp] theorem State.useBank_tiles (s : State) (m b : Nat) : (s.useBank m b).tiles = s.tiles := rfl
@[simp] theorem State.useBank_tick (s : State) (m b : Nat) : (s.useBank m b).tick = s.tick := rfl
@[simp] theorem State.useBank_plan (s : State) (m b : Nat) : (s.useBank m b).plan = s.plan := rfl
@[simp] theorem State.useBank_staged (s : State) (m b : Nat) : (s.useBank m b).staged = s.staged := rfl
@[simp] theorem State.useBank_errs (s : State) (m b : Nat) : (s.useBank m b).errs = s.errs := rfl
@[simp] theorem State.useBank_bellMsgs (s : State) (m b : Nat) : (s.useBank m b).bellMsgs = s.bellMsgs := rfl
@[simp] theorem State.useBank_faultSeen (s : State) (m b : Nat) : (s.useBank m b).faultSeen = s.faultSeen := rfl
@[simp] theorem State.useBank_faultedWindow (s : State) (m b : Nat) : (s.useBank m b).faultedWindow = s.faultedWindow := rfl
@[simp] theorem State.useBank_variantFault (s : State) (m b : Nat) : (s.useBank m b).variantFault = s.variantFault := rfl
@[simp] theorem State.useBank_err (s : State) (m b : Nat) : (s.useBank m b).err = s.err := rfl
@[simp] theorem State.useBank_host (s : State) (m b : Nat) : (s.useBank m b).host = s.host := rfl
@[simp] theorem State.useBank_ladle (s : State) (m b : Nat) : (s.useBank m b).ladle = s.ladle := rfl
@[simp] theorem State.useBank_accs (s : State) (m b : Nat) : (s.useBank m b).accs = s.accs := rfl
@[simp] theorem State.useBank_cacheWork (s : State) (m b : Nat) : (s.useBank m b).cacheWork = s.cacheWork := rfl
@[simp] theorem State.useBank_stew (s : State) (m b : Nat) : (s.useBank m b).stew = s.stew := rfl
@[simp] theorem State.useBank_bells (s : State) (m b : Nat) : (s.useBank m b).bells = s.bells := rfl
@[simp] theorem State.useBank_dbg (s : State) (m b : Nat) : (s.useBank m b).dbg = s.dbg := rfl
@[simp] theorem State.useBank_milk (s : State) (m b : Nat) : (s.useBank m b).milk = s.milk := rfl
@[simp] theorem State.useBank_power (s : State) (m b : Nat) : (s.useBank m b).power = s.power := rfl
@[simp] theorem State.useBank_scan (s : State) (m b : Nat) : (s.useBank m b).scan = s.scan := rfl
@[simp] theorem State.useBank_now (s : State) (m b : Nat) : (s.useBank m b).now = s.now := rfl

/-! ### State.clearEcc changes `mem` alone -/

@[simp] theorem State.clearEcc_pending (s : State) (a n : Nat) : (s.clearEcc a n).pending = s.pending := rfl
@[simp] theorem State.clearEcc_ck (s : State) (a n : Nat) : (s.clearEcc a n).ck = s.ck := rfl
@[simp] theorem State.clearEcc_fck (s : State) (a n : Nat) : (s.clearEcc a n).fck = s.fck := rfl
@[simp] theorem State.clearEcc_tickF (s : State) (a n : Nat) : (s.clearEcc a n).tickF = s.tickF := rfl
@[simp] theorem State.clearEcc_frameF (s : State) (a n : Nat) : (s.clearEcc a n).frameF = s.frameF := rfl
@[simp] theorem State.clearEcc_round (s : State) (a n : Nat) : (s.clearEcc a n).round = s.round := rfl
@[simp] theorem State.clearEcc_free (s : State) (a n : Nat) : (s.clearEcc a n).free = s.free := rfl
@[simp] theorem State.clearEcc_out (s : State) (a n : Nat) : (s.clearEcc a n).out = s.out := rfl
@[simp] theorem State.clearEcc_regs (s : State) (a n : Nat) : (s.clearEcc a n).regs = s.regs := rfl
@[simp] theorem State.clearEcc_mesh (s : State) (a n : Nat) : (s.clearEcc a n).mesh = s.mesh := rfl
@[simp] theorem State.clearEcc_sync (s : State) (a n : Nat) : (s.clearEcc a n).sync = s.sync := rfl
@[simp] theorem State.clearEcc_tiles (s : State) (a n : Nat) : (s.clearEcc a n).tiles = s.tiles := rfl
@[simp] theorem State.clearEcc_tick (s : State) (a n : Nat) : (s.clearEcc a n).tick = s.tick := rfl
@[simp] theorem State.clearEcc_plan (s : State) (a n : Nat) : (s.clearEcc a n).plan = s.plan := rfl
@[simp] theorem State.clearEcc_staged (s : State) (a n : Nat) : (s.clearEcc a n).staged = s.staged := rfl
@[simp] theorem State.clearEcc_errs (s : State) (a n : Nat) : (s.clearEcc a n).errs = s.errs := rfl
@[simp] theorem State.clearEcc_bellMsgs (s : State) (a n : Nat) : (s.clearEcc a n).bellMsgs = s.bellMsgs := rfl
@[simp] theorem State.clearEcc_faultSeen (s : State) (a n : Nat) : (s.clearEcc a n).faultSeen = s.faultSeen := rfl
@[simp] theorem State.clearEcc_faultedWindow (s : State) (a n : Nat) : (s.clearEcc a n).faultedWindow = s.faultedWindow := rfl
@[simp] theorem State.clearEcc_variantFault (s : State) (a n : Nat) : (s.clearEcc a n).variantFault = s.variantFault := rfl
@[simp] theorem State.clearEcc_err (s : State) (a n : Nat) : (s.clearEcc a n).err = s.err := rfl
@[simp] theorem State.clearEcc_host (s : State) (a n : Nat) : (s.clearEcc a n).host = s.host := rfl
@[simp] theorem State.clearEcc_ladle (s : State) (a n : Nat) : (s.clearEcc a n).ladle = s.ladle := rfl
@[simp] theorem State.clearEcc_accs (s : State) (a n : Nat) : (s.clearEcc a n).accs = s.accs := rfl
@[simp] theorem State.clearEcc_cacheWork (s : State) (a n : Nat) : (s.clearEcc a n).cacheWork = s.cacheWork := rfl
@[simp] theorem State.clearEcc_stew (s : State) (a n : Nat) : (s.clearEcc a n).stew = s.stew := rfl
@[simp] theorem State.clearEcc_bells (s : State) (a n : Nat) : (s.clearEcc a n).bells = s.bells := rfl
@[simp] theorem State.clearEcc_dbg (s : State) (a n : Nat) : (s.clearEcc a n).dbg = s.dbg := rfl
@[simp] theorem State.clearEcc_milk (s : State) (a n : Nat) : (s.clearEcc a n).milk = s.milk := rfl
@[simp] theorem State.clearEcc_power (s : State) (a n : Nat) : (s.clearEcc a n).power = s.power := rfl
@[simp] theorem State.clearEcc_scan (s : State) (a n : Nat) : (s.clearEcc a n).scan = s.scan := rfl
@[simp] theorem State.clearEcc_now (s : State) (a n : Nat) : (s.clearEcc a n).now = s.now := rfl

/-! ### State.writeClaimed changes `mem` alone -/

@[simp] theorem State.writeClaimed_pending (s : State) (a : Nat) (bs : List Byte) : (s.writeClaimed a bs).pending = s.pending := rfl
@[simp] theorem State.writeClaimed_ck (s : State) (a : Nat) (bs : List Byte) : (s.writeClaimed a bs).ck = s.ck := rfl
@[simp] theorem State.writeClaimed_fck (s : State) (a : Nat) (bs : List Byte) : (s.writeClaimed a bs).fck = s.fck := rfl
@[simp] theorem State.writeClaimed_tickF (s : State) (a : Nat) (bs : List Byte) : (s.writeClaimed a bs).tickF = s.tickF := rfl
@[simp] theorem State.writeClaimed_frameF (s : State) (a : Nat) (bs : List Byte) : (s.writeClaimed a bs).frameF = s.frameF := rfl
@[simp] theorem State.writeClaimed_round (s : State) (a : Nat) (bs : List Byte) : (s.writeClaimed a bs).round = s.round := rfl
@[simp] theorem State.writeClaimed_free (s : State) (a : Nat) (bs : List Byte) : (s.writeClaimed a bs).free = s.free := rfl
@[simp] theorem State.writeClaimed_out (s : State) (a : Nat) (bs : List Byte) : (s.writeClaimed a bs).out = s.out := rfl
@[simp] theorem State.writeClaimed_regs (s : State) (a : Nat) (bs : List Byte) : (s.writeClaimed a bs).regs = s.regs := rfl
@[simp] theorem State.writeClaimed_mesh (s : State) (a : Nat) (bs : List Byte) : (s.writeClaimed a bs).mesh = s.mesh := rfl
@[simp] theorem State.writeClaimed_sync (s : State) (a : Nat) (bs : List Byte) : (s.writeClaimed a bs).sync = s.sync := rfl
@[simp] theorem State.writeClaimed_tiles (s : State) (a : Nat) (bs : List Byte) : (s.writeClaimed a bs).tiles = s.tiles := rfl
@[simp] theorem State.writeClaimed_tick (s : State) (a : Nat) (bs : List Byte) : (s.writeClaimed a bs).tick = s.tick := rfl
@[simp] theorem State.writeClaimed_plan (s : State) (a : Nat) (bs : List Byte) : (s.writeClaimed a bs).plan = s.plan := rfl
@[simp] theorem State.writeClaimed_staged (s : State) (a : Nat) (bs : List Byte) : (s.writeClaimed a bs).staged = s.staged := rfl
@[simp] theorem State.writeClaimed_errs (s : State) (a : Nat) (bs : List Byte) : (s.writeClaimed a bs).errs = s.errs := rfl
@[simp] theorem State.writeClaimed_bellMsgs (s : State) (a : Nat) (bs : List Byte) : (s.writeClaimed a bs).bellMsgs = s.bellMsgs := rfl
@[simp] theorem State.writeClaimed_faultSeen (s : State) (a : Nat) (bs : List Byte) : (s.writeClaimed a bs).faultSeen = s.faultSeen := rfl
@[simp] theorem State.writeClaimed_faultedWindow (s : State) (a : Nat) (bs : List Byte) : (s.writeClaimed a bs).faultedWindow = s.faultedWindow := rfl
@[simp] theorem State.writeClaimed_variantFault (s : State) (a : Nat) (bs : List Byte) : (s.writeClaimed a bs).variantFault = s.variantFault := rfl
@[simp] theorem State.writeClaimed_err (s : State) (a : Nat) (bs : List Byte) : (s.writeClaimed a bs).err = s.err := rfl
@[simp] theorem State.writeClaimed_host (s : State) (a : Nat) (bs : List Byte) : (s.writeClaimed a bs).host = s.host := rfl
@[simp] theorem State.writeClaimed_ladle (s : State) (a : Nat) (bs : List Byte) : (s.writeClaimed a bs).ladle = s.ladle := rfl
@[simp] theorem State.writeClaimed_accs (s : State) (a : Nat) (bs : List Byte) : (s.writeClaimed a bs).accs = s.accs := rfl
@[simp] theorem State.writeClaimed_cacheWork (s : State) (a : Nat) (bs : List Byte) : (s.writeClaimed a bs).cacheWork = s.cacheWork := rfl
@[simp] theorem State.writeClaimed_stew (s : State) (a : Nat) (bs : List Byte) : (s.writeClaimed a bs).stew = s.stew := rfl
@[simp] theorem State.writeClaimed_bells (s : State) (a : Nat) (bs : List Byte) : (s.writeClaimed a bs).bells = s.bells := rfl
@[simp] theorem State.writeClaimed_dbg (s : State) (a : Nat) (bs : List Byte) : (s.writeClaimed a bs).dbg = s.dbg := rfl
@[simp] theorem State.writeClaimed_milk (s : State) (a : Nat) (bs : List Byte) : (s.writeClaimed a bs).milk = s.milk := rfl
@[simp] theorem State.writeClaimed_power (s : State) (a : Nat) (bs : List Byte) : (s.writeClaimed a bs).power = s.power := rfl
@[simp] theorem State.writeClaimed_scan (s : State) (a : Nat) (bs : List Byte) : (s.writeClaimed a bs).scan = s.scan := rfl
@[simp] theorem State.writeClaimed_now (s : State) (a : Nat) (bs : List Byte) : (s.writeClaimed a bs).now = s.now := rfl

/-! ### Reads after updates -/

@[simp] theorem State.reg_setReg_same (s : State) (a : Nat) (v : Word) : (s.setReg a v).reg a = v := by
  simp [State.reg, State.setReg]

theorem State.reg_setReg_other (s : State) (a b : Nat) (v : Word) (h : b ≠ a) : (s.setReg a v).reg b = s.reg b := by
  simp [State.reg, State.setReg, Sparse.get_set_other _ _ _ _ _ h]

@[simp] theorem State.reg_modReg_same (s : State) (a : Nat) (f : Word → Word) : (s.modReg a f).reg a = f (s.reg a) := by
  simp [State.modReg]

theorem State.reg_modReg_other (s : State) (a b : Nat) (f : Word → Word) (h : b ≠ a) : (s.modReg a f).reg b = s.reg b :=
  State.reg_setReg_other s a b _ h

@[simp] theorem State.reg_orReg_same (s : State) (a : Nat) (m : Word) : (s.orReg a m).reg a = s.reg a ||| m :=
  State.reg_setReg_same s a _

theorem State.reg_orReg_other (s : State) (a b : Nat) (m : Word) (h : b ≠ a) : (s.orReg a m).reg b = s.reg b :=
  State.reg_setReg_other s a b _ h

@[simp] theorem State.reg_clrReg_same (s : State) (a : Nat) (m : Word) : (s.clrReg a m).reg a = s.reg a &&& ~~~ m := by
  simp [State.clrReg]

theorem State.reg_clrReg_other (s : State) (a b : Nat) (m : Word) (h : b ≠ a) : (s.clrReg a m).reg b = s.reg b :=
  State.reg_setReg_other s a b _ h

@[simp] theorem State.reg_satReg_same (s : State) (a n : Nat) : (s.satReg a n).reg a = satAdd (s.reg a) n := by
  simp [State.satReg]

theorem State.reg_satReg_other (s : State) (a b n : Nat) (h : b ≠ a) : (s.satReg a n).reg b = s.reg b :=
  State.reg_setReg_other s a b _ h

theorem State.reg_incReg_other (s : State) (a b n : Nat) (h : b ≠ a) : (s.incReg a n).reg b = s.reg b :=
  State.reg_setReg_other s a b _ h

@[simp] theorem State.tile_setTile_same (s : State) (t : TileId) (x : Tile) : (s.setTile t x).tile t = x := by
  simp [State.tile, State.setTile]

theorem State.tile_setTile_other (s : State) (t u : TileId) (x : Tile) (h : u ≠ t) : (s.setTile t x).tile u = s.tile u := by
  have : t.val ≠ u.val := fun e => h (Fin.ext e.symm)
  simp [State.tile, State.setTile, this]

@[simp] theorem State.tile_modTile_same (s : State) (t : TileId) (f : Tile → Tile) : (s.modTile t f).tile t = f (s.tile t) := by
  simp [State.modTile]

theorem State.tile_modTile_other (s : State) (t u : TileId) (f : Tile → Tile) (h : u ≠ t) :
    (s.modTile t f).tile u = s.tile u := State.tile_setTile_other s t u _ h

@[simp] theorem Tile.thr_setThr_same (x : Tile) (th : ThreadId) (y : Thread) : (x.setThr th y).thr th = y := by
  simp [Tile.thr, Tile.setThr]

theorem Tile.thr_setThr_other (x : Tile) (th u : ThreadId) (y : Thread) (h : u ≠ th) : (x.setThr th y).thr u = x.thr u := by
  have : th.val ≠ u.val := fun e => h (Fin.ext e.symm)
  simp [Tile.thr, Tile.setThr, this]

@[simp] theorem State.thr_modThr_same (s : State) (t : TileId) (th : ThreadId) (f : Thread → Thread) :
    (s.modThr t th f).thr t th = f (s.thr t th) := by
  simp [State.thr, State.modThr]

theorem State.thr_modThr_other (s : State) (t u : TileId) (th uh : ThreadId) (f : Thread → Thread)
    (h : u ≠ t ∨ uh ≠ th) : (s.modThr t th f).thr u uh = s.thr u uh := by
  by_cases hu : u = t
  · subst hu
    have hh : uh ≠ th := h.resolve_left (fun e => e rfl)
    simp [State.thr, State.modThr, Tile.thr_setThr_other _ _ _ _ hh]
  · simp [State.thr, State.modThr, State.tile_modTile_other _ _ _ _ hu]

@[simp] theorem State.core_modCore_same (s : State) (k : Fin 4) (f : Steward → Steward) :
    (s.modCore k f).core k = f (s.core k) := by
  simp [State.core, State.modCore]

theorem State.core_modCore_other (s : State) (k j : Fin 4) (f : Steward → Steward) (h : j ≠ k) :
    (s.modCore k f).core j = s.core j := by
  have : k.val ≠ j.val := fun e => h (Fin.ext e.symm)
  simp [State.core, State.modCore, this]

end Sys2Proof.Machine
end

