-- ==== Sys2Proof/Laws/Thread.lean ====
section
/-!
SUPPORT. Laws of a thread's registers: what a read gives after a write, and what a write leaves as it was.
-/

namespace Sys2Proof.Machine

/-! ### s -/

theorem Thread.rs_mod (y : Thread) (i : Nat) : y.rs (i % 32) = y.rs i := by
  simp [Thread.rs, r5, Fin.ofNat]

@[simp] theorem Thread.rs_ws_same (y : Thread) (i : Nat) (x : Word) (c : Nat) (h : i % 32 ≠ 0) : (y.ws i x c).rs i = x := by
  simp [Thread.rs, Thread.ws, h]

theorem Thread.rs_ws_other (y : Thread) (i j : Nat) (x : Word) (c : Nat) (h : j % 32 ≠ i % 32) : (y.ws i x c).rs j = y.rs j := by
  unfold Thread.rs Thread.ws
  split
  · rfl
  · split
    · rfl
    ·
      have : (r5 i).val ≠ (r5 j).val := by simp [r5, Fin.ofNat]; omega
      simp [Vector.getElem_set_ne _ _ this]

@[simp] theorem Thread.ws_p (y : Thread) (i : Nat) (x : Word) (c : Nat) : (y.ws i x c).p = y.p := by
  unfold Thread.ws; split <;> rfl
@[simp] theorem Thread.ws_v (y : Thread) (i : Nat) (x : Word) (c : Nat) : (y.ws i x c).v = y.v := by
  unfold Thread.ws; split <;> rfl
@[simp] theorem Thread.ws_poison (y : Thread) (i : Nat) (x : Word) (c : Nat) : (y.ws i x c).poison = y.poison := by
  unfold Thread.ws; split <;> rfl
@[simp] theorem Thread.ws_gfirst (y : Thread) (i : Nat) (x : Word) (c : Nat) : (y.ws i x c).gfirst = y.gfirst := by
  unfold Thread.ws; split <;> rfl
@[simp] theorem Thread.ws_gprog (y : Thread) (i : Nat) (x : Word) (c : Nat) : (y.ws i x c).gprog = y.gprog := by
  unfold Thread.ws; split <;> rfl
@[simp] theorem Thread.ws_draw (y : Thread) (i : Nat) (x : Word) (c : Nat) : (y.ws i x c).draw = y.draw := by
  unfold Thread.ws; split <;> rfl
@[simp] theorem Thread.ws_next (y : Thread) (i : Nat) (x : Word) (c : Nat) : (y.ws i x c).next = y.next := by
  unfold Thread.ws; split <;> rfl
@[simp] theorem Thread.ws_pc (y : Thread) (i : Nat) (x : Word) (c : Nat) : (y.ws i x c).pc = y.pc := by
  unfold Thread.ws; split <;> rfl
@[simp] theorem Thread.ws_st (y : Thread) (i : Nat) (x : Word) (c : Nat) : (y.ws i x c).st = y.st := by
  unfold Thread.ws; split <;> rfl

/-! ### p -/

theorem Thread.rp_wp_same (y : Thread) (i : Nat) (b : Bool) (c : Nat) (h : i % 8 ≠ 0) : (y.wp i b c).rp i = b := by
  have hi : i % 8 < 8 := Nat.mod_lt _ (by decide)
  unfold Thread.rp Thread.wp
  simp only [h, if_false, Thread.setReady]
  generalize i % 8 = k at *
  cases b
  · have : k = 1 ∨ k = 2 ∨ k = 3 ∨ k = 4 ∨ k = 5 ∨ k = 6 ∨ k = 7 := by omega
    rcases this with rfl | rfl | rfl | rfl | rfl | rfl | rfl <;> simp
  · have : k = 1 ∨ k = 2 ∨ k = 3 ∨ k = 4 ∨ k = 5 ∨ k = 6 ∨ k = 7 := by omega
    rcases this with rfl | rfl | rfl | rfl | rfl | rfl | rfl <;> simp

theorem Thread.rp_wp_other (y : Thread) (i j : Nat) (b : Bool) (c : Nat) (h : j % 8 ≠ i % 8) : (y.wp i b c).rp j = y.rp j := by
  have hi : i % 8 < 8 := Nat.mod_lt _ (by decide)
  have hj : j % 8 < 8 := Nat.mod_lt _ (by decide)
  unfold Thread.rp Thread.wp
  split
  · rfl
  · split
    · rfl
    · generalize i % 8 = k at *
      generalize j % 8 = l at *
      cases b <;> simp [hj] <;> omega

@[simp] theorem Thread.wp_s (y : Thread) (i : Nat) (b : Bool) (c : Nat) : (y.wp i b c).s = y.s := by
  unfold Thread.wp; split <;> rfl
@[simp] theorem Thread.wp_v (y : Thread) (i : Nat) (b : Bool) (c : Nat) : (y.wp i b c).v = y.v := by
  unfold Thread.wp; split <;> rfl
@[simp] theorem Thread.wp_poison (y : Thread) (i : Nat) (b : Bool) (c : Nat) : (y.wp i b c).poison = y.poison := by
  unfold Thread.wp; split <;> rfl
@[simp] theorem Thread.wp_gfirst (y : Thread) (i : Nat) (b : Bool) (c : Nat) : (y.wp i b c).gfirst = y.gfirst := by
  unfold Thread.wp; split <;> rfl
@[simp] theorem Thread.wp_gprog (y : Thread) (i : Nat) (b : Bool) (c : Nat) : (y.wp i b c).gprog = y.gprog := by
  unfold Thread.wp; split <;> rfl
@[simp] theorem Thread.wp_draw (y : Thread) (i : Nat) (b : Bool) (c : Nat) : (y.wp i b c).draw = y.draw := by
  unfold Thread.wp; split <;> rfl

/-! ### v -/

@[simp] theorem Thread.rv_wv_same (y : Thread) (i : Nat) (x : VWord) (po : VPoison) (c : Nat) : (y.wv i x po c).rv i = x := by
  simp [Thread.rv, Thread.wv]
@[simp] theorem Thread.rpo_wv_same (y : Thread) (i : Nat) (x : VWord) (po : VPoison) (c : Nat) : (y.wv i x po c).rpo i = po := by
  simp [Thread.rpo, Thread.wv]
theorem Thread.rv_wv_other (y : Thread) (i j : Nat) (x : VWord) (po : VPoison) (c : Nat) (h : j % 32 ≠ i % 32) :
    (y.wv i x po c).rv j = y.rv j := by
  have : (r5 i).val ≠ (r5 j).val := by simp [r5, Fin.ofNat]; omega
  simp [Thread.rv, Thread.wv, Thread.setReady, Vector.getElem_set_ne _ _ this]
theorem Thread.rpo_wv_other (y : Thread) (i j : Nat) (x : VWord) (po : VPoison) (c : Nat) (h : j % 32 ≠ i % 32) :
    (y.wv i x po c).rpo j = y.rpo j := by
  have : (r5 i).val ≠ (r5 j).val := by simp [r5, Fin.ofNat]; omega
  simp [Thread.rpo, Thread.wv, Thread.setReady, Vector.getElem_set_ne _ _ this]

/-! ### A thread replaced -/

theorem State.modThr_modThr (s : State) (t : TileId) (th : ThreadId) (f g : Thread → Thread) :
    (s.modThr t th f).modThr t th g = s.modThr t th (g ∘ f) := by
  simp [State.modThr, State.modTile, State.setTile, State.tile, Tile.setThr, Tile.thr]

theorem State.modThr_eq (s : State) (t : TileId) (th : ThreadId) (f : Thread → Thread) :
    s.modThr t th f = s.modThr t th (fun _ => (s.modThr t th f).thr t th) := by
  simp [State.modThr, State.modTile, State.setTile, State.thr, State.tile, Tile.setThr, Tile.thr]

end Sys2Proof.Machine
end

