-- ==== Sys2Proof/Laws/Slots.lean ====
section
/-!
SUPPORT. What a slot given as a command comes to: a slot that completes leaves its own state, one that raises a fault
leaves the fault's, and a C slot then moves the thread's PC.
-/

namespace Sys2Proof.Machine

theorem slotCommand_done {f : SlotFn} {k : Nat} {t : TileId} {th : ThreadId} {w : SlotWord} {s x : State}
    (h : f s t th (s.thr t th) w = .done x) : slotCommand f k t th w s = x := by
  simp only [slotCommand, h, SlotOut.done]

theorem slotCommand_raise {f : SlotFn} {k c a : Nat} {t : TileId} {th : ThreadId} {w : SlotWord} {s x : State}
    (h : f s t th (s.thr t th) w = .raise x c a) : slotCommand f k t th w s = x.slotFault t th c k a := by
  simp only [slotCommand, h, SlotOut.raise]

theorem slotCommand_illegal {f : SlotFn} {k : Nat} {t : TileId} {th : ThreadId} {w : SlotWord} {s x : State}
    (h : f s t th (s.thr t th) w = .illegal x) : slotCommand f k t th w s = x.slotFault t th 0x01 k 0 := by
  simp only [slotCommand, h, SlotOut.illegal]

/-- A branch taken becomes the thread's PC. -/
def Thread.turn (z : Thread) : Thread := { z with pc := z.next.getD z.pc, next := none }

theorem cCommand_done {f : SlotFn} {t : TileId} {th : ThreadId} {w : SlotWord} {s x : State}
    (h : f s t th (s.thr t th) w = .done x) : cCommand f t th w s = .next (x.modThr t th Thread.turn) := by
  rw [cCommand, slotCommand_done h]; rfl

theorem cSlot_on {legal : Bool} {e : State → SlotOut} {s : State} {y : Thread} {w : SlotWord} (hl : legal = true)
    (hg : guardOn y w = true) : cSlot legal e s y w = e s := by
  simp [cSlot, hl, hg]

theorem vSlot_on {legal : Bool} {n : Nat} {e : State → State} {s : State} {t : TileId} {th : ThreadId} {y : Thread}
    {w : SlotWord} (hl : legal = true) (hg : guardOn y w = true) :
    vSlot legal n e s t th y w = .done ((e s).advanceDraw t th (sf w 0 2) n) := by
  simp [vSlot, hl, hg]

theorem sf_lt (w : SlotWord) (lo n : Nat) : sf w lo n < 2 ^ n := Nat.mod_lt _ (Nat.pow_pos (by decide))

end Sys2Proof.Machine
end

