-- ==== Sys2Proof/Laws/Registers.lean ====
section
/-!
SUPPORT. Laws of register writes: a write that reaches its register has its effect; a saved bit field reads back; the
power bit of a domain; an update of a synchronisation object that nothing has touched in the ck.
-/

namespace Sys2Proof.Machine

/-- A write that reaches its register has its effect, on the state that notes the write (R11). -/
theorem State.regGate_open {s : State} {m : Master} {a : Nat} {k : State → State} (h : s.writes m a = true) :
    s.regGate m a k = k (s.noteWrite (masterCode m) a) := by
  unfold State.writes at h
  simp only [Bool.and_eq_true, Bool.or_eq_true, Bool.not_eq_true', decide_eq_true_eq] at h
  obtain ⟨⟨⟨h1, h2⟩, h3⟩, h4⟩ := h
  unfold State.regGate
  rw [h1, h4]
  have e1 : ¬ ((decide (m = .milkhouse) && !milkWrites a) = true) := by
    rcases h2 with h | h
    · simp [h]
    · simp [h]
  have e2 : ¬ ((decide (m = .host) && s.earlyWrite a) = true) := by simpa using h3
  simp only [Bool.not_true, Bool.false_eq_true, if_false, e1, e2]

/-- The trace unit that is off records nothing. -/
theorem State.trace_off {s : State} {t : TileId} (h : s.untraced t = true) (th : ThreadId) (ty obj who : Nat) (v : Word) :
    s.trace t th ty obj who v = s := by
  unfold State.untraced at h
  have : bit (s.treg t.val oTrCfg) 0 = false := by simpa using h
  simp [State.trace, this]

theorem bit_setBit_same (w : Word) (i : Nat) (b : Bool) (h : i < 32) : bit (setBit w i b) i = b := by
  unfold bit setBit setFld maskOf
  have e : (2 ^ 1 - 1) * 2 ^ i = 2 ^ i := by simp
  have z : (if b then 1 else 0) % 2 ^ 1 * 2 ^ i = if b then 2 ^ i else 0 := by cases b <;> simp
  rw [e, z]
  cases b <;> simp only [BitVec.getLsbD_or, BitVec.getLsbD_and, BitVec.getLsbD_not, BitVec.getLsbD_ofNat, h,
    Nat.testBit_two_pow_self, Nat.zero_testBit, decide_true, Bool.not_true, Bool.and_false, Bool.or_false,
    Bool.false_or, Bool.and_true, if_true, if_false, Bool.false_eq_true]

/-- An update that no plan bars, of an object that nothing has touched in the ck. -/
theorem State.applySync_untouched {s : State} {o : SyncOp} {b : Bool} (hp : s.planRuns = false ∨ s.mayUpdate o = true)
    (hu : s.untouched o.obj = true) :
    s.applySync o b = s.putSync o.obj
      { base := s.count o.obj, tick := none, arm := if o.arm then some (armRank o b, o.value) else none,
        adds := if o.arm then 0 else o.value } o.whoOf := by
  unfold State.untouched at hu
  simp only [Bool.and_eq_true, Option.isNone_iff_eq_none] at hu
  have e : s.syncCkOf o.obj = { base := s.count o.obj, tick := none, arm := none, adds := 0 } := by
    simp [State.syncCkOf, hu.2]
  unfold State.applySync
  rw [e]
  simp only [hu.1]
  have : ¬ ((s.planRuns && s.frameMarked o.obj && !s.mayUpdate o) = true) := by
    rcases hp with h | h <;> simp [h]
  simp only [this, if_false, Bool.not_true, Bool.false_eq_true]
  cases o.arm <;> simp

@[simp] theorem State.reg_putSync_same (s : State) (o : Nat) (r : SyncCk) (w : Nat) : (s.putSync o r w).reg (objReg o) = r.result := by
  unfold State.putSync
  dsimp only
  split
  · exact State.reg_setReg_same _ _ _
  · exact State.reg_setReg_same _ _ _

theorem State.reg_putSync_other (s : State) (o a : Nat) (r : SyncCk) (w : Nat) (h : a ≠ objReg o) :
    (s.putSync o r w).reg a = s.reg a := by
  unfold State.putSync
  dsimp only
  split
  · exact State.reg_setReg_other _ _ _ _ h
  · exact State.reg_setReg_other _ _ _ _ h

@[simp] theorem State.putSync_mem (s : State) (o : Nat) (r : SyncCk) (w : Nat) : (s.putSync o r w).mem = s.mem := by
  unfold State.putSync; dsimp only; split <;> rfl

theorem State.putSync_tiles (s : State) (o : Nat) (r : SyncCk) (w : Nat) (h : o < 2048) : (s.putSync o r w).tiles = s.tiles := by
  unfold State.putSync; simp [h]

end Sys2Proof.Machine
end

