-- ==== Sys2Proof/Laws/Vector.lean ====
section
/-!
SUPPORT. Lanes of a packed vector register, and what an element-wise V word leaves in each lane.
-/

namespace Sys2Proof.Machine

/-! ### Packing -/

theorem packBits_cons (w x : Nat) (l : List Nat) : packBits w (x :: l) = x % 2 ^ w + 2 ^ w * packBits w l := rfl

theorem packBits_lt (w : Nat) (l : List Nat) : packBits w l < 2 ^ (w * l.length) := by
  induction l with
  | nil => simp [packBits]
  | cons x l ih =>
    rw [packBits_cons, List.length_cons, Nat.mul_add, Nat.pow_add, Nat.mul_one, Nat.mul_comm (2 ^ (w * l.length))]
    have hx : x % 2 ^ w < 2 ^ w := Nat.mod_lt _ (Nat.pow_pos (by decide))
    have hm : 2 ^ w * (packBits w l + 1) ≤ 2 ^ w * 2 ^ (w * l.length) := Nat.mul_le_mul_left _ ih
    rw [Nat.mul_add, Nat.mul_one] at hm
    omega

theorem packBits_get (w : Nat) (l : List Nat) (k : Nat) (h : k < l.length) :
    packBits w l / 2 ^ (w * k) % 2 ^ w = l[k] % 2 ^ w := by
  induction l generalizing k with
  | nil => simp at h
  | cons x l ih =>
    have hp : 0 < 2 ^ w := Nat.pow_pos (by decide)
    rw [packBits_cons]
    cases k with
    | zero => simp [Nat.add_mul_mod_self_left]
    | succ k =>
      rw [Nat.mul_add, Nat.mul_one, Nat.add_comm (w * k), Nat.pow_add, ← Nat.div_div_eq_div_mul,
        Nat.add_mul_div_left _ _ hp, Nat.div_eq_of_lt (Nat.mod_lt _ hp), Nat.zero_add]
      exact ih k (by simpa using h)

/-- A lane of a packed register is the low bits of what was packed there. -/
theorem lane_packLanes (w : Nat) (l : List (Nat × Bool)) (k : Nat) (h : k < l.length) (hw : w * l.length ≤ 2048) :
    lane w (packLanes w l) k = l[k].1 % 2 ^ w := by
  have hb : packBits w (l.map (·.1)) < 2 ^ 2048 :=
    Nat.lt_of_lt_of_le (packBits_lt w _) (Nat.pow_le_pow_right Nat.zero_lt_two (by rw [List.length_map]; exact hw))
  rw [lane, packLanes, BitVec.toNat_ofNat, Nat.mod_eq_of_lt hb, packBits_get w _ k (by simpa using h)]
  simp

/-- A bit of a packed list of bit groups. -/
theorem packBits_testBit (w : Nat) (l : List Nat) (k i : Nat) (h : k < l.length) (hi : i < w) :
    (packBits w l).testBit (w * k + i) = l[k].testBit i := by
  have e := packBits_get w l k h
  have := congrArg (fun n => n.testBit i) e
  simpa [Nat.testBit_mod_two_pow, hi, Nat.testBit_div_two_pow, Nat.add_comm] using this

/-- The poison of a lane of a packed register is what was packed there. -/
theorem lanePoison_packPoison (w : Nat) (l : List (Nat × Bool)) (k : Nat) (h : k < l.length) (h8 : w = 8 ∨ w = 16 ∨ w = 32)
    (hw : w * l.length ≤ 2048) : lanePoison w (packPoison w l) k = l[k].2 := by
  have hlt : ¬ w < 8 := by omega
  have hk : w / 8 * (k + 1) ≤ 256 := by
    have : w / 8 * (k + 1) ≤ w / 8 * l.length := Nat.mul_le_mul_left _ h
    rcases h8 with rfl | rfl | rfl <;> omega
  have hbit : ∀ i, i < w / 8 → (packPoison w l).getLsbD (k * (w / 8) + i) = l[k].2 := by
    intro i hi
    have hin : k * (w / 8) + i < 256 := by
      rw [Nat.mul_add, Nat.mul_one, Nat.mul_comm] at hk; omega
    rw [packPoison, if_neg hlt, BitVec.getLsbD_ofNat, Nat.mul_comm k,
      packBits_testBit _ _ k i (by simpa using h) hi]
    rw [Nat.mul_comm] at hin
    simp only [hin, decide_true, Bool.true_and, List.getElem_map]
    cases l[k].2
    · simp
    · simpa [Nat.testBit_two_pow_sub_one] using hi
  rw [lanePoison, if_neg hlt]
  have h0 : 0 < w / 8 := by rcases h8 with rfl | rfl | rfl <;> decide
  cases hv : l[k].2
  · rw [List.any_eq_false]
    intro i hi
    simpa [hv] using hbit i (by simpa using hi)
  · rw [List.any_eq_true]
    exact ⟨0, by simpa using h0, by simpa [hv] using hbit 0 h0⟩

theorem typeBits_cases (ty : Nat) : typeBits ty = 8 ∨ typeBits ty = 16 ∨ typeBits ty = 32 := by
  unfold typeBits typeFmt
  split <;> simp [fmtBits]

/-! ### An element-wise word -/

theorem State.thr_advanceDraw (s : State) (t : TileId) (th : ThreadId) (r n : Nat) :
    (s.advanceDraw t th r n).thr t th =
      if r = 2 then { s.thr t th with draw := srAdvance (s.thr t th).draw n } else s.thr t th := by
  unfold State.advanceDraw
  split
  · simp [State.modThr, State.modTile, State.setTile, State.thr, State.tile, Tile.setThr, Tile.thr]
  · rfl

theorem Thread.wv_frame (y : Thread) (i : Nat) (x : VWord) (po : VPoison) (c : Nat) : y.sameButV (y.wv i x po c) i :=
  ⟨rfl, rfl, rfl, rfl, fun j h => ⟨Thread.rv_wv_other y i j x po c h, Thread.rpo_wv_other y i j x po c h⟩⟩

theorem vbLanes_get (y : Thread) (w : SlotWord) (k : Nat) (h : k < (vbLanes y (vfOf w)).length) :
    (vbLanes y (vfOf w))[k] = y.vbLane w k := by
  simp only [vbLanes, vfOf, Thread.vbLane] at h ⊢
  by_cases hb : sb w 3 = true <;> simp [hb, lanesOf, Thread.vlane]

theorem vbLanes_length (y : Thread) (w : SlotWord) : (vbLanes y (vfOf w)).length = 2048 / typeBits (sf w 4 3) := by
  simp only [vbLanes, vfOf]
  by_cases h : sb w 3 = true <;> simp [h, lanesOf]

theorem State.putV_draw (s : State) (t : TileId) (th : ThreadId) (vd b lat r n : Nat) (l : List (Nat × Bool)) :
    (s.putV t th vd b lat l).advanceDraw t th r n = s.modThr t th (fun z =>
      let y := z.wv vd (packLanes b l) (packPoison b l) (s.fck + lat)
      if r = 2 then { y with draw := srAdvance y.draw n } else y) := by
  unfold State.putV State.advanceDraw
  by_cases h : r = 2
  · simp only [h, if_true]; rw [State.modThr_modThr]; rfl
  · simp only [h, if_false]

/-- A lane of a register just written. -/
theorem Thread.vlane_wv (y : Thread) (b i c k : Nat) (l : List (Nat × Bool)) (hb : b = 8 ∨ b = 16 ∨ b = 32)
    (hl : l.length = 2048 / b) (hk : k < l.length) :
    (y.wv i (packLanes b l) (packPoison b l) c).vlane b i k = (l[k].1 % 2 ^ b, l[k].2) := by
  have hw : b * l.length ≤ 2048 := by rcases hb with rfl | rfl | rfl <;> omega
  rw [Thread.vlane, Thread.rv_wv_same, Thread.rpo_wv_same, lane_packLanes b l k hk hw, lanePoison_packPoison b l k hk hb hw]

theorem lane_or (c : Bool) (a b m : Nat) :
    ((if c = true then (a % m, true) else (b, false)).1 % m, (if c = true then (a % m, true) else (b, false)).2) =
      if c = true then (a % m, true) else (b % m, false) := by
  cases c <;> simp

/-- The draw counter holds no lane. -/
theorem Thread.vlane_draw (y : Thread) (r b i k : Nat) (d : Word) :
    Thread.vlane (if r = 2 then { y with draw := d } else y) b i k = y.vlane b i k := by
  by_cases h : r = 2 <;> simp only [h, if_true, if_false] <;> rfl

/-- Everything an element-wise V word does (R162, R216, R224): its lanes, and the draws of SR. -/
theorem vecMap_lanewise (usesD usesB : Bool) (lat n : Nat) (g : VF → Word → Nat → Nat → Nat → Nat)
    (s : State) (t : TileId) (th : ThreadId) (w : SlotWord) :
    s.lanewise ((vecMap usesD usesB lat g s t th (s.thr t th) w).advanceDraw t th (sf w 0 2) n) t th w usesD usesB
      (fun k d a b => g (vfOf w) (srDraw (s.srKeyOf t) (s.thr t th).draw k) d a b) := by
  have hc := typeBits_cases (sf w 4 3)
  unfold vecMap
  rw [State.putV_draw]
  refine ⟨State.modThr_eq _ _ _ _, ?_, ?_, ?_⟩
  · rw [State.thr_modThr_same]
    by_cases h : sf w 0 2 = 2 <;> simp only [h, if_true, if_false]
    · exact ⟨rfl, rfl, rfl, rfl, (Thread.wv_frame (s.thr t th) (sf w 17 5) _ _ (s.fck + lat)).2.2.2.2⟩
    · exact Thread.wv_frame (s.thr t th) (sf w 17 5) _ _ (s.fck + lat)
  · intro h
    rw [State.thr_modThr_same]
    simp only [h, if_false]
    rfl
  · intro k hk
    have hk' : k < 2048 / typeBits (vfOf w).ty := hk
    have hl := vbLanes_length (s.thr t th) w
    rw [State.thr_modThr_same]
    have key := fun (l : List (Nat × Bool)) (h1 : l.length = 2048 / typeBits (sf w 4 3)) (h2 : k < l.length) =>
      Thread.vlane_wv (s.thr t th) (typeBits (sf w 4 3)) (sf w 17 5) (s.fck + lat) k l hc h1 h2
    refine (Thread.vlane_draw _ _ _ _ _ _).trans ?_
    refine (key _ ?_ ?_).trans ?_
    · simp only [List.length_map, List.length_zipIdx, List.length_zip, hl]
      simp [lanesOf, vfOf]
    · simp only [List.length_map, List.length_zipIdx, List.length_zip, hl]
      simpa [lanesOf, vfOf] using hk
    · simp only [List.getElem_map, List.getElem_zipIdx, List.getElem_zip, vbLanes_get, lanesOf, List.getElem_range,
        Nat.zero_add]
      simp only [vfOf, Thread.vlane, State.typeSubst]
      exact lane_or _ _ _ _

/-- Lane functions that agree in the low bits describe the same result. -/
theorem State.lanewise_congr {s s' : State} {t : TileId} {th : ThreadId} {w : SlotWord} {usesD usesB : Bool}
    {g h : Nat → Nat → Nat → Nat → Nat}
    (e : ∀ k d a b, g k d a b % 2 ^ typeBits (sf w 4 3) = h k d a b % 2 ^ typeBits (sf w 4 3))
    (l : s.lanewise s' t th w usesD usesB g) : s.lanewise s' t th w usesD usesB h := by
  obtain ⟨h1, h2, h3, l⟩ := l
  refine ⟨h1, h2, h3, fun k hk => ?_⟩
  rw [l k hk, e]

/-- An element-wise V word given as a command: it answers a next state, whose lanes `g` gives. -/
theorem vCommand_lanewise {f : SlotFn} {legal usesD usesB : Bool} {n lat : Nat} {g : VF → Word → Nat → Nat → Nat → Nat}
    {s : State} {t : TileId} {th : ThreadId} {w : SlotWord} {h : Nat → Nat → Nat → Nat → Nat}
    (hf : f s t th (s.thr t th) w =
      vSlot legal n (fun x => vecMap usesD usesB lat g x t th (s.thr t th) w) s t th (s.thr t th) w)
    (hl : legal = true) (hg : s.on t th w = true)
    (e : ∀ k d a b, g (vfOf w) (srDraw (s.srKeyOf t) (s.thr t th).draw k) d a b % 2 ^ typeBits (sf w 4 3) =
      h k d a b % 2 ^ typeBits (sf w 4 3)) :
    ∃ s', vCommand f t th w s = .next s' ∧ s.lanewise s' t th w usesD usesB h := by
  refine ⟨_, rfl, ?_⟩
  rw [slotCommand_done (hf.trans (vSlot_on hl hg))]
  exact State.lanewise_congr e (vecMap_lanewise usesD usesB lat n g s t th w)

end Sys2Proof.Machine
end

