-- ==== Sys2Proof/Tests/Slice0.lean ====
section
/-!
SUPPORT. Small tests: ill-formed commands are refused, each statement's hypotheses are met by a concrete state and
operands (theorems `test_<statement>_meets…`), and results of the spec's rules worked out by hand.
-/

open Sys2Proof Sys2Proof.Machine

set_option Elab.async false

namespace Sys2Proof.Tests

/-! ## Helpers -/

/-- A running device: every domain on, the stewards started, the link up. -/
def on : State :=
  { State.reset with
    regs := [(rBootStage, 4), (rReadyCfg, 1), (rPdOn 0, 0xFFFFFFFF), (rPdOn 1, 0xFFFFFFFF), (rPdOn 2, 0xFFFF), (rLink, 1)]
    host := { HostState.reset with perst := false }
    milk := { MilkState.reset with
      rom := true
      settled := true
      pgCore := true
      pgMem := true
      bootReads := false
      aonPll := true }
    stew := Vector.replicate 4 { Steward.reset with held := false } }

/-- The tile and the thread of the tests: the last of each. -/
abbrev tT : TileId := 63
abbrev tH : ThreadId := 7

/-- `on` with registers changed. -/
def onReg (l : List (Nat × Word)) : State := l.foldl (fun s p => s.setReg p.1 p.2) on

/-- A state with the frame domain at schedule ck 0 of fck 100, and the tests' thread a frame thread that runs. -/
def fr : State :=
  ({ on with fck := 100, tickF := 100 } : State).modTile tT (fun x => { x with frameRun := true, cfgNow := 0xFF03 })

/-- A slot word from (lowest bit, value) pairs. -/
def slot (l : List (Nat × Nat)) : SlotWord := BitVec.ofNat 26 (l.map (fun p => p.2 * 2 ^ p.1)).sum

/-- A handle entry: V, RD, WR and RWR, format f, n × 64 bytes from byte a, stride 1 × 64 bytes, 2 × 1 rows. -/
def entry (f a n : Nat) : Quad :=
  BitVec.ofNat 128 (15 + f * 2 ^ 8 + a / 64 * 2 ^ 14 + n * 2 ^ 40 + 2 ^ 64 + 2 ^ 80 + 64 * 2 ^ 96 + 64 * 2 ^ 112)

/-- Entry h of the tests' tile holds e. -/
def withH (s : State) (h : Nat) (e : Quad) : State :=
  s.modTile tT (fun x => { x with handles := Sparse.insert x.handles h e })

/-- s[i] of the tests' thread holds v. -/
def withS (s : State) (i : Fin 32) (v : Word) : State := s.modThr tT tH (fun y => { y with s := y.s.set i v })

/-- The tests' tile has slot records. -/
def withSlots (s : State) (l : List SlotRec) : State := s.modTile tT (fun x => { x with slots := l })

/-- The first byte of the tests' tile's Pail. -/
abbrev pail : Nat := 63 * 0x400000

/-- The tile of the tests after a command, and its thread. -/
def after (c : Instr) (s : State) : State :=
  match exec c s with
  | .next t => t
  | _ => s

/-- A flit that stands in the mesh, arrived. -/
def flit (b : Payload) : Flit :=
  { body := b
    lane := .data
    cls := .any
    src := 0
    dst := 63
    port := 0
    frame := false
    age := 0
    pos := .delivered 0
    moved := 0
    inp := 0
    born := 0 }

/-- `s` with one flit that has reached its destination. -/
def arrive (s : State) (b : Payload) : State := { s with mesh := { s.mesh with flits := [flit b] } }

/-- A claim of bank b at schedule ck 0: kind 1 read, 2 write, by a thread or arrival. -/
def claim (kind b who : Nat) : SlotRec := ⟨0, 0, 0, kind, b, who⟩

/-- A plan with wide reservations in every window, budget 16,384 ck. -/
def run1 : PlanRun :=
  { addr := 0x10000000
    planId := 1
    variant := 0
    tmask := 0
    vmask := 0
    lmask := 0
    budget := 16384
    frTarget := 0
    frObj := 0
    paced := false
    handover := 0
    clock := 1000
    light := 255
    cache := 0
    htotal := 0
    vactive := 0
    vbmin := 0
    pclk := 0
    cycle := 1
    leave := List.replicate 16 (List.replicate 65 100) }

/-- A state with a plan. -/
def planned (s : State) : State := { s with plan := { s.plan with run := some run1 } }

/-! ## Well-formedness: what no transaction can carry is refused -/

theorem test_wf_counted_form_of_an_allowed_count : (Instr.status (.count false none [])).wellFormed = false := by decide
theorem test_wf_counted_form_too_long :
    (Instr.logRead (.count true none (List.replicate 256 0)) 0).wellFormed = false := by decide +kernel
theorem test_wf_flash_data_too_long : (Instr.flashWrite (.split none) 0 (List.replicate 252 0)).wellFormed = false := by decide +kernel
theorem test_wf_message_too_long : (Instr.mboxSend (.call none) (List.replicate 256 0)).wellFormed = false := by decide +kernel
theorem test_wf_count_that_is_not_allowed : (Instr.status (.count false none [7])).wellFormed = true := by decide

/-! ## Hypotheses met -/

theorem test_stepRunsFront_meets : on.pending = [] := by decide

theorem test_queueAlwaysRuns_meets :
    ({ on with pending := [.tick, .mboxSend (.call none) (List.replicate 64 0)] } : State).queueOk = true := by decide

theorem test_canonicalFormKept_meets : on.canonical = true ∧ ∃ t, step { on with pending := [.tapReset] } = .next t :=
  ⟨by decide, _, rfl⟩

theorem test_debugStaysDisabled_meets :
    let s : State := { on with milk := { on.milk with dbgFuse := true }, pending := [.nonceExpiry] }
    s.debugLocked = true ∧ s.milk.dbgFuse = true ∧ ∃ t, step s = .next t := ⟨by decide, by decide, _, rfl⟩

theorem test_commandsLeaveQueue_meets :
    (∃ t, exec .tapReset on = .next t) ∧ exec (.status (.count false none [])) on = .fault .illFormed :=
  ⟨⟨_, rfl⟩, rfl⟩

theorem test_scalarOps_meets :
    on.on tT tH (slot [(17, 31)]) = true ∧ sf (slot [(17, 31)]) 0 6 = 0 ∧ sb (slot [(11, 1)]) 11 = true ∧
      on.on tT tH (slot [(11, 1)]) = true ∧ sb (slot [(17, 31)]) 16 = false ∧ sf (slot [(15, 2), (17, 31)]) 0 15 = 0 ∧
      sf (slot [(15, 2), (17, 31)]) 15 2 ≠ 3 := by decide

theorem test_predicates_meets :
    let w := slot [(19, 7), (0, 5)]
    on.on tT tH w = true ∧ sf w 3 5 = 0 ∧ sf w 0 3 = 5 ∧ ((on.thr tT tH).rs (sf w 14 5)).toNat ≥ 0 ∧
      sf (slot [(19, 7)]) 0 11 = 0 := by decide

theorem test_branchesAndCounters_meets :
    (let w := slot [(10, 4095), (5, 31)]
     on.on tT tH w = true ∧ sf (slot [(10, 4095)]) 0 10 = 0 ∧ sf w 0 5 = 0 ∧ sf w 5 5 ≠ 0 ∧
      (on.thr tT tH).rs (sf w 5 5) ≠ 1 ∧ ((withS on 31 1).thr tT tH).rs (sf w 5 5) = 1 ∧ (on.thr tT tH).next = none) ∧
    (sf (slot [(17, 31)]) 0 16 = 0 ∧ (withS on 31 1).sched < (((withS on 31 1).thr tT tH).rs 31).toNat ∧
      ((on.thr tT tH).rs 31).toNat ≤ on.sched) ∧
    sf (slot []) 0 22 = 0 ∧ fr.isFrame tT tH = true ∧ fr.on tT tH (slot []) = true := by decide

theorem test_syncRegisterWrites_meets :
    (on.writes (.steward 3) (rCount 2047) = true ∧ on.writes .host (rAddReg 2047) = true ∧ on.untouched 2047 = true ∧
      on.admitsUpdate (regOp (.steward 3) 2047 true 0xFFFFFFFF) = true ∧
      on.admitsUpdate (regOp .host 2047 false 0xFFFFFFFF) = true) ∧
    (let s := planned (onReg [(rFrameMap 63, 0x80000000)])
     s.writes .host (rAddReg 2047) = true ∧ s.admitsUpdate (regOp .host 2047 false 1) = false ∧
      s.writes .host (rCount 2047) = true ∧ s.admitsUpdate (regOp .host 2047 true 1) = false) ∧
    (let o := regOp .host (2048 + 32 * tT.val + 31) true 5
     on.writes .host (rTile tT.val (oLsync 31)) = true ∧ (on.tile tT).frameRun = false ∧ on.admitsUpdate o = true ∧
      on.untouched (2048 + 32 * tT.val + 31) = true ∧ fr.writes .host (rTile tT.val (oLsync 31)) = true ∧
      fr.admitsUpdate o = true ∧ (fr.tile tT).frameRun = true ∧
      (let s := planned (onReg [(rTile tT.val oLsyncFrame, 0x80000000)])
       s.writes .host (rTile tT.val (oLsync 31)) = true ∧ s.admitsUpdate o = false)) ∧
    (let s := onReg [(rTickStatus, 8), (rFrObj, 2047)]
     s.writes .host rPace = true ∧ bit (s.reg rTickStatus) 3 = true ∧ s.untouched (fld (s.reg rFrObj) 0 11) = true ∧
      bit (on.reg rTickStatus) 3 = false ∧ on.writes .host rPace = true) ∧
    on.writes (.steward 0) (rWatchTarget 31) = true ∧ on.writes (.steward 0) (rWatchCfg 31) = true := by decide

theorem test_syncThreadOps_meets :
    (let w := slot [(10, 4095)]
     on.on tT tH w = true ∧ on.isFrame tT tH = false ∧ (on.thr tT tH).unacked = 0 ∧ sf w 0 5 = 0 ∧ sf w 0 4 = 0 ∧
      ownObj tT.val (sf w 10 12) = true ∧ on.untouched (sf w 10 12) = true ∧
      on.admitsUpdate ⟨sf w 10 12, true, 1, .thread, false, 63, 7, 0, false⟩ = true) ∧
    (let w := slot [(10, 2047)]
     ownObj tT.val (sf w 10 12) = false ∧ sf w 10 12 < 2048 ∧
      (let s : State := withSlots { fr with round := 15 } [claim 3 0 7]
       s.isFrame tT tH = true ∧ s.on tT tH w = true ∧ s.dataReserved tT tH.val .remote false = true)) ∧
    (let w := slot [(10, 4095), (4, 28)]
     on.on tT tH w = true ∧ sf w 0 4 = 0 ∧ sf w 4 5 % 4 = 0 ∧ sf w 4 5 ≠ 0 ∧ ownObj tT.val (sf w 10 12) = true ∧
      (on.thr tT tH).wait = none) ∧
    (let s := withSlots fr [claim 3 1 7]
     let w := slot [(10, 2047), (4, 28)]
     sf w 10 12 < 2048 ∧ s.on tT tH w = true ∧ s.isFrame tT tH = true ∧ s.sendReserved tT tH.val 1 = true ∧
      (s.thr tT tH).wait = none) ∧
    (let w := slot [(18, 15)]
     let s := onReg [(rTile tT.val (oCwCfg 15), 0x10000)]
     s.on tT tH w = true ∧ sf w 0 13 = 0 ∧ bit (s.treg tT.val (oCwCfg (sf w 18 4))) 16 = true ∧ s.isFrame tT tH = false ∧
      bit (on.treg tT.val (oCwCfg (sf w 18 4))) 16 = false ∧
      (let s : State := withSlots { s with fck := 100, tickF := 100, round := 13 } [claim 3 1 7]
       let s := s.modTile tT (fun x => { x with frameRun := true, cfgNow := 0xFF03 })
       s.isFrame tT tH = true ∧ posClass s.round = .remote ∧ s.sendReserved tT tH.val 1 = true)) ∧
    (let w := slot [(17, 31), (11, 63), (6, 2)]
     let s := withH fr 63 (entry 0 pail 64)
     s.on tT tH w = true ∧ s.isFrame tT tH = true ∧ sf w 0 6 = 0 ∧ sf w 6 5 % 2 = 0 ∧
      s.handleFault (some tT.val) (s.handle tT (sf w 11 6)) false false (fun _ => true)
        (hStart (s.handle tT (sf w 11 6))) 0 = none ∧
      ((s.thr tT tH).rs (sf w 6 5)).toNat ≤ (s.countBefore (2048 + 32 * tT.val + sf w 17 5)).toNat) ∧
    (let w := slot [(17, 31), (11, 63), (6, 2)]
     let s := withS (withS (withH fr 63 (entry 0 pail 64)) 2 1) 3 0x40010000
     s.handleFault (some tT.val) (s.handle tT (sf w 11 6)) false false (fun _ => true)
        (hStart (s.handle tT (sf w 11 6))) 0 = none ∧
      (s.countBefore (2048 + 32 * tT.val + sf w 17 5)).toNat < ((s.thr tT tH).rs (sf w 6 5)).toNat ∧
      0 < ((s.thr tT tH).rs (sf w 6 5 + 1)).toNat / 2 ^ 16 % 256 ∧ 0 < hStride0 (s.handle tT (sf w 11 6)) ∧
      ((s.thr tT tH).rs (sf w 6 5 + 1)).toNat / 2 ^ 30 % 2 = 1) := by decide

theorem test_syncArrivals_meets :
    (let o : SyncOp := ⟨4095, false, 1, .thread, false, 63, 7, 0, true⟩
     let s := arrive on (.sync o)
     s.first (flit (.sync o)) = true ∧ o.ack = true ∧ s.admitsUpdate o = true ∧ s.untouched o.obj = true) ∧
    (arrive on (.syncAck 63 7)).first (flit (.syncAck 63 7)) = true ∧
    (let w : Watch := ⟨63, 7, 0, 2047, false, 0, false, 0, 0, none, 0⟩
     let s := arrive on (.watch w)
     s.first (flit (.watch w)) = true ∧ w.frame = false ∧ s.pdOn 7 = true) ∧
    (let w : WaitRec := ⟨2047, false, 0, false, 0, 0, 0, 0, none, 0, false⟩
     let s := (arrive on (.release 63 7 0 0)).modThr tT tH (fun y => { y with wait := some w })
     s.first (flit (.release 63 7 w.tag 0)) = true ∧ (s.thr tT tH).wait = some w ∧ w.obj < 2048 ∧ w.c = none) ∧
    (let s := arrive on (.grant 63 15 0xFFFFFF)
     s.first (flit (.grant 63 15 0xFFFFFF)) = true ∧ s.pdOn (16 + tT.val) = true ∧
      fld (s.reg (rTile tT.val (oCcBal 15))) 0 24 + 0xFFFFFF ≤ 0xFFFFFF) := by decide

theorem test_waitsComplete_meets :
    (let w : WaitRec := ⟨0, false, 0, false, 0, 0, 0, 0, some 0, 0, false⟩
     let s := on.modThr tT tH (fun y => { y with wait := some w })
     (s.thr tT tH).wait = some w ∧ w.frame = false ∧ w.c = some 0 ∧ s.frameActs = true ∧ s.fck = max w.i 0) ∧
    (let w : WaitRec := ⟨0, false, 0, true, 5, 5, 1, 0, some 10, 0, false⟩
     let s := ({ fr with fck := 110 } : State).modThr tT tH (fun y => { y with wait := some w })
     (s.thr tT tH).wait = some w ∧ w.frame = true ∧ s.frameActs = true ∧ s.sched = max (max w.i w.p) 10 ∧
      s.sched ≤ w.p + w.s) ∧
    (let w : WaitRec := ⟨0, false, 0, true, 5, 5, 1, 0, none, 0, false⟩
     let s := ({ fr with fck := 111 } : State).modThr tT tH (fun y => { y with wait := some w })
     (s.thr tT tH).wait = some w ∧ w.frame = true ∧ w.c = none ∧ s.frameActs = true ∧
      s.sched = max w.i (w.p + w.s + 1) ∧ s.absorbs tT = false ∧ (s.setReg (rTout 0) 1).absorbs tT = true) ∧
    (let w : WaitRec := ⟨0, false, 0, true, 5, 5, 12, 0, some 11, 0, false⟩
     let s := ({ fr with fck := 112 } : State).modThr tT tH (fun y => { y with wait := some w })
     s.sched = max w.i (w.p + w.s + 1) ∧ w.p + w.s < max (max w.i w.p) 11) ∧
    (let w : Watch := ⟨63, 7, 0, 2047, false, 0, false, 0, 0, some 4, 0⟩
     let s : State := { on with ck := 5, sync := { on.sync with watches := [(1023, w)] } }
     s.watchAt (512 * 1 + 8 * tT.val + tH.val) = some w ∧ w.frame = false ∧ w.held = some 4 ∧ 4 + 1 ≤ s.ck ∧
      s.frameActs = true) ∧
    (let w : Watch := ⟨63, 7, 0, 2047, false, 0, true, 11, 20, some 9, 0⟩
     let s : State := { fr with fck := 110, sync := { on.sync with watches := [(1023, w)] } }
     s.watchAt (512 * 1 + 8 * tT.val + tH.val) = some w ∧ w.frame = true ∧ 9 + 1 ≤ s.sched ∧
      w.p ≤ s.sched + hopsSync w.tile w.obj ∧ s.sched + hopsSync w.tile w.obj ≤ w.p + w.s ∧ s.frameActs = true) ∧
    (let w : Watch := ⟨63, 7, 0, 2047, false, 0, true, 5, 5, none, 0⟩
     let s : State := { fr with fck := 111, sync := { on.sync with watches := [(1023, w)] } }
     s.watchAt (512 * 1 + 8 * tT.val + tH.val) = some w ∧ w.frame = true ∧
      w.p + w.s < s.sched + hopsSync w.tile w.obj ∧ s.frameActs = true) := by decide

theorem test_threadControl_meets :
    (on.writes (.steward 0) (rTile tT.val oThreadCtrl) = true ∧ on.isFrame tT tH = false ∧ on.isOff tT tH = false ∧
      (on.thr tT tH).st = .idle) ∧
    (let s := on.modTile tT (fun x => { x with starts := 0x80 })
     (s.tile tT).stops.getLsbD tH.val = false ∧ (s.tile tT).starts.getLsbD tH.val = true ∧ s.isFrame tT tH = false ∧
      s.isOff tT tH = false ∧ (s.thr tT tH).st = .idle ∧
      ((s.modTile tT (fun x => { x with stops := 0x80 })).tile tT).stops.getLsbD tH.val = true) ∧
    (on.writes .host (rTile tT.val oHaltCtrl) = true ∧ (on.tile tT).frameRun = false ∧
      ((on.modThr tT tH (fun y => { y with st := .stall })).thr tT tH).st = .stall ∧
      ((on.modThr tT tH (fun y => { y with st := .halted })).thr tT tH).st = .halted) ∧
    on.writes .host (rTile tT.val 0x84) = true ∧
    fr.writes .host (rTile tT.val oHaltCtrl) = true ∧ (fr.tile tT).frameRun = true ∧ fr.isFrame tT tH = true := by decide

theorem test_tileImageAndRecovery_meets :
    (let s := onReg [(rTile tT.val oHaltCtrl, 1)]
     s.pdOn (16 + tT.val) = true ∧ s.haltDone tT = true) ∧
    (let s := onReg [(rTile tT.val oTileStatus, 2)]
     s.writes .host (rTile tT.val oIbufCtrl) = true ∧ s.tileHalted tT = true ∧
      bit (s.reg (rTile tT.val oIbufCtrl)) 0 = false) ∧
    (let s := onReg [(rTile tT.val oIbufCtrl, 1)]
     bit (s.reg (rTile tT.val oIbufCtrl)) 0 = true ∧ (s.tile tT).ibufLoad = 0) ∧
    (let s := (onReg [(rTrec 1, 0x80000000)]).modTile tT (fun x => { x with stopped := true })
     s.recovering tT.val = true ∧ s.pdOn (16 + tT.val) = true ∧ (s.tile tT).stopped = true ∧
      bit (s.reg rDbgCtrl) 1 = false ∧ s.accessOut tT.val = false ∧ s.flitsOut tT.val = false ∧
      (s.tile tT).engineBusy = false ∧ (s.tile tT).stopCk + 256 ≤ ({ s with ck := 256 } : State).ck) ∧
    (let s := onReg [(rTrec 1, 0x80000000), (rPdOn 2, 0x7FFF)]
     s.recovering tT.val = true ∧ s.pdOn (16 + tT.val) = false) := by decide

theorem test_vectorIntegers_meets :
    (let w := slot [(17, 31), (12, 30), (4, 4)]
     on.on tT tH w = true ∧ sf w 4 3 < 5 ∧ sf w 0 2 = 0 ∧ sf w 7 5 = 0 ∧ sb w 3 = false ∧ sb w 2 = false) ∧
    let w := slot [(4, 4), (0, 2)]
    on.on tT tH w = true ∧ sf w 4 3 < 5 ∧ sb w 2 = false ∧ sf w 0 2 ≠ 3 := by decide

theorem test_vectorFloats_meets :
    (let w := slot [(17, 31), (12, 30), (4, 7), (0, 2)]
     on.on tT tH w = true ∧ 5 ≤ sf w 4 3 ∧ (floatFmt (typeFmt (sf w 4 3))).isSome = true ∧
      Rnd.ofField (sf w 0 2) = some .sr ∧ sf w 7 5 = 0 ∧ sb w 3 = false ∧ (on.tile tT).lutLoading = false) ∧
    (let w := slot [(17, 31), (12, 30), (4, 5)]
     on.on tT tH w = true ∧ (floatFmt (typeFmt (sf w 4 3))).isSome = true ∧ sf w 0 2 = 0 ∧
      Rnd.ofField (sf w 0 2) = some .rne ∧ sf w 7 5 = 0 ∧ sb w 3 = false) := by decide

theorem test_vectorBitsAndSelection_meets :
    (let w := slot [(17, 31), (12, 30), (4, 7)]
     on.on tT tH w = true ∧ sb w 2 = false ∧ sf w 0 2 = 0 ∧ sf w 7 5 = 0 ∧ sb w 3 = false) ∧ sf (slot [(0, 5)]) 0 3 < 6 := by
  decide

theorem test_vectorReductions_meets :
    let w := slot [(17, 31), (12, 30), (4, 4), (1, 7)]
    on.on tT tH w = true ∧ sf w 7 5 = 0 ∧ sb w 0 = false ∧ sf w 1 3 ≠ 0 ∧ sf w 17 5 ≠ 0 ∧ sf w 4 3 < 5 ∧
      (∀ k, k < 2048 / typeBits (sf w 4 3) → (!((on.thr tT tH).vlane (typeBits (sf w 4 3)) (sf w 12 5) k).2) = true) := by
  decide

theorem test_vectorConversions_meets :
    (let w := slot [(17, 31), (12, 30), (7, 0x0B), (2, 2), (0, 2)]
     on.on tT tH w = true ∧ Rnd.ofField (sf w 0 2) = some .sr ∧ cvtFmt (sf w 2 5) = true ∧ cvtFmt (sf w 7 5) = true ∧
      ¬ 2048 / fmtBits (sf w 2 5) ≤ 2048 / fmtBits (sf w 7 5) ∧
      7 / 2 < 2048 / fmtBits (sf w 2 5) / (2048 / fmtBits (sf w 7 5)) ∧
      2048 / fmtBits (sf w 2 5) / (2048 / fmtBits (sf w 7 5)) < 8) ∧
    (let w := slot [(7, 2), (2, 0x0B)]
     on.on tT tH w = true ∧ Rnd.ofField (sf w 0 2) = some .rne ∧ cvtFmt (sf w 2 5) = true ∧ cvtFmt (sf w 7 5) = true ∧
      2048 / fmtBits (sf w 2 5) ≤ 2048 / fmtBits (sf w 7 5) ∧
      7 / 2 < 2048 / fmtBits (sf w 7 5) / (2048 / fmtBits (sf w 2 5)) ∧
      2048 / fmtBits (sf w 7 5) / (2048 / fmtBits (sf w 2 5)) < 8) ∧
    (let w := slot [(17, 31), (12, 30), (7, 2), (2, 2)]
     let q := (((withS on 3 0x0300).thr tT tH).rs (sf w 7 5 + 1)).toNat
     cvtFmt (sf w 2 5) = true ∧ sf w 7 5 % 2 = 0 ∧ q / 2 ^ 6 % 4 = 0 ∧ q / 2 ^ 11 % 32 = 0 ∧
      q / 2 ^ 8 % 8 < 2048 / fmtBits (sf w 2 5) / 64) := by decide


/-! ### Tensor operations, memory operations, bundles -/

/-- `on` or `fr` with two INT8 handles for MM, its quad in s4–s7 all zero: M = N = S = 1. -/
def mmReady (s : State) : State := withH (withH s 0 (entry 2 pail 64)) 63 (entry 2 (pail + 0x3C0000) 64)

/-- Handles 0 and 63, quad s4, bank 7. -/
def mmWord : SlotWord := slot [(16, 0), (10, 63), (7, 7), (0, 4)]

theorem test_macroOpIssue_meets :
    (∀ k ∈ [MacroKind.mm, .conv, .dw],
      let s := mmReady on
      let m := macroOf k s tT tH (s.thr tT tH) mmWord
      s.on tT tH mmWord = true ∧ (s.tile tT).queued = none ∧ macroLegal m (s.thr tT tH) mmWord = true ∧
        m.banks.any (s.tile tT).bankHeld = false ∧
        s.macroHandle tT m.ha (sf mmWord 16 6) (pairOk k (hFmt m.ha) (hFmt m.hb)) m.actAll m.lastA = none ∧
        s.macroHandle tT m.hb (sf mmWord 10 6) (pairOk k (hFmt m.ha) (hFmt m.hb)) m.weightAll (0, m.jb) = none) ∧
    let s := mmReady fr
    s.on tT tH mmWord = true ∧
      (s.isFrame tT tH && (s.tile tT).running.isNone && (s.tile tT).starting.isNone) = true := by decide

/-- The macro-op of `mmWord`, issued at fck 99. -/
def mmOp (s : State) : MacroOp := { macroOf .mm s tT tH (s.thr tT tH) mmWord with issueCk := 99 }

theorem test_macroOpRuns_meets :
    (let s := withSlots (planned (mmReady fr)) [claim 1 15 7]
     let m := { mmOp s with issueCk := 99 }
     let s := s.modTile tT (fun x => { x with starting := some m })
     s.frameActs = true ∧ (s.tile tT).running = none ∧ (s.tile tT).starting.or (s.tile tT).queued = some m ∧
      m.issueCk < s.fck ∧ m.frame = true ∧ s.overdraw tT m.leave s.fck (m.endFrom s.fck) = none ∧
      s.readClaim tT m.thread (bankOf (padBlock (m.weightAt 0) m.weightBytes 0)) = true) ∧
    (let s : State := { mmReady on with fck := 100, ck := 100 }
     let m := mmOp s
     let s := s.modTile tT (fun x => { x with queued := some m, grant := some ⟨6, 99, false, false⟩ })
     (s.tile tT).running = none ∧ (s.tile tT).starting = none ∧ (s.tile tT).queued = some m ∧ m.issueCk < s.fck ∧
      m.frame = false ∧ (s.tile tT).grant = some ⟨6, 99, false, false⟩ ∧ s.framePending tT = false ∧
      s.endsInTime (m.endFrom s.fck) = true) ∧
    (let s : State := { mmReady on with fck := 100 }
     let m := { mmOp s with cen := true, obj := 31 }
     let s := s.modTile tT (fun x => { x with running := some m })
     s.frameActs = true ∧ (s.tile tT).running = some m ∧ m.e ≤ s.fck ∧ m.n ≤ 32 ∧
      s.admitsUpdate (doneSignal tT m.obj m.frame m.thread 1) = true ∧
      s.untouched (2048 + 32 * tT.val + m.obj) = true) := by decide

theorem test_accumulatorsAndTable_meets :
    (let w := slot [(17, 31), (14, 7), (9, 31)]
     on.on tT tH w = true ∧ sf w 0 9 = 0 ∧ sf w 0 8 = 0 ∧ (on.tile tT).bankBusy (sf w 14 3) on.fck = false) ∧
    (let w := slot [(14, 255)]
     on.on tT tH w = true ∧ sf w 0 14 = 0 ∧ ∀ b, b < 8 → sb w (14 + b) = true → (on.tile tT).bankBusy b on.fck = false) ∧
    (let w := slot [(16, 63), (11, 30)]
     let s := withH (planned fr) 63 (entry 0x0B pail 64)
     let e := s.handle tT (sf w 16 6)
     let a := hStart e + sf w 0 11 * hStride0 e
     s.on tT tH w = true ∧ sf w 11 5 % 2 = 0 ∧ (s.tile tT).lutLoading = false ∧ inOwnPail tT.val e = true ∧
      s.handleFault (some tT.val) e true false (fun _ => true) a 4096 0 (sf w 0 11) = none ∧ s.isFrame tT tH = true ∧
      s.overdraw tT 1 (s.fck + 1) (s.fck + 33) = none) ∧
    (let j : PortJob := { (PortJob.mk (.lut 0 0 0 0) 7 false [] [] [] 0 0) with e := 99 }
     let s := ({ on with fck := 100 } : State).modTile tT (fun x => { x with jobs := [j], lutLoading := true })
     (s.tile tT).jobs = [j] ∧ j.kind = .lut 0 0 0 0 ∧ j.reads = [] ∧ j.e < s.fck) := by decide

/-- A load word of handle 63, and the state in which the handle names bank 15 of the Pail, or the last slice. -/
def ldWord : SlotWord := slot [(17, 31), (11, 63)]

theorem test_loads_meets :
    (let s := withSlots (withH fr 63 (entry 0 (pail + 0x3C0000) 64)) [claim 1 15 7]
     let e := s.handle tT (sf ldWord 11 6)
     s.on tT tH ldWord = true ∧ sf ldWord 0 5 = 0 ∧ s.handleFault (some tT.val) e true false ldFmt (hStart e) 128 = none ∧
      hStart e % 128 = 0 ∧ isPail (hStart e) = true ∧ s.isFrame tT tH = true ∧
      s.readClaim tT tH.val (bankOf (hStart e)) = true ∧
      sf ldWord 0 6 = 0 ∧ s.handleFault (some tT.val) e true false ldFmt (hStart e) 4 = none ∧
      (withSlots s []).readClaim tT tH.val (bankOf (hStart e)) = false) ∧
    (let s := withH on 63 (entry 0 (pail + 0x3C0040) 64)
     let e := s.handle tT (sf ldWord 11 6)
     s.handleFault (some tT.val) e true false ldFmt (hStart e) 128 = none ∧ isPail (hStart e) = true ∧
      hStart e % 128 ≠ 0 ∧ s.isFrame tT tH = false ∧ s.openAt tT 1 (bankOf (hStart e)) = true ∧ (s.thr tT tH).pailQ = [] ∧
      ({ s with mem := { s.mem with banksUsed := [(63, 15)] } } : State).openAt tT 1 15 = false) ∧
    (let s := withSlots (withH fr 63 (entry 0 0x2FFFF000 64)) [claim 3 1 7]
     let e := s.handle tT (sf ldWord 11 6)
     s.handleFault (some tT.val) e true false ldFmt (hStart e) 128 = none ∧ isPail (hStart e) = false ∧
      s.handleFault (some tT.val) e true false ldFmt (hStart e) 4 = none ∧
      s.isFrame tT tH = true ∧ s.sendReserved tT tH.val 1 = true) ∧
    (let s := withH on 63 (entry 0 0x2FFFF000 64)
     let e := s.handle tT (sf ldWord 11 6)
     s.handleFault (some tT.val) e true false ldFmt (hStart e) 128 = none ∧
      s.handleFault (some tT.val) e true false ldFmt (hStart e) 4 = none ∧ isPail (hStart e) = false ∧
      s.isFrame tT tH = false) := by decide

theorem test_stores_meets :
    (let s := withSlots (withH fr 63 (entry 3 (pail + 0x3C0000) 64)) [claim 2 15 7]
     let e := s.handle tT (sf ldWord 11 6)
     s.on tT tH ldWord = true ∧ sf ldWord 0 4 = 0 ∧ s.handleFault (some tT.val) e false true stFmt (hStart e) 64 = none ∧
      isPail (hStart e) = true ∧ s.isFrame tT tH = true ∧ s.writeClaim tT tH.val (bankOf (hStart e)) = true ∧
      ∀ i, i < 64 → ((s.thr tT tH).rpo (sf ldWord 17 5)).getLsbD (64 * sf ldWord 4 2 + i) = false) ∧
    (let s := withH on 63 (entry 3 (pail + 0x3C0000) 64)
     let e := s.handle tT (sf ldWord 11 6)
     s.handleFault (some tT.val) e false true stFmt (hStart e) 64 = none ∧ isPail (hStart e) = true ∧
      s.isFrame tT tH = false ∧ s.openAt tT 2 (bankOf (hStart e)) = true ∧ (s.thr tT tH).pailQ = [] ∧
      ({ s with mem := { s.mem with banksUsed := [(63, 15)] } } : State).openAt tT 2 15 = false) ∧
    (let s : State := { withSlots (withH fr 63 (entry 3 0x2FFFF000 64)) [claim 3 0 7, claim 3 1 7] with round := 8 }
     let e := s.handle tT (sf ldWord 11 6)
     s.handleFault (some tT.val) e false true stFmt (hStart e) 64 = none ∧ isPail (hStart e) = false ∧
      s.isFrame tT tH = true ∧ s.dataReserved tT tH.val .write true = true) ∧
    (let s := withH on 63 (entry 3 0x2FFFF000 64)
     let e := s.handle tT (sf ldWord 11 6)
     s.handleFault (some tT.val) e false true stFmt (hStart e) 64 = none ∧ isPail (hStart e) = false ∧
      s.isFrame tT tH = false) ∧
    (let w := slot [(13, 15), (6, 3), (3, 7)]
     let s : State := { withSlots fr [claim 3 0 7, claim 3 1 7] with round := 13 }
     let s := s.setReg (rTile tT.val (oCcBal 15)) 64
     s.on tT tH w = true ∧ sf w 0 3 = 0 ∧ 64 * sf w 6 2 + 8 * (sf w 3 3 + 1) ≤ 256 ∧
      8 * (sf w 3 3 + 1) ≤ fld (s.treg tT.val (oCcBal (sf w 13 4))) 0 24 -
        Sparse.get (fun _ => 0) (s.tile tT).creditNow (sf w 13 4) ∧
      s.isFrame tT tH = true ∧ s.dataReserved tT tH.val .remote true = true) := by decide +kernel

theorem test_gathers_meets :
    (let w := slot [(17, 31), (11, 63), (6, 3)]
     let s := withH on 63 (entry 3 pail 64)
     let e := s.handle tT (sf w 11 6)
     s.on tT tH w = true ∧ sf w 4 2 = 0 ∧ sf w 0 3 = 0 ∧ fmtReserved (hFmt e) = false ∧ stFmt (hFmt e) = true ∧
      (s.thr tT tH).gprog = 0xFFFF ∧ sb w 3 = false ∧ sb (slot [(17, 31), (11, 63), (6, 3), (3, 1)]) 3 = true ∧
      s.isFrame tT tH = false ∧
      ∀ k, k < 16 →
        (s.gatherElem tT e (s.isFrame tT tH) ((s.thr tT tH).rv (sf w 6 5)) ((s.thr tT tH).rpo (sf w 6 5)) k).isSome = true) ∧
    (let w := slot [(17, 31), (11, 63), (6, 3)]
     let s := withH fr 63 (entry 3 pail 64)
     let e := s.handle tT (sf w 11 6)
     s.on tT tH w = true ∧ sb w 3 = false ∧ s.isFrame tT tH = true ∧
      (s.gatherElem tT e true ((s.thr tT tH).rv (sf w 6 5)) ((s.thr tT tH).rpo (sf w 6 5)) 15).isSome = true) ∧
    (let w := slot [(17, 31), (11, 63), (6, 3), (3, 1)]
     let s := withH on 63 (entry 3 pail 0)
     let e := s.handle tT (sf w 11 6)
     s.on tT tH w = true ∧ sb w 3 = true ∧ s.isFrame tT tH = false ∧ fmtReserved (hFmt e) = false ∧ stFmt (hFmt e) = true ∧
      s.gatherElem tT e (s.isFrame tT tH) ((s.thr tT tH).rv (sf w 6 5)) ((s.thr tT tH).rpo (sf w 6 5)) 0 = none) := by decide +kernel

theorem test_blockGroups_meets :
    let w := slot [(16, 63), (13, 7), (5, 2)]
    let s := withH on 63 (entry 0x0D pail 64)
    let e := s.handle tT (sf w 16 6)
    s.on tT tH w = true ∧ blockLegal false w = true ∧ s.blockFault tT e true false (hStart e) = none ∧
      blockLegal true w = true ∧ s.blockFault tT e false true (hStart e) = none := by decide

/-- A stream move whose parts are all moved. -/
def mv : Move :=
  { indexed := false
    thread := 7
    frame := false
    hs := 0
    hd := 0
    hl := 0
    hsIdx := 0
    hdIdx := 0
    total := 1
    first := 0
    dstOff := 0
    pol := false
    obj := 31
    cen := true
    pc := 0
    issueCk := 0
    started := true
    raw := []
    listed := true
    parts := []
    all := []
    ready := 0
    waited := false
    fault := none
    due := []
    inFlight := 0 }

/-- The tests' tile with a move at the head of its asynchronous lane, at frame ck 1. -/
def moving (m : Move) : State := ({ on with fck := 1 } : State).modTile tT (fun x => { x with moveA := [m] })

theorem test_streamMoves_meets :
    (∀ p ∈ [(0x0B, slot [(16, 63), (10, 62), (5, 28)], false), (5, slot [(16, 63), (10, 62), (5, 28), (4, 1)], true)],
      let w := p.2.1
      let s := withH (withH (withH on 63 (entry p.1 pail 64)) 62 (entry p.1 0x2FFFF000 64)) 0 (entry p.1 pail 64)
      let hs := s.handle tT (sf w 16 6)
      let hd := s.handle tT (sf w 10 6)
      let hl := s.handle tT 0
      let u := if p.2.2 then elemBytes (hFmt hl) else 16
      s.on tT tH w = true ∧ (s.tile tT).moveOf tH.val = none ∧ sf w 5 5 % 4 = 0 ∧ sf w 5 5 ≠ 0 ∧ sf w 0 4 = 0 ∧
        ((s.thr tT tH).rs (sf w 5 5)) = 0 ∧ ((s.thr tT tH).rs (sf w 5 5 + 1)) = 0 ∧ ((s.thr tT tH).rs (sf w 5 5 + 2)) = 0 ∧
        s.isFrame tT tH = false ∧ (p.2.2 = false → sb w 4 = false) ∧
        s.handleFault (some tT.val) hs true false (fun _ => true) (hStart hs) 0 = none ∧
        s.handleFault (some tT.val) hd false true (fun _ => true) (hStart hd) 0 = none ∧
        s.handleFault (some tT.val) hl true false (fun f => if p.2.2 then f == 0x06 || f == 0x05 else true) (hStart hl) u =
          none ∧
        inOwnPail tT.val hl = true ∧ inOwnPail tT.val hs = true) ∧
    ((on.modTile tT (fun x => { x with moveA := [mv] })).tile tT).moveOf tH.val ≠ none := by decide

theorem test_streamMoves_meets_steps :
    (let m := { mv with frame := true, parts := [⟨some pail, 0x2FFFFFC0⟩] }
     let s := (withSlots fr [claim 1 0 7, claim 4 0 0]).modTile tT (fun x => { x with moveF := [m] })
     s.frameActs = true ∧ (s.tile tT).moveHead (MoveLane.frame == .frame) = some m ∧ m.frame = (MoveLane.frame == .frame) ∧
      m.issueCk < s.fck ∧ m.ready ≤ s.fck ∧ isPail pail = true ∧ s.moveAssigned tT = true ∧
      s.readClaim tT m.thread (bankOf pail) = true) ∧
    (let m := { mv with frame := true, parts := [⟨some 0x2FFFFFC0, pail⟩] }
     let s := (withSlots fr [claim 3 1 8, claim 4 0 0]).modTile tT (fun x => { x with moveF := [m] })
     isVat 0x2FFFFFC0 = true ∧ s.moveAssigned tT = true ∧ s.sendReserved tT 8 1 = true) ∧
    (let m := { mv with parts := [⟨some pail, 0x2FFFFFC0⟩] }
     let s := moving m
     s.frameActs = true ∧ (s.tile tT).moveHead (MoveLane.async == .frame) = some m ∧ m.frame = (MoveLane.async == .frame) ∧
      m.issueCk < s.fck ∧ m.ready ≤ s.fck ∧ s.openAt tT 1 (bankOf pail) = true ∧ s.moveGranted tT m = true) ∧
    (let m := { mv with parts := [⟨none, pail⟩] }
     (moving m).moveGranted tT m = true) ∧
    (let s := on.modTile tT (fun x => { x with moveA := [mv] })
     s.frameActs = true ∧ (s.tile tT).moveHead (MoveLane.async == .frame) = some mv ∧ mv.cen = true ∧ mv.listed = true ∧
      mv.parts = [] ∧ mv.due = [] ∧ mv.inFlight = 0 ∧
      s.admitsUpdate (doneSignal tT mv.obj mv.frame mv.thread 2) = true ∧
      s.untouched (2048 + 32 * tT.val + mv.obj) = true) := by decide

theorem test_streamMoves_meets_lists :
    let m := { mv with listed := false, hl := entry 0x0B pail 64, raw := [] }
    let s := moving m
    let l := m.list
    let bs := (List.range 16).map (fun i => (BitVec.ofNat 8 (s.readByte tT m.hl (l.1 + i)).1, (s.readByte tT m.hl (l.1 + i)).2))
    l.2 ≤ m.raw.length + min 128 (l.2 - m.raw.length) ∧ l.2 = 16 ∧ s.openAt tT 1 (bankOf l.1) = true ∧
      s.moveGranted tT m = true ∧ (∀ i, i < 16 → isVat (l.1 + i) = false) ∧
      bs.map (fun b => (b.1.toNat, b.2)) = (List.range 16).map (fun i => s.readByte tT m.hl (l.1 + i)) ∧
      (s.movePlan tT m bs).stop = none ∧
      (let m := { m with total := 64 }
       0 + min 128 (m.list.2 - 0) < m.list.2 ∧ (moving m).moveGranted tT m = true) := by decide +kernel

theorem test_streamMoves_meets_near (d : Nat) :
    (moving mv).moveNear tT { mv with parts := [⟨some pail, 0x2FFFFFC0⟩] } pail 0x2FFFFFC0 d ≠ some true := by
  simp [State.moveNear, mv]

/-- `on` in the tests' thread's position, the thread running at bundle 4,094. -/
def issuing (q : Quad) : State :=
  ({ on with round := 7 } : State).modTile tT (fun x =>
    { x with cfgNow := 3, ibuf := [(4094, q)], th := x.th.set tH { x.thr tH with st := .run, pc := 4094 } })

theorem test_bundlesIssue_meets :
    (let s := issuing 0
     s.mayIssue tT tH = true ∧ (s.thr tT tH).fellOff = false ∧
      Sparse.get (fun _ => 0) (s.tile tT).ibufErr (s.thr tT tH).pc.toNat = 0 ∧ (s.tile tT).bundleAt 4094 = 0 ∧
      s.holdCode tT tH (s.thr tT tH) (slotsOf 0) = none ∧ (s.thr tT tH).next = none ∧ (s.thr tT tH).ended = false ∧
      (s.thr tT tH).pc.toNat < 4095 ∧ illegalSlot (slotsOf 0) (s.isFrame tT tH) = none ∧
      (s.runSlots tT tH (s.thr tT tH) (slotsOf 0)).2 = []) ∧
    (let q : Quad := BitVec.ofNat 128 (0x10 * 2 ^ 26 + 31 * 2 ^ 17 + 30 * 2 ^ 12 + 1 * 2 ^ 6)
     let s := (issuing q).modThr tT tH (fun y => { y with ready := [(30, 9)] })
     s.mayIssue tT tH = true ∧ (s.holdCode tT tH (s.thr tT tH) (slotsOf q)).isSome = true) ∧
    let q : Quad := BitVec.ofNat 128 (0x09 * 2 ^ 26 + 4095 * 2 ^ 10 + 28 * 2 ^ 4)
    let s := issuing q
    let bs := slotsOf q
    s.mayIssue tT tH = true ∧ bs.any (fun b => b.k == 0 && b.op == 0x09 && guardOn (s.thr tT tH) b.w) = true ∧
      (s.thr tT tH).waitDone = false ∧ s.holdCode tT tH (s.thr tT tH) bs = none ∧
      illegalSlot bs (s.isFrame tT tH) = none ∧
      (s.runSlots tT tH (s.thr tT tH) (bs.filter (fun b => b.k = 0))).2 = [] := by decide

theorem test_meshForwards_meets :
    let f : Flit := { flit (.syncAck 0 0) with pos := .buffer 62 4, dst := 63 }
    let s : State := { on with ck := 1, mesh := { on.mesh with flits := [f] } }
    s.pdOn 7 = true ∧ s.mesh.flits = [f] ∧ s.mayLeave 62 2 f = true ∧ f.uses .data = true ∧ s.wayOpen 62 2 f = true := by
  decide

/-- Slice 7 has claims of bank 15 in both directions by tiles. -/
def vclaims (s : State) : State :=
  { s with mem := { s.mem with slots := [(7, [⟨0, 0, 0, 0x11, 15, 0⟩, ⟨0, 0, 0, 0x11, 15, 1⟩])] } }

theorem test_slicePorts_meets :
    (let b : Payload := .vatRead 7 0x2FFFFF80 128 (.ld 63 7 31 1 0 0x2FFFFF80) 63 true
     let s := vclaims (arrive on b)
     s.first (flit b) = true ∧ s.pdOn 15 = true ∧
      s.sliceClaim 7 (bankOf 0x2FFFFF80) 0 (Purpose.ld 63 7 31 1 0 0x2FFFFF80).owner = true ∧
      oneBlock 0x2FFFFF80 128 256 = true) ∧
    (let b : Payload := .vatWrite 7 0x2FFFFFC0 (List.replicate 64 1) (.store 63 7) 0
     let s := vclaims (arrive on b)
     s.first (flit b) = true ∧ s.pdOn 15 = true ∧ s.sliceClaim 7 (bankOf 0x2FFFFFC0) 1 0 = true) ∧
    (let b : Payload := .vatData 0x2FFFFFC0 (List.replicate 64 1) (List.replicate 64 false) (.ld 63 7 31 1 0 0x2FFFFF80)
     let s := arrive on b
     s.first (flit b) = true ∧ s.pdOn (16 + tT.val) = true) := by decide

/-- A request at a narrow port. -/
def narrowReq (a n : Nat) (wr : Option (List Byte)) (who : Purpose) : NarrowReq :=
  { addr := a, len := n, wr := wr, who := who, home := 63, waited := false, since := 0 }

theorem test_pailPorts_meets :
    (let q := narrowReq (pail + 0x3FFFF8) 8 (some (List.replicate 8 1)) (.write 0)
     let s : State := { on with mem := { on.mem with ports := [(63, [q])] } }
     (s.portFill 63).portQ 63 = [q] ∧ s.mem.portsUsed.contains 63 = false ∧ s.bankFree 63 (bankOf q.addr) = true ∧
      s.threadTakes 63 (bankOf q.addr) = false ∧ s.memThere q.addr = true) ∧
    (let q := narrowReq 0x2FFFFFF8 8 none .trace
     let s : State := { on with mem := { on.mem with ports := [(71, [q])] } }
     (s.portFill 71).portQ 71 = [q] ∧ s.bankFree 71 (bankOf q.addr) = true ∧ s.threadTakes 71 (bankOf q.addr) = false) ∧
    (let b : Payload := .remoteWrite 0 63 15 15 0 (List.replicate 8 1) [false] true
     let s := (withSlots (withH fr 63 (entry 0 pail 64 + 0xF0)) [claim 2 0 8]).setReg (rTile tT.val (oCwCfg 15))
        (0x103C0 + 63 * 1024)
     let s := arrive s b
     s.first (flit b) = true ∧ s.pdOn (16 + tT.val) = true ∧ s.remoteAddr tT 0 15 15 0 8 = some pail ∧
      s.writeClaim tT 8 (bankOf pail) = true ∧ s.remoteAddr tT 1 15 15 0 8 = none ∧
      (withSlots s []).openAt tT 2 (bankOf pail) = true) ∧
    (let q := narrowReq pail 64 none (.store 63 7)
     let s := on.modThr tT tH (fun y => { y with pailQ := [q, { q with wr := some [1] }] })
     (s.thr tT tH).pailQ = [q, { q with wr := some [1] }] ∧ q.since ≤ s.fck ∧ s.openAt tT 1 (bankOf pail) = true ∧
      s.openAt tT 2 (bankOf pail) = true) ∧
    on.writes .host (injectReg 71) = true ∧ on.writes .host (injectReg 63) = true := by decide

theorem test_sliceCache_meets :
    (let r : CacheReq := ⟨3, 0x2F0FFFF8, 8, none, 31, true, false, false⟩
     let l : CacheLine := ⟨0x2F0FFF80, List.replicate 128 0, false, 0⟩
     let s : State := { onReg [(rCacheStatus, 1), (rCacheLo, 0x2F000000), (rCacheHi, 0x2F100000)] with
       cacheWork := { on.cacheWork with reqs := [r] }
       mem := { on.mem with cache := [l] } }
     bit (s.reg rCacheStatus) 2 = false ∧ s.cacheWork.fill = none ∧ s.pdOn 7 = true ∧ s.cached r.addr = true ∧
      s.cacheTake.cacheWork.reqs.find? (fun r => r.core == 3) = some r ∧ s.cacheLine r.addr = some l ∧
      ({ s with mem := { s.mem with cache := [] } } : State).cacheLine r.addr = none) ∧
    (on.writes .host rCacheCfg = true ∧ on.sizeClaimed 3 = false ∧ bit (on.reg rCacheStatus) 2 = false ∧
      bit ((onReg [(rCacheStatus, 4)]).reg rCacheStatus) 2 = true ∧
      (vclaims (planned on)).sizeClaimed 1 = true ∧ (vclaims (planned on)).sizeClaimed 0 = false) ∧
    (let s : State := { on with mem := { on.mem with cacheNext := some 3 } }
     s.mem.cacheNext = some 3 ∧ s.cacheWork.wb = 0 ∧ s.cacheWork.fill = none) ∧
    on.writes .host rCacheCtrl = true := by decide

/-! ### Ladles, copies, the tick, plans -/

/-- The last Ladle. -/
abbrev tL : Fin 16 := 15

/-- A band of one part for stream 63: kind 0 landing, otherwise write-out. -/
def band (kind : Nat) (slots : List Nat) : Band :=
  { kind := kind
    stream := 63
    first := true
    last := false
    drain := false
    cwin := 0
    issue := 0
    buf := 64
    nparts := slots.length
    segs := [⟨0, 1, slots.length, 0, 0, 0⟩]
    slots := [slots]
    commits := [⟨0, 63, 31, 1⟩] }

/-- A run of it for entry 9 of queue 65, with its parts. -/
def bandRun (b : Band) (parts : List Part) : BandRun :=
  { id := 4
    band := b
    entry := some (65, 9)
    handles := some [entry 0 0x2FFFF000 64]
    reqs := [(0, 1)]
    parts := parts
    decided := none
    refused := false
    live := true }

/-- Entry 9 of a queue, a PICTURE with plane 0 at host address 0x1000. -/
def pic : Entry :=
  { serial := 9
    raw := BitVec.ofNat 512 (1 + 0x1000 * 2 ^ 64)
    index := 0
    arrived := some 0
    epoch := 0
    taken := true
    stream := 63
    frame := 0
    moved := 64
    skipped := 0
    degraded := false
    late := false
    forced := false
    subst := false
    lastDone := false
    ended := true
    fence := some []
    done := none }

/-- Queue q holds e, is enabled, and may make transfers over a link with bus mastering on. -/
def withEntry (s : State) (q : Nat) (e : Entry) : State :=
  let s := (s.setReg (rQueue q 0x14) 0x10003).setReg rLink 0x101
  { s with host := { s.host with queues := [(q, { Queue.reset with held := [e] })] } }

/-- The last Ladle has a band and its run. -/
def withRun (s : State) (b : Band) (l : List BandRun) : State :=
  s.modLad tL (fun x => { x with bands := [b], runs := l })

/-- Every output and lane of the routers of column 7 is reserved, one ck later in each row, from schedule ck c on. -/
def ladleSlots (s : State) (c : Nat) : State :=
  { s with mesh := { s.mesh with
      slots := (List.range 8).map (fun i => (8 * i + 7, (List.range 32).map (fun a => ⟨c + i, 0, 0, 5, a, 0⟩))) } }

theorem test_landingBands_meets :
    (let b := band 0 [0]
     let s := withRun (planned fr) b []
     (s.lad tL).bands[0]? = some b ∧ b.kind = 0 ∧ s.bandNow tL b = true ∧ s.sched = b.issue ∧
      (s.lad tL).runs.any (fun r => r.band == b && r.decided.isNone) = false) ∧
    (let b := band 0 [0]
     let r := bandRun b [.empty]
     let s := withEntry (withRun (planned fr) b [r]) 65 pic
     s.pdOn 6 = true ∧
      (match (s.lad tL).runs.findSome? (fun r => (s.nextBandRead tL r).map (fun p => (r, p))) with
        | some (x, q, f, n, a, rest) =>
          x == r && q == 65 && f == 0 && n == 1 && a == (partHost r.band pic 0).getD 0 && rest == []
        | none => false) = true ∧
      s.tagsFor ((partHost r.band pic 0).getD 0) 64 = true ∧ s.tagTurn (15, false) = true ∧
      (let s : State := { s with host := { s.host with reads := List.replicate 768 ⟨0, .copy 0, 0, 0x1000, 64⟩ } }
       s.tagsFor ((partHost r.band pic 0).getD 0) 64 = false)) := by decide +kernel

theorem test_landingBands_meets_data :
    (let b := band 0 [0]
     let r := bandRun b [.empty]
     let h : HostRead := ⟨0, .band 15 4 0 1, 65, 0x1000, 64⟩
     let s := withEntry (withRun (planned fr) b [r]) 65 pic
     let s : State := { s with host := { s.host with reads := [h] } }
     s.host.reads.find? (fun r => r.tag == 0) = some h ∧ (s.lad tL).runs.find? (fun y => y.id == 4) = some r ∧
      s.entry 65 9 = some pic ∧ r.decided ≠ some false ∧ partHost r.band pic 0 = some h.addr ∧
      (List.replicate 64 (0 : Byte)).length = h.len ∧
      s.host.reads.any (fun r => r.tag == 0) = true ∧ bit (s.cfg 0x98) 4 = false ∧
      ((s.modLad tL (fun x => { x with runs := [{ r with decided := some false }] })).lad tL).runs.find? (fun y => y.id == 4) =
        some { r with decided := some false }) := by decide +kernel

theorem test_landingBands_meets_slots :
    (let b := band 0 [0]
     let r := bandRun b [.held 0 (List.replicate 64 1)]
     let s : State := { withEntry (withRun (ladleSlots (planned fr) 1) b [r]) 65 pic with round := 8, ck := 100 }
     s.frameActs = true ∧ s.pdOn 6 = true ∧
      (s.lad tL).runs.find? (fun r => r.band.kind = 0 && r.decided.isNone && (s.slotPart r.band).isSome) = some r ∧
      s.slotPart r.band = some 0 ∧ 0 < s.ck ∧ partDevice r.band (s.bandHandles r) 0 = some 0x2FFFF000 ∧
      s.partFault r.band (s.bandHandles r) 0 false = false ∧
      s.ladleReserved 15 (servingRouter 0 (memOf 0x2FFFF000 - 64)) 5 .write
        (.vatWrite (memOf 0x2FFFF000 - 64) 0x2FFFF000 (List.replicate 64 1) (.ladleWrite 15) 1) .data = true) ∧
    (let b := band 0 [0]
     let r := bandRun b [.written]
     let s : State := { withRun (ladleSlots (planned fr) 1) b [r] with round := 13 }
     let o : SyncOp := ⟨2048 + 32 * 63 + 31, false, 1, .ladle, true, 15, 0, 3, false⟩
     s.frameActs = true ∧ s.pdOn 6 = true ∧
      (s.lad tL).runs.filter (fun x => x.band.commits.any (fun c => c.ck == s.sched)) = [r] ∧
      r.band.commits.filter (fun c => c.ck == s.sched) = [⟨0, 63, 31, 1⟩] ∧ r.band.lastCommit ≤ s.sched ∧
      r.entry.isSome = true ∧ r.refused = false ∧ r.parts.all (fun p => p == .written) = true ∧
      s.ladleReserved 15 63 0 .remote (.sync o) .data = true ∧
      (bandRun b [.empty]).parts.all (fun p => p == .written) = false) := by decide +kernel

theorem test_writeOutAndPictures_meets :
    (let b := band 1 [0, 5]
     let r := bandRun b [.written, .empty]
     let s : State := { withRun (ladleSlots (planned fr) 6) b [r] with fck := 105, round := 0 }
     let p := s.writeoutRun tL
     let a := 0x2FFFF040
     p.2 = some r ∧ s.slotPart r.band = some 1 ∧ r.refused = false ∧ partDevice r.band (p.1.bandHandles r) 1 = some a ∧
      p.1.partFault r.band (p.1.bandHandles r) 1 true = false ∧
      p.1.ladleReserved 15 (servingRouter 0 (memOf a - 64)) 5 .any
        (.vatRead (memOf a - 64) a 64 (.ladleRead 15 r.id 1) (ladleRouter 15) true) .request = true ∧
      ((withRun (ladleSlots (planned fr) 6) b [{ r with refused := true }]).lad tL).runs = [{ r with refused := true }]) ∧
    (let b := band 1 [0]
     let r := bandRun b [.held 0 (List.replicate 64 1)]
     let s := withEntry (withRun (planned fr) b [r]) 65 pic
     s.pdOn 6 = true ∧ (s.lad tL).runs.find? (fun r => r.band.kind ≠ 0 && r.nextOut.isSome) = some r ∧
      r.nextOut = some (0, List.replicate 64 1) ∧ r.entry = some (65, 9) ∧ s.entry 65 9 = some pic ∧
      s.substituted pic = false ∧ s.mayRequest = true ∧ s.withinLimit tL 65 = true ∧
      s.substituted { pic with subst := true } = true) ∧
    (let s := arrive on (.degradeNote 63 63 true)
     s.first (flit (.degradeNote 63 63 true)) = true ∧ s.pdOn 6 = true ∧ fld (s.reg (rDmap 63 (63 / 4))) (8 * (63 % 4)) 8 < 128 ∧
      128 ≤ fld ((s.setReg (rDmap 63 (63 / 4)) 0xFF000000).reg (rDmap 63 (63 / 4))) (8 * (63 % 4)) 8) ∧
    (arrive on (.lateNote 63 true)).first (flit (.lateNote 63 true)) = true ∧
    ((arrive on (.fence 63 9)).first (flit (.fence 63 9)) = true ∧ (arrive on (.fence 63 9)).noteWaits 63 = false ∧
      (let n : Flit := { flit (.lateNote 63 true) with src := 63, pos := .source 0, age := 1 }
       ({ on with mesh := { on.mesh with flits := [flit (.fence 63 9), n] } } : State).noteWaits 63 = true)) ∧
    (let e := { pic with fence := some [63] }
     let s := withEntry (arrive on (.fenceAck 63 9)) 131 e
     s.first (flit (.fenceAck 63 9)) = true ∧ s.entry 131 9 = some e) ∧
    (let s := withEntry on 131 pic
     s.entry 131 pic.serial = some pic ∧
      (s.q 131).held.find? (fun e => e.ended && e.done.isNone && e.fence == some []) = some pic) := by decide +kernel

/-- A copy engine's work for entry 9 of a queue. -/
def copyRun (q : Nat) (st : CopyStage) : CopyRun :=
  { id := 0
    queue := q
    serial := 9
    desc := 0x1000
    descHost := true
    raw := []
    stage := st
    read := some (true, 0x1000, 16)
    got := []
    bad := 0
    writes := 0
    hostOut := some (0x1000, List.replicate 64 1)
    src := 0
    dst := 0
    idx := 0
    rowBuf := []
    faultIdx := none
    moved := 0
    request := none
    grant := none
    granted := 0 }

theorem test_copyEngines_meets :
    (let e := { pic with raw := BitVec.ofNat 512 (2 + 0x1000 * 2 ^ 64 + 2 ^ 128), taken := false }
     let s := (withEntry on 131 e).setReg (rQcfg 131) 15
     s.pdOn 6 = true ∧ s.early = false ∧ (s.lad tL).copy = none ∧ s.copyNext 15 = some 131 ∧ s.headCopy 131 = some e ∧
      e.fld 64 64 % 64 = 0 ∧ e.fld 128 1 = 1) ∧
    (let s := onReg [(rSringCfg 3, 0x80000FFF), (rSringTail 3, 1), (rSringBase 3, 0x30000000)]
     s.copyNext 15 = some 135 ∧ s.ringPlace 3 (s.inService 135) = 0) ∧
    (let c := { copyRun 131 .header with hostOut := none }
     let s := (withEntry on 131 pic).modLad tL (fun x => { x with copy := some c })
     s.pdOn 6 = true ∧ (s.lad tL).copy = some c ∧ c.wantsHost = some (0x1000, 16) ∧ s.mayRequest = true ∧
      s.withinLimit tL c.queue = true ∧ s.host.reads.any (fun r => r.who == .copy 15) = false ∧
      s.tagsFor 0x1000 16 = true ∧ s.tagTurn (15, true) = true) ∧
    (let c := copyRun 131 .header
     let s := (withEntry on 131 pic).modLad tL (fun x => { x with copy := some c })
     (s.lad tL).copy = some c ∧ c.hostOut = some (0x1000, List.replicate 64 1) ∧ s.mayRequest = true) ∧
    (let s := on.modLad tL (fun x => { x with copy := some { copyRun 135 (.ended 0 0) with serial := 0 } })
     (s.lad tL).copy = some { copyRun 135 (.ended 0 0) with serial := 0 } ∧ 0 = fld (s.reg (rSringHead 3)) 0 8 ∧
      9 ≠ fld (s.reg (rSringHead 3)) 0 8) ∧
    on.writes (.steward 0) (rSringTail 3) = true := by decide +kernel

/-- The timing generator is on, with output A in use. -/
def running (s : State) : State := s.setReg rOutNow 0xD

theorem test_nopDoesNothing_meets : (slotsOf 0x3FFFFFF).all (fun b => b.op == 0) = true := by decide

theorem test_tickActions_meets :
    let s : State := { running on with tick := { on.tick with blank := .forced } }
    s.tgOn = true ∧ s.tgStops = false ∧ s.tick.blank = .forced := by decide

theorem test_blankingAndBudget_meets :
    (let s : State := { running on with tick := { on.tick with blank := .blanking } }
     s.tgOn = true ∧ s.now.sample = false ∧ s.samplesNow (s.tick.blankLine + 1) = true ∧ s.tick.blank = .blanking ∧
      s.planRuns = false ∧ (planned s).planRuns = true ∧ (planned s).teGate = false ∧ s.budgetCk = false) ∧
    (let s : State := { running on with tick := { on.tick with blank := .active, activeLine := 100000 } }
     s.samplesNow 0 = true ∧ tsVActive s.scan.ts ≤ s.tick.activeLine ∧
      ({ s with tick := { s.tick with ticked := true } } : State).tick.relocked = false) ∧
    (let s : State := { planned fr with fck := 100 + 16384 }
     let s := s.modThr tT tH (fun y => { y with st := .stall })
     s.budgetCk = true ∧ (s.tile tT).frameRun = true ∧ (s.tile tT).stopped = false ∧ s.isFrame tT tH = true ∧
      (s.thr tT tH).st = .stall) ∧
    (let s : State := { planned fr with fck := 100 + 15 * 1024 }
     s.frameActs = true ∧ s.plan.run = some run1 ∧ run1.budget = 16 * 1024 ∧ 15 * 1024 ≤ s.sched) ∧
    on.writes .host rNdetCtrl = true ∧ on.regOn (rNdet 5) = true := by decide

theorem test_unassignedAndOff_meets :
    (isRegAddr 0x300AFFFC = true ∧ 0x300AFFFC % 4 = 0 ∧ regRow 0x300AFFFC = none) ∧
    (let a := rTile 63 oTrCfg
     let s := onReg [(rPdOn 2, 0x7FFF)]
     isRegAddr a = true ∧ a % 4 = 0 ∧ s.regOn a = false ∧ (regRow a).isSome = true) ∧
    (let s := onReg [(rPdOn 0, 0xFFFF7FFF)]
     s.regOn (rSliceCe 7) = false ∧ s.regOn (rSliceCe 6) = true) := by decide

/-- `on` with the function's memory space enabled. -/
def open1 (s : State) : State := { s with host := { s.host with cfg := [(4, 0x00100002)] } }

theorem test_registerWrites_meets :
    (let a := rTile 63 (oSubst 17)
     isRegAddr a = true ∧ on.writes (.steward 0) a = true ∧ (regRow a).isSome = true ∧ a % 4 = 0 ∧
      ownRule (.steward 0) a = false ∧ on.barred (.steward 0) a = false ∧ fr.writes (.steward 0) a = true ∧
      fr.barred (.steward 0) a = true) ∧
    (on.writes .swap (rTickval 2047) = true ∧ ownRule .swap (rTickval 2047) = false ∧
      on.barred .swap (rTickval 2047) = false ∧ (planned on).barred .host (rTickval 2047) = true) ∧
    (isMsix (rTickval 2047) = false ∧ rTickval 2047 % 4 = 0 ∧ (2 : Nat) ≠ 4) ∧
    (let s := open1 on
     s.barOpen = true ∧ isMsix (rMsix 71 0) = true ∧ rMsix 71 0 % 8 = 0 ∧ s.regOn (rMsix 71 0) = true ∧ s.reaches .host = true) ∧
    (on.writes .host rBoardId = true ∧ on.woWritten rBoardId = false ∧ (onReg [(rWoState, 0xFFFFFFFF)]).woWritten rBoardId = true) ∧
    (∀ a ∈ [rThrotCfg, rLeadMax, rWinBase, rCreamWm, rTeCfg], on.writes (.steward 0) a = true) ∧
    (milkReads (rTickval 2047) = false ∧ milkReads rFrame = true ∧ milkWrites rFrame = false) ∧
    on.barOpen = false ∧
    (let s := (open1 on).setReg rBootStage 3
     s.barOpen = true ∧ s.earlyWrite (rTickval 2047) = true) := by decide

/-- Bytes placed in memory from an address, each pair a position and a little-endian word of 4 bytes. -/
def place (s : State) (a : Nat) (l : List (Nat × Nat)) : State :=
  l.foldl (fun s p => { s with mem := s.mem.setBytes (a + p.1) (bytesOfNat 4 p.2) }) s

/-- A container at 0x2FFFF000 of one variant that the timing set in force admits. -/
def container (s : State) : State :=
  place s 0x2FFFF000 [(0, 0x4C50584B), (4, 1), (16, 0x731800B0), (24, 1000000), (28, 0xFF01), (40, tsHTotal s.tsNext),
    (44, tsVActive s.tsNext), (48, tsVbMin s.tsNext), (52, tsPclk s.tsNext)]

/-- CRC-32C byte by byte, each value in hand before the next byte. -/
def crcNow : List Byte → Word → Word
  | [], c => c
  | b :: l, c => match (crcByte c b).toNat with
    | 0 => crcNow l 0
    | n + 1 => crcNow l (BitVec.ofNat 32 (n + 1))

theorem crcNow_eq (l : List Byte) (c : Word) : crcNow l c = l.foldl crcByte c := by
  induction l generalizing c with
  | nil => rfl
  | cons b l ih =>
    have h : BitVec.ofNat 32 (crcByte c b).toNat = crcByte c b := by simp
    unfold crcNow
    rw [List.foldl_cons]
    split <;> rename_i e <;> rw [e] at h <;> rw [← h] <;> exact ih _

/-- A container at 0x2FFFF000 that passes every check of R336: FRAME_MAP marks object 0, and an image of 64 bytes goes to
0x20000000, where it already stands. -/
def valid (s : State) : State :=
  place (container (place s 0x20000000 [(0, 0xDEADBEEF)])) 0x2FFFF000 [(4, 0x00800001), (8, 392), (12, 3166934802), (32, 2), (192, 0xFFFF0102), (196, 256), (200, 8),
    (208, 0xFFFF0109), (212, 320), (216, 72), (256, rFrameMap 0), (260, 1), (320, 0x20000000), (324, 64), (328, 0xDEADBEEF)]

/-- Core 3 with values in x1 and x2. -/
def core (s : State) (a b : Nat) : State :=
  { s with stew := s.stew.set 3 (((s.core 3).wx 1 (BitVec.ofNat 64 a)).wx 2 (BitVec.ofNat 64 b)) }

theorem test_planArming_meets :
    (let s := (onReg [(rBudgetCap, 1023)]).modTile tT (fun x => { x with request := some ⟨1, 0, false⟩ })
     s.pdOn 7 = true ∧ s.leaveOrder = [(63, ⟨1, 0, false⟩)] ∧ s.leaveFits 1 = true ∧
      (s.setReg rBudgetCap 0).leaveFits 1 = false) ∧
    (let c := { copyRun 131 .leave with request := some ⟨2, 0, false⟩ }
     let s := (onReg [(rBudgetCap, 1023)]).modLad tL (fun x => { x with copy := some c })
     s.leaveOrder = [(79, ⟨2, 0, false⟩)] ∧ (s.lad tL).copy = some c ∧ s.leaveFits 2 = true) ∧
    (let s := core (container on) 0x2FFFF000 0
     s.coreRuns 3 = true ∧ (s.core 3).user = false ∧ s.pdOn 7 = true ∧ (s.core 3).x[1].toNat = 0x2FFFF000 ∧
      (s.core 3).x[2].toNat = 0 ∧ s.hwRow 0x2FFFF000 0 = none ∧ s.armBarred 0x2FFFF000 0 = false ∧
      s.hwRow 0x2FFFF000 14 = some 2 ∧ (s.setReg rLvStatus 2).armBarred 0x2FFFF000 0 = true ∧
      (s.setReg rLvStatus 2).hwRow 0x2FFFF000 0 = none) ∧
    (let s : State := { on with plan := { on.plan with arming := some ⟨0, 15⟩ } }
     s.pdOn 7 = true ∧ s.plan.engine = .idle ∧ s.planRuns = false ∧ s.plan.arming = some ⟨0, 15⟩) ∧
    (let s : State := { planned fr with fck := 100 + 16384 }
     s.planRuns = true ∧ s.budgetCk = true ∧ s.variantFault = false ∧ s.cycleEnds = true) ∧
    (let s : State := { container on with plan := { on.plan with arming := some ⟨0x2FFFF000, 0⟩ } }
     s.plan.arming = some ⟨0x2FFFF000, 0⟩ ∧ s.hwRow 0x2FFFF000 0 = none ∧ s.mem.cacheNext = none ∧
      s.cacheSize = (s.planAt 0x2FFFF000 0).cache) ∧
    (let s : State := { on with plan := { on.plan with engine := .loading none true } }
     s.plan.engine = .loading none true ∧ s.mem.cacheNext = none) ∧
    ((container on).loadPlan ((container on).planAt 0x2FFFF000 0)).2.isSome = true ∧
    (on.loadPlan { run1 with addr := 0x30000000 }).2.isNone = true ∧
    (let s : State := { on with power := { on.power with relock := some 1250000 } }
     s.power.relock = some 1250000 ∧ 1250000 < 2 ^ 32) := by decide +kernel

theorem test_handleTableSwap_meets :
    (let s := core on 63 0
     s.coreRuns 3 = true ∧ (s.core 3).user = false ∧ (s.core 3).x[1].toNat = 63 ∧ s.pdOn (16 + 63) = true ∧
      (s.tile (tid 63)).frameRun = false) ∧
    (let s := core fr 63 0
     (s.core 3).x[1].toNat < 64 ∧ (s.tile (tid 63)).frameRun = true ∧ bit (s.reg (rTile 63 oHbank)) 1 = false ∧
      bit ((s.setReg (rTile 63 oHbank) 2).reg (rTile 63 oHbank)) 1 = true) ∧
    (let s := core (planned on) 0xFF 0
     s.coreRuns 3 = true ∧ (s.core 3).x[1].toNat = 0xFF ∧ s.pdOn 7 = true ∧ s.planRuns = true) ∧
    (let s := core on 64 0xFE
     64 ≤ (s.core 3).x[1].toNat ∧ (s.core 3).x[2].toNat < 0xFF) := by decide

/-! ### Host link, scan-out, stewards, power, errors, sideband, boot, debug -/

/-- `on` with the memory space and bus mastering on, MSI-X enabled, and queue 131 enabled with 2 entries a ring. -/
def host (s : State) : State :=
  let s := (s.setReg (rQueue 131 0x14) 0x10003).setReg rLink 0x101
  let s := s.setReg (rQueue 131 0x10) 0x11
  { s with host := { s.host with cfg := [(4, 0x00100006), (0x50, 0x80477011)] } }

theorem test_hostAccesses_meets :
    (on.linkUp = true ∧ on.host.perst = false ∧ on.host.flr = false ∧ bit (on.reg rReadyCfg) 0 = true ∧
      bit ((on.setReg rReadyCfg 0).reg rReadyCfg) 0 = false) ∧
    (let s := (host on).setReg rWinBase 0x2FFFFFF0
     s.barOpen = true ∧ s.early = false ∧ (s.setReg rBootStage 3).early = true ∧
      s.rangeThere ((s.reg rWinBase).toNat + 8) 8 = true ∧ ((s.reg rWinBase).toNat + 8) % 8 = 0 ∧
      s.rangeThere ((s.reg rWinBase).toNat + 9) 4 = true ∧ ((s.reg rWinBase).toNat + 9) % 8 ≠ 0 ∧
      s.rangeThere ((s.reg rWinBase).toNat + 12) 8 = false) ∧
    (let s := host on
     s.qEn 131 = true ∧ fld (1 : Word) 0 12 < s.sqSize 131 ∧
      ringDist (s.q 131).sqHead (s.q 131).sqTail (s.sqSize 131) + ringDist (s.q 131).sqTail 1 (s.sqSize 131) <
        s.sqSize 131 ∧
      s.qEn 0 = false ∧ s.sqSize 131 ≤ fld (2 : Word) 0 12) ∧
    (let s := host on
     let s : State := { s with host := { s.host with queues := [(131, { Queue.reset with sqTail := 1 })] } }
     fld (0 : Word) 0 12 < s.sqSize 131 ∧
      s.sqSize 131 ≤ ringDist (s.q 131).sqHead (s.q 131).sqTail (s.sqSize 131) + ringDist (s.q 131).sqTail 0 (s.sqSize 131)) ∧
    (let s := host on
     let s : State := { s with host := { s.host with queues := [(131, { Queue.reset with cqTail := 1 })] } }
     s.barOpen = true ∧ fld (1 : Word) 0 12 < s.cqSize 131 ∧ ringDist (s.q 131).cqHead 1 (s.cqSize 131) ≤
        ringDist (s.q 131).cqHead (s.q 131).cqTail (s.cqSize 131) ∧ 1 = (s.q 131).cqTail ∧
      (0 < s.cqSize 131 ∧ ringDist (s.q 131).cqHead 0 (s.cqSize 131) ≤
        ringDist (s.q 131).cqHead (s.q 131).cqTail (s.cqSize 131) ∧ 0 ≠ (s.q 131).cqTail ∧
        bit (s.reg (rQueue 131 0x14)) 1 = true ∧ (s.setReg (rMsix (queueVector 131) 12) 0).mayMsix (queueVector 131) = true) ∧
      s.cqSize 131 ≤ fld (2 : Word) 0 12) := by decide

/-- An entry in queue 131 that has not arrived. -/
def waits (op : Nat) : Entry := { pic with raw := BitVec.ofNat 512 op, arrived := none, taken := false }

theorem test_queueEntries_meets :
    (let s := host on
     let s : State := { s with host := { s.host with queues := [(131, { Queue.reset with sqTail := 1 })] } }
     s.mayRequest = true ∧ s.qEn 131 = true ∧ 1 ≤ s.fetchRoom 131 ∧
      (s.fetchPieces (s.sqBase 131 + 64 * (s.q 131).fetch) 64).length ≤ s.freeTags.length ∧ (s.q 131).held = [] ∧
      (0 : BitVec 512).toNat % 256 ≤ 2 ∧ arrivalFault (s.planesUsed 131) 131 0 = none ∧
      (arrivalFault (s.planesUsed 131) 131 5).isSome = true) ∧
    (∀ op ∈ [0, 1, 2], let s := withEntry on 131 (waits op)
      s.pdOn 2 = true ∧ (s.q 131).held = [waits op] ∧ (waits op).arrived = none ∧ (waits op).op = op) ∧
    (let e := { waits 0 with arrived := some 0, done := some (0, false, 0) }
     let s := withEntry (host on) 131 e
     (s.q 131).held = [e] ∧ e.done = some (0, false, 0) ∧ s.cqFull 131 = false ∧ s.mayRequest = true ∧ e.op ≠ 1 ∧
      s.abortWaits 131 e = false ∧ { pic with done := some (0, false, 0) }.op = 1 ∧ pic.taken = true) ∧
    (let s := withEntry on 131 (waits 4)
     let s : State := { s with host := { s.host with sent := [⟨131, 9, false⟩] } }
     s.writes (.steward 0) rSdone = true ∧ fld (0x0B83 : Word) 8 8 < 0xC ∧ fld (0x0B83 : Word) 0 8 = 131 ∧
      s.host.sent.find? (fun x => x.queue == 131) = some ⟨131, 9, false⟩ ∧ s.entry 131 9 = some (waits 4) ∧
      on.host.sent.find? (fun x => x.queue == 131) = none) ∧
    (on.writes (.steward 0) rSmsg = true ∧ on.writes (.steward 0) (rQueue 131 0x14) = true ∧ on.qEn 131 = false ∧
      (on.q 131).held = [] ∧ (host on).qEn 131 = true) := by decide +kernel

/-- A steward-served entry of queue 1 with fields (bit, value), the only one in the entry ring. -/
def served (s : State) (op : Nat) (l : List (Nat × Nat)) : State :=
  let e := { waits op with raw := BitVec.ofNat 512 (op + (l.map (fun p => p.2 * 2 ^ p.1)).sum), arrived := some 0 }
  let s := withEntry s 1 e
  { s with host := { s.host with sent := [⟨1, 9, false⟩] } }

theorem test_stewardEntries_meets :
    (let s := served on 3 [(232, 2)]
     s.stewardsRun = true ∧ s.host.sent = [⟨1, 9, false⟩] ∧ s.plan.armEntry ≠ some (1, 9) ∧
      ∃ e, s.entry 1 9 = some e ∧ e.serial = 9 ∧ e.taken = false ∧ e.op = 3 ∧ e.fld 232 8 = 2) ∧
    (let s := served on 3 [(232, 0), (192, 0x2FFFF000), (128, 16)]
     s.mayRequest = true ∧ (∀ i, i < 16 → isVat (0x2FFFF000 + i) = true ∧ s.memThere (0x2FFFF000 + i) = true) ∧
      s.engineBusy = false ∧ s.mustStop 0x2FFFF000 false = false ∧ (planned s).mustStop 0x2FFFF000 true = true ∧
      ({ s with plan := { s.plan with engine := .loading none true } } : State).engineBusy = true ∧
      ∃ e, s.entry 1 9 = some e ∧ e.op = 3 ∧ e.fld 232 8 = 0 ∧ e.fld 224 4 ≠ 15 ∧ 16 = e.fld 128 32 ∧
        e.fld 192 32 = 0x2FFFF000) ∧
    (∀ k ∈ [1, 2, 3, 4, 5], let s := served on 4 [(64, k), (192, 24)]
      s.stewardsRun = true ∧ s.mayRequest = true ∧ s.pdOn 3 = true ∧
        (s.entry 1 9).map (fun e => (e.op, e.fld 64 16, e.fld 192 32, e.taken)) = some (4, k, 24, false)) := by
  refine ⟨⟨by decide, by decide, by decide, _, rfl, ?_⟩, ⟨by decide, by decide, by decide, by decide, by decide, by decide, _, rfl, ?_⟩, ?_⟩ <;> decide +kernel

/-- The checks of R336 on the container at a that read neither its CRC nor its variant's hardware rows, of variant v. -/
def restOk (s : State) (a v : Nat) : List Bool :=
  let p := s.planAt a v
  let l := s.sections a v
  [s.frameReadyOk l p, s.slotsOk l p, s.programsOk l p, s.formatsOk l, s.fencesOk l p, s.leaveOk l, s.imageOk a]

theorem loaderRow_none {s : State} {a v : Nat} (h : s.integrityOk a = true) (k : s.hwRow a v = none)
    (r : restOk s a v = [true, true, true, true, true, true, true]) : s.loaderRow a v = none := by
  simp only [restOk, List.cons.injEq, and_true] at r
  simp [State.loaderRow, h, k, r]

theorem loaderRow_hw {s : State} {a v r : Nat} (h : s.integrityOk a = true) (k : s.hwRow a v = some r) :
    s.loaderRow a v = some r := by
  simp [State.loaderRow, h, k]

/-- A PLAN_ARM of the container `valid`, as the only steward-served entry. -/
def arming : State := (served (valid on) 3 [(232, 1), (192, 0x2FFFF000)]).setReg rBudgetCap 1023

theorem test_arming_crc : arming.crcOk 0x2FFFF000 = true := by
  unfold State.crcOk crc32c
  rw [← crcNow_eq]
  decide +kernel

theorem test_arming_integrity : arming.integrityOk 0x2FFFF000 = true := by
  unfold State.integrityOk
  rw [test_arming_crc]
  simp only [Bool.and_eq_true]
  repeat' apply And.intro
  all_goals decide +kernel

theorem test_arming_hardware : arming.hwRow 0x2FFFF000 0 = none := by decide +kernel

theorem test_arming_firmware : restOk arming 0x2FFFF000 0 = [true, true, true, true, true, true, true] := by decide +kernel

theorem test_arming_variant : arming.hwRow 0x2FFFF000 1 = some 2 := by decide +kernel

theorem test_arming_rows : arming.loaderRow 0x2FFFF000 0 = none ∧ arming.loaderRow 0x2FFFF000 1 = some 2 :=
  ⟨loaderRow_none test_arming_integrity test_arming_hardware test_arming_firmware,
    loaderRow_hw test_arming_integrity test_arming_variant⟩

/-- A PLAN_LOAD of `valid`'s bytes, as the only steward-served entry. -/
def loading : State :=
  (served (place on 0x20000000 [(0, 0xDEADBEEF)]) 3 [(232, 0), (192, 0x2FFFF000), (128, 392)]).setReg rBudgetCap 1023

/-- Its entry as taken, when its bytes have been copied from the host. -/
def loaded : State :=
  let e := { waits 3 with raw := BitVec.ofNat 512 (3 + 0x2FFFF000 * 2 ^ 192 + 392 * 2 ^ 128), arrived := some 0 }
  (loading.startService 1 e).placeContainer 0x2FFFF000 ((valid on).mem.bytes 0x2FFFF000 392)

/-- `loaded`, put as `arming` with another host part. -/
def copied : State := { arming with host := loaded.host }

theorem test_loaded : loaded = copied := by decide +kernel

theorem test_loaded_image : copied.writeImage 0x2FFFF000 = copied := by decide +kernel

theorem crcOk_host (s : State) (h : HostState) (a : Nat) : ({ s with host := h } : State).crcOk a = s.crcOk a := rfl

theorem firstRow_none {s : State} {fw a v : Nat} (h : s.loaderRow a v = none) : s.firstRow fw a v = fw := by
  unfold State.firstRow
  rw [h]

theorem firstRow_some {s : State} {a v r : Nat} (h : s.loaderRow a v = some r) : s.firstRow 0 a v = r := by
  unfold State.firstRow
  rw [h]
  rfl

theorem test_stewardEntries_meets_arming :
    arming.stewardsRun = true ∧ arming.firstRow 0 0x2FFFF000 0 = 0 ∧ arming.armBarred 0x2FFFF000 0 = false ∧
      arming.firstRow 3 0x2FFFF000 0 = 3 ∧ arming.firstRow 0 0x2FFFF000 1 = 2 ∧ arming.plan.armEntry = none :=
  ⟨by decide, firstRow_none test_arming_rows.1, by decide +kernel, firstRow_none test_arming_rows.1,
    firstRow_some test_arming_rows.2, by decide⟩

theorem test_copied_integrity : copied.integrityOk 0x2FFFF000 = true := by
  unfold State.integrityOk
  rw [show copied.crcOk 0x2FFFF000 = true from (crcOk_host _ _ _).trans test_arming_crc]
  simp only [Bool.and_eq_true]
  repeat' apply And.intro
  all_goals decide +kernel

theorem test_copied_hardware : copied.hwRow 0x2FFFF000 0 = none := by decide +kernel

theorem test_copied_firmware : restOk copied 0x2FFFF000 0 = [true, true, true, true, true, true, true] := by decide +kernel

theorem test_copied_variant : copied.hwRow 0x2FFFF000 9 = some 2 := by decide +kernel

theorem test_copied_image :
    copied.imageOk 0x2FFFF000 = true ∧ copied.imageOf 0x2FFFF000 = [(0x20000000, 64, 0x2FFFF148)] ∧
      copied.memThere 0x20000000 = true ∧ copied.memThere 0x2000003F = true ∧
      loading.mustStop 0x2FFFF000 (hasImage ((valid on).mem.bytes 0x2FFFF000 392)) = false := by decide +kernel

theorem test_stewardEntries_meets_image :
    let w := if loaded.integrityOk 0x2FFFF000 && loaded.imageOk 0x2FFFF000 then loaded.writeImage 0x2FFFF000 else loaded
    loaded.integrityOk 0x2FFFF000 = true ∧ w.firstRow 0 0x2FFFF000 0 = 0 ∧ w.firstRow 0 0x2FFFF000 9 = 2 := by
  rw [test_loaded]
  simp only [test_loaded_image, ite_self]
  exact ⟨test_copied_integrity, firstRow_none (loaderRow_none test_copied_integrity test_copied_hardware test_copied_firmware),
    firstRow_some (loaderRow_hw test_copied_integrity test_copied_variant)⟩

theorem test_hostResets_meets :
    on.linkUp = true ∧ on.host.perst = false ∧ on.host.flr = false ∧ on.pdOn 2 = true ∧
      ({ on with host := { on.host with flr := true } } : State).host.flr = true := by decide

theorem test_scanRequests_meets :
    on.writes (.steward 0) rTsCommit = true ∧ on.writes (.steward 0) rOutMode = true ∧ on.pdOn 3 = true ∧
    fld ((on.setReg rTeCfg 2).reg rTeCfg) 0 2 = 2 ∧ fld (on.reg rTeCfg) 0 2 ≠ 2 ∧ on.writes .host (rDpCtrl 1) = true ∧
    bit ((on.setReg (rDpCtrl 1) 1).reg (rDpCtrl 1)) 0 = true ∧ on.pdOn 5 = true ∧ on.writes .host (rAuxCmd 1) = true ∧
    on.wroteNow (rDpCtrl 1) = false ∧ on.wroteNow (rAuxCmd 1) = false ∧
    bit (on.reg (rAuxStat 1)) 0 = false ∧ bit (0x80000000 : Word) 31 = true ∧
    bit ((on.setReg (rAuxStat 1) 1).reg (rAuxStat 1)) 0 = true := by decide

theorem test_scanLines_meets :
    (let s := (running on).setReg rTickStatus 4
     s.outUsed 0 = true ∧ s.planned 4 = false ∧ s.scan.lines = [] ∧ s.fetchLine 0 4 < tsVActive s.scan.ts ∧
      s.layerLive 4 false = true) ∧
    (let s : State := { (running on).setReg rLine 3000 with scan := { on.scan with fetchAt := [(lyKey 0 3, 2160)] } }
     s.planned 3 = false ∧ tsVActive s.scan.ts ≤ s.fetchLine 0 3 ∧ s.fetchLine 0 3 < 2 * tsVActive s.scan.ts ∧
      s.layerLive 3 true = true ∧ s.leadLine ≤ s.rasterLine) ∧
    (let s := planned ((running fr).setReg rPlanLayers 8)
     s.outUsed 0 = true ∧ s.planned 3 = true ∧ s.frameActs = true ∧ s.scan.lines = []) ∧
    (let l : CreamLine := ⟨9, 0, 3, 0, false, [], [], false, false, [(0x2FFFFFC0, 64)], 64, []⟩
     let s : State := { running on with scan := { on.scan with lines := [l] } }
     s.outUsed 0 = true ∧ s.frameActs = true ∧
      s.scan.lines.find? (fun l => l.output == 0 && l.layer == 3 && !l.toSend.isEmpty) = some l ∧
      l.toSend = [(0x2FFFFFC0, 64)]) ∧
    (let s : State := { running on with tick := { on.tick with activeLine := 2159 } }
     s.tgOn = true ∧ s.tick.blank = .active ∧ s.tick.activeLine < tsVActive s.scan.ts) := by decide

/-- Core 3 at an element e of a long instruction with x1, x2 and x3. -/
def kxAt (n a b e : Nat) : State :=
  { on with stew := on.stew.set 3 { (((on.core 3).wx 3 (BitVec.ofNat 64 n)).wx 1 (BitVec.ofNat 64 a)).wx 2
      (BitVec.ofNat 64 b) with kxprog := BitVec.ofNat 32 e } }

theorem test_stewardKernels_meets :
    (let s := kxAt 16 0x341FFFF0 0x34000000 1
     let z := s.core 3
     s.coreRuns 3 = true ∧ z.haltReq = false ∧ z.user = false ∧ s.scope 3 = false ∧ z.x[3].toNat = 8 * (z.kxprog.toNat + 1) ∧
      z.x[1].toNat % 8 = 0 ∧ z.x[2].toNat % 8 = 0 ∧ z.pmpOk false .read 0x34000008 8 = true ∧ isSram 0x34000008 = true ∧
      s.elemThere 0x34000008 8 = true ∧ (∀ i, i < 8 → s.badByte (0x34000008 + i) = false) ∧
      z.pmpOk false .write 0x341FFFF8 8 = true ∧ isSram 0x341FFFF8 = true ∧ s.elemThere 0x341FFFF8 8 = true) ∧
    (let s := kxAt 1 0x341FFFFF 0 0
     (s.core 3).x[3].toNat = (s.core 3).kxprog.toNat + 1 ∧ (s.core 3).pmpOk false .read 0x341FFFFF 1 = true ∧
      isSram 0x341FFFFF = true ∧ s.elemThere 0x341FFFFF 1 = true ∧ s.badByte 0x341FFFFF = false) ∧
    (let s := kxAt 64 0x34000000 (63 * 2 ^ 16 + 2 ^ 24) 63
     let b := (s.core 3).x[2].toNat
     (s.core 3).x[3].toNat = (s.core 3).kxprog.toNat + 1 ∧ b / 65536 = 63 + 256 * (b / 2 ^ 24) ∧ b < 2 ^ 25 ∧
      b % 65536 + 64 ≤ 64 ∧ (s.core 3).pmpOk false .read (0x34000000 + 16 * 63) 16 = true ∧
      isSram (0x34000000 + 16 * 63) = true ∧ (∀ i, i < 16 → s.badByte (0x34000000 + 16 * 63 + i) = false) ∧
      s.elemThere (0x34000000 + 16 * 63) 16 = true ∧ s.bankLocked 63 (b / 2 ^ 24) = false ∧ s.pdOn (16 + 63) = true) ∧
    (kxAt 0 0 0 0).coreRuns 3 = true ∧ ((kxAt 0 0 0 0).core 3).x[3].toNat = 0 := by decide

theorem test_stewardAccesses_meets :
    (let z := on.core 3
     on.scope 3 = false ∧ on.coreRuns 3 = true ∧ stewFetch .sc = false ∧ z.admits .sc 0x341FFFF8 8 = true ∧
      isSram 0x341FFFF8 = true ∧ on.memThere 0x341FFFF8 = true ∧ on.memThere 0x341FFFFF = true ∧
      ∀ i, i < 8 → on.badByte (0x341FFFF8 + i) = false) ∧
    (let z := on.core 3
     z.admits .fetch 0x341FFFFC 4 = true ∧ z.admits (.load true) 0x2FFFFFF8 8 = true ∧ isRegAddr 0x2FFFFFF8 = false ∧
      on.rangeThere 0x2FFFFFF8 8 = true ∧ on.cached 0x2FFFFFF8 = false ∧ z.admits (.load false) rLWindow 4 = true ∧
      isRegAddr rLWindow = true ∧ rLWindow % 4 + 4 ≤ 4 ∧ z.admits .store rLWindow 4 = true) ∧
    (let s : State := { on with stew := on.stew.set 3 { on.core 3 with user := true } }
     s.coreRuns 3 = true ∧ (s.core 3).admits .store 0x341FFFF8 8 = false) ∧
    (let s : State := { on with bells := { on.bells with lines := Vector.replicate 5 true } }
     s.pdOn 1 = true ∧ (s.core 3).held = false ∧ (s.core 3).halted = false ∧ (s.core 3).haltReq = false ∧
      s.bells.lines[3] = true) ∧
    (on.bells.lines[3] = false ∧ bit ((on.setReg (rMsip 3) 1).reg (rMsip 3)) 0 = true ∧ bit (on.reg (rMsip 3)) 0 = false ∧
      { on.core 3 with mtip := true }.mtip = true) := by
  decide

/-- Source n pends, at priority 15 routed to S3, with its group's wired trigger an edge that rises. -/
def pends (n : Nat) : State :=
  let s := on.setReg (rSrc n) 0x88F
  { s with bells := { s.bells with pend := srcBit n } }

theorem test_bellDelivery_meets :
    (let s := arrive on (.bellMsg 511 true)
     s.first (flit (.bellMsg 511 true)) = true ∧ isLevel 511 = false ∧ s.bells.closed.getLsbD 511 = false ∧
      isLevel 1 = true ∧ ({ s with bells := { s.bells with closed := srcBit 511 } } : State).bells.closed.getLsbD 511 = true) ∧
    (let s : State := { on with bellMsgs := [510, 511] }
     s.mesh.flits = [] ∧ s.bellMsgs.contains 511 = true ∧ s.pdOn 7 = true ∧ s.bells.closed.getLsbD 511 = false ∧
      ({ s with bells := { s.bells with closed := srcBit 511 } } : State).bells.closed.getLsbD 511 = true ∧
      (s.setReg (rPdOn 0) 0xFFFFFF7F).pdOn 7 = false ∧ s.bellMsgs.contains 510 = true ∧ s.bellMsgs.contains 1 = false) ∧
    ((pends 465).bells.wired.getLsbD 17 = !true ∧ (pends 465).pdOn 7 = true ∧ 2 ≤ (pends 465).trig (448 + 17) ∧
      (pends 465).bells.closed.getLsbD (448 + 17) = false ∧ true = decide ((pends 465).trig (448 + 17) = 2)) ∧
    (on.pdOn 7 = true ∧ ownTarget (.steward 3) 3 = true ∧ ownTarget .milkhouse 4 = true ∧ ownTarget .host 4 = false) ∧
    (let s : State := { on with bells := { on.bells with stackOf := on.bells.stackOf.set 4 [(510, 15)] } }
     s.stack 4 = [(510, 15)] ∧ on.stack 4 = []) ∧
    (let s : State := { on with bells := { on.bells with holdoff := [(31, 5)], mtime := 5 } }
     Sparse.get (fun _ => 0) s.bells.holdoff 31 ≠ 0 ∧ Sparse.get (fun _ => 0) s.bells.holdoff 31 ≤ s.bells.mtime.toNat) ∧
    on.writes .host rBellCtrl = true ∧ on.writes .host (rMsip 3) = true := by decide +kernel

/-- The owner's claim finds source 510, the last one, or none. -/
theorem test_bellDelivery_meets_claim : (pends 510).claimOf 3 = 510 ∧ on.claimOf 3 = 511 := by decide +kernel

theorem test_powerSwitching_meets :
    on.writes (.steward 0) (rPdCtrl 2) = true ∧ on.power.switching = none ∧
    ({ on with power := { on.power with seq := [(7, false)] } } : State).power.seq = [(7, false)] ∧
    (let s := onReg [(rPdCtrl 0, 0xFFFFFFFF), (rPdCtrl 1, 0xFFFFFFFF), (rPdCtrl 2, 0x7FFF), (rTile 63 oTileStatus, 2)]
     s.power.seq = [] ∧ s.pdOn 7 = true ∧ s.pdNext = some 79 ∧ s.pdRefused 79 (s.pdAsked 79) = none ∧ s.pdAsked 79 = false ∧
      (s.setReg (rTile 63 oTileStatus) 0).pdRefused 79 false = some 1) ∧
    ({ on with power := { on.power with switching := some (79, false) } } : State).power.switching = some (79, false) ∧
    (let s := onReg [(rPdOn 0, 1), (rBootStage, 1)]
     s.milk.aon = true ∧ s.milk.rom = true ∧ s.milk.enMain = true ∧ s.milk.holdOff = false ∧ s.power.seq = [] ∧
      s.pdOn 7 = false ∧ s.maySequence = true) ∧
    (let s := onReg [(rPdOn 0, 0xCE), (rPdOn 1, 0), (rPdOn 2, 0)]
     s.writes (.steward 0) rMreq = true ∧ bit (s.reg rMreq) 8 = false ∧ s.maySleep = true ∧ s.power.seq = [] ∧
      s.power.switching = none ∧ s.pdOn 7 = true ∧ [7, 3, 6].filter (fun d => !s.pdOn d) = []) ∧
    (let s := onReg [(rPdOn 0, 0x4E), (rPdOn 1, 0), (rPdOn 2, 0)]
     s.writes (.steward 0) rMreq = true ∧ s.maySleep = true ∧ s.power.seq = [] ∧ s.power.switching = none ∧ s.pdOn 7 = false ∧
      bit ((s.setReg rMreq 0x101).reg rMreq) 8 = true ∧ (s.setReg rMreq 0x101).writes (.steward 0) rMreq = true) ∧
    (on.maySleep = false ∧ on.writes (.steward 0) rMreq = true) ∧
    (let s := onReg [(rPdOn 0, 0x8E)]
     s.writes (.steward 0) rMreq = true ∧ [7, 3, 6].filter (fun d => !s.pdOn d) ≠ []) ∧
    (let s := onReg [(rPdOn 0, 1), (rBootStage, 2)]
     let s : State := { s with milk := { s.milk with pgMem := false } }
     s.milk.enMain = true ∧ s.stage = 2 ∧ s.pdOn 7 = false ∧ s.power.seq = [] ∧ s.power.switching = none ∧
      s.milk.pgMem = false) := by decide +kernel

/-- `on` with the thermal thresholds 80, 90 and 100, hysteresis 4, a last sample and a step. -/
def warm (last : Int) (step : Nat) : State :=
  let s := onReg [(rThermCfg, 0x0464_5A50), (rLvStatus, BitVec.ofNat 32 step)]
  { s with power := { s.power with lastMax := some last } }

theorem test_thermalLadder_meets :
    ((warm 80 0).pdOn 7 = true ∧ (warm 80 0).power.lastMax = some 80 ∧ (warm 80 0).thermStep = 0 ∧
      (warm 80 0).reached (sampleMax 0x80 (80 * 2 ^ 56)) 80 = 1 ∧ on.power.lastMax = none) ∧
    ((warm 100 2).thermStep < 3 ∧ (warm 100 2).reached (sampleMax 0 0) 100 = 3) ∧
    ((warm 90 1).thermStep < 2 ∧ (warm 90 1).reached 90 90 = 2 ∧ (warm 90 1).plan.run = none) ∧
    (let s := container (warm 90 1)
     let p := { run1 with addr := 0x2FFFF000, light := 0, variant := 1 }
     let s : State := { s with plan := { s.plan with run := some p } }
     s.thermStep < 2 ∧ s.reached 90 90 = 2 ∧ p.light ≠ 255 ∧ p.light ≠ p.variant ∧ s.hwRow p.addr p.light = none) ∧
    (let s : State := { warm 90 1 with plan := { on.plan with run := some { run1 with light := 255 } } }
     s.thermStep < 2 ∧ s.reached 90 90 = 2 ∧ s.plan.run = some { run1 with light := 255 }) ∧
    ((warm 75 1).thermStep = 1 ∧ (warm 75 1).reached 75 75 ≤ 1 ∧ 75 < (warm 75 1).coolBelow ∧ (warm 75 1).power.throt = false) ∧
    (2 ≤ (warm 90 2).thermStep ∧ (warm 90 2).reached 90 90 ≤ (warm 90 2).thermStep) ∧
    (on.writes .host rThermCtrl = true ∧ degC ((warm 0 0).reg rTempMax).toNat < (warm 0 0).coolBelow ∧
      (warm 0 0).coolBelow ≤ degC (((warm 0 0).setReg rTempMax 76).reg rTempMax).toNat) ∧
    (on.milk.aon = true ∧ on.milk.enMain = true ∧ on.milk.recovery = none ∧ on.mainOff = false) := by decide +kernel

theorem test_thermalLadder_meets_trip :
    ((if Config.gradeI then 115 else 105) ≤ (115 : Int)) ∧ (104 : Int) < (if Config.gradeI then 115 else 105) := by
  cases Config.gradeI <;> decide

/-- A record of code 0x20 for block 9. -/
def rec1 : ErrRec := ⟨0x20, 0, 10, 9, 0, 0, 0, 0, 0⟩

theorem test_errorsAndWatchdogs_meets :
    (let s : State := { on with errs := [rec1] }
     s.errs = [rec1] ∧ s.recordWaits rec1 = false ∧ s.pdOn 7 = true ∧ s.milk.recovery = none ∧ s.err.recs.length < 64 ∧
      64 ≤ ({ s with err := { s.err with recs := List.replicate 64 (rec1, 0) } } : State).err.recs.length) ∧
    (let r : ErrRec := { rec1 with level := 3, index := 7 }
     ({ on with errs := [r], faultSeen := [7] } : State).recordWaits r = true) ∧
    (on.writes .host 0x30090008 = true ∧ on.writes .milkhouse 0x300900A4 = true) ∧
    (on.writes .host (0x30090060 + 4) = true ∧ on.writes .host (0x30090068 + 4) = true) ∧
    (let s := onReg [(rSsubPub, 0x2FFFFFF9)]
     (s.reg rSsubPub).toNat / 8 * 8 = 0x2FFFFFF8 ∧ s.pdOn 7 = true ∧ bit (s.reg rSsubPub) 0 = true ∧
      isVat 0x2FFFFFF8 = true ∧ s.memThere 0x2FFFFFF8 = true) ∧
    on.writes (.steward 3) (0x30090080 + 12) = true ∧ on.writes .host (0x30090080 + 12) = true ∧
    (let s := onReg [(rWdogCfg, 0x00080001)]
     let s : State := { s with bells := { s.bells with mtime := 25000 } }
     bit (s.reg rWdogCfg) 19 = true ∧ 0 < fld (s.reg rWdogCfg) 0 16 ∧
      s.milk.kick[3] + fld (s.reg rWdogCfg) 0 16 * 25000 ≤ s.bells.mtime.toNat ∧ s.milk.recovery = none ∧
      s.mainOff = false) ∧ bit (on.reg rWdogCfg) 19 = false := by decide +kernel

/-- `on` in a step of a device recovery. -/
def recov (c k : Nat) : State := { on with milk := { on.milk with recovery := some (c, k) } }

theorem test_deviceRecoverySteps_meets :
    (on.milk.recovery = none ∧ on.mainOff = false ∧ on.milk.enMain = true ∧ on.milk.pgCore = true ∧ on.stage ≠ 2 ∧
      on.milk.aon = true ∧ on.milk.rom = true ∧ on.pdOn 7 = true ∧ on.power.relock = none ∧
      on.writes (.steward 0) rMreq = true ∧ bit (on.reg rMreq) 8 = false) ∧
    (∀ k ∈ [0, 1, 2, 3], (recov 0x76 k).milk.recovery = some (0x76, k) ∧ (recov 0x76 k).milk.holdOff = false ∧
      (recov 0x76 k).writes (.steward 0) rMreq = true) ∧
    (let s := (recov 0x76 4).setReg rTickStatus 4
     s.milk.recovery = some (0x76, 4) ∧ s.skimOn = true ∧ s.stage ≠ 9 ∧ s.stage ≠ 10) := by decide

theorem test_sidebandCommands_meets :
    (∀ p ∈ ([(0x01, []), (0x02, []), (0x03, []), (0x04, []), (0x10, [0, 0, 0, 0]), (0x11, [0, 0, 0, 0]), (0x20, [0xA5]),
        (0x20, [0]), (0x21, [0]), (0x21, [1]), (0x22, [2]), (0x22, [0xFF]), (0x60, List.replicate 64 1), (0x61, []),
        (0x62, [14, 1, 0, 0, 0]), (0x62, [15, 1, 0, 0, 0])] : List (Nat × List Byte)),
      on.sbTakes (.call none) p.1 p.2 = true ∧ on.sbTakes (.split none) p.1 p.2 = true) ∧
    (on.milk.recovery = none ∧ on.stage ≠ 2 ∧ on.mainOff = false ∧ on.pdOn 7 = true ∧ (recov 0x75 0).milk.recovery.isSome = true ∧
      (recov 0x75 0).sbTakes (.call none) 0x20 [0xA5] = true ∧ (onReg [(rBootStage, 8)]).mainOff = true ∧
      (onReg [(rBootStage, 8)]).sbTakes (.call none) 0x21 [1] = true) ∧
    (on.sb2hFull = false ∧ (onReg [(rSb2hCtrl, 0x140)]).sb2hFull = true ∧ on.h2sbFull = false ∧
      (onReg [(rH2sbCtrl, 0x140)]).h2sbFull = true ∧ fld ((onReg [(rH2sbCtrl, 0x140)]).reg rH2sbCtrl) 0 7 ≤ 64) ∧
    (on.sbServes = true ∧ on.milk.response = none ∧ on.i2cMode = false) ∧
    (let s : State := { on with milk := { on.milk with alerts := 1, settings := { on.milk.settings with alertMask := 1 } } }
     s.sbServes = true ∧ s.alertLow = true) ∧
    on.writes .host rH2sbCtrl = true ∧ on.writes .host rSb2hCtrl = true := by decide


/-! ### Boot, flash, debug, TAP -/

/-- The key whose private part is 1: the curve's generator. -/
def key1 : List Byte := 4 :: (bytesBE 48 p384G.1 ++ bytesBE 48 p384G.2)

/-- The signed part of a boot record: the 64 erased bytes at flash offset 0x10000, to be loaded at the start of steward
SRAM. -/
def head1 : List Byte :=
  bytesOfNat 4 0x10000 ++ bytesOfNat 4 64 ++ bytesOfNat 4 0x34000000 ++ bytesOfNat 4 0x34000004 ++
    bytesOfNat 8 0 ++ key1 ++ bytesOfNat 7 0

/-- A signature over the digest of `head1` and the image, computed outside the model. -/
def sig1 : List Byte :=
  bytesBE 48 (p384G.1 % p384N) ++ bytesBE 48
    0xff73d64aaa4917d6c1247ccc72cafd91126aae1be3496f33b1f9eed5d06b4f46982c1f2604d1ef9e19afa73925ac9655

def boot1 : BootRec := { head := 0, raw := head1 ++ sig1 }

/-- The digests of the key and of `head1` with the image, computed outside the model. -/
def keyDigest1 : List Byte := bytesBE 48
  0x8c4f262412b7f9ed867606705a130de5212fd048fbaf8c3842f4a240f4b45ba0c90f82194ccdda3ed89c96b0afe1d51d
def digest1 : List Byte := bytesBE 48
  0x54ec0c27ebbe129f3272b5ad7faa501ca44d72b957a1d39b5802acf54e17250e43292cc8457cc631df5b4900b3368b9e

/-- Before authentication, with the record in slot A and its digest in KEYHASH. -/
def booting : State :=
  let s := onReg ([(rBootStage, 3), (rWoState, 0xFFF)] ++ (List.range 12).map (fun i => (rKeyhash i, BitVec.ofNat 32 (natBE ((keyDigest1.drop (4 * i)).take 4)))))
  { s with milk := { s.milk with
      bootReads := true
      bootSel := 1
      flashSize := 0x1000000
      settings := { s.milk.settings with bootA := some boot1 } } }

theorem test_sha384_of_the_key : sha384 key1 = keyDigest1 := by decide +kernel
theorem test_sha384_of_two_blocks : sha384 (head1 ++ List.replicate 64 0xFF) = digest1 := by decide +kernel
theorem test_ecdsa_valid : ecdsaValid key1 digest1 sig1 = true := by decide +kernel

theorem booting_key : boot1.bytes 24 97 = key1 := by decide +kernel

theorem keyMatches_of {s : State} {r : BootRec} {k : List Byte} (h : s.keyhash = some k) (hr : sha384 (r.bytes 24 97) = k) :
    s.keyMatches r = true := by
  simp [State.keyMatches, h, hr]

theorem trySlot_of {s : State} {r : BootRec} {image d : List Byte} (placed : s.imagePlaced r = true)
    (flash : s.flashBytes (r.le 0 4) (r.le 4 4) = image) (digest : sha384 (r.bytes 0 128 ++ image) = d)
    (key : ((s.sramWrite none (r.le 8 4) image).setHash d).keyMatches r = true)
    (sig : ecdsaValid (r.bytes 24 97) d (r.bytes 128 96) = true) : (s.trySlot (some r)).2 = true := by
  simp [State.trySlot, placed, flash, digest, key, sig]

theorem debugKey_of {s : State} {r : BootRec} (h : s.milk.settings.bootA = some r) (m : s.keyMatches r = true) :
    s.debugKey = some (r.bytes 24 97) := by
  simp [State.debugKey, h, m, List.filterMap_cons]

theorem authGood_of {s : State} {n key sig : List Byte} {scope : Byte} (hn : s.milk.nonce = some n)
    (hk : s.debugKey = some key) (hs : scope.toNat < 32) :
    s.authGood scope sig = ecdsaValid key (authDigest n scope) sig := by
  simp [State.authGood, hn, hk, hs]

/-- Erased flash. -/
abbrev image1 : List Byte := List.replicate 64 0xFF

theorem test_bootAndFlash_meets_slot : (booting.trySlot (some boot1)).2 = true :=
  trySlot_of (image := image1) (d := digest1) (by decide +kernel) (by decide +kernel)
    (Eq.trans (congrArg (fun l => sha384 (l ++ image1)) (by decide +kernel : boot1.bytes 0 128 = head1))
      test_sha384_of_two_blocks)
    (keyMatches_of (k := keyDigest1) (by decide +kernel) (by rw [booting_key]; exact test_sha384_of_the_key))
    (by rw [booting_key, (by decide +kernel : boot1.bytes 128 96 = sig1)]; exact test_ecdsa_valid)

theorem test_bootAndFlash_meets_stewards :
    booting.stage = 3 ∧ booting.milk.bootReads = true ∧ booting.pdOn 1 = true ∧ booting.milk.bootSel = 1 ∧
      booting.milk.settings.bootA = some boot1 ∧ booting.milk.settings.bootB = none ∧
      (onReg [(rBootStage, 3)]).milk.settings.bootA = none := by decide +kernel

/-- The stewards own the flash of 16 MiB. -/
def flashOn (l : List (Nat × Word)) : State :=
  let s := onReg ((rFlashReq, 1) :: l)
  { s with milk := { s.milk with flashSize := 0x1000000 } }

theorem test_bootAndFlash_meets :
    (let s : State := { on with milk := { on.milk with rom := false } }
     s.milk.aon = true ∧ s.milk.rom = false ∧ s.milk.testEn = false) ∧
    (let s : State := { on with milk := { on.milk with
        settled := false
        flash := (bytesOfNat 4 0x5453584B ++ bytesOfNat 4 1 ++ bytesOfNat 4 0 ++
          bytesOfNat 4 (crc32c (bytesOfNat 4 0x5453584B ++ bytesOfNat 4 1 ++ bytesOfNat 4 0)).toNat).zipIdx.map
            (fun p => (p.2, p.1)) } }
     s.milk.aon = true ∧ s.milk.rom = true ∧ s.milk.settled = false ∧ s.mainOff = false ∧ s.stage ≠ 2 ∧ s.headerValid = true) ∧
    (on.writes .host rFlashReq = true ∧ on.writes .host rCpCtrl = true ∧ (flashOn []).copyBusy = false ∧
      (flashOn []).stewardsOwn = true ∧ (flashOn []).eraseBusy = false ∧ on.writes .host rErCtrl = true ∧
      on.stewardsOwn = false) ∧
    (let s := flashOn [(rCpCtrl, 1), (rCpSrc, 0xFFFFC0), (rCpDst, 0x341FFFC0), (rCpLen, 64)]
     s.copyBusy = true ∧ s.milk.flashWait = false ∧ s.copyInRange = true ∧ fld (s.reg rCpLen) 0 25 = 64 ∧
      bit (s.reg rCpCtrl) 2 = false ∧ isSram (s.reg rCpDst).toNat = true ∧ s.memThere (s.reg rCpDst).toNat = true ∧
      (s.setReg rCpSrc 0x1000000).copyInRange = false ∧ s.writes .host rCpCtrl = true) ∧
    (let s := flashOn [(rErCtrl, 3), (rErAddr, 0xFFFFFF)]
     s.eraseBusy = true ∧ s.eraseAt < s.milk.flashSize) ∧
    (let s : State := { flashOn [] with milk := { (flashOn []).milk with sbOp := some (255, [0]) } }
     s.eraseBusy = false ∧ s.milk.sbOp = some (255, [0])) ∧
    (let s : State := { on with milk := { on.milk with flashOpen := true, flashSize := 0x1000000 } }
     on.sbTakes (.call none) 0x30 [] = true ∧ on.milk.sbOp = none ∧ on.milk.flashOpen = false ∧ on.milk.bootReads = false ∧
      on.copyBusy = false ∧ on.eraseBusy = false ∧
      s.sbTakes (.call none) 0x31 (bytesOfNat 4 (0x1000000 - 240) ++ [240]) = true ∧ s.milk.flashOpen = true ∧
      s.sbTakes (.call none) 0x32 (bytesOfNat 4 0xFFFF80 ++ List.replicate 128 0) = true ∧ 0xFFFF80 % 256 + 128 ≤ 256 ∧
      0xFFFF80 + 128 ≤ s.milk.flashSize ∧ s.flashReadOnly = false ∧
      s.sbTakes (.call none) 0x33 (bytesOfNat 4 0xFF0000 ++ [1]) = true ∧ 0xFF0000 % 65536 = 0 ∧
      0xFF0000 + 65536 ≤ s.milk.flashSize ∧ s.sbTakes (.call none) 0x34 [] = true) := by decide +kernel

/-- A candidate of memory 71, with flash and an SMBUS record that lets it be recorded. -/
def repairing : State :=
  { on with milk := { on.milk with
      repairCands := [0xC7000000]
      flashSize := 0x1000000
      settings := { on.milk.settings with hdrOk := true, smbus := 8, next := 16 } } }

/-- The spares that are free depend on the fuses of the part (Config.repairFuses): without a fused repair, spare 0. -/
theorem test_bootAndFlash_meets_repair :
    (repairing.milk.settings.smbus / 8 % 2 = 1 ∧ repairing.milk.settings.hdrOk = true ∧ repairing.flashOwner = 0 ∧
      repairing.milk.flashWait = false ∧ repairing.milk.repairCands = [0xC7000000] ∧
      repairing.spaceFree repairing.milk.settings.next = true ∧ repairing.milk.settings.count < 4095 ∧
      16 ≤ repairing.milk.settings.next) ∧
    (Config.repairFuses = [] → repairing.freeSpare 0xC7000000 = some 0) := by
  refine ⟨by decide +kernel, fun h => ?_⟩
  unfold State.freeSpare fuseEntries
  rw [h]
  decide +kernel

/-- `on` with scopes granted. -/
def withScope (v : Nat) (l : List (Nat × Word)) : State :=
  let s := onReg ((rAuth, BitVec.ofNat 32 v) :: l)
  { s with milk := { s.milk with scope := v } }

theorem test_debugControl_meets :
    (on.sbTakes (.call none) 0x40 [] = true ∧ on.milk.dbgFuse = false ∧
      ({ on with milk := { on.milk with dbgFuse := true } } : State).milk.dbgFuse = true) ∧
    (on.sbTakes (.split none) 0x41 (31 :: List.replicate 96 0) = true ∧ on.authGood 31 (List.replicate 96 0) = false) ∧
    (let s := withScope 2 []
     s.sbTakes (.call none) 0x50 (bytesOfNat 4 0 ++ [60]) = true ∧ s.milk.scope.testBit 1 = true ∧ s.milk.recovery = none ∧
      s.stage ≠ 2 ∧ s.mainOff = false ∧ on.milk.scope.testBit 1 = false ∧
      on.sbTakes (.call none) 0x50 (bytesOfNat 4 0 ++ [60]) = true) ∧
    (let s := withScope 31 [(rDbgCtrl, 1)]
     s.writes .debug 0x300A0004 = true ∧ s.scope 0 = true ∧ s.dbg.stopped = false ∧ s.dbg.stopAt = none ∧
      on.scope 0 = false ∧ on.writes .host 0x300A0004 = true ∧ s.pdOn 7 = true ∧ bit (s.reg rDbgCtrl) 0 = true ∧
      s.milk.dbgFuse = false) ∧
    (let s : State := { withScope 31 [] with dbg := { on.dbg with stopAt := some (3, 1) } }
     s.writes .debug 0x300A0004 = true ∧ s.scope 0 = true ∧ s.dbg.stopped = false ∧ s.dbg.stopAt = some (3, 1)) ∧
    (let s : State := { withScope 8 [] with stew := on.stew.set 3 { on.core 3 with halted := true } }
     s.writes .host (rSctrl 3) = true ∧ s.scope 3 = true ∧ s.pdOn 1 = true ∧ (s.core 3).halted = true) ∧
    (let s : State := { withScope 31 [] with dbg := { on.dbg with stopped := true } }
     s.scope 0 = true ∧ s.dbg.stopped = true ∧ s.dbg.resumeAt = none ∧ s.writes .debug 0x300A0008 = true ∧
      s.writes .debug 0x300A000C = true) ∧
    (let s : State := { on with dbg := { on.dbg with stepLeft := 1 } }
     s.dbg.stopped = false ∧ s.dbg.stepLeft = 1) ∧
    (on.writes .host 0x300A0034 = true ∧ on.writes .host rPermaDisable = true ∧ on.woWritten rPermaDisable = false) ∧
    (let s := withScope 8 []
     s.writes .host (rSctrl 3) = true ∧ s.scope 3 = true ∧ s.pdOn 1 = true ∧ (s.core 3).halted = false ∧
      (s.core 3).haltReq = false ∧ on.scope 3 = false ∧ on.writes .host (rSctrl 3) = true) ∧
    (let s : State := { on with stew := on.stew.set 3 { on.core 3 with haltReq := true } }
     (s.core 3).haltReq = true ∧ (s.core 3).stepLeft = false ∧ (s.core 3).halted = false ∧ (s.core 3).kx = none ∧
      s.drained 3 = true) ∧
    (let s := withScope 4 []
     s.writes .host rTrCtrl = true ∧ s.scope 2 = true) ∧
    (let s : State := { onReg [(rTrCtrl, 1), (rTrBase, 0x2FFFFFF0), (rTrSize, 8)] with dbg := { on.dbg with port := [0] } }
     s.dbg.port = [0] ∧ bit (s.reg rTrCtrl) 0 = true ∧ s.ringFull = false ∧ s.pdOn 7 = true ∧
      isVat ((s.reg rTrBase).toNat + 16 * (s.reg rTrHead).toNat) = true ∧
      s.memThere ((s.reg rTrBase).toNat + 16 * (s.reg rTrHead).toNat) = true ∧
      ((s.reg rTrBase).toNat + 16 * (s.reg rTrHead).toNat) % 16 = 0 ∧ bit (s.reg rTrNotify) 16 = false) := by decide +kernel

/-- With slot A's record of `booting` and a nonce, a response of legal scope is good exactly where its signature is
valid; a valid one for a concrete digest is that of `test_bootAndFlash_meets_slot`. The digest that a response signs
holds the serial number, which no proof can see (Config.serial), so no concrete signature can be shown for it. -/
theorem test_debugControl_meets_response (sig : List Byte) :
    let s : State := { booting with milk := { booting.milk with nonce := some (List.replicate 32 0) } }
    s.authGood 31 sig = ecdsaValid key1 (authDigest (List.replicate 32 0) 31) sig ∧ s.milk.authFail < 8 := by
  intro s
  have m : s.keyMatches boot1 = true :=
    keyMatches_of (k := keyDigest1) (by decide +kernel) (by rw [booting_key]; exact test_sha384_of_the_key)
  have k : s.debugKey = some key1 := by rw [debugKey_of (by decide +kernel) m, booting_key]
  exact ⟨authGood_of (by decide +kernel) k (by decide), by decide +kernel⟩

theorem test_tapScans_meets :
    on.milk.aon = true ∧ on.milk.dbgFuse = false ∧ on.milk.rom = true ∧
      on.authGood 31 (List.replicate 96 0) = false ∧
      (∀ i, i < 103 → 97 ≤ i → (List.replicate 103 (0 : Byte))[i]? = some 0) ∧
      ({ on with milk := { on.milk with dbgFuse := true } } : State).milk.dbgFuse = true ∧
      (withScope 2 []).milk.scope.testBit 1 = true ∧ on.milk.scope.testBit 1 = false ∧ on.milk.scope.testBit 4 = false ∧
      (withScope 16 []).milk.scope.testBit 4 = true ∧ on.pdOn 7 = true ∧ on.planRuns = false ∧ isSram 0x341FFFFC = true ∧
      on.memThere 0x341FFFFC = true ∧ on.badByte 0x341FFFFC = false := by decide

/-! ## Results worked out by hand or given by the spec's examples -/

/-- 04_number_formats.md, the example of R134: 1.28125 to FP8A. Under SR it rounds up from r = 0xC000_0000 on. -/
theorem test_fp8a_rounding :
    (encodeElem 0x07 .rne false 0 (.ofDy ⟨41, -5⟩), encodeElem 0x07 .rtz false 0 (.ofDy ⟨41, -5⟩),
      encodeElem 0x07 .sr false 0xBFFFFFFF (.ofDy ⟨41, -5⟩), encodeElem 0x07 .sr false 0xC0000000 (.ofDy ⟨41, -5⟩)) =
      (0x3A, 0x3A, 0x3A, 0x3B) := by decide +kernel

/-- 06_tile_compute_ops.md, the VQNT example: 12,345 × 2^−7 − 10 to INT8 is 86, or 87 under SR from r = 0x8E00_0000 on. -/
theorem test_vqnt_example :
    (encodeElem 0x02 .rne true 0 (.ofDy ⟨12345 - 1280, -7⟩), encodeElem 0x02 .sr true 0x8DFFFFFF (.ofDy ⟨12345 - 1280, -7⟩),
      encodeElem 0x02 .sr true 0x8E000000 (.ofDy ⟨12345 - 1280, -7⟩)) = (86, 86, 87) := by decide +kernel

/-- 04_number_formats.md, the example of R136: a BQ8 block with maximum 3.0 has the step 2^−5; 3.0 is 96, −1.0 is −32. -/
theorem test_bq8_example :
    let b := packBq 0x0D .rne false (fun _ => 0) 0
      ([⟨.ofDy ⟨3, 0⟩, false⟩, ⟨.ofDy ⟨-1, 0⟩, false⟩] ++ List.replicate 30 ⟨.ofDy ⟨0, 0⟩, false⟩)
    (b.length, b.getD 0 0, b.getD 1 0, b.getD 32 0) = (33, 96, 224, 122) := by decide +kernel

/-- 04_number_formats.md: Y 100, Cb 110, Cr 160 of BT.709 limited range, before the step to 8 bits. -/
theorem test_colour_example : toRgb false false 400 440 640 = (623, 339, 240) := by decide +kernel

/-- 02_organisation.md, 03_pail_and_vat.md, 08_sync_objects.md, 09_ladles.md: hops of the examples. -/
theorem test_hops_examples :
    hopsSlice 45 6 = 3 ∧ 9 + 2 * hopsSlice 0 7 = 37 ∧ hopsSync 45 1500 = 3 ∧ hopsSync 3 1500 = 10 ∧ ladleHops 9 1 = 10 ∧
      9 + 2 * ladleHops 9 1 = 29 ∧ ladleHopsTile 9 17 = 8 := by decide

/-- 06_tile_compute_ops.md: W = 9, R = 17, L = 64 and T = 8 of the MM example. -/
theorem test_mm_timing_example :
    let s := withH (withH on 0 (entry 2 pail 64)) 63 (entry 2 pail 64)
    let m := macroOf .mm s tT tH ((withS s 4 0x1FE3F).thr tT tH) mmWord
    m.m = 64 ∧ m.n = 32 ∧ m.s = 8 ∧ m.fetchW = 9 ∧ m.fetchR = 17 ∧ m.stepLen = 64 ∧ m.steps = 8 ∧ m.leave = 6 := by decide

/-- 01_frame_tick.md: LINE_CK and MINPER of the wall at 1.25 GHz. -/
theorem test_line_ck_example :
    let s := after .relockComplete { on with power := { on.power with relock := some 1250000 } }
    (s.reg rLineCk, s.reg rMinper, s.clkNow) = (0x249FF006, 20833333, 1250000) := by decide +kernel

/-- 14_power_and_leave.md: with every domain on the standing draw is 114 LU. -/
theorem test_standing_draw_example : on.standing = 114 := by decide +kernel

/-- 19_register_index.md: the second write of BUDGET_CAP is discarded, counted and logged. -/
theorem test_write_once_example :
    let s := after (.registerWrite (.steward 0) (BitVec.ofNat 32 rBudgetCap) 4 (some 600)) (open1 on)
    let t := after (.registerWrite .host (BitVec.ofNat 32 rBudgetCap) 4 (some 650)) s
    (s.reg rBudgetCap, bit (s.reg rWoState) 14, t.reg rBudgetCap, t.errs.map (fun e => (e.code, e.unit, e.index))) =
      (600, true, 600, [(0x53, 10, 4)]) := by decide +kernel

/-- The check values of CRC-32C and of the PEC's CRC-8 over the digits 1 to 9. -/
theorem test_crcs : (crc32c [0x31, 0x32, 0x33, 0x34, 0x35, 0x36, 0x37, 0x38, 0x39], crc8 [0x31, 0x32, 0x33, 0x34, 0x35, 0x36,
    0x37, 0x38, 0x39]) = (0xE3069283, 0xF4) := by decide +kernel

/-- SADD wraps and takes its immediate signed; SSHR is arithmetic by the low 5 bits. -/
theorem test_sadd_wraps : ((after (.sadd tT tH (slot [(17, 5), (12, 5), (11, 1), (0, 1)])) (withS on 5 0xFFFFFFFF)).thr
    tT tH).rs 5 = 0 := by decide
theorem test_sshr_sign : ((after (.sshr tT tH (slot [(17, 6), (12, 5), (11, 1), (0, 35)])) (withS on 5 0x80000000)).thr
    tT tH).rs 6 = 0xF0000000 := by decide
theorem test_s0_discards : ((after (.sli tT tH (slot [(17, 0), (0, 7)])) on).thr tT tH).rs 0 = 0 := by decide

/-- SCMP LT is signed, LTU is not. -/
theorem test_scmp_signs :
    (((after (.scmp tT tH (slot [(19, 1), (14, 5), (0, 2)])) (withS on 5 0xFFFFFFFF)).thr tT tH).rp 1,
      ((after (.scmp tT tH (slot [(19, 1), (14, 5), (0, 4)])) (withS on 5 0xFFFFFFFF)).thr tT tH).rp 1) = (true, false) := by
  decide

/-- v[i] of the tests' thread with a byte or word in its first lane. -/
def withV (s : State) (i : Fin 32) (v : Nat) : State :=
  s.modThr tT tH (fun y => { y with v := y.v.set i (BitVec.ofNat 2048 v) })

/-- TYPE 0 is INT8: 100 + 100 wraps to −56, and saturates to 127 under SAT. -/
theorem test_vadd_int8 :
    (((after (.vadd tT tH (slot [(17, 3), (12, 1), (7, 2)])) (withV (withV on 1 100) 2 100)).thr tT tH).vlane 8 3 0,
      ((after (.vadd tT tH (slot [(17, 3), (12, 1), (7, 2), (2, 1)])) (withV (withV on 1 100) 2 100)).thr tT tH).vlane 8 3 0)
      = ((200, false), (127, false)) := by decide +kernel

/-- SIG raises the tile's own object by its immediate at once. -/
theorem test_sig_local :
    (after (.sig tT tH (slot [(10, 4095), (0, 511)])) on).reg (rTile 63 (oLsync 31)) = 511 := by decide +kernel

/-- A steward store of 4 bytes, and the sign of a load of 1 byte. -/
theorem test_steward_load_sign :
    let s := after (.stewardMemoryAccess 3 .store 0x34000000 2 0 0xFFFFFF80) on
    ((after (.stewardMemoryAccess 3 (.load true) 0x34000000 0 7 0) s).core 3).x[7] = 0xFFFFFFFFFFFFFF80 := by decide +kernel

/-- A reset of the link function raises EPOCH and counts itself. -/
theorem test_flr_counts :
    let s := after .flr on
    (s.reg rEpoch, s.reg rFlrCount, s.host.flr) = (1, 1, true) := by decide +kernel

/-- STATUS answers in the same transaction of a process call: count, status OK, then 16 bytes with stage 4 first. -/
theorem test_status_answer :
    ((after (.status (.call none)) on).out.head?.map (fun o => match o with | .bytes l => l.take 3 | _ => [])) =
      some [17, 0, 4] := by decide +kernel

end Sys2Proof.Tests
end

section
/-!
Laws of a master's register write up to its effect: the note of the write (R11), the gate that the write passes (R50, R532,
R606), and what the statements call unchanged (State.onlyRegs, State.onlyReg, State.regsBut).
-/

namespace Sys2Proof.Machine

/-! ### Guards of one kind of master -/

theorem decide_and_eq_false {p : Prop} [Decidable p] {b : Bool} (h : p → b = false) : (decide p && b) = false := by
  simpa only [Bool.and_eq_false_imp, decide_eq_true_eq] using h

theorem decide_and_not_eq_false {p : Prop} [Decidable p] {b : Bool} (h : p → b = true) : (decide p && !b) = false :=
  decide_and_eq_false fun hp => congrArg not (h hp)

/-! ### The note of a write (R11) -/

theorem State.noteWrite_eq (s : State) (c a : Nat) : s.noteWrite c a = { s with now := (s.noteWrite c a).now } := by
  unfold State.noteWrite
  split <;> rfl

theorem State.unnote_eq (s : State) (c a : Nat) : s.unnote c a = { s with now := (s.unnote c a).now } := by
  unfold State.unnote
  split <;> rfl

@[simp] theorem State.noteWrite_regs (s : State) (c a : Nat) : (s.noteWrite c a).regs = s.regs := by
  rw [State.noteWrite_eq]
@[simp] theorem State.noteWrite_mem (s : State) (c a : Nat) : (s.noteWrite c a).mem = s.mem := by
  rw [State.noteWrite_eq]
@[simp] theorem State.noteWrite_tiles (s : State) (c a : Nat) : (s.noteWrite c a).tiles = s.tiles := by
  rw [State.noteWrite_eq]
@[simp] theorem State.noteWrite_plan (s : State) (c a : Nat) : (s.noteWrite c a).plan = s.plan := by
  rw [State.noteWrite_eq]
@[simp] theorem State.noteWrite_host (s : State) (c a : Nat) : (s.noteWrite c a).host = s.host := by
  rw [State.noteWrite_eq]
@[simp] theorem State.noteWrite_milk (s : State) (c a : Nat) : (s.noteWrite c a).milk = s.milk := by
  rw [State.noteWrite_eq]
@[simp] theorem State.noteWrite_scan (s : State) (c a : Nat) : (s.noteWrite c a).scan = s.scan := by
  rw [State.noteWrite_eq]

@[simp] theorem State.reg_noteWrite (s : State) (c a b : Nat) : (s.noteWrite c a).reg b = s.reg b := by
  simp only [State.reg, State.noteWrite_regs]

@[simp] theorem State.tile_noteWrite (s : State) (c a : Nat) (t : TileId) : (s.noteWrite c a).tile t = s.tile t := by
  simp only [State.tile, State.noteWrite_tiles, Fin.getElem_fin]

@[simp] theorem State.planRuns_noteWrite (s : State) (c a : Nat) : (s.noteWrite c a).planRuns = s.planRuns := by
  simp only [State.planRuns, State.noteWrite_plan]

@[simp] theorem State.hwSetBits_noteWrite (s : State) (c a b : Nat) : (s.noteWrite c a).hwSetBits b = s.hwSetBits b := by
  unfold State.noteWrite State.hwSetBits
  split <;> rfl

/-- After the note of a write, the last write noted is that one. -/
theorem State.lastIs_noteWrite (s : State) (c a : Nat) : (s.noteWrite c a).now.lastIs c a = true := by
  unfold State.noteWrite
  split
  · assumption
  · simp only [CkNotes.lastIs, List.getLast?_append, List.getLast?_singleton, Option.some_or, BEq.rfl, Bool.and_self]

@[simp] theorem State.noteWrite_noteWrite (s : State) (c a : Nat) : (s.noteWrite c a).noteWrite c a = s.noteWrite c a := by
  rw [State.noteWrite, if_pos (s.lastIs_noteWrite c a)]

/-- A write noted and then taken back has changed at most what the ck notes. -/
theorem State.unnote_noteWrite (s : State) (c a : Nat) :
    (s.noteWrite c a).unnote c a = { s with now := ((s.noteWrite c a).unnote c a).now } := by
  rw [State.unnote_eq, State.noteWrite_eq]

/-! ### The gate of a write (R50, R532, R606) -/

@[simp] theorem State.pdOn_noteWrite (s : State) (c a d : Nat) : (s.noteWrite c a).pdOn d = s.pdOn d := by
  simp only [State.pdOn, State.noteWrite_milk, State.reg_noteWrite]

@[simp] theorem State.regOn_noteWrite (s : State) (c a b : Nat) : (s.noteWrite c a).regOn b = s.regOn b := by
  simp only [State.regOn, State.pdOn_noteWrite, Bool.and_eq_true, decide_eq_true_eq, Bool.if_true_right, Bool.decide_and,
    Bool.not_and]

@[simp] theorem State.linkUp_noteWrite (s : State) (c a : Nat) : (s.noteWrite c a).linkUp = s.linkUp := by
  simp only [State.linkUp, State.pdOn_noteWrite, State.reg_noteWrite]

@[simp] theorem State.reaches_noteWrite (s : State) (c a : Nat) (m : Master) : (s.noteWrite c a).reaches m = s.reaches m := by
  cases m <;> simp only [State.reaches, State.linkUp_noteWrite, State.noteWrite_host, State.noteWrite_milk]

@[simp] theorem State.earlyWrite_noteWrite (s : State) (c a b : Nat) : (s.noteWrite c a).earlyWrite b = s.earlyWrite b := by
  simp only [State.earlyWrite, State.early, State.reg_noteWrite, Bool.not_and, Bool.not_or]

/-- What a gate can come to: a write that does not reach its register, one that the Milkhouse may not make, one that comes
before the host may make it, or the write's effect. -/
theorem State.regGate_cases (s : State) (m : Master) (a : Nat) (k : State → State) :
    s.regGate m a k = s ∨ s.regGate m a k = s.regFault m a ∨
      (m = .host ∧ s.earlyWrite a = true ∧ s.regGate m a k = s.satReg rEarlyDrop) ∨
      s.regGate m a k = k (s.noteWrite (masterCode m) a) := by
  generalize ht : s.regGate m a k = t
  unfold State.regGate at ht
  split at ht
  · exact .inl ht.symm
  · split at ht
    · split at ht
      · exact .inr (.inl ht.symm)
      · exact .inl ht.symm
    · split at ht
      · rename_i h
        obtain ⟨hm, he⟩ := Bool.and_eq_true_iff.1 h
        exact .inr (.inr (.inl ⟨of_decide_eq_true hm, he, ht.symm⟩))
      · split at ht
        · exact .inl ht.symm
        · exact .inr (.inr (.inr ht.symm))

@[simp] theorem State.writes_noteWrite (s : State) (c a b : Nat) (m : Master) : (s.noteWrite c a).writes m b = s.writes m b := by
  simp only [State.writes, State.reaches_noteWrite, State.earlyWrite_noteWrite, State.regOn_noteWrite]

/-- A write that does not pass its gate does not have its effect. -/
theorem State.regGate_closed {s : State} {m : Master} {a : Nat} (k j : State → State) (h : s.writes m a = false) :
    s.regGate m a k = s.regGate m a j := by
  unfold State.writes at h
  cases hr : s.reaches m with
  | false => simp only [State.regGate, hr, Bool.not_false, if_true]
  | true =>
    cases hm : decide (m = .milkhouse) && !milkWrites a with
    | true => simp only [State.regGate, hr, hm, Bool.not_true, Bool.false_eq_true, if_false, if_true]
    | false =>
      cases hh : decide (m = .host) && s.earlyWrite a with
      | true => simp only [State.regGate, hr, hm, hh, Bool.not_true, Bool.false_eq_true, if_false, if_true]
      | false =>
        have hm' : (decide (m ≠ .milkhouse) || milkWrites a) = true := by
          rw [decide_not, ← Bool.not_not (milkWrites a), ← Bool.not_and, hm, Bool.not_false]
        have ho : s.regOn a = false := by
          simpa only [hr, hm', hh, Bool.not_false, Bool.true_and] using h
        simp only [State.regGate, hr, hm, hh, ho, Bool.not_true, Bool.not_false, Bool.false_eq_true, if_false, if_true]

/-- A write that passes a gate passes the same gate again. -/
@[simp] theorem State.regGate_regGate (s : State) (m : Master) (a : Nat) (k : State → State) :
    s.regGate m a (fun z => z.regGate m a k) = s.regGate m a k := by
  cases h : s.writes m a with
  | false => exact State.regGate_closed _ _ h
  | true =>
    rw [State.regGate_open h, State.regGate_open h, State.regGate_open ((s.writes_noteWrite _ _ _ m).trans h),
      State.noteWrite_noteWrite]

/-- Where neither the Milkhouse's confinement nor R532 stops a write, its path and the domain decide. -/
theorem State.regGate_unconfined {s : State} {m : Master} {a : Nat} {k : State → State}
    (hm : m = .milkhouse → milkWrites a = true) (hh : m = .host → s.earlyWrite a = false) :
    s.regGate m a k = if s.reaches m && s.regOn a then k (s.noteWrite (masterCode m) a) else s := by
  have h1 : (decide (m = .milkhouse) && !milkWrites a) = false := decide_and_not_eq_false hm
  have h2 : (decide (m = .host) && s.earlyWrite a) = false := decide_and_eq_false hh
  cases hr : s.reaches m <;> cases ho : s.regOn a <;> simp only [State.regGate, hr, Bool.not_false, ↓reduceIte,
    Bool.and_self, Bool.false_eq_true, Bool.and_true, Bool.not_true, h1, h2, ho, Bool.and_false]

/-- The host's write of a register that it may not write yet is counted (R532). -/
theorem State.regGate_early {s : State} {a : Nat} {k : State → State} (hr : s.reaches .host = true)
    (h : s.earlyWrite a = true) : s.regGate .host a k = s.satReg rEarlyDrop := by
  simp only [State.regGate, hr, Bool.not_true, Bool.false_eq_true, ↓reduceIte, reduceCtorEq, decide_false, Bool.false_and,
    decide_true, h, Bool.and_self]

/-- The Milkhouse's write outside the blocks it writes: a fault where it reads, else nothing (R50). -/
theorem State.regGate_milkhouse {s : State} {a : Nat} {k : State → State} (h : milkWrites a = false) :
    s.regGate .milkhouse a k = if milkReads a then s.regFault .milkhouse a else s := by
  simp only [State.regGate, State.reaches, Bool.not_true, Bool.false_eq_true, ↓reduceIte, decide_true, h, Bool.not_false,
    Bool.and_self]

/-- A host whose BAR is open reaches the registers. -/
theorem State.reaches_of_barOpen {s : State} (h : s.barOpen = true) : s.reaches .host = true := by
  simp only [State.barOpen, Bool.and_eq_true] at h
  simp only [State.reaches, h.1.1.1, h.1.1.2, Bool.and_self]

end Sys2Proof.Machine
end

section
/-!
Which addresses hold a register (R13, R607), and the forms of REGISTER_WRITE at an address of a register block (R8).
-/

namespace Sys2Proof.Machine

/-! ### Addresses of the register blocks -/

theorem isRegAddr_lt {a : Nat} (h : isRegAddr a = true) : a < 2 ^ 32 := by
  simp only [isRegAddr, isSharedReg, isTileReg, Bool.or_eq_true, Bool.and_eq_true, decide_eq_true_eq] at h
  omega

theorem toNat_ofNat_regAddr {a : Nat} (h : isRegAddr a = true) : (BitVec.ofNat 32 a).toNat = a := by
  rw [BitVec.toNat_ofNat, Nat.mod_eq_of_lt (isRegAddr_lt h)]

/-- A register block holds no memory. -/
theorem not_memory_of_isRegAddr {a : Nat} (h : isRegAddr a = true) : isPail a = false ∧ isVat a = false ∧ isSram a = false := by
  simp only [isRegAddr, isSharedReg, isTileReg, Bool.or_eq_true, Bool.and_eq_true, decide_eq_true_eq] at h
  simp only [isPail, isVat, isSram, Bool.and_eq_false_iff, decide_eq_false_iff_not]
  omega

/-- The row of its block holds the address: a register lies there. -/
theorem regRow_ne_none_of_blockRows {a : Nat} {r : RegRow} (hs : isSharedReg a = true)
    (hr : r ∈ blockRows (a / 0x10000 % 0x100)) (h : r.has a = true) : regRow a ≠ none := by
  have ht : isTileReg a = false := by
    simp only [isSharedReg, isTileReg, Bool.and_eq_true, Bool.and_eq_false_iff, decide_eq_true_eq,
      decide_eq_false_iff_not] at hs ⊢
    omega
  intro hn
  simp only [regRow, ht, hs, Bool.false_eq_true, if_false, if_true, List.find?_eq_none] at hn
  exact hn r hr h

theorem regRow_ne_none_of_tileRows {a : Nat} {r : RegRow} (ht : isTileReg a = true) (hr : r ∈ tileRows)
    (h : r.has (a % 0x1000) = true) : regRow a ≠ none := by
  intro hn
  simp only [regRow, ht, if_true, List.find?_eq_none] at hn
  exact hn r hr h

theorem RegRow.has_iff (r : RegRow) (a : Nat) :
    r.has a = true ↔ r.addr ≤ a ∧ (a - r.addr) % r.stride = 0 ∧ (a - r.addr) / r.stride < r.count := by
  simp only [RegRow.has, Bool.and_eq_true, decide_eq_true_eq, and_assoc]

/-- The row of a block of shared registers that lie 4 bytes apart holds each aligned address of its range. -/
theorem regRow_ne_none_of_range {a b : Nat} (r : RegRow) (hr : r ∈ blockRows b) (hb : b < 13) (hs : r.stride = 4)
    (hlo : r.addr ≤ a ∧ r.addr % 4 = 0) (hhi : a < r.addr + 4 * r.count) (ha : a / 0x10000 = 0x3000 + b) (h4 : a % 4 = 0) :
    regRow a ≠ none := by
  refine regRow_ne_none_of_blockRows (r := r) ?_ ?_ ?_
  · simp only [isSharedReg, Bool.and_eq_true, decide_eq_true_eq]
    omega
  · rwa [show a / 0x10000 % 0x100 = b by omega]
  · rw [RegRow.has_iff, hs]
    omega

/-! ### The registers whose read is not the plain one (R43, R49, R455) -/

theorem regRow_claim_ne_none {a : Nat} (h : 0x30031000 ≤ a ∧ a < 0x30031500 ∧ a % 0x100 = 0) : regRow a ≠ none := by
  refine regRow_ne_none_of_blockRows (r := ro "BELL.CLAIM" 0x30031000 0x1FF 5 0x100) ?_ ?_ ?_
  · simp only [isSharedReg, Bool.and_eq_true, decide_eq_true_eq]
    omega
  · rw [show a / 0x10000 % 0x100 = 3 by omega]
    decide
  · rw [RegRow.has_iff]
    simp only [ro]
    omega

theorem regRow_ne_none_of_pairOf {a k : Nat} (h : pairOf a = some k) (h4 : a % 4 = 0) : regRow a ≠ none := by
  unfold pairOf at h
  split at h
  · rename_i h1
    simp only [Bool.and_eq_true, decide_eq_true_eq] at h1
    exact regRow_ne_none_of_range (b := 1) (ro "TICK.NDET_CACHE_LO" 0x30010040 0 12) (by decide) (by decide) rfl
      ⟨h1.1, rfl⟩ (by simp only [ro]; omega) (by omega) h4
  · split at h
    · have : a = 0x30030A20 ∨ a = 0x30030A24 := by omega
      rcases this with rfl | rfl <;> decide
    · cases h

theorem regRow_count_ne_none {a : Nat} (h : 0x30050000 ≤ a ∧ a < 0x30052000) (h4 : a % 4 = 0) : regRow a ≠ none :=
  regRow_ne_none_of_range (b := 5) (rw "SYNC.COUNT" 0x30050000 0xFFFFFFFF 0 2048) (by decide) (by decide) rfl
    ⟨h.1, rfl⟩ (by simp only [rw]; omega) (by omega) h4

theorem regRow_add_ne_none {a : Nat} (h : 0x30052000 ≤ a ∧ a < 0x30054000) (h4 : a % 4 = 0) : regRow a ≠ none :=
  regRow_ne_none_of_range (b := 5) (rw "SYNC.ADD" 0x30052000 0xFFFFFFFF 0 2048) (by decide) (by decide) rfl
    ⟨h.1, rfl⟩ (by simp only [rw]; omega) (by omega) h4

theorem regRow_lsync_ne_none {a : Nat} (ht : isTileReg a = true) (h : 0xB00 ≤ a % 0x1000 ∧ a % 0x1000 < 0xB80)
    (h4 : a % 4 = 0) : regRow a ≠ none := by
  refine regRow_ne_none_of_tileRows (r := rw "TILE.LSYNC" 0x0B00 0xFFFFFFFF 0 32) ht (by decide) ?_
  rw [RegRow.has_iff]
  simp only [rw]
  omega

theorem regRow_ne_none_of_countObj {a f o : Nat} (h : countObj a f = some o) (h4 : a % 4 = 0) : regRow a ≠ none := by
  unfold countObj at h
  split at h
  · rename_i h1
    simp only [Bool.and_eq_true, decide_eq_true_eq] at h1
    by_cases hc : a < 0x30052000
    · exact regRow_count_ne_none ⟨h1.1, hc⟩ h4
    · exact regRow_add_ne_none ⟨by omega, h1.2⟩ h4
  · split at h
    · rename_i h2
      subst h2
      decide
    · split at h
      · rename_i h3
        simp only [Bool.and_eq_true, decide_eq_true_eq] at h3
        exact regRow_lsync_ne_none h3.1.1 ⟨h3.1.2, h3.2⟩ h4
      · cases h

/-! ### Reads where no register answers (R13, R606) -/

theorem State.regRead_off {s : State} {m : Master} {a : Nat} (h : s.regOn a = false) : s.regRead m a = (s, 0) := by
  simp only [State.regRead, Bool.not_eq_eq_eq_not, Bool.not_true, BitVec.ofNat_eq_ofNat, h, Bool.not_false, ↓reduceIte,
    ite_self]

theorem State.regRead_unassigned {s : State} {m : Master} {a : Nat} (h4 : a % 4 = 0) (h : regRow a = none) :
    s.regRead m a = (s, 0) := by
  have hm : a ≠ rMClaim := by rintro rfl; exact absurd h (by decide)
  have hc : (decide (0x30031000 ≤ a) && decide (a < 0x30031500) && decide (a % 0x100 = 0)) = false := by
    refine Bool.eq_false_iff.2 fun hc => ?_
    simp only [Bool.and_eq_true, decide_eq_true_eq] at hc
    exact regRow_claim_ne_none ⟨hc.1.1, hc.1.2, hc.2⟩ h
  have hp : pairOf a = none := Option.eq_none_iff_forall_ne_some.2 fun _ hk => regRow_ne_none_of_pairOf hk h4 h
  have ho : countObj a (fld (s.reg rFrObj) 0 11) = none :=
    Option.eq_none_iff_forall_ne_some.2 fun _ hk => regRow_ne_none_of_countObj hk h4 h
  unfold State.regRead
  simp only [hm, hc, hp, ho, State.regVal, h, Option.isNone_none, Bool.or_true, if_true, if_false, Bool.false_eq_true, ite_self]

/-! ### REGISTER_WRITE at a register block (R8) -/

/-- A write at a register block: the host's needs its BAR open. -/
theorem exec_registerWrite_some {s : State} {m : Master} {a : Nat} (n : Nat) (x : Dword) (ha : isRegAddr a = true)
    (hm : m = .host → s.barOpen = true) :
    exec (.registerWrite m (BitVec.ofNat 32 a) n (some x)) s = .next (s.regStore m a n x) := by
  have h1 : (decide (m = .host) && !s.barOpen) = false := decide_and_not_eq_false hm
  change Host.Outcome.next (s.registerWrite m (BitVec.ofNat 32 a).toNat n x) = _
  rw [toNat_ofNat_regAddr ha]
  simp only [State.registerWrite, h1, Bool.false_eq_true, ↓reduceIte, ha]

theorem State.regStore_word (s : State) (m : Master) {a : Nat} (x : Dword) (h4 : a % 4 = 0) :
    s.regStore m a 4 x = s.regWrite m a (x.setWidth 32) := by
  simp only [State.regStore, Nat.reduceEqDiff, decide_false, Bool.and_false, Bool.false_and, Bool.false_eq_true,
    ↓reduceIte, ne_eq, not_true_eq_false, h4, Bool.or_self]

/-- Another width or alignment than R8 admits, and not the pair of DW that R354 admits. -/
theorem State.regStore_refused (s : State) {m : Master} {a n : Nat} (x : Dword) (h : n ≠ 4 ∨ a % 4 ≠ 0)
    (hp : ¬ (m = .host ∧ isMsix a = true ∧ n = 8 ∧ a % 8 = 0)) :
    s.regStore m a n x = s.regGate m a (fun z => z.regRefuse m a) := by
  have h1 : (decide (m = .host) && isMsix a && decide (n = 8) && decide (a % 8 = 0)) = false := by
    refine Bool.eq_false_iff.2 fun hc => ?_
    simp only [Bool.and_eq_true, decide_eq_true_eq] at hc
    exact hp ⟨hc.1.1.1, hc.1.1.2, hc.1.2, hc.2⟩
  have h2 : (decide (n ≠ 4) || decide (a % 4 ≠ 0)) = true := by simpa only [ne_eq, decide_not, Bool.or_eq_true,
    Bool.not_eq_eq_eq_not, Bool.not_true, decide_eq_false_iff_not] using h
  simp only [State.regStore, h1, h2, Bool.false_eq_true, if_false, if_true]

theorem exec_registerWrite_word {s : State} {m : Master} {a : Nat} (v : Word) (ha : isRegAddr a = true) (h4 : a % 4 = 0)
    (hm : m = .host → s.barOpen = true) :
    exec (.registerWrite m (BitVec.ofNat 32 a) 4 (some (v.setWidth 64))) s = .next (s.regWrite m a v) := by
  rw [exec_registerWrite_some 4 _ ha hm, State.regStore_word _ _ _ h4, BitVec.setWidth_setWidth_of_le _ (by decide),
    BitVec.setWidth_eq]

/-- At an unassigned offset the effect of a write takes back its note, and is nothing else. -/
theorem State.regEffect_unassigned {s : State} {m : Master} {a : Nat} (v : Word) (h : regRow a = none) :
    s.regEffect m a v = s.unnote (masterCode m) a := by
  simp only [State.regEffect, h, Option.isNone_none, ↓reduceIte]

theorem State.regWrite_unassigned_or_off {s : State} {m : Master} {a : Nat} (v : Word)
    (hm : m = .milkhouse → milkWrites a = true) (hh : m = .host → s.earlyWrite a = false)
    (h : regRow a = none ∨ s.regOn a = false) : s.regWrite m a v = { s with now := (s.regWrite m a v).now } := by
  rw [State.regWrite, State.regGate_unconfined hm hh]
  split
  · rename_i hr
    have ho : s.regOn a = true := (Bool.and_eq_true_iff.1 hr).2
    rw [State.regEffect_unassigned v (h.resolve_right (fun h => Bool.noConfusion (ho.symm.trans h)))]
    exact s.unnote_noteWrite _ _
  · rfl

/-- Settles O40: a read comes to the branch of the off domain or of the missing row, a write to one that at most notes. -/
theorem unassignedAndOff : Obligations.UnassignedAndOff := by
  intro s m a v ha h4 h
  refine ⟨?_, fun hm hh => ?_⟩
  · rcases h with h | h
    · exact State.regRead_unassigned h4 h
    · exact State.regRead_off h
  · rw [exec_registerWrite_some 4 v ha (fun e => (hh e).1), State.regStore_word _ _ _ h4]
    exact ⟨_, rfl, State.regWrite_unassigned_or_off _ hm (fun e => (hh e).2) h⟩

end Sys2Proof.Machine
end

section
/-!
What the statements call unchanged, as rules: each update of a register keeps everything but that register, and the rules
compose. Then the bit fields of a word as bits.
-/

namespace Sys2Proof.Machine

/-! ### State.onlyRegs, State.onlyReg and State.regsBut -/

theorem State.onlyRegs_trans {s t u : State} (h : s.onlyRegs t) (k : t.onlyRegs u) : s.onlyRegs u := by
  unfold State.onlyRegs at *
  rw [k, h]

theorem State.onlyReg_trans {s t u : State} {a : Nat} (h : s.onlyReg t a) (k : t.onlyReg u a) : s.onlyReg u a :=
  ⟨State.onlyRegs_trans h.1 k.1, fun b hb => (k.2 b hb).trans (h.2 b hb)⟩

theorem State.regsBut_trans {s t u : State} {l : List Nat} (h : s.regsBut t l) (k : t.regsBut u l) : s.regsBut u l :=
  fun a ha => (k a ha).trans (h a ha)

theorem State.onlyReg_noteWrite (s : State) (c b a : Nat) : s.onlyReg (s.noteWrite c b) a :=
  ⟨by rw [State.noteWrite_eq]; rfl, fun _ _ => State.reg_noteWrite ..⟩

theorem State.onlyReg_setReg (s : State) (a : Nat) (v : Word) : s.onlyReg (s.setReg a v) a :=
  ⟨rfl, fun _ h => s.reg_setReg_other a _ v h⟩

theorem State.onlyReg_orReg (s : State) (a : Nat) (w : Word) : s.onlyReg (s.orReg a w) a :=
  ⟨rfl, fun _ h => s.reg_orReg_other a _ w h⟩

/-- A register updated after the note of a write. -/
theorem State.onlyReg_noteWrite_setReg (s : State) (c a : Nat) (v : Word) : s.onlyReg ((s.noteWrite c a).setReg a v) a :=
  State.onlyReg_trans (s.onlyReg_noteWrite c a a) (State.onlyReg_setReg _ a v)

theorem State.regsBut_setReg (s : State) {a : Nat} {l : List Nat} (v : Word) (h : a ∈ l) : s.regsBut (s.setReg a v) l :=
  fun b hb => s.reg_setReg_other a b v (by rintro rfl; exact hb h)

theorem State.regsBut_of_regs {s t : State} {l : List Nat} (h : t.regs = s.regs) : s.regsBut t l :=
  fun b _ => by simp only [State.reg, h]

/-! ### Bit fields -/

theorem testBit_fld (w : Word) (lo n i : Nat) : (fld w lo n).testBit i = (decide (i < n) && w.getLsbD (lo + i)) := by
  rw [fld, Nat.testBit_mod_two_pow, Nat.testBit_div_two_pow, BitVec.testBit_toNat, Nat.add_comm]

theorem fld_lt (w : Word) (lo n : Nat) : fld w lo n < 2 ^ n := Nat.mod_lt _ (Nat.two_pow_pos n)

/-- A field depends on its bits alone. -/
theorem fld_congr {w z : Word} {lo n : Nat} (h : ∀ i, lo ≤ i → i < lo + n → w.getLsbD i = z.getLsbD i) :
    fld w lo n = fld z lo n := by
  refine Nat.eq_of_testBit_eq fun i => ?_
  rw [testBit_fld, testBit_fld]
  by_cases hi : i < n
  · rw [h (lo + i) (by omega) (by omega)]
  · simp only [hi, decide_false, Bool.false_and]

theorem getLsbD_maskOf (lo n i : Nat) (hi : i < 32) : (maskOf lo n).getLsbD i = (decide (lo ≤ i) && decide (i < lo + n)) := by
  rw [maskOf, BitVec.getLsbD_ofNat, Nat.testBit_mul_two_pow, Nat.testBit_two_pow_sub_one]
  by_cases h : lo ≤ i
  · simp only [hi, h, decide_true, Bool.true_and, show i - lo < n ↔ i < lo + n by omega]
  · simp only [h, decide_false, Bool.false_and, Bool.and_false]

/-- The bits of a word with a field replaced. -/
theorem getLsbD_setFld (w : Word) (lo n v i : Nat) (hi : i < 32) :
    (setFld w lo n v).getLsbD i = if lo ≤ i ∧ i < lo + n then v.testBit (i - lo) else w.getLsbD i := by
  rw [setFld, BitVec.getLsbD_or, BitVec.getLsbD_and, BitVec.getLsbD_not, getLsbD_maskOf _ _ _ hi, BitVec.getLsbD_ofNat,
    Nat.testBit_mul_two_pow, Nat.testBit_mod_two_pow]
  by_cases h1 : lo ≤ i
  · by_cases h2 : i < lo + n
    · simp only [hi, BitVec.getLsbD_eq_getElem, decide_true, h1, h2, Bool.and_self, Bool.not_true, Bool.and_false,
        show i - lo < n by omega, Bool.true_and, Bool.false_or, and_self, ↓reduceIte]
    · simp only [hi, BitVec.getLsbD_eq_getElem, decide_true, h1, h2, decide_false, Bool.and_false, Bool.not_false,
        Bool.and_self, Bool.and_true, show ¬i - lo < n by omega, Bool.false_and, Bool.or_false, and_false, ↓reduceIte]
  · simp only [hi, BitVec.getLsbD_eq_getElem, decide_true, h1, decide_false, Bool.false_and, Bool.not_false, Bool.and_self,
      Bool.and_true, Bool.and_false, Bool.or_false, false_and, ↓reduceIte]

theorem fld_setFld_same {w : Word} {lo n v : Nat} (h : lo + n ≤ 32) (hv : v < 2 ^ n) : fld (setFld w lo n v) lo n = v := by
  refine Nat.eq_of_testBit_eq fun i => ?_
  rw [testBit_fld]
  by_cases hi : i < n
  · rw [getLsbD_setFld _ _ _ _ _ (by omega), if_pos (by omega)]
    simp only [hi, decide_true, Nat.add_sub_cancel_left, Bool.true_and]
  · rw [Nat.testBit_lt_two_pow (Nat.lt_of_lt_of_le hv (Nat.pow_le_pow_right (by decide) (by omega)))]
    simp only [hi, decide_false, Bool.false_and]

theorem fld_setFld_other {w : Word} {lo n v lo' n' : Nat} (h : lo' + n' ≤ 32) (hd : lo' + n' ≤ lo ∨ lo + n ≤ lo') :
    fld (setFld w lo n v) lo' n' = fld w lo' n' :=
  fld_congr fun i h1 h2 => by rw [getLsbD_setFld _ _ _ _ _ (by omega), if_neg (by omega)]

/-- A field of a word whose bits there are those of a number. -/
theorem fld_eq_of_bits {w : Word} {x lo n : Nat} (h : ∀ i, lo ≤ i → i < lo + n → w.getLsbD i = x.testBit i) :
    fld w lo n = x / 2 ^ lo % 2 ^ n := by
  refine Nat.eq_of_testBit_eq fun i => ?_
  rw [testBit_fld, Nat.testBit_mod_two_pow, Nat.testBit_div_two_pow]
  by_cases hi : i < n
  · rw [h (lo + i) (by omega) (by omega), Nat.add_comm]
  · simp only [hi, decide_false, Bool.false_and]

end Sys2Proof.Machine
end

section
/-!
The requests of scan-out: timing and mode requests, the TE edge, DisplayPort training, AUX transactions and hot-plug.
-/

namespace Sys2Proof.Machine

/-! ### Timing and mode requests, the TE edge (R390, R393, R397, R398) -/

theorem State.tsCommit_of_writes {s : State} {m : Master} (h : s.writes m rTsCommit = true) :
    s.tsCommit m = (s.noteWrite (masterCode m) rTsCommit).setReg rTsCommit 1 := by
  rw [State.tsCommit, State.regGate_open h]

theorem regRow_rOutMode : regRow rOutMode = some (rw "SCAN.OUT_MODE" 0x30020020 0x7F1F) := by decide

/-- The value that a write of v leaves in OUT_MODE. -/
def outModeValue (w v : Word) : Word := (w &&& ~~~ BitVec.ofNat 32 0x7F1F) ||| (v &&& BitVec.ofNat 32 0x7F1F)

theorem State.outModeWrite_of_writes {s : State} {m : Master} (v : Word) (h : s.writes m rOutMode = true) :
    s.outModeWrite m v =
      { (s.noteWrite (masterCode m) rOutMode).setReg rOutMode (outModeValue (s.reg rOutMode) v) with
        scan := { s.scan with modeWaits := true, modeBy := m } } := by
  rw [State.outModeWrite, State.regGate_open h]
  simp only [State.writeRw, regRow_rOutMode, State.modReg, State.reg_noteWrite, State.setReg_scan, State.noteWrite_scan, rw,
    outModeValue]

/-- The state after a TE edge, with the registers r. -/
def State.teNoted (s : State) (r : List (Nat × Word)) : State := { s with regs := r, now := { s.now with te := true } }

theorem State.reg_teNoted (s t : State) (a : Nat) : (s.teNoted t.regs).reg a = t.reg a := rfl

theorem State.teEdge_on {s : State} (h : s.pdOn 3 = true) :
    s.teEdge = s.teNoted (if fld (s.reg rTeCfg) 0 2 = 2 then
      ((s.modReg rTeLine (fun w => setFld w 0 16 s.rasterLine)).incReg rTeCount).regs else s.regs) := by
  simp only [State.teEdge, h, Bool.not_true, Bool.false_eq_true, if_false]
  by_cases h2 : fld (s.reg rTeCfg) 0 2 = 2
  · rw [if_pos (show fld (State.reg { s with now := { s.now with te := true } } rTeCfg) 0 2 = 2 from h2), if_pos h2]
    rfl
  · rw [if_neg (show ¬ fld (State.reg { s with now := { s.now with te := true } } rTeCfg) 0 2 = 2 from h2), if_neg h2]
    rfl

/-! ### Registers of an output -/

theorem rDpStatus_ne_rDpCtrl (o : Nat) : rDpStatus o ≠ rDpCtrl o := by
  unfold rDpStatus rDpCtrl
  omega

theorem rDpCtrl_ne_rOutNow (o : Nat) : rDpCtrl o ≠ rOutNow := by
  unfold rDpCtrl rOutNow
  omega

theorem rDpCtrl_ne_rPdOn (o : Fin 2) (w : Nat) : rDpCtrl o.val ≠ rPdOn w := by
  unfold rDpCtrl rPdOn
  omega

theorem rAuxStat_ne_rAuxCmd (o : Nat) : rAuxStat o ≠ rAuxCmd o := by
  unfold rAuxStat rAuxCmd
  omega

theorem State.pdOn_setReg {s : State} {a : Nat} {v : Word} (d : Nat) (h : ∀ w, a ≠ rPdOn w) :
    (s.setReg a v).pdOn d = s.pdOn d := by
  simp only [State.pdOn, State.setReg_milk, s.reg_setReg_other a _ v (h _).symm]

theorem State.outNow_setReg {s : State} {a : Nat} {v : Word} (i : Nat) (h : a ≠ rOutNow) :
    (s.setReg a v).outNow i = s.outNow i := by
  simp only [State.outNow, s.reg_setReg_other a _ v h.symm]

/-! ### The end of training (R11, R425, R426) -/

/-- TRAIN cleared, unless a master has written DP_CTRL in this ck (R11). -/
def State.trainEnded (s : State) (o : Nat) : State := s.hwReg (rDpCtrl o) (s.reg (rDpCtrl o) &&& ~~~ 1)

theorem State.bit_trainEnded {s : State} {o : Nat} (h : s.wroteNow (rDpCtrl o) = false) :
    bit ((s.trainEnded o).reg (rDpCtrl o)) 0 = false := by
  simp only [bit, State.trainEnded, State.hwReg, h, Bool.false_eq_true, ↓reduceIte, BitVec.ofNat_eq_ofNat,
    BitVec.reduceNot, State.reg_setReg_same, Nat.zero_lt_succ, BitVec.getLsbD_eq_getElem, BitVec.getElem_and,
    BitVec.reduceGetElem, Bool.and_false]

/-- The limits of DP_CTRL stand through the end of training. -/
theorem State.fld_trainEnded (s : State) (o : Nat) {lo : Nat} (n : Nat) (h : 1 ≤ lo) :
    fld ((s.trainEnded o).reg (rDpCtrl o)) lo n = fld (s.reg (rDpCtrl o)) lo n := by
  rw [State.trainEnded, State.hwReg, State.reg_setReg_same]
  split
  · rfl
  · refine fld_congr fun i hi _ => ?_
    have : (1 : Word).getLsbD i = false := by
      simp only [BitVec.ofNat_eq_ofNat, BitVec.getLsbD_one, Nat.zero_lt_succ, decide_true, Bool.true_and,
        decide_eq_false_iff_not]
      omega
    by_cases h32 : i < 32
    · simp only [BitVec.getLsbD_and, BitVec.getLsbD_not, this, h32, decide_true, Bool.not_false, Bool.and_true]
    · simp only [BitVec.ofNat_eq_ofNat, BitVec.reduceNot, BitVec.getLsbD_of_ge _ i (Nat.le_of_not_lt h32)]

/-- The bits that good training sets in DP_STATUS: TRAINED, the rate, the lanes, TPS4, ASYNC and BW_FAIL. -/
def dpLinkBits (rate lanes : Nat) (tps4 async fail : Bool) : Nat :=
  2 + 4 * (rate % 4) + 16 * (lanes % 8) + 128 * b2n tps4 + 256 * b2n async + 512 * b2n fail

/-- The link of `lanes` lanes at a rate is too slow for the pixel clock (R425). -/
def State.linkTooSlow (s : State) (rate lanes : Nat) : Bool :=
  decide (lanes * dpRate rate * 8000000 < tsPclk s.scan.ts * 3 * (if s.outNow 4 then 10 else 8))

theorem State.linkTooSlow_trainEnded (s : State) (o rate lanes : Nat) :
    (s.trainEnded o).linkTooSlow rate lanes = s.linkTooSlow rate lanes := by
  simp only [State.linkTooSlow, State.trainEnded, State.hwReg, State.setReg_scan, State.outNow_setReg 4 (rDpCtrl_ne_rOutNow o)]

/-- Adaptive-Sync announced, where the sink has it. -/
def State.announce (s : State) (o : Nat) (async : Bool) : State := if async then s.emit (.msaIgnore o) else s

theorem State.announce_eq (s : State) (o : Nat) (async : Bool) :
    s.announce o async = { s with out := s.out ++ if async then [.msaIgnore o] else [] } := by
  cases async
  · simp only [State.announce, Bool.false_eq_true, ↓reduceIte, List.append_nil]
  · rfl

theorem State.dpTrained_bad {s : State} {o : Fin 2} {ok : Bool} (rate lanes : Nat) (tps4 async : Bool) (h3 : s.pdOn 3 = true)
    (ht : bit (s.reg (rDpCtrl o.val)) 0 = true) (hg : (ok && s.pdOn (4 + o.val)) = false) :
    s.dpTrained o.val ok rate lanes tps4 async = (s.trainEnded o.val).untrain o.val := by
  have hb : (!ok || !(s.trainEnded o.val).pdOn (4 + o.val)) = true := by
    rw [State.trainEnded, State.hwReg, State.pdOn_setReg _ (rDpCtrl_ne_rPdOn o), ← Bool.not_and, hg]
    rfl
  unfold State.trainEnded at hb
  simp only [State.dpTrained, State.trainEnded, h3, ht, hb, Bool.not_true, Bool.or_false, Bool.false_eq_true, if_false, if_true]

theorem State.dpTrained_good {s : State} {o : Fin 2} {ok : Bool} (rate lanes : Nat) (tps4 async : Bool) (h3 : s.pdOn 3 = true)
    (ht : bit (s.reg (rDpCtrl o.val)) 0 = true) (hg : (ok && s.pdOn (4 + o.val)) = true) :
    let r := min rate (fld (s.reg (rDpCtrl o.val)) 1 3)
    let l := min lanes (fld (s.reg (rDpCtrl o.val)) 4 3)
    s.dpTrained o.val ok rate lanes tps4 async = (((s.trainEnded o.val).announce o.val async).untrain o.val).orReg
      (rDpStatus o.val) (BitVec.ofNat 32 (dpLinkBits r l tps4 async (s.linkTooSlow r l))) := by
  intro r l
  have hb : (!ok || !(s.trainEnded o.val).pdOn (4 + o.val)) = false := by
    rw [State.trainEnded, State.hwReg, State.pdOn_setReg _ (rDpCtrl_ne_rPdOn o), ← Bool.not_and, hg]
    rfl
  have hr : r = min rate (fld ((s.trainEnded o.val).reg (rDpCtrl o.val)) 1 3) := by rw [s.fld_trainEnded _ 3 (by decide)]
  have hl : l = min lanes (fld ((s.trainEnded o.val).reg (rDpCtrl o.val)) 4 3) := by rw [s.fld_trainEnded _ 3 (by decide)]
  rw [← s.linkTooSlow_trainEnded o.val, hr, hl]
  unfold State.trainEnded at hb
  simp only [State.dpTrained, h3, ht, hb, Bool.not_true, Bool.or_false, Bool.false_eq_true, if_false, State.trainEnded,
    State.announce, State.linkTooSlow, dpLinkBits]
  congr

/-- Bits 9 to 1 of DP_STATUS after good training are those it sets. -/
theorem getLsbD_linked (w : Word) (x i : Nat) (h1 : 1 ≤ i) (h2 : i < 10) :
    ((w &&& ~~~ 0x3FE) ||| BitVec.ofNat 32 x).getLsbD i = x.testBit i := by
  have hm : (~~~ (0x3FE : Word)).getLsbD i = false := by
    have : ∀ i < 10, 1 ≤ i → (~~~ (0x3FE : Word)).getLsbD i = false := by decide
    exact this i h2 h1
  rw [BitVec.getLsbD_or, BitVec.getLsbD_and, hm, BitVec.getLsbD_ofNat]
  simp only [show i < 32 by omega, BitVec.getLsbD_eq_getElem, Bool.and_false, decide_true, Bool.true_and, Bool.false_or]

theorem State.reg_announce (s : State) (o : Nat) (async : Bool) (a : Nat) : (s.announce o async).reg a = s.reg a := by
  rw [State.announce_eq]
  rfl

@[simp] theorem State.reg_untrain_same (s : State) (o : Nat) :
    (s.untrain o).reg (rDpStatus o) = s.reg (rDpStatus o) &&& ~~~ 0x3FE := by
  rw [State.untrain, State.reg_modReg_same]

theorem State.reg_untrain_other (s : State) (o a : Nat) (h : a ≠ rDpStatus o) : (s.untrain o).reg a = s.reg a := by
  rw [State.untrain, State.reg_modReg_other _ _ _ _ h]

theorem State.reg_trainEnded_other (s : State) (o a : Nat) (h : a ≠ rDpCtrl o) : (s.trainEnded o).reg a = s.reg a := by
  rw [State.trainEnded, State.hwReg, State.reg_setReg_other _ _ _ _ h]

theorem State.onlyRegs_trainEnded (s : State) (o : Nat) : s.onlyRegs (s.trainEnded o) := (s.onlyReg_setReg _ _).1

theorem State.onlyRegs_untrain (s : State) (o : Nat) : s.onlyRegs (s.untrain o) := (s.onlyReg_setReg _ _).1

/-- Updates of registers before and after something is given out. -/
theorem State.eq_of_onlyRegs_out {s t u : State} {l : List Out} (h : s.onlyRegs t)
    (k : State.onlyRegs { t with out := t.out ++ l } u) : u = { s with regs := u.regs, now := u.now, out := s.out ++ l } := by
  unfold State.onlyRegs at *
  rw [k, h]

/-- What the end of a training changes: registers, what the ck notes of them, and what it announces. -/
theorem State.dpTrained_frame (s : State) (o : Fin 2) (ok : Bool) (rate lanes : Nat) (tps4 async : Bool)
    (h3 : s.pdOn 3 = true) (ht : bit (s.reg (rDpCtrl o.val)) 0 = true) :
    let s' := s.dpTrained o.val ok rate lanes tps4 async
    s' = { s with
      regs := s'.regs, now := s'.now
      out := s.out ++ if (ok && s.pdOn (4 + o.val)) && async then [.msaIgnore o.val] else [] } := by
  refine State.eq_of_onlyRegs_out (s.onlyRegs_trainEnded o.val) ?_
  cases hg : ok && s.pdOn (4 + o.val) with
  | false =>
    rw [State.dpTrained_bad _ _ _ _ h3 ht hg, Bool.false_and, if_neg Bool.false_ne_true, List.append_nil]
    exact State.onlyRegs_untrain _ _
  | true =>
    rw [State.dpTrained_good _ _ _ _ h3 ht hg, Bool.true_and, State.announce_eq]
    exact State.onlyRegs_trans (State.onlyRegs_untrain _ _) (State.onlyReg_orReg _ _ _).1

/-- The registers after the end of a training: TRAIN, and what DP_STATUS reports. -/
theorem State.dpTrained_regs (s : State) (o : Fin 2) (ok : Bool) (rate lanes : Nat) (tps4 async : Bool)
    (h3 : s.pdOn 3 = true) (ht : bit (s.reg (rDpCtrl o.val)) 0 = true) :
    let s' := s.dpTrained o.val ok rate lanes tps4 async
    let r := min rate (fld (s.reg (rDpCtrl o.val)) 1 3)
    let l := min lanes (fld (s.reg (rDpCtrl o.val)) 4 3)
    (∀ a, a ≠ rDpStatus o.val → s'.reg a = (s.trainEnded o.val).reg a) ∧
      s'.reg (rDpStatus o.val) = (s.reg (rDpStatus o.val) &&& ~~~ 0x3FE) |||
        BitVec.ofNat 32 (if ok && s.pdOn (4 + o.val) then dpLinkBits r l tps4 async (s.linkTooSlow r l) else 0) := by
  have hst := s.reg_trainEnded_other o.val _ (rDpStatus_ne_rDpCtrl o.val)
  cases hg : ok && s.pdOn (4 + o.val) with
  | false =>
    rw [State.dpTrained_bad _ _ _ _ h3 ht hg]
    refine ⟨fun a ha => State.reg_untrain_other _ _ _ ha, ?_⟩
    simp only [State.reg_untrain_same, hst, BitVec.ofNat_eq_ofNat, BitVec.reduceNot, Bool.false_eq_true, ↓reduceIte,
      BitVec.or_zero]
  | true =>
    rw [State.dpTrained_good _ _ _ _ h3 ht hg]
    refine ⟨fun a ha => ?_, ?_⟩
    · rw [State.reg_orReg_other _ _ _ _ ha, State.reg_untrain_other _ _ _ ha, State.reg_announce]
    · rw [State.reg_orReg_same, State.reg_untrain_same, State.reg_announce, hst, if_pos rfl]

/-- The fields that good training sets in DP_STATUS. -/
theorem dpLinkBits_fields (rate : Nat) (lanes : Nat) (tps4 async fail : Bool) (hr : rate < 4) (hl : lanes < 8) :
    let x := dpLinkBits rate lanes tps4 async fail
    x / 2 ^ 2 % 2 ^ 2 = rate ∧ x / 2 ^ 4 % 2 ^ 3 = lanes ∧ x.testBit 1 = true ∧ x.testBit 7 = tps4 ∧ x.testBit 8 = async ∧
      x.testBit 9 = fail := by
  simp only [Nat.testBit_eq_decide_div_mod_eq, dpLinkBits]
  cases tps4 <;> cases async <;> cases fail <;>
    simp only [b2n, if_true, if_false, Bool.false_eq_true, decide_eq_true_eq, decide_eq_false_iff_not] <;> omega

/-! ### AUX transactions (R428) -/

/-- Byte i of AUX_DATA of output o. -/
def State.auxByte (s : State) (o i : Nat) : Nat := fld (s.reg (rAuxData o (i / 4))) (8 * (i % 4)) 8

/-- Byte p.2 of AUX_DATA set. -/
def State.putAux (o : Nat) (s : State) (p : Byte × Nat) : State :=
  s.modReg (rAuxData o (p.2 / 4)) (fun w => setFld w (8 * (p.2 % 4)) 8 p.1.toNat)

theorem State.auxByte_putAux (s : State) (o i k : Nat) (b : Byte) :
    (State.putAux o s (b, k)).auxByte o i = if i = k then b.toNat else s.auxByte o i := by
  unfold State.auxByte State.putAux
  by_cases hd : i / 4 = k / 4
  · rw [hd, State.reg_modReg_same]
    split
    · rename_i h
      subst h
      exact fld_setFld_same (by omega) b.isLt
    · exact fld_setFld_other (by omega) (by omega)
  · rw [if_neg (by rintro rfl; exact hd rfl), State.reg_modReg_other]
    unfold rAuxData
    omega

/-- Bytes put one after the other from byte k on: they stand there, and the bytes before k stay. -/
theorem State.auxByte_foldl_putAux (o : Nat) (l : List Byte) (k : Nat) (s : State) :
    (∀ i, i < k → ((l.zipIdx k).foldl (State.putAux o) s).auxByte o i = s.auxByte o i) ∧
      ∀ i b, l[i]? = some b → ((l.zipIdx k).foldl (State.putAux o) s).auxByte o (k + i) = b.toNat := by
  induction l generalizing k s with
  | nil => exact ⟨fun _ _ => rfl, fun _ _ h => nomatch h⟩
  | cons b l ih =>
    obtain ⟨hlo, hhi⟩ := ih (k + 1) (State.putAux o s (b, k))
    rw [List.zipIdx_cons, List.foldl_cons]
    refine ⟨fun i hi => ?_, fun i c hc => ?_⟩
    · rw [hlo i (by omega), State.auxByte_putAux, if_neg (by omega)]
    · cases i with
      | zero =>
        obtain rfl : b = c := Option.some.inj hc
        rw [show k + 0 = k from rfl, hlo k (by omega), State.auxByte_putAux, if_pos rfl]
      | succ i =>
        rw [show k + (i + 1) = k + 1 + i by omega]
        exact hhi i c hc

/-- Bytes put into AUX_DATA change registers alone, and none but AUX_DATA. -/
theorem State.foldl_putAux_frame (o : Nat) (l : List (Byte × Nat)) (s : State) :
    l.foldl (State.putAux o) s = { s with regs := (l.foldl (State.putAux o) s).regs } ∧
      ∀ a, (∀ i, a ≠ rAuxData o i) → (l.foldl (State.putAux o) s).reg a = s.reg a := by
  induction l generalizing s with
  | nil => exact ⟨rfl, fun _ _ => rfl⟩
  | cons p l ih =>
    obtain ⟨heq, hreg⟩ := ih (State.putAux o s p)
    rw [List.foldl_cons]
    exact ⟨by rw [heq]; rfl, fun a ha => (hreg a ha).trans (State.reg_modReg_other _ _ _ _ (ha _))⟩

/-! ### The Bell (R450) -/

/-- A request sent to the Bell is the source's message, over its wire or through the mesh. -/
theorem State.rings_bell {s t : State} (n : Nat) (hb : t.bellMsgs = s.bellMsgs) (hm : t.mesh = s.mesh) :
    s.rings (t.bell n) n := by
  unfold State.rings State.bell
  rw [← hb, ← hm]
  split
  · unfold State.bellVia
    split
    · exact .inr ⟨_, _, rfl, List.mem_singleton.2 rfl, rfl⟩
    · exact .inl ⟨[n], rfl, List.mem_singleton.2 rfl⟩
  · exact .inl ⟨[n], rfl, List.mem_singleton.2 rfl⟩

theorem State.bell_eq (s : State) (n : Nat) :
    s.bell n = { s with bellMsgs := (s.bell n).bellMsgs, mesh := (s.bell n).mesh } := by
  obtain h | ⟨f, h⟩ := s.bell_cases n <;> rw [h] <;> rfl

@[simp] theorem State.reg_bell (s : State) (n a : Nat) : (s.bell n).reg a = s.reg a := by
  simp only [State.reg, State.bell_regs]

/-- The registers at the end of an AUX transaction, before the bytes it brings: GO cleared (R11) and the outcome set. -/
def State.auxEnded (s : State) (o outcome n : Nat) : State :=
  (s.hwReg (rAuxCmd o) (s.reg (rAuxCmd o) &&& 0x7FFFFFFF)).setReg (rAuxStat o) (BitVec.ofNat 32 (2 * (outcome % 4) + 16 * n))

theorem State.auxEnded_eq (s : State) (o outcome n : Nat) :
    s.auxEnded o outcome n = { s with regs := (s.auxEnded o outcome n).regs } := rfl

theorem State.auxDone_busy {s : State} {o : Nat} (outcome : Nat) (data : List Byte) (h3 : s.pdOn 3 = true)
    (hb : bit (s.reg (rAuxStat o)) 0 = true) :
    s.auxDone o outcome data =
      ((data.take 16).zipIdx.foldl (State.putAux o) (s.auxEnded o outcome (min 16 data.length))).bell (12 + o) := by
  simp only [State.auxDone, h3, hb, Bool.not_true, Bool.or_false, Bool.false_eq_true, if_false, State.auxEnded]
  rfl

/-- What an AUX transaction leaves at its end: the outcome and the bytes it brought, and its Bell source (R428). -/
theorem State.auxDone_reports (s : State) (o : Fin 2) (outcome : Fin 4) (data : List Byte) (h3 : s.pdOn 3 = true)
    (hb : bit (s.reg (rAuxStat o.val)) 0 = true) :
    let s' := s.auxDone o.val outcome.val data
    s.rings s' (12 + o.val) ∧ s' = { s with regs := s'.regs, bellMsgs := s'.bellMsgs, mesh := s'.mesh } ∧
      s'.reg (rAuxStat o.val) = BitVec.ofNat 32 (2 * outcome.val + 16 * min 16 data.length) ∧
      (s.wroteNow (rAuxCmd o.val) = false → bit (s'.reg (rAuxCmd o.val)) 31 = false) ∧
      ∀ (i : Nat) (b : Byte), i < 16 → data[i]? = some b → s'.auxByte o.val i = b.toNat := by
  intro s'
  obtain ⟨t, ht⟩ : ∃ t, t = s.auxEnded o.val outcome.val (min 16 data.length) := ⟨_, rfl⟩
  obtain ⟨u, hu⟩ : ∃ u, u = (data.take 16).zipIdx.foldl (State.putAux o.val) t := ⟨_, rfl⟩
  have hs' : s' = u.bell (12 + o.val) := by rw [hu, ht]; exact State.auxDone_busy _ _ h3 hb
  obtain ⟨hut, hreg⟩ := State.foldl_putAux_frame o.val (data.take 16).zipIdx t
  rw [← hu] at hut hreg
  have hus : u = { s with regs := u.regs } := by rw [hut, ht, State.auxEnded_eq]
  rw [hs']
  refine ⟨State.rings_bell _ (by rw [hus]) (by rw [hus]), ?_, ?_, fun hw => ?_, fun i b hi hd => ?_⟩
  · rw [State.bell_eq, hus]
  · rw [State.reg_bell, hreg _ (fun i => by unfold rAuxStat rAuxData; omega)]
    simp only [ht, State.auxEnded, BitVec.ofNat_eq_ofNat, Nat.mod_eq_of_lt outcome.isLt, State.reg_setReg_same]
  · rw [State.reg_bell, hreg _ (fun i => by unfold rAuxCmd rAuxData; omega)]
    simp only [ht, State.auxEnded, State.reg_setReg_other _ _ _ _ (rAuxStat_ne_rAuxCmd o.val).symm, State.hwReg, hw,
      Bool.false_eq_true, if_false, State.reg_setReg_same]
    simp only [bit, BitVec.ofNat_eq_ofNat, Nat.lt_add_one, BitVec.getLsbD_eq_getElem, BitVec.getElem_and,
      BitVec.reduceGetElem, Bool.and_false]
  · have hb := (State.auxByte_foldl_putAux o.val (data.take 16) 0 t).2 i b (by rwa [List.getElem?_take_of_lt hi])
    rw [Nat.zero_add, ← hu] at hb
    simpa only [State.auxByte, State.reg_bell] using hb

/-! ### Hot-plug (R427) -/

/-- DP_STATUS after a hot-plug event: 0 IRQ_HPD, 1 unplug, 2 plug. -/
def hpdStatus (w : Word) (k : Fin 3) : Word :=
  if k = 0 then w ||| 0x40000 else if k = 1 then (w &&& ~~~ 0x3FE &&& ~~~ 1) ||| 0x20000 else w ||| 0x10001

theorem State.hpdEvent_on {s : State} (o : Nat) (k : Fin 3) (h3 : s.pdOn 3 = true) :
    ∃ t, s.hpdEvent o k.val = t.bell (10 + o) ∧ s.onlyReg t (rDpStatus o) ∧
      t.reg (rDpStatus o) = hpdStatus (s.reg (rDpStatus o)) k := by
  match k with
  | 0 =>
    refine ⟨s.orReg (rDpStatus o) 0x40000, ?_, s.onlyReg_orReg _ _, ?_⟩
    · simp only [State.hpdEvent, h3, Bool.not_true, Bool.false_eq_true, ↓reduceIte, Fin.isValue, Fin.val_zero,
        BitVec.ofNat_eq_ofNat]
    · simp only [BitVec.ofNat_eq_ofNat, State.reg_orReg_same, hpdStatus, Fin.isValue, ↓reduceIte]
  | 1 =>
    refine ⟨((s.untrain o).clrReg (rDpStatus o) 1).orReg (rDpStatus o) 0x20000, ?_, ?_, ?_⟩
    · simp only [State.hpdEvent, h3, Bool.not_true, Bool.false_eq_true, ↓reduceIte, Fin.isValue, Fin.val_one,
        BitVec.ofNat_eq_ofNat]
    · exact State.onlyReg_trans (State.onlyReg_trans (s.onlyReg_setReg _ _) (State.onlyReg_setReg _ _ _))
        (State.onlyReg_orReg _ _ _)
    · simp only [State.untrain, BitVec.ofNat_eq_ofNat, BitVec.reduceNot, State.reg_orReg_same, State.reg_clrReg_same,
        State.reg_modReg_same, hpdStatus, Fin.isValue, Fin.one_eq_zero_iff, Nat.reduceEqDiff, ↓reduceIte]
  | 2 =>
    refine ⟨s.orReg (rDpStatus o) 0x10001, ?_, s.onlyReg_orReg _ _, ?_⟩
    · simp only [State.hpdEvent, h3, Bool.not_true, Bool.false_eq_true, ↓reduceIte, Fin.isValue, Fin.val_two,
        BitVec.ofNat_eq_ofNat]
    · simp only [BitVec.ofNat_eq_ofNat, State.reg_orReg_same, hpdStatus, Fin.isValue, Fin.reduceEq, ↓reduceIte]

theorem bit_or_of_bit (w : Word) {c : Word} {i : Nat} (h : bit c i = true) : bit (w ||| c) i = true :=
  BitVec.getLsbD_or.trans (Bool.or_eq_true_iff.2 (.inr h))

theorem bit_and_or_eq_false (w : Word) {a c : Word} {i : Nat} (ha : bit a i = false) (hc : bit c i = false) :
    bit ((w &&& a) ||| c) i = false :=
  BitVec.getLsbD_or.trans (Bool.or_eq_false_iff.2 ⟨BitVec.getLsbD_and.trans (Bool.and_eq_false_iff.2 (.inr ha)), hc⟩)

/-- The bits of DP_STATUS that an event sets and clears. -/
theorem bit_hpdStatus (w : Word) (k : Fin 3) :
    bit (hpdStatus w k) (if k = 0 then 18 else if k = 1 then 17 else 16) = true ∧
      (k = 1 → bit (hpdStatus w k) 0 = false ∧ bit (hpdStatus w k) 1 = false) ∧ (k = 2 → bit (hpdStatus w k) 0 = true) := by
  match k with
  | 0 => exact ⟨bit_or_of_bit w (by decide), fun h => absurd h (by decide), fun h => absurd h (by decide)⟩
  | 1 =>
    have hclr (i : Nat) (hi : bit (~~~ 0x3FE &&& ~~~ 1) i = false) (hc : bit 0x20000 i = false) : bit (hpdStatus w 1) i = false := by
      rw [hpdStatus, if_neg (by decide), if_pos rfl, BitVec.and_assoc]
      exact bit_and_or_eq_false w hi hc
    exact ⟨bit_or_of_bit _ (by decide), fun _ => ⟨hclr 0 (by decide) (by decide), hclr 1 (by decide) (by decide)⟩,
      fun h => absurd h (by decide)⟩
  | 2 => exact ⟨bit_or_of_bit w (by decide), fun h => absurd h (by decide), fun _ => bit_or_of_bit w (by decide)⟩

/-! ### AUX commands (R428) -/

/-- AUX_CMD written while no transaction is in progress: GO starts one. -/
theorem State.auxCmd_idle {s : State} {m : Master} {o : Nat} (v : Word) (h : s.writes m (rAuxCmd o) = true)
    (hb : bit (s.reg (rAuxStat o)) 0 = false) :
    let t := (s.noteWrite (masterCode m) (rAuxCmd o)).setReg (rAuxCmd o) (v &&& 0x8FFFFFFF)
    s.auxCmd m o v = if bit v 31 then t.setReg (rAuxStat o) 1 else t := by
  rw [State.auxCmd, State.regGate_open h]
  simp only [State.reg_noteWrite, hb, Bool.false_eq_true, if_false]

theorem State.auxCmd_busy {s : State} {m : Master} {o : Nat} (v : Word) (h : s.writes m (rAuxCmd o) = true)
    (hb : bit (s.reg (rAuxStat o)) 0 = true) : s.auxCmd m o v = s.noteWrite (masterCode m) (rAuxCmd o) := by
  rw [State.auxCmd, State.regGate_open h]
  simp only [State.reg_noteWrite, hb, if_true]

/-- AUX_CMD stored, and the transaction that GO starts shown in AUX_STAT. -/
theorem State.auxCmd_idle_regs {s : State} {m : Master} {o : Nat} (v : Word) (h : s.writes m (rAuxCmd o) = true)
    (hb : bit (s.reg (rAuxStat o)) 0 = false) :
    let s' := s.auxCmd m o v
    s.onlyRegs s' ∧ s.regsBut s' [rAuxCmd o, rAuxStat o] ∧ s'.reg (rAuxCmd o) = v &&& 0x8FFFFFFF ∧
      s'.reg (rAuxStat o) = if bit v 31 then 1 else s.reg (rAuxStat o) := by
  have hn := s.onlyReg_noteWrite_setReg (masterCode m) (rAuxCmd o) (v &&& 0x8FFFFFFF)
  have hl : s.regsBut _ [rAuxCmd o, rAuxStat o] := fun b hb => hn.2 b (by rintro rfl; exact hb (.head _))
  rw [State.auxCmd_idle v h hb]
  cases hv : bit v 31 with
  | false =>
    refine ⟨hn.1, hl, State.reg_setReg_same _ _ _, ?_⟩
    exact hn.2 _ (rAuxStat_ne_rAuxCmd o)
  | true =>
    refine ⟨State.onlyRegs_trans hn.1 (State.onlyReg_setReg _ _ _).1,
      State.regsBut_trans hl (State.regsBut_setReg _ _ (.tail _ (.head _))), ?_, State.reg_setReg_same _ _ _⟩
    exact (State.reg_setReg_other _ _ _ _ (rAuxStat_ne_rAuxCmd o).symm).trans (State.reg_setReg_same _ _ _)

/-! ### The obligation -/

/-- A TE edge is held for the latch, and in MEASURE mode recorded and counted (R396, R397). -/
theorem State.teEdge_reports (s : State) (h3 : s.pdOn 3 = true) :
    s.onlyRegs s.teEdge ∧ s.teEdge.now.te = true ∧
      (fld (s.reg rTeCfg) 0 2 = 2 → fld (s.teEdge.reg rTeLine) 0 16 = s.rasterLine ∧
        s.teEdge.reg rTeCount = s.reg rTeCount + 1 ∧ s.regsBut s.teEdge [rTeLine, rTeCount]) ∧
      (fld (s.reg rTeCfg) 0 2 ≠ 2 → s.teEdge.regs = s.regs) := by
  rw [State.teEdge_on h3]
  refine ⟨rfl, rfl, fun h => ?_, fun h => if_neg h⟩
  rw [if_pos h, State.reg_teNoted, State.reg_teNoted]
  refine ⟨?_, ?_, fun b hb => (State.reg_teNoted ..).trans (State.regsBut_trans
    (State.regsBut_setReg _ _ (.head _)) (State.regsBut_setReg _ _ (.tail _ (.head _))) b hb)⟩
  · rw [State.reg_incReg_other _ _ _ _ (by decide), State.reg_modReg_same]
    exact fld_setFld_same (by decide) (fld_lt _ _ _)
  · rw [State.incReg, State.reg_modReg_same, State.reg_modReg_other _ _ _ _ (by decide)]
    rfl

/-- The fields that DP_STATUS shows once a training has ended. -/
theorem State.dpTrained_status (s : State) (o : Fin 2) (ok : Bool) (rate : Fin 4) (lanes : Fin 5) (tps4 async : Bool)
    (h3 : s.pdOn 3 = true) (ht : bit (s.reg (rDpCtrl o.val)) 0 = true) :
    let good := ok && s.pdOn (4 + o.val)
    let w := (s.dpTrained o.val ok rate.val lanes.val tps4 async).reg (rDpStatus o.val)
    let r := min rate.val (fld (s.reg (rDpCtrl o.val)) 1 3)
    let l := min lanes.val (fld (s.reg (rDpCtrl o.val)) 4 3)
    bit w 1 = good ∧ (good = true → fld w 2 2 = r ∧ fld w 4 3 = l ∧ bit w 7 = tps4 ∧ bit w 8 = async ∧
      bit w 9 = s.linkTooSlow r l) := by
  intro good w r l
  have hw := (s.dpTrained_regs o ok rate.val lanes.val tps4 async h3 ht).2
  change w = _ at hw
  cases hg : good with
  | false =>
    rw [show (ok && s.pdOn (4 + o.val)) = false from hg, if_neg Bool.false_ne_true] at hw
    exact ⟨by rw [hw, bit, getLsbD_linked _ _ _ (by decide) (by decide), Nat.zero_testBit], fun h => absurd h Bool.false_ne_true⟩
  | true =>
    rw [show (ok && s.pdOn (4 + o.val)) = true from hg, if_pos rfl] at hw
    obtain ⟨hr, hl, h1, h7, h8, h9⟩ := dpLinkBits_fields r l tps4 async (s.linkTooSlow r l)
      (Nat.lt_of_le_of_lt (Nat.min_le_left _ _) rate.isLt) (Nat.lt_of_le_of_lt (Nat.min_le_left _ _) (by omega))
    have hbit : ∀ i, 1 ≤ i → i < 10 → w.getLsbD i = (dpLinkBits r l tps4 async (s.linkTooSlow r l)).testBit i :=
      fun i hi hi' => by rw [hw]; exact getLsbD_linked _ _ i hi hi'
    refine ⟨(hbit 1 (by decide) (by decide)).trans h1, fun _ => ⟨?_, ?_, (hbit 7 (by decide) (by decide)).trans h7,
      (hbit 8 (by decide) (by decide)).trans h8, (hbit 9 (by decide) (by decide)).trans h9⟩⟩
    · rw [fld_eq_of_bits fun i _ _ => hbit i (by omega) (by omega), hr]
    · rw [fld_eq_of_bits fun i _ _ => hbit i (by omega) (by omega), hl]

/-- Settles O48: a request's clause is its write through the gate; the end of a training or of an AUX transaction, a TE edge
and a hot-plug event have the rules above. -/
theorem scanRequests : Obligations.ScanRequests := by
  intro s m o v
  refine ⟨fun h => ?_, fun h => ?_, fun h3 => ⟨_, rfl, s.teEdge_reports h3⟩, fun h => ?_, ?_,
    fun h => ⟨fun hb => ?_, fun hb => ⟨_, rfl, State.auxCmd_idle_regs v h hb⟩⟩,
    fun outcome data h3 hb => ⟨_, rfl, s.auxDone_reports o outcome data h3 hb⟩, fun k h3 => ?_⟩
  · exact ⟨_, congrArg Host.Outcome.next (State.tsCommit_of_writes h), s.onlyReg_noteWrite_setReg _ _ _,
      State.reg_setReg_same _ _ _⟩
  · refine ⟨_, _, congrArg Host.Outcome.next (State.outModeWrite_of_writes v h), regRow_rOutMode, ?_, ?_,
      State.reg_setReg_same _ _ _⟩
    · rw [State.noteWrite_eq]
      rfl
    · exact fun b hb => (s.onlyReg_noteWrite_setReg _ _ _).2 b (by simpa only [ne_eq, List.mem_cons, List.not_mem_nil,
        or_false] using hb)
  · refine ⟨_, congrArg Host.Outcome.next (State.regGate_open h),
      State.onlyReg_trans (s.onlyReg_noteWrite _ _ _) (State.onlyReg_orReg _ _ _), ?_⟩
    rw [State.reg_orReg_same, State.reg_noteWrite]
  · intro ok rate lanes tps4 async h3 ht good
    obtain ⟨hother, -⟩ := s.dpTrained_regs o ok rate.val lanes.val tps4 async h3 ht
    obtain ⟨h1, hgood⟩ := s.dpTrained_status o ok rate lanes tps4 async h3 ht
    refine ⟨_, rfl, s.dpTrained_frame o ok _ _ tps4 async h3 ht, fun a ha => ?_, fun hw => ?_, h1, fun hg => ?_⟩
    · simp only [List.mem_cons, List.not_mem_nil, or_false, not_or] at ha
      exact (hother a ha.2).trans (s.reg_trainEnded_other _ a ha.1)
    · exact (congrArg (bit · 0) (hother _ (rDpStatus_ne_rDpCtrl o.val).symm)).trans (State.bit_trainEnded hw)
    · obtain ⟨hr, hl, h7, h8, h9⟩ := hgood hg
      exact ⟨hr, hl, h7, h8, by rw [show bit _ 9 = _ from h9, State.linkTooSlow, decide_eq_true_iff]⟩
  · refine ⟨_, congrArg Host.Outcome.next (State.auxCmd_busy v h hb), ?_⟩
    rw [← State.noteWrite_eq]
  · obtain ⟨t, ht, ⟨honly, hreg⟩, hst⟩ := State.hpdEvent_on o.val k h3
    obtain ⟨hset, h1, h2⟩ := bit_hpdStatus (s.reg (rDpStatus o.val)) k
    have ht' : t = { s with regs := t.regs, now := t.now } := honly
    refine ⟨_, congrArg Host.Outcome.next ht, ?_, ?_, fun a ha => ?_, ?_⟩
    · exact State.rings_bell _ (by rw [ht']) (by rw [ht'])
    · rw [State.bell_eq, ht']
    · rw [State.reg_bell, hreg a (by simpa only [ne_eq, List.mem_cons, List.not_mem_nil, or_false] using ha)]
    · rw [State.reg_bell, hst]
      exact ⟨hset, h1, h2⟩

end Sys2Proof.Machine
end

section
/-!
A write whose block gives it no rule of its own (R9): each block's write comes to the plain write by access types, unless the
block bars it for now.
-/

namespace Sys2Proof.Machine

/-! ### Addresses with a rule of their own -/

/-- Ranges of shared registers, first address and one past the last, whose writes have a rule of their own. -/
def ownRanges : List (Nat × Nat) :=
  [(rKeyhash 0, rKeyhash 12), (rMsip 0, rMsip 4), (rMtimecmp 0, rMtimecmp 4), (rClaim 0, rClaim 5), (rSrc 448, rSrc 480),
    (rPdCtrl 0, rPdCtrl 3), (rCount 0, rTickval 0), (rTrec 0, 0x30090070), (0x30090080, 0x30090090), (rSctrl 0, rSctrl 4),
    (rH2sbData 0, rH2sbData 16)]

theorem ne_of_ownRule {m : Master} {a b : Nat} (h : ownRule m a = false) (hb : ownRule m b = true) : a ≠ b := by
  rintro rfl
  exact absurd hb (Bool.eq_false_iff.1 h)

/-- Where a shared register without a rule of its own does not lie: the ranges, the watchers' CFG and TARGET, the steward
rings' tails, the MSI-X table, QSIZE and QCTRL of a queue. -/
theorem ownRule_shared_false {m : Master} {a : Nat} (ht : isTileReg a = false) (h : ownRule m a = false) :
    ownRanges.any (fun r => decide (r.1 ≤ a) && decide (a < r.2)) = false ∧
      (decide (rWatchCfg 0 ≤ a) && decide (a < rWatchCfg 32) && (a % 16 == 0 || a % 16 == 4)) = false ∧
      (decide (rSringTail 0 ≤ a) && decide (a ≤ rSringTail 3) && a % 16 == 8) = false ∧ isMsix a = false ∧
      (decide (rQueue 0 0 ≤ a) && decide (a < rQueue 132 0) &&
        ((a - rQueue 0 0) % 32 == 0x10 || (a - rQueue 0 0) % 32 == 0x14)) = false := by
  simp only [ownRule, ht, Bool.false_eq_true, if_false, Bool.or_eq_false_iff] at h
  obtain ⟨⟨⟨⟨⟨⟨-, hr⟩, hw⟩, hs⟩, hm⟩, hq⟩, -⟩ := h
  exact ⟨hr, by simpa only [Bool.or_eq_false_iff] using hw, hs, hm, by simpa only [Bool.or_eq_false_iff] using hq⟩

theorem State.unless_false (s : State) (m : Master) (a : Nat) (k : State → State) : s.unless m a false k = k s := rfl

section Plain
variable {s : State} {m : Master} {a : Nat} (v : Word) (ht : isTileReg a = false) (ho : ownRule m a = false)
include ht ho

theorem range_lt_of_ownRule {lo hi : Nat} (hr : (lo, hi) ∈ ownRanges) : (decide (lo ≤ a) && decide (a < hi)) = false := by
  have h := List.any_eq_false.1 (ownRule_shared_false ht ho).1 _ hr
  simpa only [Bool.and_eq_false_imp, decide_eq_true_eq, decide_eq_false_iff_not, Nat.not_lt, Bool.and_eq_true, not_and] using h

theorem range_le_of_ownRule {lo hi last : Nat} (hr : (lo, hi) ∈ ownRanges) (hl : last < hi) :
    (decide (lo ≤ a) && decide (a ≤ last)) = false := by
  have h := range_lt_of_ownRule ht ho hr
  simp only [Bool.and_eq_false_iff, decide_eq_false_iff_not] at h ⊢
  omega

/-! ### Blocks that bar no write -/

theorem State.topWrite_plain : s.topWrite m a v = s.plainWrite m a v := by
  simp only [State.topWrite, ne_of_ownRule ho (b := rBoardId) rfl, ne_of_ownRule ho (b := rGpioDir) rfl,
    ne_of_ownRule ho (b := rGpioOd) rfl, ne_of_ownRule ho (b := rTopLock) rfl,
    range_le_of_ownRule ht ho (lo := rKeyhash 0) (hi := rKeyhash 12) (last := rKeyhash 11) (by decide) (by decide),
    decide_false, Bool.or_self, Bool.false_eq_true, if_false]

omit ht in
theorem State.tickWrite_plain : s.tickWrite m a v = s.plainWrite m a v := by
  by_cases hm : m = .swap
  · subst hm
    simp only [State.tickWrite, ne_of_ownRule ho (b := rNdetCtrl) rfl, ne_of_ownRule ho (b := rBudget) rfl,
      ne_of_ownRule ho (b := rFrTarget) rfl, ne_of_ownRule ho (b := rFrObj) rfl, decide_false, Bool.or_self, Bool.and_false,
      Bool.false_eq_true, if_false]
  · simp only [State.tickWrite, ne_of_ownRule ho (b := rNdetCtrl) rfl, hm, decide_false, Bool.false_and,
      Bool.false_eq_true, if_false]

theorem State.bellWrite_plain : s.bellWrite m a v = s.plainWrite m a v := by
  simp only [State.bellWrite, ne_of_ownRule ho (b := rBellCtrl) rfl,
    range_le_of_ownRule ht ho (lo := rMsip 0) (hi := rMsip 4) (last := rMsip 3) (by decide) (by decide),
    range_lt_of_ownRule ht ho (lo := rMtimecmp 0) (hi := rMtimecmp 4) (by decide),
    range_lt_of_ownRule ht ho (lo := rClaim 0) (hi := rClaim 5) (by decide),
    range_lt_of_ownRule ht ho (lo := rSrc 448) (hi := rSrc 480) (by decide), Bool.false_eq_true, if_false]

theorem State.leaveWrite_plain : s.leaveWrite m a v = s.plainWrite m a v := by
  simp only [State.leaveWrite, ne_of_ownRule ho (b := rBudgetCap) rfl, ne_of_ownRule ho (b := rLvAgeStep) rfl,
    ne_of_ownRule ho (b := rThrotCfg) rfl, ne_of_ownRule ho (b := rThermCtrl) rfl, ne_of_ownRule ho (b := rThermClk) rfl,
    ne_of_ownRule ho (b := rIdleClk) rfl,
    range_le_of_ownRule ht ho (lo := rPdCtrl 0) (hi := rPdCtrl 3) (last := rPdCtrl 2) (by decide) (by decide),
    decide_false, Bool.or_self, Bool.false_eq_true, if_false]

omit ht in
theorem State.vatcWrite_plain : s.vatcWrite m a v = s.plainWrite m a v := by
  simp only [State.vatcWrite, ne_of_ownRule ho (b := rCacheCfg) rfl, ne_of_ownRule ho (b := rCacheCtrl) rfl,
    ne_of_ownRule ho (b := rRepairCtrl) rfl, if_false]

theorem State.errWrite_plain : s.errWrite m a v = s.plainWrite m a v := by
  simp only [State.errWrite, ne_of_ownRule ho (b := 0x30090008) rfl, ne_of_ownRule ho (b := 0x300900A4) rfl,
    ne_of_ownRule ho (b := 0x30090060) rfl, ne_of_ownRule ho (b := 0x30090064) rfl, ne_of_ownRule ho (b := 0x30090068) rfl,
    ne_of_ownRule ho (b := 0x3009006C) rfl, ne_of_ownRule ho (b := rLimits) rfl, ne_of_ownRule ho (b := rWdogCfg) rfl,
    ne_of_ownRule ho (b := rErrLock) rfl, ne_of_ownRule ho (b := rWoLog) rfl,
    range_le_of_ownRule ht ho (lo := rTrec 0) (hi := 0x30090070) (last := rSsub 1) (by decide) (by decide),
    range_lt_of_ownRule ht ho (lo := 0x30090080) (hi := 0x30090090) (by decide), decide_false, Bool.or_self,
    Bool.false_eq_true, if_false]

theorem State.dbgWrite_plain : s.dbgWrite m a v = s.plainWrite m a v := by
  simp only [State.dbgWrite, ne_of_ownRule ho (b := rDbgCtrl) rfl, ne_of_ownRule ho (b := rDbgStop) rfl,
    ne_of_ownRule ho (b := rDbgResume) rfl, ne_of_ownRule ho (b := rDbgStep) rfl, ne_of_ownRule ho (b := rAuthCtrl) rfl,
    ne_of_ownRule ho (b := rPermaDisable) rfl, ne_of_ownRule ho (b := rTrCtrl) rfl, ne_of_ownRule ho (b := rTrBase) rfl,
    ne_of_ownRule ho (b := rTrSize) rfl, ne_of_ownRule ho (b := rTrTail) rfl, ne_of_ownRule ho (b := rTrNotify) rfl,
    range_lt_of_ownRule ht ho (lo := rSctrl 0) (hi := rSctrl 4) (by decide), decide_false, Bool.or_self,
    Bool.false_eq_true, if_false]

omit ht in
theorem State.flashWrite_plain : s.flashWrite m a v = s.plainWrite m a v := by
  simp only [State.flashWrite, ne_of_ownRule ho (b := rFlashReq) rfl, ne_of_ownRule ho (b := rCpCtrl) rfl,
    ne_of_ownRule ho (b := rErCtrl) rfl, if_false]

theorem State.mhcWrite_plain : s.mhcWrite m a v = s.plainWrite m a v := by
  simp only [State.mhcWrite, ne_of_ownRule ho (b := rMreq) rfl, ne_of_ownRule ho (b := rMEoi) rfl,
    ne_of_ownRule ho (b := rSb2hCtrl) rfl, ne_of_ownRule ho (b := rH2sbCtrl) rfl,
    range_le_of_ownRule ht ho (lo := rH2sbData 0) (hi := rH2sbData 16) (last := rH2sbData 15) (by decide) (by decide),
    Bool.false_eq_true, if_false]

/-! ### Blocks that bar writes for a time -/

theorem State.scanWrite_unless (hb : blockOf a = 2) :
    s.scanWrite m a v = s.unless m a (s.barred m a) (fun z => z.plainWrite m a v) := by
  simp only [State.scanWrite, ne_of_ownRule ho (b := rTsCommit) rfl, ne_of_ownRule ho (b := rOutMode) rfl,
    ne_of_ownRule ho (b := rTeCfg) rfl, ne_of_ownRule ho (b := rCreamWm) rfl, ne_of_ownRule ho (b := rLeadMax) rfl,
    ne_of_ownRule ho (b := rDpCtrl 0) rfl, ne_of_ownRule ho (b := rDpCtrl 1) rfl, ne_of_ownRule ho (b := rAuxCmd 0) rfl,
    ne_of_ownRule ho (b := rAuxCmd 1) rfl, if_false, State.barred, ht, hb, Bool.false_eq_true]
  cases layerOf a with
  | none => rfl
  | some k => rfl

theorem State.syncWrite_unless (hb : blockOf a = 5) :
    s.syncWrite m a v = s.unless m a (s.barred m a) (fun z => z.plainWrite m a v) := by
  have hlo : 0x30054000 ≤ a := by
    have h := range_lt_of_ownRule ht ho (lo := rCount 0) (hi := rTickval 0) (by decide)
    simp only [Bool.and_eq_false_iff, decide_eq_false_iff_not, rCount, rTickval, blockOf] at h hb
    omega
  obtain ⟨-, hw, -⟩ := ownRule_shared_false ht ho
  have h1 : ¬ a < rAddReg 0 := by simp only [rAddReg]; omega
  have h2 : ¬ a < rTickval 0 := by simp only [rTickval]; omega
  have h3 : rTickval 0 ≤ a := Nat.le_of_not_lt h2
  simp only [State.syncWrite, h1, h2, h3, ne_of_ownRule ho (b := rPace) rfl, if_false, State.barred, ht, hb,
    Bool.false_eq_true, decide_true, Bool.true_and]
  by_cases hp : a < rPace
  · simp only [hp, if_true, decide_true, Bool.true_and]
  · simp only [hp, if_false, decide_false, Bool.false_and, State.unless_false]
    split
    · rename_i hr
      rw [hr, Bool.true_and, Bool.or_eq_false_iff, beq_eq_false_iff_ne, beq_eq_false_iff_ne] at hw
      split
      · exact absurd ‹_› hw.1
      · exact absurd ‹_› hw.2
      · rfl
    · rfl

theorem State.ladleWrite_unless (hb : blockOf a = 6) :
    s.ladleWrite m a v = s.unless m a (s.barred m a) (fun z => z.plainWrite m a v) := by
  obtain ⟨-, -, hs, -⟩ := ownRule_shared_false ht ho
  have hs : (decide (rSringTail 0 ≤ a) && decide (a ≤ rSringTail 3) && decide (a % 16 = 8)) = false := hs
  simp only [State.ladleWrite, ne_of_ownRule ho (b := rLAgeStep) rfl, ne_of_ownRule ho (b := rLSubst 0xE) rfl, hs, if_false,
    State.barred, ht, hb, Bool.false_eq_true]
  split
  · rename_i h
    rw [h, Bool.true_and]
  · rename_i h
    rw [Bool.not_eq_true] at h
    rw [h, Bool.false_and, State.unless_false]

theorem State.hostRegWrite_unless (hb : blockOf a = 7) :
    s.hostRegWrite m a v = s.unless m a (s.barred m a) (fun z => z.plainWrite m a v) := by
  obtain ⟨-, -, -, hm, hq⟩ := ownRule_shared_false ht ho
  simp only [State.hostRegWrite, hm, ne_of_ownRule ho (b := rWinBase) rfl, ne_of_ownRule ho (b := rSubsysId) rfl,
    ne_of_ownRule ho (b := rSmsg) rfl, ne_of_ownRule ho (b := rSentTail) rfl, ne_of_ownRule ho (b := rSdone) rfl, if_false,
    State.barred, ht, hb, Bool.false_eq_true]
  split
  · rename_i h
    simp only [h, Bool.true_and, Bool.or_eq_false_iff, beq_eq_false_iff_ne] at hq
    simp only [h, Bool.true_and]
    unfold State.queueWrite
    split
    · exact absurd ‹_› hq.2
    · exact absurd ‹_› hq.1
    · rfl
  · rename_i h
    rw [Bool.not_eq_true] at h
    simp only [h, Bool.false_and, State.unless_false]

end Plain

/-- Where a TILE register without a rule of its own does not lie. -/
theorem ownRule_tile_false {m : Master} {a : Nat} (ht : isTileReg a = true) (h : ownRule m a = false) :
    (∀ o ∈ [oHaltCtrl, oThreadCtrl, 0x84, oIbufCtrl, oSubst 0xE, oTrCfg, oTrObj], a % 0x1000 ≠ o) ∧
      ¬ (oLsync 0 ≤ a % 0x1000 ∧ a % 0x1000 ≤ oLsync 31) := by
  simp only [ownRule, ht, if_true, Bool.or_eq_false_iff] at h
  obtain ⟨hc, hl⟩ := h
  refine ⟨fun o ho e => ?_, by simpa only [not_and, Nat.not_le, Bool.and_eq_false_imp, decide_eq_true_eq,
    decide_eq_false_iff_not] using hl⟩
  rw [e, List.contains_iff_mem.2 ho] at hc
  exact Bool.noConfusion hc

theorem State.tileWrite_unless {s : State} {m : Master} {a : Nat} (v : Word) (ht : isTileReg a = true)
    (ho : ownRule m a = false) :
    s.tileWrite m (tid ((a - 0x30100000) / 0x1000)) a v = s.unless m a (s.barred m a) (fun z => z.plainWrite m a v) := by
  obtain ⟨hne, hl⟩ := ownRule_tile_false ht ho
  simp only [List.forall_mem_cons, List.not_mem_nil, false_imp_iff, implies_true, and_true] at hne
  obtain ⟨h1, h2, h3, h4, h5, h6, h7⟩ := hne
  have hl' : (decide (oLsync 0 ≤ a % 0x1000) && decide (a % 0x1000 ≤ oLsync 31)) = false := by
    simpa only [Bool.and_eq_false_imp, decide_eq_true_eq, decide_eq_false_iff_not, Nat.not_le, not_and] using hl
  simp only [State.tileWrite, h1, h2, h3, h4, h5, h6, h7, hl', decide_false, Bool.or_self, Bool.false_eq_true, if_false,
    State.barred, ht, if_true]
  split
  · rename_i hc
    have : rTile (tid ((a - 0x30100000) / 0x1000)).val oTileCfg = a := by
      simp only [isTileReg, Bool.and_eq_true, decide_eq_true_eq] at ht
      simp only [oTileCfg] at hc
      simp only [rTile, tileBase, oTileCfg, tid, Fin.ofNat]
      omega
    simp only [State.tileCfgWrite, this, hc, beq_self_eq_true, Bool.true_or, Bool.true_and]
  · rename_i hc
    split
    · rename_i hld
      simp only [hld, Bool.or_true, Bool.true_and]
    · rename_i hld
      rw [Bool.not_eq_true] at hld
      simp only [beq_eq_false_iff_ne.2 hc, hld, Bool.or_self, Bool.false_and, State.unless_false]

/-! ### The effect of a write without a rule of its own -/

/-- A write of a register whose block gives it no rule of its own is the plain write, or while the block bars it a register
access fault (R8, R9). -/
theorem State.regEffect_unless {s : State} {m : Master} {a : Nat} {r : RegRow} (v : Word) (hr : regRow a = some r)
    (ho : ownRule m a = false) : s.regEffect m a v = s.unless m a (s.barred m a) (fun z => z.plainWrite m a v) := by
  have hsome : (regRow a).isNone = false := by rw [hr]; rfl
  unfold State.regEffect
  rw [hsome, if_neg Bool.false_ne_true]
  split
  · exact State.tileWrite_unless v ‹_› ho
  · rename_i ht
    rw [Bool.not_eq_true] at ht
    split <;> rename_i hb
    -- SCAN, SYNC, LADLE and HOST are the blocks that bar a write for a time
    case h_3 => exact State.scanWrite_unless v ht ho hb
    case h_6 => exact State.syncWrite_unless v ht ho hb
    case h_7 => exact State.ladleWrite_unless v ht ho hb
    case h_8 => exact State.hostRegWrite_unless v ht ho hb
    all_goals
      have hbar : s.barred m a = false := by simp only [State.barred, ht, hb, Bool.false_eq_true, if_false]
      rw [hbar, State.unless_false]
    · exact State.topWrite_plain v ht ho
    · exact State.tickWrite_plain v ho
    · exact State.bellWrite_plain v ht ho
    · exact State.leaveWrite_plain v ht ho
    · exact State.vatcWrite_plain v ho
    · exact State.errWrite_plain v ht ho
    · exact State.dbgWrite_plain v ht ho
    · exact State.flashWrite_plain v ho
    · exact State.mhcWrite_plain v ht ho

end Sys2Proof.Machine
end

section
/-!
The register writes with a rule of their own that the statement names, the pair of DW of the MSI-X table, and reads.
-/

namespace Sys2Proof.Machine

/-! ### Plain writes and refusals through the gate (R8, R9) -/

@[simp] theorem State.written_noteWrite (s : State) (m : Master) (c a b : Nat) (v : Word) :
    (s.noteWrite c a).written m b v = s.written m b v := by
  simp only [State.written, State.reg_noteWrite, State.hwSetBits_noteWrite]

@[simp] theorem State.qEn_noteWrite (s : State) (c a q : Nat) : (s.noteWrite c a).qEn q = s.qEn q := by
  simp only [State.qEn, State.reg_noteWrite]

@[simp] theorem State.planBars_noteWrite (s : State) (m : Master) (c a : Nat) :
    (s.noteWrite c a).planBars m = s.planBars m := by
  simp only [State.planBars, State.planRuns_noteWrite]

@[simp] theorem State.barred_noteWrite (s : State) (m : Master) (c a b : Nat) :
    (s.noteWrite c a).barred m b = s.barred m b := by
  unfold State.barred
  generalize blockOf b = n
  simp only [State.qEn_noteWrite, State.planBars_noteWrite, State.reg_noteWrite, State.tile_noteWrite]

theorem State.plainWrite_eq_setReg {s : State} {m : Master} {a : Nat} {r : RegRow} (v : Word) (hr : regRow a = some r) :
    s.plainWrite m a v = s.setReg a (s.written m a v) := by
  simp only [State.plainWrite, State.written, hr, State.modReg]

theorem State.regRefuse_noteWrite (s : State) (m : Master) (a : Nat) :
    (s.noteWrite (masterCode m) a).regRefuse m a =
      { s.regFault m a with now := ((s.noteWrite (masterCode m) a).regRefuse m a).now } := by
  rw [State.regRefuse, State.unnote_noteWrite]
  rfl

/-- A write that reaches a register without a rule of its own. -/
theorem State.regWrite_unless {s : State} {m : Master} {a : Nat} {r : RegRow} (v : Word) (hw : s.writes m a = true)
    (hr : regRow a = some r) (ho : ownRule m a = false) :
    s.regWrite m a v = if s.barred m a then (s.noteWrite (masterCode m) a).regRefuse m a
      else (s.noteWrite (masterCode m) a).setReg a (s.written m a v) := by
  rw [State.regWrite, State.regGate_open hw, State.regEffect_unless v hr ho, State.barred_noteWrite, State.unless,
    State.plainWrite_eq_setReg v hr, State.written_noteWrite]

/-! ### BOARD_ID (R608) -/

theorem State.reg_noteSet (s : State) (a b : Nat) (w : Word) : (s.noteSet a w).reg b = s.reg b := rfl

theorem State.regEffect_boardId (s : State) (m : Master) (v : Word) :
    s.regEffect m rBoardId v = s.woWrite m rBoardId v (fun z => z.setReg rBoardId v) := rfl

@[simp] theorem State.reg_post (s : State) (c l u i b : Nat) (x w : Word) : (s.post c l u i x w).reg b = s.reg b := rfl

@[simp] theorem State.noteSet_mem (s : State) (a : Nat) (w : Word) : (s.noteSet a w).mem = s.mem := rfl

@[simp] theorem State.woCapture_mem (s : State) (a : Nat) (v : Word) (code : Nat) : (s.woCapture a v code).mem = s.mem := by
  simp only [State.woCapture, State.setReg_mem]

theorem State.regsBut_woCapture (s : State) (a : Nat) (v : Word) (code : Nat) :
    s.regsBut (s.woCapture a v code) [rWoAddr, rWoData, rWoLog] :=
  State.regsBut_trans (State.regsBut_trans (State.regsBut_setReg s _ (.head _)) (State.regsBut_setReg _ _ (.tail _ (.head _))))
    (State.regsBut_setReg _ _ (.tail _ (.tail _ (.head _))))

/-- A violation logged (R521, R522) leaves memory, and every register outside the write-once log. -/
theorem State.woLog_frame (s : State) (m : Master) (a : Nat) (v : Word) :
    (s.woLog m a v).mem = s.mem ∧ s.regsBut (s.woLog m a v) [rWoCount, rWoAddr, rWoData, rWoLog] := by
  have hcount (b : Nat) (hb : b ∉ [rWoCount, rWoAddr, rWoData, rWoLog]) : (s.satReg rWoCount).reg b = s.reg b :=
    State.reg_satReg_other _ _ _ _ (by rintro rfl; exact hb (.head _))
  unfold State.woLog
  dsimp only
  split
  · exact ⟨rfl, fun _ _ => rfl⟩
  · split
    · refine ⟨by simp only [State.bell_mem, State.post_mem, State.satReg_mem], fun b hb => ?_⟩
      rw [State.reg_bell, State.reg_post]
      exact (State.regsBut_of_regs (s := s.satReg rWoCount) rfl b hb).trans (hcount b hb)
    · refine ⟨by simp only [State.bell_mem, State.post_mem, State.noteSet_mem, State.woCapture_mem, State.satReg_mem],
        fun b hb => ?_⟩
      rw [State.reg_bell, State.reg_post, State.reg_noteSet,
        State.regsBut_woCapture _ _ _ _ b (fun h => hb (List.mem_cons_of_mem _ h))]
      exact hcount b hb

/-- BOARD_ID takes its first write, and WO_STATE says so; a later write leaves it. -/
theorem State.regWrite_boardId {s : State} {m : Master} (v : Word) (hw : s.writes m rBoardId = true) :
    let s' := s.regWrite m rBoardId v
    s'.mem = s.mem ∧
      (s.woWritten rBoardId = false → s.onlyRegs s' ∧ s'.reg rBoardId = v ∧ s'.woWritten rBoardId = true ∧
        s.regsBut s' [rBoardId, rWoState]) ∧
      (s.woWritten rBoardId = true → s'.reg rBoardId = s.reg rBoardId) := by
  have hwo : (s.noteWrite (masterCode m) rBoardId).woWritten rBoardId = s.woWritten rBoardId := by
    simp only [State.woWritten, State.reg_noteWrite]
  rw [State.regWrite, State.regGate_open hw, State.regEffect_boardId, State.woWrite, hwo]
  cases h : s.woWritten rBoardId with
  | true =>
    rw [if_pos rfl]
    obtain ⟨hm, hr⟩ := State.woLog_frame (s.noteWrite (masterCode m) rBoardId) m rBoardId v
    exact ⟨hm.trans (s.noteWrite_mem _ _), fun e => absurd e.symm Bool.false_ne_true,
      fun _ => (hr rBoardId (by decide)).trans (s.reg_noteWrite _ _ _)⟩
  | false =>
    rw [if_neg Bool.false_ne_true]
    have h1 := s.onlyReg_noteWrite (masterCode m) rBoardId rWoState
    have h2 := State.onlyReg_trans h1 (State.onlyReg_orReg _ rWoState (w32 (2 ^ woBit rBoardId)))
    refine ⟨?_, fun _ => ⟨State.onlyRegs_trans h2.1 (State.onlyReg_setReg _ _ _).1, State.reg_setReg_same _ _ _, ?_, ?_⟩,
      fun e => absurd e Bool.false_ne_true⟩
    · exact s.noteWrite_mem _ _
    · rw [State.woWritten, State.reg_setReg_other _ _ _ _ (by decide), State.reg_orReg_same, bit, BitVec.getLsbD_or]
      exact Bool.or_eq_true_iff.2 (.inr (by decide))
    · refine State.regsBut_trans (fun b hb => h2.2 b ?_) (State.regsBut_setReg _ _ (.head _))
      rintro rfl
      exact hb (.tail _ (.head _))

/-! ### Registers that store a value of their own -/

theorem State.regEffect_throtCfg (s : State) (m : Master) (v : Word) :
    s.regEffect m rThrotCfg v = s.setReg rThrotCfg (BitVec.ofNat 32 (min 16 (fld v 0 5))) := rfl

theorem State.regEffect_leadMax (s : State) (m : Master) (v : Word) :
    s.regEffect m rLeadMax v = s.setReg rLeadMax (BitVec.ofNat 32 (max 1 (min 64 (fld v 0 7)))) := rfl

theorem State.regEffect_winBase (s : State) (m : Master) (v : Word) :
    s.regEffect m rWinBase v =
      s.setReg rWinBase (if 0x20000000 < (v &&& 0xFFF00000).toNat then 0x20000000 else v &&& 0xFFF00000) := rfl

theorem State.regEffect_creamWm (s : State) (m : Master) (v : Word) :
    s.regEffect m rCreamWm v = s.setReg rCreamWm (creamWm v) := rfl

/-- MODE of TE_CFG stored: 3 as 0. -/
theorem teCfg_value (v : Word) :
    setFld (v &&& 7) 0 2 (if fld v 0 2 = 3 then 0 else fld v 0 2) = if fld v 0 2 = 3 then v &&& 4 else v &&& 7 := by
  have h7 : ∀ i < 32, (7 : Word).getLsbD i = decide (i < 3) := by decide
  have h4 : ∀ i < 32, (4 : Word).getLsbD i = decide (i = 2) := by decide
  refine BitVec.eq_of_getLsbD_eq fun i hi => ?_
  rw [getLsbD_setFld _ _ _ _ _ hi]
  by_cases hm : fld v 0 2 = 3
  · simp only [hm, if_true, BitVec.getLsbD_and, h7 i hi, h4 i hi, Nat.zero_testBit]
    split
    · simp only [show i ≠ 2 by omega, decide_false, Bool.and_false]
    · simp only [show i < 3 ↔ i = 2 by omega]
  · simp only [hm, if_false, BitVec.getLsbD_and, h7 i hi, Nat.sub_zero, testBit_fld, Nat.zero_add]
    split
    · rename_i hl
      simp only [hl.2, show i < 3 by omega, decide_true, Bool.true_and, Bool.and_true]
    · rfl

theorem State.regEffect_teCfg (s : State) (m : Master) (v : Word) :
    s.regEffect m rTeCfg v = s.setReg rTeCfg (if fld v 0 2 = 3 then v &&& 4 else v &&& 7) := by
  rw [← teCfg_value]
  rfl

/-- One of those registers, and the value it stores for v (R143, R287, R322, R354, R416). -/
theorem State.regEffect_ownValue (s : State) (m : Master) {a : Nat} {v w : Word} (h : (a, w) ∈
    [(rThrotCfg, BitVec.ofNat 32 (min 16 (fld v 0 5))), (rLeadMax, BitVec.ofNat 32 (max 1 (min 64 (fld v 0 7)))),
      (rWinBase, if 0x20000000 < (v &&& 0xFFF00000).toNat then 0x20000000 else v &&& 0xFFF00000),
      (rCreamWm, if 1 ≤ fld v 8 6 ∧ fld v 8 6 < fld v 0 6 then v &&& 0x3F3F else 0x0410),
      (rTeCfg, if fld v 0 2 = 3 then v &&& 4 else v &&& 7)]) : a % 4 = 0 ∧ s.regEffect m a v = s.setReg a w := by
  simp only [List.mem_cons, Prod.mk.injEq, List.not_mem_nil, or_false] at h
  obtain ⟨rfl, rfl⟩ | ⟨rfl, rfl⟩ | ⟨rfl, rfl⟩ | ⟨rfl, rfl⟩ | ⟨rfl, rfl⟩ := h
  · exact ⟨rfl, s.regEffect_throtCfg m v⟩
  · exact ⟨rfl, s.regEffect_leadMax m v⟩
  · exact ⟨rfl, s.regEffect_winBase m v⟩
  · refine ⟨rfl, (s.regEffect_creamWm m v).trans ?_⟩
    simp only [creamWm, Bool.and_eq_true, decide_eq_true_eq]
  · exact ⟨rfl, s.regEffect_teCfg m v⟩

/-! ### Writes that are a command -/

/-- A write whose effect is a command of the same gate is that command. -/
theorem State.regWrite_of_regEffect {s : State} {m : Master} {a : Nat} {v : Word} {k : State → State}
    (h : ∀ z : State, z.regEffect m a v = z.regGate m a k) : s.regWrite m a v = s.regGate m a k := by
  simp only [State.regWrite, h, State.regGate_regGate]

theorem State.regEffect_sync {s : State} {m : Master} {a : Nat} (v : Word) (hr : regRow a ≠ none)
    (ha : 0x30050000 ≤ a ∧ a < 0x30060000) : s.regEffect m a v = s.syncWrite m a v := by
  have h1 : (regRow a).isNone = false := Option.isNone_eq_false_iff.2 (Option.isSome_iff_ne_none.2 hr)
  have h2 : isTileReg a = false := by
    simp only [isTileReg, Bool.and_eq_false_iff, decide_eq_false_iff_not]
    omega
  have h3 : blockOf a = 5 := by
    unfold blockOf
    omega
  simp only [State.regEffect, h1, h2, h3, Bool.false_eq_true, if_false]

theorem State.regWrite_count (s : State) (m : Master) (o : Fin 2048) (v : Word) :
    s.regWrite m (rCount o.val) v = s.syncCountWrite m o.val v := by
  refine State.regWrite_of_regEffect fun z => ?_
  have h1 : rCount o.val < rAddReg 0 := by
    simp only [rCount, rAddReg]
    omega
  have h2 : (rCount o.val - rCount 0) / 4 = o.val := by
    simp only [rCount]
    omega
  rw [State.regEffect_sync v (regRow_count_ne_none (by simp only [rCount]; omega) (by simp only [rCount]; omega))
    (by simp only [rCount]; omega), State.syncWrite, if_pos h1, h2]
  rfl

theorem State.regWrite_add (s : State) (m : Master) (o : Fin 2048) (v : Word) :
    s.regWrite m (rAddReg o.val) v = s.syncAddWrite m o.val v := by
  refine State.regWrite_of_regEffect fun z => ?_
  have h1 : ¬ rAddReg o.val < rAddReg 0 := by
    simp only [rAddReg]
    omega
  have h2 : rAddReg o.val < rTickval 0 := by
    simp only [rAddReg, rTickval]
    omega
  have h3 : (rAddReg o.val - rAddReg 0) / 4 = o.val := by
    simp only [rAddReg]
    omega
  rw [State.regEffect_sync v (regRow_add_ne_none (by simp only [rAddReg]; omega) (by simp only [rAddReg]; omega))
    (by simp only [rAddReg]; omega), State.syncWrite, if_neg h1, if_pos h2, h3]
  rfl

theorem State.regWrite_pace (s : State) (m : Master) (v : Word) : s.regWrite m rPace v = s.paceWrite m v :=
  State.regWrite_of_regEffect fun _ => rfl

theorem State.regWrite_sdone (s : State) (m : Master) (v : Word) : s.regWrite m rSdone v = s.sdone m v :=
  State.regWrite_of_regEffect fun _ => rfl

theorem State.regWrite_pdCtrl (s : State) (m : Master) (k : Fin 3) (v : Word) :
    s.regWrite m (rPdCtrl k.val) v = s.pdCtrlWrite m k.val v :=
  State.regWrite_of_regEffect fun _ => match k with
    | 0 => rfl
    | 1 => rfl
    | 2 => rfl

/-! ### A TILE register's address and its parts (R67) -/

theorem isTileReg_rTile (t : TileId) {o : Nat} (h : o < 0x1000) : isTileReg (rTile t.val o) = true := by
  unfold isTileReg rTile tileBase
  rw [Bool.and_eq_true, decide_eq_true_eq, decide_eq_true_eq]
  omega

theorem rTile_mod (t : Nat) {o : Nat} (h : o < 0x1000) : rTile t o % 0x1000 = o := by
  unfold rTile tileBase
  omega

theorem tid_rTile (t : TileId) {o : Nat} (h : o < 0x1000) : tid ((rTile t.val o - 0x30100000) / 0x1000) = t := by
  have : (rTile t.val o - 0x30100000) / 0x1000 = t.val := by
    unfold rTile tileBase
    omega
  rw [this]
  exact Fin.ext (Nat.mod_eq_of_lt t.isLt)

/-! ### LSYNC (R290) -/

theorem State.regWrite_lsync (s : State) (m : Master) (t : TileId) (k : Fin 32) (v : Word) :
    s.regWrite m (rTile t.val (oLsync k.val)) v = s.lsyncWrite m t k.val v := by
  unfold State.lsyncWrite
  dsimp only
  refine State.regWrite_of_regEffect fun z => ?_
  have hk32 : oLsync k.val < 0x1000 := by
    unfold oLsync
    omega
  have ht := isTileReg_rTile t hk32
  have ho := rTile_mod t.val hk32
  have htid := tid_rTile t hk32
  have hr : (regRow (rTile t.val (oLsync k.val))).isNone = false :=
    Option.isNone_eq_false_iff.2 (Option.isSome_iff_ne_none.2 (regRow_lsync_ne_none ht
      (by rw [ho]; simp only [oLsync]; omega) (by simp only [rTile, tileBase, oLsync]; omega)))
  have hk : (oLsync k.val - oLsync 0) / 4 = k.val := by
    simp only [oLsync]
    omega
  have hl : (decide (oLsync 0 ≤ oLsync k.val) && decide (oLsync k.val ≤ oLsync 31)) = true := by
    simp only [oLsync, Bool.and_eq_true, decide_eq_true_eq]
    omega
  have hne (o : Nat) (h : o < oLsync 0) : oLsync k.val ≠ o := by
    simp only [oLsync] at h ⊢
    omega
  simp only [State.regEffect, hr, ht, htid, Bool.false_eq_true, if_false, if_true, State.tileWrite, ho,
    hne oTileCfg (by decide), hne oHaltCtrl (by decide), hne oThreadCtrl (by decide), hne 0x0084 (by decide),
    hne oIbufCtrl (by decide), hl, hk]
  unfold State.lsyncWrite
  rfl

end Sys2Proof.Machine
end

section
/-!
The pair of DW of the MSI-X table (R354), the reads of registers (R8, R354), and the statement on register writes.
-/

namespace Sys2Proof.Machine

/-! ### The MSI-X table (R354) -/

/-- t differs from s in the MSI-X table and PBA, and outside the registers and the host's state at most. -/
def State.msixOnly (s t : State) : Prop := t.host = s.host ∧ ∀ b, isMsix b = false → t.reg b = s.reg b

theorem State.msixOnly_trans {s t u : State} (h : s.msixOnly t) (k : t.msixOnly u) : s.msixOnly u :=
  ⟨k.1.trans h.1, fun b hb => (k.2 b hb).trans (h.2 b hb)⟩

theorem State.msixOnly_setReg (s : State) {a : Nat} (v : Word) (ha : isMsix a = true) : s.msixOnly (s.setReg a v) :=
  ⟨rfl, fun b hb => s.reg_setReg_other a b v (by rintro rfl; exact absurd ha (Bool.eq_false_iff.1 hb))⟩

theorem isMsix_iff (a : Nat) :
    isMsix a = true ↔ (0x30078000 ≤ a ∧ a < 0x30078480) ∨ (0x30079000 ≤ a ∧ a < 0x30079010) := by
  simp only [isMsix, Bool.or_eq_true, Bool.and_eq_true, decide_eq_true_eq, rMsix, rPba]

theorem State.msixOnly_msixFlush (s : State) : s.msixOnly s.msixFlush := by
  unfold State.msixFlush
  refine List.foldlRecOn (motive := s.msixOnly) _ _ ⟨rfl, fun _ _ => rfl⟩ fun t ht v hv => ?_
  split
  · refine State.msixOnly_trans ht (State.msixOnly_setReg t _ ?_)
    rw [List.mem_range] at hv
    rw [isMsix_iff, rPba]
    omega
  · exact ht

theorem State.msixOnly_plainWrite (s : State) (m : Master) {a : Nat} (v : Word) (ha : isMsix a = true) :
    s.msixOnly (s.plainWrite m a v) := by
  unfold State.plainWrite
  split
  · exact ⟨rfl, fun _ _ => rfl⟩
  · exact State.msixOnly_setReg s _ ha

/-- The MSI-X table lies in the HOST block, which R532 never bars. -/
theorem blockOf_of_isMsix {a : Nat} (ha : isMsix a = true) :
    isRegAddr a = true ∧ isTileReg a = false ∧ isSharedReg a = true ∧ blockOf a = 7 := by
  rw [isMsix_iff] at ha
  simp only [isRegAddr, isTileReg, isSharedReg, blockOf, Bool.or_eq_true, Bool.and_eq_true, Bool.and_eq_false_iff,
    decide_eq_true_eq, decide_eq_false_iff_not]
  omega

/-- The host's write of a register of the MSI-X table changes that table and the PBA, and no other register. -/
theorem State.msixOnly_regWrite (s : State) {a : Nat} (v : Word) (ha : isMsix a = true) : s.msixOnly (s.regWrite .host a v) := by
  obtain ⟨-, ht, hs, hb⟩ := blockOf_of_isMsix ha
  have hnote : s.msixOnly (s.noteWrite (masterCode .host) a) := ⟨s.noteWrite_host _ _, fun _ _ => State.reg_noteWrite ..⟩
  rcases s.regGate_cases .host a (fun z => z.regEffect .host a v) with e | e | ⟨-, he, -⟩ | e <;> rw [State.regWrite]
  · rw [e]
    exact ⟨rfl, fun _ _ => rfl⟩
  · rw [e]
    exact ⟨rfl, fun _ _ => rfl⟩
  · simp only [State.earlyWrite, hs, hb, Nat.reduceBEq, BEq.rfl, Bool.or_true, Bool.and_self, Bool.not_true,
      Bool.and_false, Bool.false_eq_true] at he
  · rw [e]
    refine State.msixOnly_trans hnote ?_
    by_cases hr : (regRow a).isNone = true
    · rw [State.regEffect, if_pos hr, State.unnote_eq]
      exact ⟨rfl, fun _ _ => rfl⟩
    · simp only [State.regEffect, hr, ht, hb, State.hostRegWrite, ha, Bool.false_eq_true, if_false, if_true]
      exact State.msixOnly_trans (State.msixOnly_plainWrite _ _ v ha) (State.msixOnly_msixFlush _)

/-- Such a write leaves the BAR as it is. -/
theorem State.barOpen_of_msixOnly {s t : State} (h : s.msixOnly t) : t.barOpen = s.barOpen := by
  obtain ⟨hh, hr⟩ := h
  have h2 : t.pdOn 2 = s.pdOn 2 := by
    rw [State.pdOn, State.pdOn, if_neg (by decide), if_neg (by decide), hr _ (by decide)]
  simp only [State.barOpen, State.linkUp, State.cfg, hh, h2, hr rLink (by decide)]

/-- A pair of DW is two writes (R354). -/
theorem State.regStore_pair (s : State) {a : Nat} (x : Dword) (ha : isMsix a = true) (h8 : a % 8 = 0) :
    s.regStore .host a 8 x = (s.regWrite .host a (x.setWidth 32)).regWrite .host (a + 4) ((x >>> 32).setWidth 32) := by
  simp only [State.regStore, decide_true, ha, Bool.and_self, h8, ↓reduceIte]

/-! ### Writes that do not reach their register (R50, R352, R532) -/

/-- A write that is not the pair of DW passes its gate once, whatever its width and alignment. -/
theorem State.regStore_gate (s : State) (m : Master) (a n : Nat) (x : Dword)
    (hp : ¬ (m = .host ∧ isMsix a = true ∧ n = 8 ∧ a % 8 = 0)) : ∃ k, s.regStore m a n x = s.regGate m a k := by
  by_cases h : n ≠ 4 ∨ a % 4 ≠ 0
  · exact ⟨_, State.regStore_refused s x h hp⟩
  · obtain ⟨hn, h4⟩ : n = 4 ∧ a % 4 = 0 := by omega
    subst hn
    exact ⟨_, State.regStore_word s m x h4⟩

theorem milkWrites_of_milkReads {a : Nat} (h : milkReads a = false) : milkWrites a = false :=
  (Bool.or_eq_false_iff.1 h).1

theorem State.regStore_milkhouse (s : State) {a : Nat} (n : Nat) (x : Dword) (h : milkWrites a = false) :
    s.regStore .milkhouse a n x = if milkReads a then s.regFault .milkhouse a else s := by
  obtain ⟨k, hk⟩ := s.regStore_gate .milkhouse a n x (fun h => nomatch h.1)
  rw [hk, State.regGate_milkhouse h]

/-- The host's write with its BAR closed is an unsupported request (R352). -/
theorem exec_registerWrite_barClosed {s : State} (a : BitVec 32) (n : Nat) (x : Dword) (h : s.barOpen = false) :
    exec (.registerWrite .host a n (some x)) s = .next (s.unsupported true) := by
  change Host.Outcome.next (s.registerWrite .host a.toNat n x) = _
  simp only [State.registerWrite, decide_true, h, Bool.not_false, Bool.and_self, ↓reduceIte]

/-! ### Reads (R8, R354) -/

theorem exec_registerWrite_none {s : State} {m : Master} {a : Nat} (n : Nat) (ha : isRegAddr a = true)
    (hm : m = .host → s.barOpen = true) (hr : s.reaches m = true) :
    exec (.registerWrite m (BitVec.ofNat 32 a) n none) s = .next
      (let r := if m = .host && 4 < a % 4 + n then s.wideLoad a n else s.regLoad m a n
       r.1.answerRead m 0 false a r.2 false) := by
  obtain ⟨hp, hv, hs⟩ := not_memory_of_isRegAddr ha
  have h1 : (decide (m = .host) && !s.barOpen) = false := decide_and_not_eq_false hm
  change Host.Outcome.next (s.registerRead m (BitVec.ofNat 32 a).toNat n) = _
  rw [toNat_ofNat_regAddr ha]
  simp only [State.registerRead, h1, hr, hp, hv, hs, ha, Bool.not_true, Bool.or_self, Bool.false_eq_true, if_false, if_true]

/-- The bytes of a word that a read of part of it brings. -/
theorem bytes_of_word {w k n : Nat} (h : k + n ≤ 4) :
    (List.range n).map (fun i => if k + i < 4 then byteOf (w / 2 ^ (8 * (k + i))) else 0) = ((leBytes 4 w).drop k).take n := by
  refine List.ext_getElem ?_ fun i h1 h2 => ?_
  · simp only [BitVec.ofNat_eq_ofNat, List.length_map, List.length_range, leBytes, bytesOfNat, List.length_take,
      List.length_drop]
    omega
  · have hi : k + i < 4 := by
      simp only [BitVec.ofNat_eq_ofNat, List.length_map, List.length_range] at h1
      omega
    simp only [byteOf, BitVec.ofNat_eq_ofNat, List.getElem_map, List.getElem_range, hi, ↓reduceIte, leBytes, bytesOfNat,
      List.getElem_take, List.getElem_drop]

theorem State.regLoad_word (s : State) (m : Master) {a n : Nat} (h : a % 4 + n ≤ 4) :
    s.regLoad m a n = ((s.regRead m (a / 4 * 4)).1, ((leBytes 4 (s.regRead m (a / 4 * 4)).2.toNat).drop (a % 4)).take n) := by
  rw [State.regLoad, bytes_of_word h]

/-- The completions of a host read carry its bytes in order. -/
theorem completionPieces_flatten (mps fuel a : Nat) (bs : List Byte) : (completionPieces mps fuel a bs).flatten = bs := by
  induction fuel generalizing a bs with
  | zero => simp only [completionPieces, List.flatten_cons, List.flatten_nil, List.append_nil]
  | succ n ih =>
    unfold completionPieces
    split
    · simp only [List.flatten_cons, List.flatten_nil, List.append_nil]
    · simp only [List.flatten_cons, ih, List.take_append_drop]

/-- A read no longer than a payload has one completion. -/
theorem completionPieces_short {mps a : Nat} {bs : List Byte} (h : bs.length ≤ mps) :
    completionPieces mps bs.length a bs = [bs] := by
  cases bs with
  | nil => rfl
  | cons b l => simp only [List.length_cons, completionPieces] at h ⊢; rw [if_pos h]

theorem State.le_maxPayload (s : State) : 128 ≤ s.maxPayload := by
  have : 0 < 2 ^ fld (s.cfg 0x78) 5 3 := Nat.two_pow_pos _
  unfold State.maxPayload
  omega

theorem State.foldl_emit (s : State) (l : List (List Byte)) (f : List Byte → Out) :
    l.foldl (fun s b => s.emit (f b)) s = { s with out := s.out ++ l.map f } := by
  induction l generalizing s with
  | nil => simp only [List.foldl_nil, List.map_nil, List.append_nil]
  | cons b l ih =>
    rw [List.foldl_cons, ih]
    simp only [State.emit, List.append_assoc, List.cons_append, List.nil_append, List.map_cons]

theorem State.hostAnswer_short (s : State) (a : Nat) {bs : List Byte} (h : bs.length ≤ 4) :
    s.hostAnswer a bs = s.emit (.answer .host bs false) := by
  rw [State.hostAnswer, completionPieces_short (by have := s.le_maxPayload; omega)]
  rfl

/-- A host read of more than one DW outside the MSI-X table: zeros, with a fault (R354). -/
theorem State.wideLoad_zeros {s : State} {a n : Nat} (ho : s.regOn a = true)
    (hp : ¬ (isMsix a = true ∧ n = 8 ∧ a % 8 = 0)) : s.wideLoad a n = (s.regFault .host a, List.replicate n 0) := by
  have h : (isMsix a && decide (n = 8) && decide (a % 8 = 0)) = false := by
    refine Bool.eq_false_iff.2 fun hc => ?_
    simp only [Bool.and_eq_true, decide_eq_true_eq] at hc
    exact hp ⟨hc.1.1, hc.1.2, hc.2⟩
  simp only [State.wideLoad, h, ho, Bool.false_eq_true, if_false, if_true]

/-! ### The obligation -/

/-- A 32-bit write without a rule of its own, at a register whose block does not bar it. -/
theorem registerWrite_stores {s : State} {m : Master} {a : Nat} {r : RegRow} (v : Word) (ha : isRegAddr a = true)
    (hm : m = .host → s.barOpen = true) (hw : s.writes m a = true) (hr : regRow a = some r) (h4 : a % 4 = 0)
    (ho : ownRule m a = false) (hb : s.barred m a = false) :
    ∃ s', exec (.registerWrite m (BitVec.ofNat 32 a) 4 (some (v.setWidth 64))) s = .next s' ∧ s.onlyReg s' a ∧
      s'.reg a = s.written m a v := by
  rw [exec_registerWrite_word v ha h4 hm, State.regWrite_unless v hw hr ho, hb, if_neg Bool.false_ne_true]
  exact ⟨_, rfl, s.onlyReg_noteWrite_setReg _ _ _, State.reg_setReg_same _ _ _⟩

theorem registerWrite_refuses_barred {s : State} {m : Master} {a : Nat} {r : RegRow} (v : Word) (ha : isRegAddr a = true)
    (hm : m = .host → s.barOpen = true) (hw : s.writes m a = true) (hr : regRow a = some r) (h4 : a % 4 = 0)
    (ho : ownRule m a = false) (hb : s.barred m a = true) :
    s.refuses (.registerWrite m (BitVec.ofNat 32 a) 4 (some (v.setWidth 64))) m a := by
  unfold State.refuses
  rw [exec_registerWrite_word v ha h4 hm, State.regWrite_unless v hw hr ho, hb, if_pos rfl]
  exact ⟨_, rfl, s.regRefuse_noteWrite m a⟩

theorem registerWrite_refuses_width {s : State} {m : Master} {a n : Nat} (x : Dword) (ha : isRegAddr a = true)
    (hm : m = .host → s.barOpen = true) (hw : s.writes m a = true) (h : n ≠ 4 ∨ a % 4 ≠ 0)
    (hp : ¬ (m = .host ∧ isMsix a = true ∧ n = 8 ∧ a % 8 = 0)) :
    s.refuses (.registerWrite m (BitVec.ofNat 32 a) n (some x)) m a := by
  unfold State.refuses
  rw [exec_registerWrite_some n x ha hm, State.regStore_refused s x h hp, State.regGate_open hw]
  exact ⟨_, rfl, s.regRefuse_noteWrite m a⟩

/-- Two DW of the MSI-X table, written at once, are the writes of each in turn. -/
theorem registerWrite_pair {s : State} {a : Nat} (x : Dword) (hs : s.barOpen = true) (ha : isMsix a = true) (h8 : a % 8 = 0) :
    ∃ s₁ s', exec (.registerWrite .host (BitVec.ofNat 32 a) 4 (some (x &&& 0xFFFFFFFF))) s = .next s₁ ∧
      exec (.registerWrite .host (BitVec.ofNat 32 (a + 4)) 4 (some (x >>> 32))) s₁ = .next s' ∧
      exec (.registerWrite .host (BitVec.ofNat 32 a) 8 (some x)) s = .next s' := by
  obtain ⟨hra, -⟩ := blockOf_of_isMsix ha
  have ha4 : isMsix (a + 4) = true := by
    rw [isMsix_iff] at ha ⊢
    omega
  obtain ⟨hra4, -⟩ := blockOf_of_isMsix ha4
  have hlow : (x &&& 0xFFFFFFFF).setWidth 32 = x.setWidth 32 := by
    refine BitVec.eq_of_getLsbD_eq fun i hi => ?_
    have hmask : ∀ i < 32, (0xFFFFFFFF : Dword).getLsbD i = true := by decide
    simp only [BitVec.getLsbD_setWidth, BitVec.getLsbD_and, hmask i hi, Bool.and_true]
  let s₁ := s.regWrite .host a (x.setWidth 32)
  refine ⟨s₁, s₁.regWrite .host (a + 4) ((x >>> 32).setWidth 32), ?_, ?_, ?_⟩
  · rw [exec_registerWrite_some 4 _ hra (fun _ => hs), State.regStore_word _ _ _ (by omega), hlow]
  · have hopen : s₁.barOpen = true := (State.barOpen_of_msixOnly (s.msixOnly_regWrite _ ha)).trans hs
    rw [exec_registerWrite_some 4 _ hra4 (fun _ => hopen), State.regStore_word _ _ _ (by omega)]
  · rw [exec_registerWrite_some 8 _ hra (fun _ => hs), State.regStore_pair s x ha h8]

/-- The write of a register that has a command is that command. -/
theorem registerWrite_command {s : State} {m : Master} {a : Nat} (v : Word) (ha : isRegAddr a = true)
    (hm : m = .host → s.barOpen = true) :
    let w := exec (.registerWrite m (BitVec.ofNat 32 a) 4 (some (v.setWidth 64))) s
    (∀ o : Fin 2048, a = rCount o.val → w = exec (.syncCountWrite m o v) s) ∧
    (∀ o : Fin 2048, a = rAddReg o.val → w = exec (.syncAddWrite m o v) s) ∧
    (a = rPace → w = exec (.pace m v) s) ∧ (a = rSdone → w = exec (.sdone m v) s) ∧
    (∀ (t : TileId) (k : Fin 32), a = rTile t.val (oLsync k.val) → w = exec (.lsyncWrite m t k v) s) ∧
    ∀ k : Fin 3, a = rPdCtrl k.val → w = exec (.pdCtrlWrite m k v) s := by
  intro w
  have hw (h4 : a % 4 = 0) : w = .next (s.regWrite m a v) := exec_registerWrite_word v ha h4 hm
  refine ⟨fun o e => ?_, fun o e => ?_, fun e => ?_, fun e => ?_, fun t k e => ?_, fun k e => ?_⟩
  · exact (hw (by unfold rCount at e; omega)).trans (congrArg _ (e ▸ s.regWrite_count m o v))
  · exact (hw (by unfold rAddReg at e; omega)).trans (congrArg _ (e ▸ s.regWrite_add m o v))
  · exact (hw (by unfold rPace at e; omega)).trans (congrArg _ (e ▸ s.regWrite_pace m v))
  · exact (hw (by unfold rSdone at e; omega)).trans (congrArg _ (e ▸ s.regWrite_sdone m v))
  · exact (hw (by unfold rTile tileBase oLsync at e; omega)).trans (congrArg _ (e ▸ s.regWrite_lsync m t k v))
  · exact (hw (by unfold rPdCtrl at e; omega)).trans (congrArg _ (e ▸ s.regWrite_pdCtrl m k v))

/-- A read within one word answers the bytes asked for. -/
theorem registerRead_word {s : State} {m : Master} {a n : Nat} (ha : isRegAddr a = true) (hm : m = .host → s.barOpen = true)
    (hr : s.reaches m = true) (hn : a % 4 + n ≤ 4) :
    let r := s.regRead m (a / 4 * 4)
    let bs := ((leBytes 4 r.2.toNat).drop (a % 4)).take n
    exec (.registerWrite m (BitVec.ofNat 32 a) n none) s = .next (r.1.answerRead m 0 false a bs false) := by
  have h : (decide (m = .host) && decide (4 < a % 4 + n)) = false := by
    simp only [Bool.and_eq_false_iff, decide_eq_false_iff_not]
    omega
  rw [exec_registerWrite_none n ha hm hr, h, if_neg Bool.false_ne_true, State.regLoad_word s m hn]

/-- A host read of more than one DW outside the MSI-X table answers zeros and posts a fault. -/
theorem registerRead_wide {s : State} {a n : Nat} (ha : isRegAddr a = true) (hs : s.barOpen = true) (ho : s.regOn a = true)
    (hn : 4 < a % 4 + n) (hp : ¬ (isMsix a = true ∧ n = 8 ∧ a % 8 = 0)) :
    ∃ s' l, exec (.registerWrite .host (BitVec.ofNat 32 a) n none) s = .next s' ∧
      s' = { s.regFault .host a with out := s.out ++ l } ∧
      l.flatMap (fun o => match o with | .answer _ bs _ => bs | _ => []) = List.replicate n 0 := by
  have h : (decide (Master.host = .host) && decide (4 < a % 4 + n)) = true := by simp only [decide_true, hn, Bool.and_self]
  rw [exec_registerWrite_none n ha (fun _ => hs) (State.reaches_of_barOpen hs), h, if_pos rfl, State.wideLoad_zeros ho hp]
  refine ⟨_, (completionPieces _ _ _ _).map (fun b => .answer .host b false), rfl, State.foldl_emit _ _ _, ?_⟩
  rw [List.flatMap_map, List.flatMap_id']
  exact completionPieces_flatten _ _ _ _

/-- Settles O41: the effect of a write without a rule of its own is the plain write or a refusal (State.regEffect_unless), and
every other clause is the rule of its register, of the gate, or of the read. -/
theorem registerWrites : Obligations.RegisterWrites := by
  intro s m a ha hm
  refine ⟨fun v r hw hr h4 ho hb => registerWrite_stores v ha hm hw hr h4 ho hb,
    fun v r hw hr h4 ho hb => registerWrite_refuses_barred v ha hm hw hr h4 ho hb,
    fun n x hw h hp => registerWrite_refuses_width x ha hm hw h hp, fun x e hx h8 => ?_, fun e hw v => ?_,
    fun v w hw h => ?_, fun v => registerWrite_command v ha hm, fun e hr n x => ?_, fun e hr hw v => ?_,
    fun hs n x => ?_, fun e he v => ?_, fun n hr hn => ?_, fun n e ho hn hp => ?_⟩
  · subst e
    exact registerWrite_pair x (hm rfl) hx h8
  · subst e
    rw [exec_registerWrite_word v ha rfl hm]
    exact ⟨_, rfl, State.regWrite_boardId v hw⟩
  · obtain ⟨h4, heff⟩ := (s.noteWrite (masterCode m) a).regEffect_ownValue m h
    rw [exec_registerWrite_word v ha h4 hm, State.regWrite, State.regGate_open hw, heff]
    exact ⟨_, rfl, s.onlyReg_noteWrite_setReg _ _ _, State.reg_setReg_same _ _ _⟩
  · subst e
    rw [exec_registerWrite_some n x ha hm, State.regStore_milkhouse s n x (milkWrites_of_milkReads hr), hr,
      if_neg Bool.false_ne_true]
  · subst e
    rw [exec_registerWrite_some 4 _ ha hm, State.regStore_milkhouse s 4 _ hw, hr, if_pos rfl]
  · refine ⟨_, exec_registerWrite_barClosed _ n x hs, rfl, fun _ _ => rfl⟩
  · subst e
    obtain ⟨k, hk⟩ := s.regStore_gate .host a 4 (v.setWidth 64) (fun h => nomatch h.2.2.1)
    rw [exec_registerWrite_some 4 _ ha hm, hk, State.regGate_early (State.reaches_of_barOpen (hm rfl)) he]
  · refine ⟨_, registerRead_word ha hm hr hn, fun e => ?_, fun e => ?_⟩
    · rcases e with rfl | rfl <;> rfl
    · subst e
      exact State.hostAnswer_short _ _ (Nat.le_trans (List.length_take_le _ _) (by omega))
  · subst e
    exact registerRead_wide ha (hm rfl) ho hn hp

end Sys2Proof.Machine
end

section
/-!
The floating V words (R219, R222, R227): what each lane function of the model gives on a floating TYPE, and the statement on
them.
-/

namespace Sys2Proof.Machine

/-! ### Fields -/

theorem Rnd.ofField_ne_three {n : Nat} {m : Rnd} (h : Rnd.ofField n = some m) : n ≠ 3 := by
  rintro rfl
  exact Option.some_ne_none m h.symm

section Fields
variable {w : SlotWord} (h5 : 5 ≤ sf w 4 3)
include h5

theorem typeFloat_vfOf : typeFloat (vfOf w).ty = true := decide_eq_true h5

theorem legalArith_float {m : Rnd} (hm : Rnd.ofField (sf w 0 2) = some m) : legalArith w = true := by
  have h3 : (vfOf w).rnd ≠ 3 := Rnd.ofField_ne_three hm
  simp only [legalArith, typeFloat_vfOf h5, if_true, h3, ne_eq, not_false_eq_true, decide_true]

theorem legalMinMax_float (h0 : sf w 0 2 = 0) : legalMinMax w = true := by
  rw [legalMinMax, if_pos (typeFloat_vfOf h5)]
  exact beq_iff_eq.2 h0

end Fields

theorem legalUnary_of_zero {w : SlotWord} (h0 : sf w 0 2 = 0) (hb : sf w 7 5 = 0) (hs : sb w 3 = false) :
    legalUnary w = true := by
  simp only [legalUnary, vfOf, h0, hb, hs, beq_self_eq_true, Bool.and_self, Bool.not_false]

/-! ### Lanes of a floating TYPE -/

theorem typeBits_pos (ty : Nat) : 0 < typeBits ty := by
  rcases typeBits_cases ty with h | h | h <;> omega

/-- VABS clears the sign bit (R219). -/
theorem signLane_clear (f : VF) (a : Nat) : signLane false f a = satInf f (a % 2 ^ (typeBits f.ty - 1)) := rfl

/-- Half of a modulus added: the upper half goes down, the lower half up. -/
theorem add_half_mod {c : Nat} (hc : 0 < c) (a : Nat) :
    (a + c) % (2 * c) = if c ≤ a % (2 * c) then a % c else a % c + c := by
  have hd : a % (2 * c) % c = a % c := Nat.mod_mul_left_mod a 2 c
  have hlt : a % (2 * c) < 2 * c := Nat.mod_lt _ (by omega)
  rw [← Nat.mod_add_mod, ← hd]
  generalize a % (2 * c) = r at hlt ⊢
  split
  case isTrue h =>
    have hr : r - c + c = r := Nat.sub_add_cancel h
    rw [Nat.mod_eq_sub_mod h, Nat.mod_eq_of_lt (by omega : r - c < c), Nat.mod_eq_sub_mod (by omega : 2 * c ≤ r + c),
      Nat.mod_eq_of_lt (by omega)]
    omega
  case isFalse h => rw [Nat.mod_eq_of_lt (by omega : r < c), Nat.mod_eq_of_lt (by omega)]

/-- VNEG flips the sign bit: it adds it modulo the lane (R219). -/
theorem signLane_flip (f : VF) (a : Nat) :
    signLane true f a = satInf f ((a + 2 ^ (typeBits f.ty - 1)) % 2 ^ typeBits f.ty) := by
  have hw : 2 ^ typeBits f.ty = 2 * 2 ^ (typeBits f.ty - 1) := by
    rw [← Nat.pow_succ', Nat.succ_eq_add_one, Nat.sub_add_cancel (typeBits_pos f.ty)]
  rw [hw, add_half_mod (Nat.pow_pos Nat.two_pos)]
  dsimp only [signLane]
  by_cases h : 2 ^ (typeBits f.ty - 1) ≤ a % (2 * 2 ^ (typeBits f.ty - 1))
  · rw [decide_eq_true h, if_pos h, if_neg (by decide)]
  · rw [decide_eq_false h, if_neg h, if_pos (by decide)]

section Lanes
variable {f : VF} {ff : FloatFmt} (hf : floatFmt (typeFmt f.ty) = some ff)
include hf

theorem satInf_float (x : Nat) :
    satInf f x = if f.sat && (laneNum f x).isInf then maxBits ff (laneNum f x).isNeg else x := by
  rw [satInf, hf]

/-- VMIN and VMAX of two floating lanes (R219). -/
theorem minMaxLane_float (mx : Bool) (a b : Nat) :
    minMaxLane mx f a b = if (laneNum f a).isNaN || (laneNum f b).isNaN then canonNaN ff false
      else satInf f (if laneLess f.ty b a != mx then b else a) := by
  rw [minMaxLane, hf]

theorem floatLane_float {m : Rnd} (hm : Rnd.ofField f.rnd = some m) (draw : Word) (x : Num) :
    floatLane f draw x = if x.isNaN then canonNaN ff false else encodeFloat ff m f.sat draw x := by
  rw [floatLane, hf, hm]

theorem floatLane_nan {m : Rnd} (hm : Rnd.ofField f.rnd = some m) (draw : Word) :
    floatLane f draw (.nan false) = canonNaN ff false := floatLane_float hf hm draw _

end Lanes

/-! ### The words -/

/-- An arithmetic V word on a floating TYPE (R219, R222): each lane is the exact result, encoded once. -/
theorem vCommand_floatArith {f : SlotFn} {usesD : Bool} {lat : Nat} {gi : Int → Int → Int → Int} {gf : Num → Num → Num → Num}
    {s : State} {t : TileId} {th : ThreadId} {w : SlotWord} {m : Rnd} {h : Nat → Nat → Nat → Nat → Nat}
    (hf : f s t th (s.thr t th) w = vSlot (legalArith w) (arithDraws w)
      (fun x => vecMap usesD true lat (arithLane gi gf) x t th (s.thr t th) w) s t th (s.thr t th) w)
    (hg : s.on t th w = true) (h5 : 5 ≤ sf w 4 3) (hm : Rnd.ofField (sf w 0 2) = some m)
    (e : ∀ k d a b, floatLane (vfOf w) (srDraw (s.srKeyOf t) (s.thr t th).draw k)
      (gf (laneNum (vfOf w) d) (laneNum (vfOf w) a) (laneNum (vfOf w) b)) = h k d a b) :
    ∃ s', vCommand f t th w s = .next s' ∧ s.lanewise s' t th w usesD true h := by
  refine vCommand_lanewise (n := arithDraws w) hf (legalArith_float h5 hm) hg fun k d a b => ?_
  rw [arithLane, if_pos (typeFloat_vfOf h5), e]

/-- VABS (`flip` false) and VNEG on a floating TYPE (R219): the sign bit alone, then SAT. -/
theorem vCommand_floatSign {f : SlotFn} (flip : Bool) {gi : VF → Nat → Nat} {s : State} {t : TileId} {th : ThreadId}
    {w : SlotWord} {h : Nat → Nat}
    (hf : f s t th (s.thr t th) w = vSlot (legalUnary w) 0 (fun x => vecMap false false 2
      (fun f _ _ a _ => if typeFloat f.ty then signLane flip f a else gi f a) x t th (s.thr t th) w) s t th (s.thr t th) w)
    (hg : s.on t th w = true) (h5 : 5 ≤ sf w 4 3) (h0 : sf w 0 2 = 0) (hb : sf w 7 5 = 0) (hs : sb w 3 = false)
    (e : ∀ a, signLane flip (vfOf w) a = h a) :
    ∃ s', vCommand f t th w s = .next s' ∧ s.lanewise s' t th w false false (fun _ _ a _ => h a) := by
  refine vCommand_lanewise (n := 0) hf (legalUnary_of_zero h0 hb hs) hg fun k d a b => ?_
  rw [if_pos (typeFloat_vfOf h5), e]

theorem legalVlut {w : SlotWord} {m : Rnd} (h5 : 5 ≤ sf w 4 3) (hm : Rnd.ofField (sf w 0 2) = some m)
    (hb : sf w 7 5 = 0) (hs : sb w 3 = false) :
    (typeFloat (vfOf w).ty && (vfOf w).vb == 0 && !(vfOf w).sbit && (vfOf w).rnd ≠ 3) = true := by
  have hvb : (vfOf w).vb = 0 := hb
  have hsb : (vfOf w).sbit = false := hs
  have h3 : (vfOf w).rnd ≠ 3 := Rnd.ofField_ne_three hm
  simp only [typeFloat_vfOf h5, hvb, hsb, h3, beq_self_eq_true, Bool.not_false, Bool.and_self, ne_eq, not_false_eq_true,
    decide_true]

/-- A VLUT that no table load holds (R170, R226, R227): each lane from the tile's table. -/
theorem vCommand_vlut {s : State} {t : TileId} {th : ThreadId} {w : SlotWord} {m : Rnd} (hg : s.on t th w = true)
    (h5 : 5 ≤ sf w 4 3) (hm : Rnd.ofField (sf w 0 2) = some m) (hb : sf w 7 5 = 0) (hs : sb w 3 = false)
    (hl : (s.tile t).lutLoading = false) :
    ∃ s', vCommand (slotUnless lutHeld vlutSlot) t th w s = .next s' ∧ s.lanewise s' t th w false false
      (fun k _ a _ => lutLane (s.tile t) (vfOf w) (srDraw (s.srKeyOf t) (s.thr t th).draw k) a) := by
  have hdone : slotUnless lutHeld vlutSlot s t th (s.thr t th) w = .done ((vecMap false false 4
      (fun f r _ a _ => lutLane (s.tile t) f r a) s t th (s.thr t th) w).advanceDraw t th (sf w 0 2) (arithDraws w)) := by
    rw [slotUnless, lutHeld, hl, Bool.and_false, if_neg Bool.false_ne_true]
    exact vSlot_on (e := fun x => vecMap false false 4 (fun f r _ a _ => lutLane (x.tile t) f r a) x t th (s.thr t th) w)
      (legalVlut h5 hm hb hs) hg
  refine ⟨_, rfl, ?_⟩
  rw [slotCommand_done hdone]
  exact vecMap_lanewise false false 4 (arithDraws w) _ s t th w

/-- Settles O17: every word is one element-wise map, whose lane function on a floating TYPE is the one stated. -/
theorem vectorFloats : Obligations.VectorFloats := by
  intro s t th w ff m hg h5 hff hm
  have hf : floatFmt (typeFmt (vfOf w).ty) = some ff := hff
  refine ⟨?_, fun h0 => ⟨?_, ?_, fun hb hs => ⟨?_, ?_⟩⟩, fun hb hs hl => ?_⟩
  · simp only [List.forall_mem_cons, List.not_mem_nil, false_imp_iff, implies_true, and_true]
    refine ⟨?_, ?_, ?_, ?_⟩ <;>
      exact vCommand_floatArith rfl hg h5 hm fun _ _ _ _ => floatLane_float hf hm _ _
  · refine vCommand_lanewise (n := 0) rfl (legalMinMax_float h5 h0) hg fun k d a b => ?_
    rw [minMaxLane_float hf, Bool.bne_false, satInf_float hf]
    rfl
  · refine vCommand_lanewise (n := 0) rfl (legalMinMax_float h5 h0) hg fun k d a b => ?_
    rw [minMaxLane_float hf, Bool.bne_true, satInf_float hf]
    simp only [Bool.not_eq_true', ← Bool.not_eq_true, ite_not]
    rfl
  · exact vCommand_floatSign false rfl hg h5 h0 hb hs fun a => (signLane_clear _ a).trans (satInf_float hf _)
  · exact vCommand_floatSign true rfl hg h5 h0 hb hs fun a => (signLane_flip _ a).trans (satInf_float hf _)
  · obtain ⟨s', he, hlanes⟩ := vCommand_vlut hg h5 hm hb hs hl
    refine ⟨s', he, State.lanewise_congr (fun k d a b => ?_) hlanes⟩
    simp only [lutLane, floatLane_nan hf hm]
    simp only [floatLane_float hf hm]
    rfl

end Sys2Proof.Machine
end

section
/-!
VCVT and VQNT (R228, R229, R230): elements of a register replaced from a position on, which elements PART names, and the
statement on the two.
-/

namespace Sys2Proof.Machine

/-! ### Elements of a register replaced -/

/-- The elements of `old` with those from position d0 on replaced by the elements of l. -/
def spliceElems (old l : List (Nat × Bool)) (d0 : Nat) : List (Nat × Bool) :=
  old.zipIdx.map (fun e => if d0 ≤ e.2 then (match l[e.2 - d0]? with | some x => x | none => e.1) else e.1)

@[simp] theorem spliceElems_length (old l : List (Nat × Bool)) (d0 : Nat) : (spliceElems old l d0).length = old.length := by
  simp only [spliceElems, List.length_map, List.length_zipIdx]

theorem spliceElems_inside (old l : List (Nat × Bool)) (d0 k : Nat) (hk : k < l.length)
    (h : d0 + k < (spliceElems old l d0).length) : (spliceElems old l d0)[d0 + k] = l[k] := by
  simp only [spliceElems, List.getElem_map, List.getElem_zipIdx, Nat.zero_add, Nat.le_add_right, if_true,
    Nat.add_sub_cancel_left, List.getElem?_eq_getElem hk]

theorem spliceElems_outside (old l : List (Nat × Bool)) (d0 j : Nat) (hj : j < d0 ∨ d0 + l.length ≤ j)
    (h : j < old.length) : (spliceElems old l d0)[j]'(by simpa using h) = old[j] := by
  simp only [spliceElems, List.getElem_map, List.getElem_zipIdx, Nat.zero_add]
  split
  case isTrue hd => rw [List.getElem?_eq_none (by omega)]
  case isFalse => rfl

theorem lanesOf_length (w : Nat) (x : VWord) (p : VPoison) : (lanesOf w x p).length = 2048 / w := by
  simp only [lanesOf, List.length_map, List.length_range]

theorem lanesOf_get (w : Nat) (x : VWord) (p : VPoison) (k : Nat) (h : k < (lanesOf w x p).length) :
    (lanesOf w x p)[k] = (lane w x k, lanePoison w p k) := by
  simp only [lanesOf, List.getElem_map, List.getElem_range]

theorem lane_mod (w : Nat) (x : VWord) (k : Nat) : lane w x k % 2 ^ w = lane w x k := Nat.mod_mod _ _

/-- An element that VCVT or VQNT reads or writes takes 4, 8, 16 or 32 bits (R122, R229). -/
theorem fmtBits_of_cvtFmt {f : Nat} (h : cvtFmt f = true) : fmtBits f ∈ [4, 8, 16, 32] := by
  have hall : ∀ f < 0x12, cvtFmt f = true → fmtBits f ∈ [4, 8, 16, 32] := by decide
  refine hall f ?_ h
  simp only [cvtFmt, fmtReserved, Bool.and_eq_true, Bool.not_eq_true', decide_eq_false_iff_not, Nat.not_le] at h
  exact h.1

/-- A format of at least 8 bits has whole bytes. -/
theorem fmtBits_bytes_of_cvtFmt {f : Nat} (h : cvtFmt f = true) (h8 : 8 ≤ fmtBits f) :
    fmtBits f = 8 ∨ fmtBits f = 16 ∨ fmtBits f = 32 := by
  have hb := fmtBits_of_cvtFmt h
  simp only [List.mem_cons, List.not_mem_nil, or_false] at hb
  omega

/-- s' is s with the n elements of v[vd] from position d0 on, elements of format fmt, replaced by those that g gives,
with the poison that p gives; nothing else changes but the draw counter of the thread. -/
def State.elemsReplaced (s s' : State) (t : TileId) (th : ThreadId) (vd fmt d0 n : Nat) (g : Nat → Nat) (p : Nat → Bool) :
    Prop :=
  let y := s.thr t th
  let z := s'.thr t th
  let w := fmtBits fmt
  s.onlyThread s' t th ∧ y.sameButV z vd ∧
    (∀ k, k < n → lane w (z.rv vd) (d0 + k) = g k ∧ (8 ≤ w → lanePoison w (z.rpo vd) (d0 + k) = p k)) ∧
    ∀ j, j < 2048 / w → (j < d0 ∨ d0 + n ≤ j) →
      lane w (z.rv vd) j = lane w (y.rv vd) j ∧ (8 ≤ w → lanePoison w (z.rpo vd) j = lanePoison w (y.rpo vd) j)

/-- A thread changed and its draw counter then advanced (R139): one change of the thread. -/
theorem State.modThr_advanceDraw (s : State) (t : TileId) (th : ThreadId) (f : Thread → Thread) (r n : Nat) :
    ∃ d : Thread → Word, (s.modThr t th f).advanceDraw t th r n = s.modThr t th (fun z => { f z with draw := d z }) := by
  by_cases h : r = 2
  · refine ⟨fun z => srAdvance (f z).draw n, ?_⟩
    rw [State.advanceDraw, if_pos h, State.modThr_modThr]
    rfl
  · exact ⟨fun z => (f z).draw, if_neg h⟩

/-- State.putElems writes the packed spliced elements, and for whole bytes their packed poison. -/
theorem State.putElems_eq (s : State) (t : TileId) (th : ThreadId) (y : Thread) (vd fmt d0 lat : Nat) (l : List (Nat × Bool)) :
    let all := spliceElems (lanesOf (fmtBits fmt) (y.rv vd) (y.rpo vd)) l d0
    ∃ po, (8 ≤ fmtBits fmt → po = packPoison (fmtBits fmt) all) ∧
      s.putElems t th y vd fmt d0 lat l = s.modThr t th (fun z => z.wv vd (packLanes (fmtBits fmt) all) po (s.fck + lat)) :=
  ⟨_, fun h => if_pos h, rfl⟩

/-- Element j of a register just written with packed elements of a format that VCVT and VQNT accept. -/
theorem Thread.elem_wv {fmt : Nat} (hf : cvtFmt fmt = true) (y : Thread) (i c : Nat) {po : VPoison} {l : List (Nat × Bool)}
    (hl : l.length = 2048 / fmtBits fmt) (hpo : 8 ≤ fmtBits fmt → po = packPoison (fmtBits fmt) l) {j : Nat} (hj : j < l.length) :
    let z := y.wv i (packLanes (fmtBits fmt) l) po c
    lane (fmtBits fmt) (z.rv i) j = l[j].1 % 2 ^ fmtBits fmt ∧
      (8 ≤ fmtBits fmt → lanePoison (fmtBits fmt) (z.rpo i) j = l[j].2) := by
  have hw : fmtBits fmt * l.length ≤ 2048 := by rw [hl]; exact Nat.mul_div_le _ _
  dsimp only
  rw [Thread.rv_wv_same, Thread.rpo_wv_same, lane_packLanes _ _ _ hj hw]
  refine ⟨rfl, fun h8 => ?_⟩
  rw [hpo h8, lanePoison_packPoison _ _ _ hj (fmtBits_bytes_of_cvtFmt hf h8) hw]

/-- What VCVT and VQNT leave in v[vd] (R228, R230). -/
theorem State.putElems_replaced {s : State} {t : TileId} {th : ThreadId} {vd fmt d0 lat r n : Nat} {l : List (Nat × Bool)}
    {g : Nat → Nat} {p : Nat → Bool} (hf : cvtFmt fmt = true) (hn : d0 + l.length ≤ 2048 / fmtBits fmt)
    (hg : ∀ k (h : k < l.length), l[k].1 % 2 ^ fmtBits fmt = g k ∧ l[k].2 = p k) :
    s.elemsReplaced ((s.putElems t th (s.thr t th) vd fmt d0 lat l).advanceDraw t th r n) t th vd fmt d0 l.length g p := by
  obtain ⟨po, hpo, hput⟩ := s.putElems_eq t th (s.thr t th) vd fmt d0 lat l
  rw [hput]
  obtain ⟨d, hdraw⟩ := s.modThr_advanceDraw t th (fun z => z.wv vd (packLanes (fmtBits fmt)
    (spliceElems (lanesOf (fmtBits fmt) ((s.thr t th).rv vd) ((s.thr t th).rpo vd)) l d0)) po (s.fck + lat)) r n
  rw [hdraw]
  have hold := lanesOf_length (fmtBits fmt) ((s.thr t th).rv vd) ((s.thr t th).rpo vd)
  have hlen := (spliceElems_length (lanesOf (fmtBits fmt) ((s.thr t th).rv vd) ((s.thr t th).rpo vd)) l d0).trans hold
  refine ⟨State.modThr_eq _ _ _ _, ?_, fun k hk => ?_, fun j hj ho => ?_⟩ <;> rw [State.thr_modThr_same]
  · exact Thread.wv_frame (s.thr t th) vd _ po (s.fck + lat)
  · have h := Thread.elem_wv hf (s.thr t th) vd (s.fck + lat) hlen hpo (j := d0 + k) (by omega)
    rw [spliceElems_inside _ l d0 k hk, (hg k hk).1, (hg k hk).2] at h
    exact h
  · have h := Thread.elem_wv hf (s.thr t th) vd (s.fck + lat) hlen hpo (j := j) (by omega)
    rw [spliceElems_outside _ l d0 j ho (hold ▸ hj), lanesOf_get, lane_mod] at h
    exact h

/-! ### The two words -/

/-- The first element of v[VA] that VCVT reads: PART selects a part of a source that has more elements (R228). -/
def cvtFrom (part ns nd : Nat) : Nat := if nd ≤ ns then part * nd else 0

/-- The first element of v[VD] that VCVT writes: PART names a part of a destination that has more elements (R228). -/
def cvtTo (part ns nd : Nat) : Nat := if nd ≤ ns then 0 else part * ns

/-- How many parts the larger of two registers has (R228). -/
def cvtRatio (ns nd : Nat) : Nat := if nd ≤ ns then ns / nd else nd / ns

theorem cvtRatio_of_legal {part ns nd : Nat}
    (h : if nd ≤ ns then part < ns / nd ∧ ns / nd < 8 else part < nd / ns ∧ nd / ns < 8) :
    part < cvtRatio ns nd ∧ cvtRatio ns nd < 8 := by
  unfold cvtRatio
  split
  case isTrue hle => rwa [if_pos hle] at h
  case isFalse hle => rwa [if_neg hle] at h

/-- A part lies within its register. -/
theorem mul_add_le_of_lt_div {a b p : Nat} (h : p < b / a) : p * a + a ≤ b :=
  calc p * a + a = (p + 1) * a := (Nat.succ_mul p a).symm
    _ ≤ b / a * a := Nat.mul_le_mul_right a h
    _ ≤ b := Nat.div_mul_le_self b a

/-- The elements that VCVT selects, as many as the smaller register holds. -/
theorem cvt_length {part ns nd : Nat} (h : part < cvtRatio ns nd) : min nd (ns - cvtFrom part ns nd) = min ns nd := by
  unfold cvtRatio at h
  unfold cvtFrom
  split at h
  case isTrue hle =>
    have := mul_add_le_of_lt_div h
    rw [if_pos hle]
    omega
  case isFalse hle => rw [if_neg hle, Nat.sub_zero, Nat.min_comm]

theorem cvtTo_fits {part ns nd : Nat} (h : part < cvtRatio ns nd) : cvtTo part ns nd + min ns nd ≤ nd := by
  unfold cvtRatio at h
  unfold cvtTo
  split at h
  case isTrue hle => rw [if_pos hle]; omega
  case isFalse hle =>
    have := mul_add_le_of_lt_div h
    rw [if_neg hle]
    omega

theorem regBits_eq : regBits = fmtBits := rfl

/-- VCVT with legal fields that its predicate selects on (R228): elements from cvtFrom on, converted, replace those from
cvtTo on. -/
theorem vcvtSlot_done {s : State} {t : TileId} {th : ThreadId} {w : SlotWord} {m : Rnd} (op : Nat) (hg : s.on t th w = true)
    (hm : Rnd.ofField (sf w 0 2) = some m) (hd : cvtFmt (sf w 2 5) = true) (hs : cvtFmt (sf w 7 5) = true)
    (hp : op / 2 < cvtRatio (2048 / fmtBits (sf w 7 5)) (2048 / fmtBits (sf w 2 5)))
    (h8 : cvtRatio (2048 / fmtBits (sf w 7 5)) (2048 / fmtBits (sf w 2 5)) < 8) :
    let y := s.thr t th
    let ns := 2048 / fmtBits (sf w 7 5)
    let nd := 2048 / fmtBits (sf w 2 5)
    let sel := ((lanesOf (fmtBits (sf w 7 5)) (y.rv (sf w 12 5)) (y.rpo (sf w 12 5))).drop (cvtFrom (op / 2) ns nd)).take nd
    vcvtSlot op s t th y w = .done ((s.putElems t th y (sf w 17 5) (sf w 2 5) (cvtTo (op / 2) ns nd) 3
      (sel.zipIdx.map (fun e => cvtElem m (sf w 2 5) (decide (op % 2 = 1)) (s.subst t.val (sf w 2 5)) (s.srKeyOf t) y.draw
        (cvtTo (op / 2) ns nd + e.2) (decodeElem (sf w 7 5) e.1.1) e.1.2))).advanceDraw t th (sf w 0 2)
          (cvtDraws (sf w 2 5) nd)) := by
  have hgo : guardOn (s.thr t th) w = true := hg
  have hok : (8 ≤ cvtRatio (2048 / fmtBits (sf w 7 5)) (2048 / fmtBits (sf w 2 5)) ||
      cvtRatio (2048 / fmtBits (sf w 7 5)) (2048 / fmtBits (sf w 2 5)) ≤ op / 2 : Bool) = false := by
    rw [Bool.or_eq_false_iff, decide_eq_false_iff_not, decide_eq_false_iff_not]
    omega
  unfold cvtRatio at hok
  unfold vcvtSlot
  rw [regBits_eq]
  simp only [hs, hd, hm, hgo, hok, Bool.and_self, Bool.not_true, Bool.false_eq_true, if_false, if_true]
  by_cases hle : 2048 / fmtBits (sf w 2 5) ≤ 2048 / fmtBits (sf w 7 5)
  · simp only [cvtFrom, cvtTo, if_pos hle]
  · simp only [cvtFrom, cvtTo, if_neg hle]
    rw [List.drop_zero, List.take_of_length_le (by rw [lanesOf_length]; exact Nat.le_of_not_le hle)]

/-- The number x × m × 2^(−31 − SHIFT) + z that VQNT encodes for an INT32 lane, SHIFT and z from the second scalar q (R230). -/
def vqntNum (mul : Int) (q a : Nat) : Num :=
  .ofDy ((⟨intOfBits 32 true a * mul, -(31 + ((q % 64 : Nat) : Int))⟩ : Dy).add (.ofInt (intOfBits 16 true (q / 2 ^ 16))))

/-- VQNT with legal fields that its predicate selects on (R230): the 64 INT32 lanes of v[VA], scaled and offset, replace the
elements of the part that the second scalar names. -/
theorem vqntSlot_done {s : State} {t : TileId} {th : ThreadId} {w : SlotWord} {m : Rnd} (hg : s.on t th w = true)
    (hm : Rnd.ofField (sf w 0 2) = some m) (hd : cvtFmt (sf w 2 5) = true) (hn : sf w 7 5 % 2 = 0) :
    let y := s.thr t th
    let nd := 2048 / fmtBits (sf w 2 5)
    let q := (y.rs (sf w 7 5 + 1)).toNat
    q / 2 ^ 6 % 4 = 0 → q / 2 ^ 11 % 32 = 0 → q / 2 ^ 8 % 8 < nd / 64 →
    vqntSlot s t th y w = .done ((s.putElems t th y (sf w 17 5) (sf w 2 5) (q / 2 ^ 8 % 8 * 64) 4
      ((lanesOf 32 (y.rv (sf w 12 5)) (y.rpo (sf w 12 5))).zipIdx.map (fun e =>
        cvtElem m (sf w 2 5) true (s.subst t.val (sf w 2 5)) (s.srKeyOf t) y.draw (q / 2 ^ 8 % 8 * 64 + e.2)
          (vqntNum (y.rs (sf w 7 5)).toInt q e.1.1) e.1.2))).advanceDraw t th (sf w 0 2) (cvtDraws (sf w 2 5) nd)) := by
  intro y nd q h6 h11 h8
  have hgo : guardOn y w = true := hg
  have hok : (decide (q / 2 ^ 6 % 4 ≠ 0) || decide (q / 2 ^ 11 % 32 ≠ 0) || decide (nd / 64 ≤ q / 2 ^ 8 % 8)) = false := by
    simp only [h6, h11, Nat.not_le.2 h8, ne_eq, not_true_eq_false, decide_false, Bool.or_self]
  have hodd : (!cvtFmt (sf w 2 5) || decide (sf w 7 5 % 2 = 1)) = false := by
    rw [hd, hn]
    rfl
  unfold vqntSlot
  rw [regBits_eq]
  simp only [hm, hodd, Bool.false_eq_true, if_false]
  rw [hgo, hok]
  rfl

theorem cvtElem_fst_mod (m : Rnd) (fmt : Nat) (sat : Bool) (sub key c : Word) (pos : Nat) (x : Num) (p : Bool) :
    (cvtElem m fmt sat sub key c pos x p).1 % 2 ^ fmtBits fmt =
      if p then sub.toNat % 2 ^ fmtBits fmt else encodeElem fmt m sat (srDraw key c pos) x % 2 ^ fmtBits fmt := by
  cases p
  · rfl
  · exact Nat.mod_mod _ _

theorem cvtElem_snd (m : Rnd) (fmt : Nat) (sat : Bool) (sub key c : Word) (pos : Nat) (x : Num) (p : Bool) :
    (cvtElem m fmt sat sub key c pos x p).2 = p := by
  cases p <;> rfl

/-- A conversion given as a command (R228, R230): elements x, as numbers `num`, encoded into those of v[vd] from position d0
on, under their draws; a poisoned one gives the substitution value with poison. -/
theorem vCommand_convert {f : SlotFn} {s : State} {t : TileId} {th : ThreadId} {w : SlotWord} {vd fmt d0 lat r c n : Nat}
    {m : Rnd} {sat : Bool} {num : Nat → Num} {sel : List (Nat × Bool)} {x : Nat → Nat × Bool}
    (hf : f s t th (s.thr t th) w = .done ((s.putElems t th (s.thr t th) vd fmt d0 lat (sel.zipIdx.map (fun e =>
      cvtElem m fmt sat (s.subst t.val fmt) (s.srKeyOf t) (s.thr t th).draw (d0 + e.2) (num e.1.1) e.1.2))).advanceDraw t th r c))
    (hc : cvtFmt fmt = true) (hl : sel.length = n) (hn : d0 + n ≤ 2048 / fmtBits fmt)
    (hx : ∀ k (h : k < sel.length), sel[k] = x k) :
    ∃ s', vCommand f t th w s = .next s' ∧ s.elemsReplaced s' t th vd fmt d0 n (fun k =>
      if (x k).2 then (s.subst t.val fmt).toNat % 2 ^ fmtBits fmt
      else encodeElem fmt m sat (srDraw (s.srKeyOf t) (s.thr t th).draw (d0 + k)) (num (x k).1) % 2 ^ fmtBits fmt)
      (fun k => (x k).2) := by
  subst hl
  refine ⟨_, rfl, ?_⟩
  rw [slotCommand_done hf]
  have hlen : (sel.zipIdx.map (fun e => cvtElem m fmt sat (s.subst t.val fmt) (s.srKeyOf t) (s.thr t th).draw (d0 + e.2)
      (num e.1.1) e.1.2)).length = sel.length := by
    rw [List.length_map, List.length_zipIdx]
  rw [← hlen] at hn ⊢
  refine State.putElems_replaced hc hn fun k hk => ?_
  rw [List.getElem_map, List.getElem_zipIdx, Nat.zero_add, hx]
  exact ⟨cvtElem_fst_mod _ _ _ _ _ _ _ _ _, cvtElem_snd _ _ _ _ _ _ _ _ _⟩

/-- Settles O20: both words replace elements of v[VD] by the converted ones (State.elemsReplaced). -/
theorem vectorConversions : Obligations.VectorConversions := by
  intro s t th w m hg hm hd
  refine ⟨fun op hs hp => ?_, fun hn h6 h11 h8 => ?_⟩
  · obtain ⟨hpart, hr⟩ := cvtRatio_of_legal hp
    refine vCommand_convert (vcvtSlot_done op.val hg hm hd hs hpart hr) hd ?_ (cvtTo_fits hpart) fun k hk => ?_
    · rw [List.length_take, List.length_drop, lanesOf_length]
      exact cvt_length hpart
    · rw [List.getElem_take, List.getElem_drop, lanesOf_get]
      rfl
  · obtain ⟨s', he, honly, hframe, hin, hout⟩ := vCommand_convert (vqntSlot_done hg hm hd hn h6 h11 h8) hd
      (lanesOf_length 32 _ _) (mul_add_le_of_lt_div h8) fun k hk => lanesOf_get 32 _ _ k hk
    exact ⟨s', he, honly, hframe, hin, fun j hj ho => (hout j hj ho).1⟩

end Sys2Proof.Machine
end
